-- ==== Sys2Proof/Word.lean ====
section
/-! DEFINITION. The machine's words: the widths that wire fields and memory use. -/

namespace Sys2Proof

/-- One byte of memory or of a packet. -/
abbrev Byte := BitVec 8

/-- A 48-bit tenant address (R43): `[47:36]` virtual quadrant, `[35:0]` byte offset. -/
abbrev Addr := BitVec 48

/-- A chip number n = x + 4y + 16z (R14). -/
abbrev ChipId := Fin 64

/-- A compute tray T00 to T15 (R10). -/
abbrev TrayId := Fin 16

/-- A switch tray SW0 to SW3 (R10). -/
abbrev SwId := Fin 4

/-- A power shelf PS0 to PS3 (R10). -/
abbrev ShelfId := Fin 4

/-- A partition number P0 to P63 (R10). -/
abbrev PartId := Fin 64

/-- A keyway number 0 to 63 (R10). -/
abbrev KwId := Fin 64

/-- A quadrant q = 4n + k (R10). -/
abbrev QuadId := Fin 256

/-- A fabric port code of R154: 0 +x, 1 -x, 2 +y, 3 -y, 4 +z, 5 -z, 6 uplink 0, 7 uplink 1. -/
abbrev PortId := Fin 8

/-- A host port HP0 to HP7 (R10). -/
abbrev HostPortId := Fin 8

end Sys2Proof
end

