-- ==== Sys2Proof/Syntax.lean ====
section
/-! DEFINITION. The commands the block takes: one constructor of `Instr` per row of spec/opcode_table.json,
with the operands of its packet (R56, R71) or the unit and measurement of its event. The first operand `t` of every
constructor is the oscillator instant in ns at which the command reaches the machine (log 11). -/

namespace Sys2Proof

/-! ### Who sends, and where -/

/-- The port a packet arrives on: a host port, or MGMT0 / MGMT1 of the RMU (R46, R289). -/
inductive Via where
  | host (p : HostPortId)
  | mgmt (p : Fin 2)
deriving DecidableEq, Repr

/-- The owner of a session: a keyway, or the operator channel (R70). -/
inductive Ep where
  | kw (k : KwId)
  | op
deriving DecidableEq, Repr

/-- A cell of a chip at column c and row r (R80). -/
structure CellId where
  chip : ChipId
  c : Fin 80
  r : Fin 64
deriving DecidableEq, Repr

/-- A chip's end of a link: chip and port (R15, R17). Its receive side keeps the counters of R162 and R169. -/
structure LinkId where
  chip : ChipId
  port : PortId
deriving DecidableEq, Repr

/-- A shelf channel PSs.c (R10). -/
structure ChanId where
  shelf : ShelfId
  ch : Fin 6
deriving DecidableEq, Repr

/-- The packet header of R56, as far as a well-framed command carries meaning in it. REPLY and EVENT are clear,
MAGIC, VER and CRC are right (PROTOCOL_ERROR takes every other packet). -/
structure Hdr where
  via : Via
  /-- IPv6 source address. -/
  src : BitVec 128
  /-- UDP destination port. -/
  udp : BitVec 16
  keyway : BitVec 8
  session : BitVec 16
  seq : BitVec 32
  epoch : BitVec 32
  retry : Bool
  fence : Bool
  force : Bool
  /-- LENGTH, the body length in bytes. -/
  len : Nat
deriving DecidableEq, Repr

/-! ### Command bodies (R71) -/

structure OpenArgs where
  nonce : BitVec 64
  model : BitVec 32
  cut : BitVec 32
  evAddr : BitVec 128
  evPort : BitVec 16
  /-- bit 0 EVENTS_ALL -/
  flags : BitVec 16
deriving DecidableEq, Repr

structure QpArgs where
  gid : BitVec 128
  hostQpn : BitVec 24
  hostPsn : BitVec 24
  mtu : BitVec 8
  retry : BitVec 8
  timeout : BitVec 8
deriving DecidableEq, Repr

structure XferArgs where
  qpn : BitVec 24
  addr : Addr
  len : BitVec 64
  remoteVa : BitVec 64
  remoteRkey : BitVec 32
deriving DecidableEq, Repr

/-- A source's text: inline in the packet, or a reference into tenant memory (R71, R212 bit 0). -/
inductive SrcText where
  | text (bytes : List Byte)
  | ref (addr : Addr) (len : BitVec 32)
deriving DecidableEq, Repr

structure ReqArgs where
  tag : BitVec 64
  sources : BitVec 8
  /-- R212: bit 0 INLINE, bit 1 SPECIALS, bit 2 NO_DELTA. -/
  flags : BitVec 8
  insertSlot : BitVec 8
  maxTokens : BitVec 16
  temperature : BitVec 16
  topP : BitVec 16
  seed : BitVec 64
  stamp : BitVec 64
  text : SrcText
deriving DecidableEq, Repr

structure SourceArgs where
  tag : BitVec 64
  index : BitVec 8
  flags : BitVec 8
  stamp : BitVec 64
  text : SrcText
deriving DecidableEq, Repr

/-! ### Program images (their format is the Jemir documentation's; log 12) -/

/-- Where an output queue leads (R99). -/
inductive OutBind where
  | cell (c : Fin 80) (r : Fin 64) (q : Fin 4)
  | fabric
deriving DecidableEq, Repr

/-- A binding of a logical cell: its output queues and the sources named for its input queues (R99). -/
structure CellCfg where
  vchip : Nat
  c : Fin 80
  r : Fin 64
  outs : List (Fin 4 × OutBind)
  /-- bound input queues, each with the source cells the configuration names -/
  ins : List (Fin 4 × List (Fin 80 × Fin 64))
  /-- TAGGED: each firing rule names one to four input queues (R108). -/
  rules : List (List (Fin 4))
  /-- STATIC: CELL-cycle offsets of the schedule entries, and the period (R107). -/
  sched : List Nat
  period : Nat
  /-- the input queue bound to the notifications of R158 and to the aborts of R183 -/
  notifyQ : Option (Fin 4)
  abortQ : Option (Fin 4)
deriving DecidableEq, Repr

/-- The number formats a program image may use (R125, R126). -/
inductive NumFormat where
  | fp32 | bf16 | e4m3 | e5m2 | mxfp8e4m3 | mxfp8e5m2 | mxfp4
  /-- MXFP6, MXINT8 or a block size other than 32: not supported -/
  | mxfp6 | mxint8 | otherBlock
deriving DecidableEq, Repr, Inhabited

/-- A rotation class: its logical blocks, and the carry region that follows a moved block: ranges (offset, length) of its block
buffer and of the SRAM of each of its cells (R121, R122). -/
structure RotClass where
  blocks : List Nat
  buf : List (Nat × Nat)
  sram : List (Nat × Nat)
deriving DecidableEq, Repr

/-- What the program image at a PROG_LOAD range describes (log 12). -/
structure ProgramImage where
  /-- false when the image fails its own check -/
  intact : Bool
  /-- 0 STATIC, 1 TAGGED (R106) -/
  mode : BitVec 8
  cut : BitVec 32
  formats : List NumFormat
  cells : List CellCfg
  entries : List (Nat × Fin 80 × Fin 64)
  ringAddr : Addr
  ringLen : Nat
  /-- receive regions of collectives: virtual chip, tenant address, bytes (R178) -/
  recv : List (Nat × Addr × Nat)
  /-- rotation classes: blocks move only within one class and quadrant (R121) -/
  classes : List RotClass
deriving DecidableEq, Repr

/-- A command's opcode and body fields (R71). -/
inductive Body where
  | hello
  | sessionOpen (a : OpenArgs)
  | sessionClose
  | eventAck (seq : BitVec 32)
  | ping
  | memRegister (addr : Addr) (len : BitVec 64) (access : BitVec 8)
  | memDeregister (rkey : BitVec 32)
  | qpCreate (a : QpArgs)
  | qpDestroy (qpn : BitVec 24)
  | memFill (addr : Addr) (len : BitVec 64) (pattern : BitVec 64)
  | memCopy (src dst : Addr) (len : BitVec 64)
  | xferOut (a : XferArgs)
  | xferIn (a : XferArgs)
  | progLoad (config : BitVec 16) (addr : Addr) (len : BitVec 64) (img : ProgramImage)
  | calLoad (config : BitVec 16) (addr : Addr) (len : BitVec 64)
  | progStart (config : BitVec 16)
  | progStop (drain : BitVec 8)
  | progStatus
  | krLookup (addr : Addr) (blocks : BitVec 16) (mask : BitVec 16)
  | krInsert (tokAddr kvAddr : Addr) (first blocks : BitVec 16) (slot : BitVec 8)
  | krFetch (handle : BitVec 32) (dst : Addr)
  | krRelease (handle : BitVec 32)
  | krUsage (slot : BitVec 8)
  | tokLoad (model : BitVec 32) (addr : Addr) (len : BitVec 64)
  | reqSubmit (a : ReqArgs)
  | reqSource (a : SourceArgs)
  | reqCancel (tag : BitVec 64)
  | reqStatus (tag : BitVec 64)
  | reqTokens (tag : BitVec 64) (first : BitVec 32) (count : BitVec 16)
  | deltaForget
  | cgCreate (members : List (BitVec 16)) (timeout : BitVec 32)
  | cgDestroy (group : BitVec 16)
  | cgStatus (group : BitVec 16)
  | setGet (id : BitVec 16)
  | setSet (id : BitVec 16) (value : List Byte)
  | setLatch (id : BitVec 16) (value : List Byte)
  | setTurn
  | setStore (id : BitVec 16)
  | setDiscard
  | pwrState (state retain : BitVec 8)
  | pwrCap (watts : BitVec 32)
  | pwrRead
  | policySet (dividerMax rotation : BitVec 8) (period : BitVec 16)
  | tmbLoad (addr : Addr) (len : BitVec 64) (flags : BitVec 8)
  | tmbRun (problem : BitVec 16) (seed : BitVec 64) (sweeps : BitVec 32) (sched : Addr)
  | tmbResult (problem : BitVec 16) (dst : Addr)
  | tmbFree (problem : BitVec 16)
  | diagCounters (cls unit : BitVec 16)
  | diagEventsRead (from_ : BitVec 32) (count : BitVec 16)
  | diagEcho (body : List Byte)
  | diagDumpRead (dump : BitVec 16) (offset : BitVec 64) (len : BitVec 32)
  | opKeywayReset
  | opReset (unit : BitVec 16) (level : BitVec 8)
  | opChannelClear (shelf ch : BitVec 8)
  | opShareKeyCreate (label : BitVec 128)
  | opShareKeyDelete (ref : BitVec 32)
  | opTimeStep
  | opLogRead (from_ : BitVec 64) (count : BitVec 16)
  | opServiceStatus
  /-- an opcode value the table of R71 does not list -/
  | unassigned (op : BitVec 16)
deriving DecidableEq, Repr

/-! ### Operands of event rows -/

/-- Why a packet fails R55 or R57. -/
inductive FrameFault where
  | ipv4 | fragment | badMagic | badCrc | badLength | replyOrEvent
  | badVersion (ver : Byte) (op : BitVec 16)
  | unknownOpcode (op : BitVec 16)
deriving DecidableEq, Repr

/-- A RoCE v2 request of a host (R77, R78). -/
structure RdmaReq where
  port : HostPortId
  src : BitVec 128
  qpn : BitVec 24
  va : BitVec 64
  rkey : BitVec 32
  dmaLen : Nat
  /-- packets of the message that arrived ECN-marked -/
  marked : Nat
deriving DecidableEq, Repr

/-- The header of a Neton packet (R147); reserved bits are not carried. -/
inductive PktType where
  | null | data | prio0 | mgmt | vault | host
deriving DecidableEq, Repr

structure NetHdr where
  type : PktType
  last : Bool
  notify : Bool
  forced : Bool
  dchip : ChipId
  schip : ChipId
  dpart : PartId
  fw : Bool
  raddr : Addr
  xseq : BitVec 32
  tag : BitVec 16
  imm : BitVec 25
  frame : BitVec 32
  slot : BitVec 8
deriving DecidableEq, Repr

/-- A Neton packet: its header and payload. -/
structure NetPkt extends NetHdr where
  payload : List Byte
deriving DecidableEq, Repr

/-- What a transfer's end brings: the bytes an RDMA READ of the machine brought (XFER_IN), and which of its 1,280-byte packets the
fabric lost (R160). -/
structure XferResult where
  host : List Byte
  lost : List Nat
deriving DecidableEq, Repr

/-- A granule of a fetch: the block's place in it, and the granule (R192). -/
structure Granule where
  block : Nat
  granule : Fin 64
deriving DecidableEq, Repr

/-- Who sent a RoCE v2 packet, and whether it arrived ECN-marked (R77). -/
structure RdmaSource where
  gid : BitVec 128
  marked : Bool
deriving DecidableEq, Repr

/-- A frame for the ingest chip of a partition (R168). -/
structure HostFrame where
  part : PartId
  bytes : List Byte
deriving DecidableEq, Repr

/-- Pre-FEC BER of the tested lane, or of each lane where one is spared, on the receive side of a link and of its far end, in units of
10^-12 (R166). -/
structure LaneBers where
  near : List Nat
  far : List Nat
deriving DecidableEq, Repr

/-- A fall of load, and whether it comes from a policy action (R266). -/
structure LoadDrop where
  watts : Nat
  voluntary : Bool
deriving DecidableEq, Repr

/-- The content of a priority-0 message (R164): collective aborts, reset escalations, leak notices. -/
inductive Prio0Body where
  | abort (part : PartId) (group : Nat) (seq : Nat) (status : BitVec 16)
  | escalation (part : PartId) (level : Nat)
  | leak (tray : Option TrayId)
deriving DecidableEq, Repr

/-- A mesh message: head word fields and data words (R102). The destination is written by the binding (R100). -/
structure Msg where
  kind : BitVec 4
  tag : BitVec 16
  imm : BitVec 25
  data : List (BitVec 64)
  /-- a word of the message came from a poisoned HBM word -/
  poisoned : Bool
deriving DecidableEq, Repr

/-- What a fused operation works on, as the program has it compiled in (R170, R178). -/
structure FusedArgs where
  /-- launched for a decode step, not for the batch in prefill (R185) -/
  decode : Bool
  /-- blocks of the member's chip whose matrix engines compute, in order of use -/
  blocks : List (Fin 640)
  /-- tenant address of the input tensor, or of A; elements of it (AR) or bytes (AG) -/
  input : Addr
  len : Nat
  /-- second operand of a matmul -/
  inputB : Addr
  /-- the output tensor of each member, and its bytes -/
  outputs : List Addr
  outLen : Nat
  /-- format of the operands, and the matmul shape m x k by k x n -/
  fmt : NumFormat
  m : Nat
  k : Nat
  n : Nat
  tag : BitVec 16
deriving DecidableEq, Repr

/-- What a placement plan gives a partition: origin chip and, below a chip, its quadrants (R40, R245). -/
structure Place where
  chip : ChipId
  kmask : BitVec 4
deriving DecidableEq, Repr

/-- The units of a turn (R352, R356). -/
inductive TurnUnit where
  | part (p : PartId)
  | chip (n : ChipId)
  | switch (s : SwId)
  | rmu
deriving DecidableEq, Repr

/-- A host-port module's identity memory (R286). -/
structure ModuleId where
  identifier : Byte
  cmisRev : Byte
  vendor : String
  partNo : String
  serial : String
deriving DecidableEq, Repr

/-- A Felgasar cable identity memory (R285), or an unreadable one. -/
structure CableId where
  readable : Bool
  crcOk : Bool
  kind : Byte
  end_ : Byte
  harness : Byte
  aUnit : BitVec 16
  aPort : Byte
  bUnit : BitVec 16
  bPort : Byte
  serialOk : Bool
  rackOk : Bool
  /-- the SKEW lane order agrees with the lane numbering found in training (R307) -/
  laneOrderOk : Bool
deriving DecidableEq, Repr

/-- A Redfish request (R290). -/
inductive Redfish where
  | read (resource : String)
  | setAccount (name : String) (admin : Bool) (password : String)
  | deleteAccount (name : String)
  | setCertificate (der : List Byte)
  | setOpSources (value : List Byte)
  | setSyslog (id : BitVec 16) (value : List Byte)
  | other (method resource : String)
deriving DecidableEq, Repr

/-- The caller's account of a Redfish request. -/
structure RedfishAuth where
  user : String
  password : String
deriving DecidableEq, Repr

/-- The physical condition of the rack at power-up, as the controllers read it (R304 to R309). -/
structure PowerUpReadings where
  /-- AC present per shelf -/
  ac : List Bool
  /-- a valid real-time clock and its rack time in ns -/
  rtc : Option Nat
  /-- per tray: leak wet, leak open sensors, flow mL/min, failed fans -/
  wet : List Bool
  open_ : List Nat
  flow : List Nat
  fansFailed : List Nat
  /-- links whose far end is not the one expected (R307), and rejected harness ends with the failing field: harness, end A
  (R285) -/
  badLinks : List LinkId
  rejectedEnds : List (Fin 64 × Bool × Nat)
  /-- units that are absent or whose identity does not match the factory record, as unit codes, each with the failing field (R25) -/
  mismatched : List (BitVec 16 × Nat)
  /-- the new firmware copy verifies (R314) -/
  fwOk : Bool
  /-- the RMU's copies A and B of the settings image survived (R338) -/
  rmuAok : Bool
  rmuBok : Bool
  /-- some chip's copy survived (R338, R339) -/
  chipsOk : Bool
  /-- skew trims measured, in ps (R309) -/
  trims : List (BitVec 16 × Int)
  /-- natural latencies of links in ns, by receive side, as training finds them (R144); one not named is within 13 slots -/
  latency : List (LinkId × Nat) := []
  /-- LSEQ of a record torn by the loss of power, found at the boot (R328) -/
  torn : Option Nat := none
  /-- the result of the placement run (R244, R304) -/
  plan : List (PartId × Place)
deriving DecidableEq, Repr

/-- A cooling sample of a tray controller (R269); none = no valid reading. Milli-degrees C, mL/min, rpm. -/
structure CoolingSample where
  inlet : Option Int
  outlet : Option Int
  flow : Option Nat
  airBefore : Option Int
  airAfter : Option Int
  fans : List (Option Nat)
deriving DecidableEq, Repr

/-- A sensor of the machine that can fail (R86, R269). -/
inductive SensorId where
  | junction (chip : ChipId) (i : Fin 16)
  | stack (chip : ChipId) (i : Fin 8)
  | inlet (t : TrayId) | outlet (t : TrayId) | flow (t : TrayId)
  | air (t : TrayId) (i : Fin 2)
  | fan (t : TrayId) (i : Fin 6)
deriving DecidableEq, Repr

/-- The scope of a reset (R318). -/
inductive Scope where
  | part (p : PartId)
  | block (p : PartId) (chip : ChipId) (b : Fin 640)
  | chip (n : ChipId)
  | tray (t : TrayId)
  | rack
deriving DecidableEq, Repr

end Sys2Proof

namespace Sys2Proof

/-- The 204 commands. Rows of opcodes carry the time, the packet header and the body fields; rows of events carry the
time and what happened where. -/
inductive Instr where
  -- session group and its timers
  | hello (t : Nat) (h : Hdr)
  | sessionOpen (t : Nat) (h : Hdr) (a : OpenArgs)
  | sessionClose (t : Nat) (h : Hdr)
  | eventAck (t : Nat) (h : Hdr) (evSeq : BitVec 32)
  | ping (t : Nat) (h : Hdr)
  -- memory and transfer
  | memRegister (t : Nat) (h : Hdr) (addr : Addr) (len : BitVec 64) (access : BitVec 8)
  | memDeregister (t : Nat) (h : Hdr) (rkey : BitVec 32)
  | qpCreate (t : Nat) (h : Hdr) (a : QpArgs)
  | qpDestroy (t : Nat) (h : Hdr) (qpn : BitVec 24)
  | memFill (t : Nat) (h : Hdr) (addr : Addr) (len pattern : BitVec 64)
  | memCopy (t : Nat) (h : Hdr) (src dst : Addr) (len : BitVec 64)
  | xferOut (t : Nat) (h : Hdr) (a : XferArgs)
  | xferIn (t : Nat) (h : Hdr) (a : XferArgs)
  /-- operation `op` ends -/
  | xferDone (t : Nat) (op : Nat) (r : XferResult)
  -- programs
  | progLoad (t : Nat) (h : Hdr) (config : BitVec 16) (addr : Addr) (len : BitVec 64) (img : ProgramImage)
  | calLoad (t : Nat) (h : Hdr) (config : BitVec 16) (addr : Addr) (len : BitVec 64)
  | progStart (t : Nat) (h : Hdr) (config : BitVec 16)
  | progStop (t : Nat) (h : Hdr) (drain : BitVec 8)
  | progStopped (t : Nat) (p : PartId)
  | progStatus (t : Nat) (h : Hdr)
  -- Keyring
  | krLookup (t : Nat) (h : Hdr) (addr : Addr) (blocks mask : BitVec 16)
  /-- the reply of the oldest waiting lookup leaves; `finished` = the search finished in time -/
  | krLookupReply (t : Nat) (finished : Bool)
  | krInsert (t : Nat) (h : Hdr) (tokAddr kvAddr : Addr) (first blocks : BitVec 16) (slot : BitVec 8)
  /-- the last granule of every copy of block `key` of share key `idx` is written -/
  | krInsertCommit (t : Nat) (idx : Fin 128) (key : BitVec 128)
  | krFetch (t : Nat) (h : Hdr) (handle : BitVec 32) (dst : Addr)
  | krFetchDone (t : Nat) (op : Nat)
  /-- a granule failed its first read in fetch `op`; `ok` = the second read succeeded -/
  | vaultRefetch (t : Nat) (op : Nat) (g : Granule) (ok : Bool)
  | krRelease (t : Nat) (h : Hdr) (handle : BitVec 32)
  | krHandleTtlExpiry (t : Nat) (k : KwId) (handle : BitVec 32)
  | krUsage (t : Nat) (h : Hdr) (slot : BitVec 8)
  -- ingest and requests
  | tokLoad (t : Nat) (h : Hdr) (model : BitVec 32) (addr : Addr) (len : BitVec 64)
  | reqSubmit (t : Nat) (h : Hdr) (a : ReqArgs)
  | reqSource (t : Nat) (h : Hdr) (a : SourceArgs)
  | heldSourceExpiry (t : Nat) (k : KwId) (tag : BitVec 64)
  | alignDeadline (t : Nat) (k : KwId) (tag : BitVec 64)
  | asm (t : Nat) (k : KwId) (tag : BitVec 64)
  | tok (t : Nat) (k : KwId) (tag : BitVec 64)
  | dlt (t : Nat) (k : KwId) (tag : BitVec 64)
  | lkp (t : Nat) (k : KwId) (tag : BitVec 64) (finished : Bool)
  /-- blocks 0 to p-1 are resident; the granules (block, granule) that needed a second read and the blocks recomputed as holes (R200) -/
  | res (t : Nat) (k : KwId) (tag : BitVec 64) (refetched : List (Nat × Fin 64)) (recomputed : List Nat)
  | batchWaitExpiry (t : Nat) (p : PartId) (batch : Nat)
  | batchTaken (t : Nat) (p : PartId)
  | prefillChunkDone (t : Nat) (k : KwId) (tag : BitVec 64)
  | prefillComplete (t : Nat) (k : KwId) (tag : BitVec 64)
  | decodeStep (t : Nat) (k : KwId) (tag : BitVec 64)
  | reqCancel (t : Nat) (h : Hdr) (tag : BitVec 64)
  | reqStatus (t : Nat) (h : Hdr) (tag : BitVec 64)
  | reqTokens (t : Nat) (h : Hdr) (tag : BitVec 64) (first : BitVec 32) (count : BitVec 16)
  | reqRecordExpiry (t : Nat) (k : KwId) (tag : BitVec 64)
  | deltaForget (t : Nat) (h : Hdr)
  -- collective groups
  | cgCreate (t : Nat) (h : Hdr) (members : List (BitVec 16)) (timeout : BitVec 32)
  | cgDestroy (t : Nat) (h : Hdr) (group : BitVec 16)
  | cgStatus (t : Nat) (h : Hdr) (group : BitVec 16)
  -- settings and turns
  | setGet (t : Nat) (h : Hdr) (id : BitVec 16)
  | setSet (t : Nat) (h : Hdr) (id : BitVec 16) (value : List Byte)
  | setLatch (t : Nat) (h : Hdr) (id : BitVec 16) (value : List Byte)
  | setTurn (t : Nat) (h : Hdr)
  | setStore (t : Nat) (h : Hdr) (id : BitVec 16)
  | setDiscard (t : Nat) (h : Hdr)
  | partShapeWrite (t : Nat) (h : Hdr) (value : List Byte)
  | kwShareSlotWrite (t : Nat) (h : Hdr) (slot : Fin 16) (value : List Byte)
  | kwBindingWrite (t : Nat) (h : Hdr) (value : List Byte)
  | fabAcceptTestWrite (t : Nat) (h : Hdr) (value : List Byte)
  | rackAcceptedWrite (t : Nat) (h : Hdr) (value : List Byte)
  -- power and policy
  | pwrState (t : Nat) (h : Hdr) (state retain : BitVec 8)
  | powerStateChanged (t : Nat) (p : PartId)
  | pwrCap (t : Nat) (h : Hdr) (watts : BitVec 32)
  | pwrRead (t : Nat) (h : Hdr)
  | policySet (t : Nat) (h : Hdr) (dividerMax rotation : BitVec 8) (period : BitVec 16)
  -- Tumbler
  | tmbLoad (t : Nat) (h : Hdr) (addr : Addr) (len : BitVec 64) (flags : BitVec 8)
  | tmbRun (t : Nat) (h : Hdr) (problem : BitVec 16) (seed : BitVec 64) (sweeps : BitVec 32) (sched : Addr)
  | tmbSweep (t : Nat) (chip : ChipId)
  | tumblerSlice (t : Nat) (chip : ChipId)
  | tmbDone (t : Nat) (chip : ChipId)
  | tmbResult (t : Nat) (h : Hdr) (problem : BitVec 16) (dst : Addr)
  | tmbFree (t : Nat) (h : Hdr) (problem : BitVec 16)
  -- diagnostics
  | diagCounters (t : Nat) (h : Hdr) (cls unit : BitVec 16)
  | diagEventsRead (t : Nat) (h : Hdr) (from_ : BitVec 32) (count : BitVec 16)
  | diagEcho (t : Nat) (h : Hdr) (body : List Byte)
  | diagDumpRead (t : Nat) (h : Hdr) (dump : BitVec 16) (offset : BitVec 64) (len : BitVec 32)
  -- operator
  | opKeywayReset (t : Nat) (h : Hdr)
  | opReset (t : Nat) (h : Hdr) (unit : BitVec 16) (level : BitVec 8)
  | opChannelClear (t : Nat) (h : Hdr) (shelf ch : BitVec 8)
  | opShareKeyCreate (t : Nat) (h : Hdr) (label : BitVec 128)
  | opShareKeyDelete (t : Nat) (h : Hdr) (ref : BitVec 32)
  | opTimeStep (t : Nat) (h : Hdr)
  | opLogRead (t : Nat) (h : Hdr) (from_ : BitVec 64) (count : BitVec 16)
  | opServiceStatus (t : Nat) (h : Hdr)
  -- protocol timers
  | seqGapHoldExpiry (t : Nat) (e : Ep) (session : BitVec 16)
  | fencedCommandStart (t : Nat) (e : Ep) (session : BitVec 16)
  | sessionExpired (t : Nat) (e : Ep) (session : BitVec 16)
  | eventResend (t : Nat) (e : Ep) (session : BitVec 16) (evSeq : BitVec 32)
  -- RoCE v2
  | rdmaWrite (t : Nat) (r : RdmaReq) (data : List Byte)
  | rdmaWriteImmediate (t : Nat) (r : RdmaReq) (data : List Byte) (imm : BitVec 32)
  | rdmaRead (t : Nat) (r : RdmaReq)
  | rdmaRefusedOperation (t : Nat) (port : HostPortId) (src : RdmaSource) (qpn : BitVec 24)
  /-- syndrome 2 remote access, 3 invalid request, 4 remote operational error (R374) -/
  | hostNakReceived (t : Nat) (port : HostPortId) (src : BitVec 128) (qpn : BitVec 24) (syndrome : Byte)
  | qpAckTimeout (t : Nat) (k : KwId) (qpn : BitVec 24)
  | cnpReceived (t : Nat) (port : HostPortId) (src : BitVec 128) (qpn : BitVec 24)
  | hostFrameIngress (t : Nat) (port : HostPortId) (f : HostFrame)
  -- cell grid
  | cellSend (t : Nat) (c : CellId) (q : Fin 4) (m : Msg)
  | cellReceive (t : Nat) (c : CellId) (q : Fin 4)
  | blockedInstructionComplete (t : Nat) (c : CellId)
  | messageArrival (t : Nat) (src : CellId) (q : Fin 4)
  /-- `lost` = CELL cycles the entry's instruction was blocked outside its queues: for arbitration, an engine bank, a transfer -/
  | scheduleEntryIssue (t : Nat) (c : CellId) (lost : Nat)
  | taggedFire (t : Nat) (c : CellId)
  | fabricSend (t : Nat) (c : CellId) (q : Fin 4) (m : Msg)
  | cellSwap (t : Nat) (c : CellId)
  | calendarSwitch (t : Nat) (chip : ChipId)
  | deadboltSample (t : Nat) (chip : ChipId) (p : PartId)
  | deadboltSpill (t : Nat) (chip : ChipId) (p : PartId)
  | queueRefill (t : Nat) (c : CellId) (q : Fin 4)
  | rotationHinge (t : Nat) (p : PartId)
  | reportingPeriodEnd (t : Nat) (p : PartId)
  -- fabric
  /-- a packet lands on a chip's port: its header, payload and the CRC-32C it bears, and the symbol errors of each codeword (R142,
  R147) -/
  | fabricPacketReceived (t : Nat) (chip : ChipId) (port : PortId) (hdr : NetHdr) (payload : List Byte) (crc : BitVec 32)
      (symbols : List Nat)
  | packetForward (t : Nat) (at_ : LinkId)
  | switchForward (t : Nat) (sw : SwId) (port : Fin 32) (pkt : NetPkt) (crc : BitVec 32) (symbols : List Nat)
  | linkQuarantine (t : Nat) (l : LinkId)
  | quarantineTestDone (t : Nat) (l : LinkId) (unc : Bool) (bers : List Nat)
  | prio0Send (t : Nat) (chip : ChipId)
  | prio0Received (t : Nat) (chip : ChipId) (src : ChipId) (xseq : BitVec 32) (forced : Bool) (dst : ChipId) (b : Prio0Body)
  | laneTestStart (t : Nat) (l : LinkId)
  | laneTestEnd (t : Nat) (l : LinkId) (bers : LaneBers)
  -- collectives
  | mmRs (t : Nat) (p : PartId) (group member : Nat) (a : FusedArgs)
  | mmAr (t : Nat) (p : PartId) (group member : Nat) (a : FusedArgs)
  | agMm (t : Nat) (p : PartId) (group member : Nat) (a : FusedArgs)
  | ar (t : Nat) (p : PartId) (group member : Nat) (a : FusedArgs)
  | ag (t : Nat) (p : PartId) (group member : Nat) (a : FusedArgs)
  | ringStep (t : Nat) (p : PartId) (group seq member : Nat)
  | doneMarkReceived (t : Nat) (p : PartId) (group seq member : Nat) (bitmap : List Nat)
  | collectiveTimeout (t : Nat) (p : PartId) (group seq member : Nat)
  | memberDeparture (t : Nat) (p : PartId) (group member departed : Nat)
  | abortNoticeReceived (t : Nat) (p : PartId) (group seq member : Nat) (status : BitVec 16)
  | collectiveFinalise (t : Nat) (p : PartId) (group seq member : Nat)
  -- firmware use of the Tumbler: the results taken (R244)
  | placementRun (t : Nat) (plan : List (PartId × Place)) (costGainPercent : Nat)
  | shardMapRun (t : Nat) (map : List (Fin 4))
  /-- pairs (logical block, physical block) of one chip's partition -/
  | rotationPlan (t : Nat) (chip : ChipId) (p : PartId) (plan : List (Fin 640 × Fin 640)) (complete : Bool)
  -- power
  | channelPowerOn (t : Nat) (c : ChanId)
  | softstartEnd (t : Nat) (c : ChanId) (percent : Nat)
  | channelTripped (t : Nat) (c : ChanId) (lowOutput : Bool) (peakMa : Int)
  | softstartRetry (t : Nat) (c : ChanId) (sagUs : Nat) (lowestMv : Int)
  | channelLeakCut (t : Nat) (c : ChanId)
  | conversionLost (t : Nat) (s : ShelfId) (converterFault : Bool)
  | conversionRestored (t : Nat) (s : ShelfId)
  | rideThroughEnd (t : Nat)
  /-- the estimates of the battery units as they stand, count and voltage in percent -/
  | energyFloor (t : Nat) (units : List (Fin 16 × Nat × Nat))
  | chargeDisputed (t : Nat) (unit : Fin 16) (count volt : Nat)
  | calibrationStart (t : Nat) (unit : Fin 16)
  | calibrationEnd (t : Nat) (unit : Fin 16) (capacityWh : Nat)
  | loadFall (t : Nat) (d : LoadDrop)
  | ballastDecay (t : Nat)
  -- cooling
  | thermalThrottle (t : Nat) (chip : ChipId) (sensor : Fin 16) (temp : Int)
  | throttleStep (t : Nat) (chip : ChipId) (sensor : Fin 16) (temp : Int)
  | thermalRecover (t : Nat) (chip : ChipId) (quad : Option (Fin 4)) (temp : Int)
  | hbmThrottle (t : Nat) (chip : ChipId) (stack : Fin 8) (temp : Int)
  | thermalTrip (t : Nat) (s : SensorId) (temp : Int)
  | sensorFailed (t : Nat) (s : SensorId)
  | fanFault (t : Nat) (tray : TrayId) (fan : Fin 6) (rpm : Nat)
  | allowanceChanged (t : Nat) (tray : TrayId)
  | trayThermalStop (t : Nat) (tray : TrayId)
  | trayRestart (t : Nat) (tray : TrayId)
  | leakDetected (t : Nat) (tray : TrayId) (sensor : Fin 2)
  | rackLeak (t : Nat)
  | leakSensorFault (t : Nat) (tray : TrayId) (sensor : Fin 2)
  -- supervision
  | unitSilent (t : Nat) (unit : BitVec 16) (lastPoll : Nat)
  /-- cause 0 watchdog, 1 command, 2 power -/
  | controllerRestart (t : Nat) (unit : BitVec 16) (cause : Byte)
  /-- an end of a harness is read again; `far` is the unit and port that each of its four links names in training, and
  its natural latency in ns (R144) -/
  | presenceChange (t : Nat) (harness : Fin 64) (endA : Bool) (id : CableId) (far : List (BitVec 16 × Nat × Nat))
  | moduleInserted (t : Nat) (p : HostPortId) (m : ModuleId)
  | moduleRemoved (t : Nat) (p : HostPortId)
  | logRecordCommit (t : Nat) (after : Option (List (BitVec 128)))
  /-- unit of the console; the character; first low sample inside the stop bit, if any (R293) -/
  | uartCharacterReceived (t : Nat) (unit : BitVec 16) (ch : Byte) (firstLow : Option (Fin 16))
  -- rack time
  /-- the 24 bytes of the message as they come over the sideband: MAGIC, VER and QUAL; SEQ; T_NEXT; RATE and CRC (R296) -/
  | timeOfDayMessage (t : Nat) (unit : BitVec 16) (head seq : BitVec 32) (tNext tail : BitVec 64)
  | timeMessageMissed (t : Nat) (unit : BitVec 16)
  | ppsPulse (t : Nat) (deviationNs : Int)
  /-- source 0 PTP, 1 PPS -/
  | timeSourceLost (t : Nat) (pps : Bool) (uLockNs : Nat)
  | timeQualityDecay (t : Nat)
  | timeSourceLocked (t : Nat) (pps : Bool) (thetaNs : Int) (seconds : Nat)
  | timeSlewEnd (t : Nat) (thetaNs : Int) (rate : Int)
  -- start, acceptance and recovery
  | powerUp (t : Nat) (r : PowerUpReadings)
  /-- end of a phase: per link the BERs of its lanes (lane phase) or uncorrectable and CRC counts (codeword phase) -/
  | acceptTestPhaseEnd (t : Nat) (results : List (LinkId × List Nat))
  | progressWatchdog (t : Nat) (p : PartId) (chip : ChipId)
  | engineWatchdog (t : Nat) (p : PartId) (chip : ChipId) (block : Fin 640)
  | poisonConsumed (t : Nat) (p : PartId) (addr : Addr)
  | keeperWatchdog (t : Nat) (chip : ChipId)
  | chipPollTimeout (t : Nat) (chip : ChipId)
  | hbmErrorRate (t : Nat) (chip : ChipId) (stack : Fin 8)
  | resetStarted (t : Nat)
  /-- `selfTestOk` false: the self-test of the level failed -/
  | resetDone (t : Nat) (scope : Scope) (selfTestOk : Bool)
  | resetDeadline (t : Nat) (scope : Scope)
  | level5Retry (t : Nat) (tray : TrayId)
  | drainAttempt (t : Nat) (p : PartId)
  | quiescePoint (t : Nat) (p : PartId)
  | drainStop (t : Nat) (p : PartId)
  | unitTurn (t : Nat) (u : TurnUnit)
  | turnDeadline (t : Nat)
  | protocolError (t : Nat) (h : Hdr) (f : FrameFault)
  | loadRise (t : Nat) (riseW : Nat)
  | leakSensorDry (t : Nat) (tray : Option TrayId) (sensor : Fin 2)
  | thermalTripRestart (t : Nat) (chip : ChipId) (readings : List (Nat × Int))
  | escalateWindowExpiry (t : Nat) (scope : Scope)
  | switchTrayFailure (t : Nat) (s : SwId)
  | rmuProcessorRestart (t : Nat)
  | redfishRequest (t : Nat) (a : RedfishAuth) (r : Redfish)
  | trayCoolingSample (t : Nat) (tray : TrayId) (s : CoolingSample)
deriving DecidableEq, Repr

end Sys2Proof
end

