-- ==== Sys2Proof/WellFormed.lean ====
section
/-! DEFINITION. Well-formed commands: what a well-framed packet or a physical unit can present at all. -/

namespace Sys2Proof

/-- A header of a packet that passed R57: LENGTH is at most 8,192. -/
def Hdr.wf (h : Hdr) : Bool := decide (h.len ≤ 8192)

/-- INLINE (flags bit 0) says which form a source's text has (R71). -/
def textFlag (flags : BitVec 8) : SrcText → Bool
  | .text _ => flags.getLsbD 0
  | .ref _ _ => !flags.getLsbD 0

/-- A Neton payload is 0 to 1,280 bytes in multiples of 32 (R147). -/
def NetPkt.wf (p : NetPkt) : Bool := decide (p.payload.length ≤ 1280) && decide (p.payload.length % 32 = 0)

/-- A mesh message has at most 15 data words behind its head word (R102). -/
def Msg.wf (m : Msg) : Bool := decide (m.data.length ≤ 15)

/-- A power-up reading names every shelf and every tray once. -/
def PowerUpReadings.wf (r : PowerUpReadings) : Bool :=
  r.ac.length = 4 && r.wet.length = 16 && r.open_.length = 16 && r.flow.length = 16 && r.fansFailed.length = 16

/-- Is the command one that can reach the machine? Commands of opcode rows carry a well-framed header. -/
def Instr.wf : Instr → Bool
  | .hello _ h => h.wf
  | .sessionOpen _ h _ => h.wf
  | .sessionClose _ h => h.wf
  | .eventAck _ h _ => h.wf
  | .ping _ h => h.wf
  | .memRegister _ h _ _ _ => h.wf
  | .memDeregister _ h _ => h.wf
  | .qpCreate _ h _ => h.wf
  | .qpDestroy _ h _ => h.wf
  | .memFill _ h _ _ _ => h.wf
  | .memCopy _ h _ _ _ => h.wf
  | .xferOut _ h _ => h.wf
  | .xferIn _ h _ => h.wf
  | .xferDone _ _ _ => true
  | .progLoad _ h _ _ _ _ => h.wf
  | .calLoad _ h _ _ _ => h.wf
  | .progStart _ h _ => h.wf
  | .progStop _ h _ => h.wf
  | .progStopped _ _ => true
  | .progStatus _ h => h.wf
  | .krLookup _ h _ _ _ => h.wf
  | .krLookupReply _ _ => true
  | .krInsert _ h _ _ _ _ _ => h.wf
  | .krInsertCommit _ _ _ => true
  | .krFetch _ h _ _ => h.wf
  | .krFetchDone _ _ => true
  | .vaultRefetch _ _ _ _ => true
  | .krRelease _ h _ => h.wf
  | .krHandleTtlExpiry _ _ _ => true
  | .krUsage _ h _ => h.wf
  | .tokLoad _ h _ _ _ => h.wf
  | .reqSubmit _ h a => h.wf && textFlag a.flags a.text
  | .reqSource _ h a => h.wf && textFlag a.flags a.text
  | .heldSourceExpiry _ _ _ => true
  | .alignDeadline _ _ _ => true
  | .asm _ _ _ => true
  | .tok _ _ _ => true
  | .dlt _ _ _ => true
  | .lkp _ _ _ _ => true
  | .res _ _ _ _ _ => true
  | .batchWaitExpiry _ _ _ => true
  | .batchTaken _ _ => true
  | .prefillChunkDone _ _ _ => true
  | .prefillComplete _ _ _ => true
  | .decodeStep _ _ _ => true
  | .reqCancel _ h _ => h.wf
  | .reqStatus _ h _ => h.wf
  | .reqTokens _ h _ _ _ => h.wf
  | .reqRecordExpiry _ _ _ => true
  | .deltaForget _ h => h.wf
  | .cgCreate _ h m _ => h.wf && decide (m.length < 256)
  | .cgDestroy _ h _ => h.wf
  | .cgStatus _ h _ => h.wf
  | .setGet _ h _ => h.wf
  | .setSet _ h _ v => h.wf && decide (v.length ≤ 8190)
  | .setLatch _ h _ v => h.wf && decide (v.length ≤ 8190)
  | .setTurn _ h => h.wf
  | .setStore _ h _ => h.wf
  | .setDiscard _ h => h.wf
  | .partShapeWrite _ h v => h.wf && decide (v.length ≤ 8190)
  | .kwShareSlotWrite _ h _ v => h.wf && decide (v.length ≤ 8190)
  | .kwBindingWrite _ h v => h.wf && decide (v.length ≤ 8190)
  | .fabAcceptTestWrite _ h v => h.wf && decide (v.length ≤ 8190)
  | .rackAcceptedWrite _ h v => h.wf && decide (v.length ≤ 8190)
  | .pwrState _ h _ _ => h.wf
  | .powerStateChanged _ _ => true
  | .pwrCap _ h _ => h.wf
  | .pwrRead _ h => h.wf
  | .policySet _ h _ _ _ => h.wf
  | .tmbLoad _ h _ _ _ => h.wf
  | .tmbRun _ h _ _ _ _ => h.wf
  | .tmbSweep _ _ => true
  | .tumblerSlice _ _ => true
  | .tmbDone _ _ => true
  | .tmbResult _ h _ _ => h.wf
  | .tmbFree _ h _ => h.wf
  | .diagCounters _ h _ _ => h.wf
  | .diagEventsRead _ h _ _ => h.wf
  | .diagEcho _ h b => h.wf && decide (b.length ≤ 8192)
  | .diagDumpRead _ h _ _ _ => h.wf
  | .opKeywayReset _ h => h.wf
  | .opReset _ h _ _ => h.wf
  | .opChannelClear _ h _ _ => h.wf
  | .opShareKeyCreate _ h _ => h.wf
  | .opShareKeyDelete _ h _ => h.wf
  | .opTimeStep _ h => h.wf
  | .opLogRead _ h _ _ => h.wf
  | .opServiceStatus _ h => h.wf
  | .seqGapHoldExpiry _ _ _ => true
  | .fencedCommandStart _ _ _ => true
  | .sessionExpired _ _ _ => true
  | .eventResend _ _ _ _ => true
  | .rdmaWrite _ r d => decide (r.dmaLen = d.length)
  | .rdmaWriteImmediate _ r d _ => decide (r.dmaLen = d.length)
  | .rdmaRead _ _ => true
  | .rdmaRefusedOperation _ _ _ _ => true
  | .hostNakReceived _ _ _ _ _ => true
  | .qpAckTimeout _ _ _ => true
  | .cnpReceived _ _ _ _ => true
  | .hostFrameIngress _ _ _ => true
  | .cellSend _ _ _ m => m.wf
  | .cellReceive _ _ _ => true
  | .blockedInstructionComplete _ _ => true
  | .messageArrival _ _ _ => true
  | .scheduleEntryIssue _ _ _ => true
  | .taggedFire _ _ => true
  | .fabricSend _ _ _ m => m.wf
  | .cellSwap _ _ => true
  | .calendarSwitch _ _ => true
  | .deadboltSample _ _ _ => true
  | .deadboltSpill _ _ _ => true
  | .queueRefill _ _ _ => true
  | .rotationHinge _ _ => true
  | .reportingPeriodEnd _ _ => true
  | .fabricPacketReceived _ _ _ h b _ _ => ({ toNetHdr := h, payload := b } : NetPkt).wf
  | .packetForward _ _ => true
  | .switchForward _ _ _ p _ _ => p.wf
  | .linkQuarantine _ _ => true
  | .quarantineTestDone _ _ _ _ => true
  | .prio0Send _ _ => true
  | .prio0Received _ _ _ _ _ _ _ => true
  | .laneTestStart _ _ => true
  | .laneTestEnd _ _ _ => true
  | .mmRs _ _ _ _ _ => true
  | .mmAr _ _ _ _ _ => true
  | .agMm _ _ _ _ _ => true
  | .ar _ _ _ _ _ => true
  | .ag _ _ _ _ _ => true
  | .ringStep _ _ _ _ _ => true
  | .doneMarkReceived _ _ _ _ _ _ => true
  | .collectiveTimeout _ _ _ _ _ => true
  | .memberDeparture _ _ _ _ _ => true
  | .abortNoticeReceived _ _ _ _ _ _ => true
  | .collectiveFinalise _ _ _ _ _ => true
  | .placementRun _ _ _ => true
  | .shardMapRun _ _ => true
  | .rotationPlan _ _ _ _ _ => true
  | .channelPowerOn _ _ => true
  | .softstartEnd _ _ _ => true
  | .channelTripped _ _ _ _ => true
  | .softstartRetry _ _ _ _ => true
  | .channelLeakCut _ _ => true
  | .conversionLost _ _ _ => true
  | .conversionRestored _ _ => true
  | .rideThroughEnd _ => true
  | .energyFloor _ _ => true
  | .chargeDisputed _ _ _ _ => true
  | .calibrationStart _ _ => true
  | .calibrationEnd _ _ _ => true
  | .loadFall _ _ => true
  | .ballastDecay _ => true
  | .thermalThrottle _ _ _ _ => true
  | .throttleStep _ _ _ _ => true
  | .thermalRecover _ _ _ _ => true
  | .hbmThrottle _ _ _ _ => true
  | .thermalTrip _ _ _ => true
  | .sensorFailed _ _ => true
  | .fanFault _ _ _ _ => true
  | .allowanceChanged _ _ => true
  | .trayThermalStop _ _ => true
  | .trayRestart _ _ => true
  | .leakDetected _ _ _ => true
  | .rackLeak _ => true
  | .leakSensorFault _ _ _ => true
  | .unitSilent _ _ _ => true
  | .controllerRestart _ _ _ => true
  | .presenceChange _ _ _ _ _ => true
  | .moduleInserted _ _ _ => true
  | .moduleRemoved _ _ => true
  | .logRecordCommit _ _ => true
  | .uartCharacterReceived _ _ _ _ => true
  | .timeOfDayMessage _ _ _ _ _ _ => true
  | .timeMessageMissed _ _ => true
  | .ppsPulse _ _ => true
  | .timeSourceLost _ _ _ => true
  | .timeQualityDecay _ => true
  | .timeSourceLocked _ _ _ _ => true
  | .timeSlewEnd _ _ _ => true
  | .powerUp _ r => r.wf
  | .acceptTestPhaseEnd _ _ => true
  | .progressWatchdog _ _ _ => true
  | .engineWatchdog _ _ _ _ => true
  | .poisonConsumed _ _ _ => true
  | .keeperWatchdog _ _ => true
  | .chipPollTimeout _ _ => true
  | .hbmErrorRate _ _ _ => true
  | .resetStarted _ => true
  | .resetDone _ _ _ => true
  | .resetDeadline _ _ => true
  | .level5Retry _ _ => true
  | .drainAttempt _ _ => true
  | .quiescePoint _ _ => true
  | .drainStop _ _ => true
  | .unitTurn _ _ => true
  | .turnDeadline _ => true
  | .protocolError _ _ _ => true
  | .loadRise _ _ => true
  | .leakSensorDry _ _ _ => true
  | .thermalTripRestart _ _ _ => true
  | .escalateWindowExpiry _ _ => true
  | .switchTrayFailure _ _ => true
  | .rmuProcessorRestart _ => true
  | .redfishRequest _ _ _ => true
  | .trayCoolingSample _ _ _ => true

end Sys2Proof
end

