-- ==== Sys2Proof/Decode.lean ====
section
/-! DEFINITION. The decoder of the opcode table's words. No row of spec/opcode_table.json gives bits: a command of this
block is a packet or an event, so no word spells one. -/

namespace Sys2Proof

/-- The command a word of `nbits` bits spells by the opcode table: none, the table gives no row any bits. -/
def decodeTableWord (_nbits _w : Nat) : Option Instr := none

end Sys2Proof
end

