-- ==== Sys2Proof/Config.lean ====
section
/-! DEFINITION. What an implementation fixes, and the free values: values the manual leaves open. Every `opaque`
constant here has no body, so nothing can be proved of its value (log 4). -/

namespace Sys2Proof.Config

/-- FREE VALUE. The 256-bit value of the n-th share key drawn from the hardware random source (R188). -/
opaque freeKey : Nat → BitVec 256

/-- FREE VALUE. A byte whose content the manual calls undefined (R183, R200, R373). -/
opaque freeByte : Nat → BitVec 8

/-- FREE VALUE. A packet sequence number the machine hands out at QP_CREATE (R71: PSN 3). -/
opaque freePsn : Nat → BitVec 24

/-- FREE VALUE. A measurement or a choice the manual leaves to the machine, at a fresh number: the averages of R53, the watts
of R85, the size of a slew (R298), where the numbers it hands out start (log 5). -/
opaque freeReading : Nat → Nat

/-- FREE VALUE. Power of quadrant q in W, as its chip's power averaged over the n-th millisecond and its activity counters give it
(R85). -/
opaque quadWatts : Nat → Fin 256 → Nat

/-- FREE VALUE. Rack compute utilisation in percent over the n-th second (R53), below 101 by `% 101`. -/
opaque utilisation : Nat → Nat

/-- FREE VALUE. What an uncorrectable word's byte at an HBM address returns (R84). -/
opaque poisonByte : Nat → BitVec 8

/-- A launch as an open cut sees it: launches that agree in all of this give identical bits (R135). -/
structure OpenLaunch where
  image : Option ProgramImage
  shape : BitVec 32
  placement : List ChipId
  /-- the tokens of each row of the batch, in row order -/
  batch : List (List (BitVec 32))
  input : List (BitVec 8)
deriving DecidableEq, Repr

/-- What a request's logits and KV data may depend on (R34, R135 to R137): under a sealed cut there is no launch, under a
shape-sealed one `shape` is 0. -/
structure ModelInput where
  tokens : List (BitVec 32)
  model : BitVec 32
  cut : BitVec 32
  shape : BitVec 32
  launch : Option OpenLaunch
deriving DecidableEq, Repr

/-- FREE VALUE. The FP32 logits of the token that follows, by token index: the model's own computation (scope: the kernel libraries
are the Jemir documentation's). -/
opaque logits : ModelInput → List (BitVec 32)

/-- FREE VALUE. FP32 weights of the tokens at a temperature, in the order the cut fixes (R138): cut, temperature, logits. -/
opaque tempered : BitVec 32 → BitVec 16 → List (BitVec 32) → List (BitVec 32)

/-- FREE VALUE. The weights a nucleus cut leaves, in the order the cut fixes (R138): cut, top-p, weights. -/
opaque nucleus : BitVec 32 → BitVec 16 → List (BitVec 32) → List (BitVec 32)

/-- FREE VALUE. The counter-based generator's word for a seed and the index of a generated token (R138). -/
opaque randomWord : BitVec 64 → Nat → BitVec 64

/-- FREE VALUE. The token index a random word draws from weights, as the cut fixes it (R138). -/
opaque drawn : BitVec 32 → List (BitVec 32) → BitVec 64 → Nat

/-- FREE VALUE. Byte i of the KV data that prefill computes for the last block of a token list. -/
opaque kvByte : ModelInput → Nat → BitVec 8

/-- FREE VALUE. floor(2^32 exp(-beta dE)) in the manner the cut fixes (R235): cut, beta Q8.24, dE. -/
opaque metropolis : BitVec 32 → BitVec 32 → Int → Nat

/-- FREE VALUE. The output format a cut names for a collective's result (R170). -/
opaque outputFormat : BitVec 32 → NumFormat

/-- FREE VALUE. Sign (bit 22) and payload of a quiet NaN the machine forms: the manual keeps NaNs and fixes no payload
(R125, R130). -/
opaque nanLow : BitVec 23

/-- FREE VALUE. The split of K across engines that a sealed cut fixes (R132): cut, number of 32-term blocks, block; it answers the
engine. -/
opaque cutEngine : BitVec 32 → Nat → Nat → Nat

/-- FREE VALUE. The same split in a launch under an open cut, for each element (R135). -/
opaque openEngine : OpenLaunch → Nat → Nat → Nat

/-- FREE VALUE. The order in which 32-term blocks of an element are added in a launch under an open cut (R135). -/
opaque openOrder : OpenLaunch → Nat → List Nat

/-- FREE VALUE. Body bytes of a dump: SRAM, sensor history and cell status the manual does not lay out (R326). -/
opaque freeDump : Nat → List (BitVec 8)

/-- The firmware's cuts, factory default first (R134, R315). The delivery fixes them; the model's list is the one of the
manual's examples: open 1, sealed 4 and shape-sealed 9 (log 6). -/
def cuts : List (BitVec 32) := [0x02000004#32, 0x01000001#32, 0x03000009#32]

/-- Firmware version field of HELLO for copy A and for copy B (log 6). -/
def firmware : Bool → BitVec 64
  | false => 1#64
  | true => 2#64

/-- RACK_SERIAL of the FACTORY region: 16 ASCII bytes padded with 0x20 (R368; the value is the rack's own, log 6). -/
def rackSerial : List (BitVec 8) := List.replicate 16 0x20#8

/-- The short per-rack password of the factory account "admin" (R290, log 6). -/
def factoryPassword : String := "label"

/-- FREE VALUE. SEV of the record of an event code: the manual gives the field's values and no severity per code (R287). -/
opaque severity : Nat → Fin 4

end Sys2Proof.Config
end

