-- ==== Sys2Proof/Machine/State.lean ====
section
/-! DEFINITION. The state of the KT64-A: every piece of state the manual gives the machine, as plain data
(INVENTORY.md, '## State'), and `State.reset`. -/

namespace Sys2Proof.Machine

/-! ### Tables by key -/

/-- A table by key: pairs, the first match in force. A key without a pair holds the default its reader names. -/
abbrev Tab (κ α : Type) := List (κ × α)

namespace Tab

variable {κ α : Type} [DecidableEq κ]

/-- The entry of a key, or the default. -/
def get (m : Tab κ α) (d : α) (k : κ) : α :=
  match m with
  | [] => d
  | (k', v) :: rest => if k = k' then v else get rest d k

/-- The table with one entry replaced. -/
def set (m : Tab κ α) (k : κ) (v : α) : Tab κ α :=
  (k, v) :: m.filter (fun e => e.1 ≠ k)

end Tab

/-! ### Packets that leave the machine -/

/-- What the management slots announce: a calendar that takes effect in the next frame (R156), a lane that leaves for its test then
(R166), a link quarantined in both directions (R162). -/
inductive Mgmt where
  | calendar (p : PartId)
  | laneOut (lane : Fin 8)
  | quarantined (l : LinkId)
deriving DecidableEq, Repr

/-- What leaves the machine. Bodies are bytes as R56, R71, R74 and R75 lay them out. -/
inductive Out where
  /-- a reply or an event packet (R56, R67) -/
  | packet (via : Via) (dst : BitVec 128) (dstPort : BitVec 16) (keyway : Nat) (event retry : Bool)
      (code : Nat) (seq : BitVec 32) (epoch : BitVec 32) (session : Nat) (status : Nat) (qual : Nat) (rtime : Nat)
      (body : List Byte)
  /-- RoCE v2: acknowledgement, read response, NAK (0 remote access error, 1 invalid request), CNP, and the machine's
  own RDMA WRITE or READ request -/
  | rdmaAck (port : HostPortId) (qpn : BitVec 24)
  | rdmaReadData (port : HostPortId) (qpn : BitVec 24) (data : List Byte)
  | rdmaNak (port : HostPortId) (qpn : BitVec 24) (invalidRequest : Bool)
  | rdmaCnp (port : HostPortId)
  | rdmaWrite (gid : BitVec 128) (hostQpn : BitVec 24) (va : BitVec 64) (rkey : BitVec 32) (data : List Byte)
  | rdmaRead (gid : BitVec 128) (hostQpn : BitVec 24) (va : BitVec 64) (rkey : BitVec 32) (len : Nat)
  /-- a Neton packet put on a link in a slot, counted from the oscillator's start: its bytes (R147) -/
  | fabric (l : LinkId) (slot : Nat) (wire : List Byte)
  /-- a Neton packet a switch puts out on a port in a slot -/
  | switchOut (s : SwId) (port : Fin 32) (slot : Nat) (wire : List Byte)
  /-- one send of a priority-0 message on a torus or switch path (R164): a link of it, the management slot, and FORCED -/
  | prio0 (src dst : ChipId) (on : LinkId) (slot : Nat) (xseq : BitVec 32) (forced : Bool) (b : Prio0Body)
  /-- what a link's ends are told in management slots of a frame (R156, R162, R166) -/
  | mgmt (l : LinkId) (frame : Nat) (m : Mgmt)
  /-- a member's DONE mark to a ring neighbour, in a management slot and every later one (R180) -/
  | doneMark (p : PartId) (group seq member neighbour slot : Nat) (bitmap : List Nat)
  | syslog (pri : Nat) (rtime : Nat) (code : Nat) (lseq : Nat) (isSynced : Bool)
  | http (status : Nat) (resource : String)
  | console (unit : BitVec 16) (text : String)
deriving DecidableEq, Repr

/-! ### Time -/

/-- Rack-time quality (R294). -/
inductive Quality where
  | lockedPtp | lockedPps | holdover | degraded | freeRunning | slewing | starting | unset
deriving DecidableEq, Repr

/-- A receiver of the time sideband (R296). -/
structure TimeRx where
  tNext : Nat
  rate : Int
  quality : BitVec 4
  seq : BitVec 32
  missed : Nat
  lost : Bool
deriving DecidableEq, Repr

structure Clock where
  /-- ns of the holdover oscillator since AC was applied -/
  osc : Nat
  /-- rack time in units of 2^-40 ns (R294, R296) -/
  rackQ : Nat
  /-- RATE, units of 2^-40 (R296) -/
  rate : Int
  quality : Quality
  rtcValid : Bool
  ptpLocked : Bool
  ppsLocked : Bool
  /-- offset theta still to be slewed, in units of 2^-40 ns (R298) -/
  theta : Option Int
  /-- oscillator instant at which the last source was lost, and the uncertainty then (R297) -/
  lossAt : Option Nat
  uLock : Nat
  rx : Tab (BitVec 16) TimeRx
  /-- skew trims of the time sideband in ps (R309) -/
  trims : Tab (BitVec 16) Int
deriving DecidableEq, Repr

/-! ### Ports -/

structure HostPort where
  module : Option ModuleId
  up : Bool
  admission : Nat
  proto : Nat
  /-- the ingress buffer: bytes of frames that wait for their host slots, with the slot in which each packet leaves (R168) -/
  queue : List (Nat × Nat)
  /-- frames dropped at a full buffer, and frames marked CE -/
  drops : Nat
  marked : Nat
deriving DecidableEq, Repr

/-! ### Sessions, events, queue pairs (R58 to R78) -/

/-- An event as first sent: the header fields of R56 and its body (R375). -/
structure Event where
  code : Nat
  seq : BitVec 32
  epoch : BitVec 32
  session : Nat
  qual : Nat
  rtime : Nat
  body : List Byte
deriving DecidableEq, Repr

/-- A session as operations, requests and turns name it: its number of R58, and which opening of its owner it was, so that a
number given again names another session (the count is the model's). -/
structure SessRef where
  num : Nat
  serial : Nat
deriving DecidableEq, Repr

/-- An event waiting for its acknowledgement (R68). -/
structure Unacked where
  ev : Event
  sends : Nat
  lastSend : Nat
deriving DecidableEq, Repr

/-- A reply the machine keeps (R60). -/
structure CachedReply where
  seq : BitVec 32
  /-- none while the reply is pending -/
  status : Option Nat
  epoch : BitVec 32
  op : Nat
  qual : Nat
  body : List Byte
deriving DecidableEq, Repr

/-- A command with its packet, held for a SEQ gap (R59) or waiting behind a fence (R63). -/
structure HeldCmd where
  hdr : Hdr
  body : Body
  since : Nat
  /-- rack time at which the packet arrived (R35, R72) -/
  arrived : Nat
deriving DecidableEq, Repr

/-- The scope index of a setting value: rack, keyway or partition (R331, R335). -/
inductive ScopeIx where
  | rack
  | kw (k : KwId)
  | part (p : PartId)
deriving DecidableEq, Repr

abbrev SetKey := BitVec 16 × ScopeIx

/-- A latched value of a session (R351). -/
structure Latch where
  key : SetKey
  value : List Byte
deriving DecidableEq, Repr

/-- A delta base: chain keys of the last completed prompt (R219). -/
structure DeltaBase where
  keys : List (BitVec 128)
  model : BitVec 32
  usedAt : Nat
deriving DecidableEq, Repr

structure Session where
  num : Nat
  /-- which opening of its owner it is: the model's own -/
  serial : Nat
  nonce : BitVec 64
  openedAt : Nat
  model : BitVec 32
  cut : BitVec 32
  evAddr : BitVec 128
  evPort : BitVec 16
  eventsAll : Bool
  /-- the next expected SEQ, E -/
  next : BitVec 32
  replies : List CachedReply
  lastCmd : Nat
  lastVia : Via
  unacked : List Unacked
  base : Option DeltaBase
  latches : List Latch
  held : List HeldCmd
  /-- commands waiting for a fence, in SEQ order; the first is the fenced one -/
  waiting : List HeldCmd
deriving DecidableEq, Repr

structure Qp where
  qpn : BitVec 24
  psn : BitVec 24
  gid : BitVec 128
  hostQpn : BitVec 24
  hostPsn : BitVec 24
  retry : Nat
  timeout : Nat
  error : Bool
  retriesUsed : Nat
  /-- oscillator instant from which the local ACK timeout runs (R373) -/
  since : Nat
deriving DecidableEq, Repr

structure MemReg where
  rkey : BitVec 32
  addr : Addr
  len : Nat
  remoteRead : Bool
  remoteWrite : Bool
deriving DecidableEq, Repr

/-- A Keyring handle: the share-key index and block key of each pinned block (R198). -/
structure Handle where
  num : Nat
  session : SessRef
  blocks : List (Fin 128 × BitVec 128)
  expires : Nat
  /-- ended while a fetch runs on it: its pins end with the fetch (ch. 10 Edges) -/
  ended : Bool
deriving DecidableEq, Repr

/-- A loaded Tumbler problem (R229 to R233). -/
structure Problem where
  num : Nat
  part : PartId
  chip : ChipId
  vchip : Nat
  spins : Nat
  classes : Nat
  fields : List Int
  clamp : List Bool
  rows : List (List (Nat × Int))
  colours : List Nat
  stateAddr : Addr
deriving DecidableEq, Repr

/-- A source of a request (R212). -/
structure Source where
  index : Nat
  flags : BitVec 8
  stamp : Nat
  arrived : Nat
  text : SrcText
  via : Via
  accepted : Bool
deriving DecidableEq, Repr

structure HeldSource where
  tag : BitVec 64
  src : Source
  /-- the tag's RX, and the settings its request is to run under (R213, R226) -/
  rx : Nat
  window : Nat
  batchTokens : Nat
  batchWait : Nat
  maxOpen : Nat
  /-- the partition it arrived for, whose counter counts its discard -/
  part : PartId
deriving DecidableEq, Repr

structure Keyway where
  sessions : List Session
  lastNum : Nat
  /-- sessions opened so far: the model's own count -/
  opened : Nat
  /-- session numbers ended by a reset, with level and rack time -/
  ended : List (Nat × Nat × Nat)
  evSeq : BitVec 32
  hist : List Event
  qps : List Qp
  regs : List MemReg
  handles : List Handle
  problems : List Problem
  heldSources : List HeldSource
  /-- the RESET of an image loss still to be sent to the first session opened (R339) -/
  resetOwed : Bool
  /-- counters of R207 and R247 -/
  krCount : List Nat
  tmbCount : List Nat
deriving DecidableEq, Repr

/-! ### Accepted operations and requests -/

inductive OpKind where
  | fill (p : PartId) (addr : Addr) (len : Nat) (pattern : BitVec 64)
  | copy (p : PartId) (src dst : Addr) (len : Nat)
  | xferOut (p : PartId) (a : XferArgs)
  | xferIn (p : PartId) (a : XferArgs)
  /-- a fetch: the granules read twice (block, granule), and the blocks of which a second read failed (R200) -/
  | fetch (p : PartId) (handle : Nat) (dst : Addr) (kvb : Nat) (reread : List (Nat × Fin 64)) (failed : List Nat)
  | progStart (p : PartId) (config : Nat)
  | progStop (p : PartId)
  | pwrState (p : PartId) (target : Nat) (retain : Bool)
  | tmbRun (p : PartId) (chip : ChipId) (problem : Nat)
  | reset (level : Nat)
  | turn
  | request (tag : BitVec 64)
  /-- a fenced KR_LOOKUP between its start and its reply -/
  | lookup
deriving DecidableEq, Repr

/-- An operation a session has ACCEPTED and that has not ended (R61, R63). -/
structure Op where
  id : Nat
  ep : Ep
  session : SessRef
  seq : BitVec 32
  /-- epoch the operation runs under (R64) -/
  epoch : BitVec 32
  kind : OpKind
deriving DecidableEq, Repr

/-- A KR_LOOKUP whose equalised reply has not left (R197): the blocks found, or the status that refuses it. -/
structure Lookup where
  kw : KwId
  part : Option PartId
  session : SessRef
  hdr : Hdr
  /-- rack time at which its packet arrived -/
  arrived : Nat
  epoch : BitVec 32
  due : Nat
  blocks : Nat
  /-- share-key index, block key and found-only-warm of blocks 0 to h - 1 -/
  found : List (Fin 128 × BitVec 128 × Bool)
  status : Nat
  /-- the search finished: it had no need of a directory replica that is out of reach (R195, ch. 10 Edges) -/
  reached : Bool
  /-- the command had waited behind a fence: FENCE_DONE in place of the reply; the operation that holds its place -/
  lateOp : Option Nat
deriving DecidableEq, Repr

inductive Stage where
  | receiving | assembled | tokenised | deltaDone | queued | decoding | complete
deriving DecidableEq, Repr

/-- A request (R27 to R35). -/
structure Request where
  tag : BitVec 64
  kw : KwId
  session : SessRef
  seq : BitVec 32
  part : PartId
  epoch : BitVec 32
  model : BitVec 32
  cut : BitVec 32
  declared : Nat
  flags : BitVec 8
  maxTokens : Nat
  temperature : BitVec 16
  topP : BitVec 16
  seed : BitVec 64
  sources : List Source
  rx : Nat
  /-- setting values of the epoch the request started in (R350): window, batch tokens, batch wait, fixed rows, fixed tokens -/
  window : Nat
  batchTokens : Nat
  batchWait : Nat
  fixedRows : Nat
  fixedTokens : Nat
  /-- share keys of the keyway's slots: index, generation, LOOKUP_INSERT -/
  slots : List (Fin 128 × Nat × Bool)
  /-- the share key the request inserts under, if its slot allows it -/
  insertKey : Option (Fin 128 × Nat)
  /-- quota in GiB and copies of the insertion's key at the epoch -/
  quota : Nat
  copies : Nat
  stage : Stage
  /-- the sources are settled: the deadline has passed (R213) -/
  fusing : Bool
  prompt : List (BitVec 32)
  keys : List (BitVec 128)
  hadBase : Bool
  d : Nat
  p : Nat
  found : List (Fin 128 × BitVec 128 × Bool)
  resident : Bool
  /-- chunks already prefilled -/
  chunk : Nat
  pinned : Bool
  /-- RX, ASM, TOK, DLT, LKP, RES, PF1, END in rack ns -/
  marks : List Nat
  /-- granules read twice (block, granule), and blocks recomputed as holes (R200) -/
  reread : List (Nat × Fin 64)
  holes : List Nat
  generated : List (BitVec 32)
  status : Option Nat
  /-- the instant at which the latest token left (R35) -/
  tokenAt : Nat
  /-- the level of the reset that ended it: no completion record then (02 Edges) -/
  resetBy : Option Nat
  endedAt : Nat
deriving DecidableEq, Repr

/-! ### Settings images (R335) -/

structure Image where
  gen : Nat
  records : Tab SetKey (List Byte)
deriving DecidableEq, Repr

/-- One copy of the settings image in an MRAM: valid when MAGIC, VER, LENGTH and CRC check. -/
structure ImageCopy where
  valid : Bool
  img : Image
deriving DecidableEq, Repr

/-- The two copies of one MRAM. -/
structure Mram where
  a : ImageCopy
  b : ImageCopy
deriving DecidableEq, Repr

structure Settings where
  running : Tab SetKey (List Byte)
  rmu : Mram
  /-- the RMU's active copy is B -/
  rmuActiveB : Bool
  chipMram : Tab ChipId Mram
  genFlash : Nat
deriving DecidableEq, Repr

/-! ### Partitions -/

/-- A partition's shape and placement (R39, R40, R42). -/
structure Shape where
  cls : Nat
  ex : Nat
  ey : Nat
  ez : Nat
  chip : ChipId
  kmask : BitVec 4
deriving DecidableEq, Repr

/-- A calendar entry (R154). -/
structure CalEntry where
  vchip : Nat
  port : PortId
  slot : Nat
  forward : Bool
deriving DecidableEq, Repr

/-- A parsed calendar image; `ok` false when R155 refuses it whatever the partition. -/
structure Calendar where
  ok : Bool
  ex : Nat
  ey : Nat
  ez : Nat
  entries : List CalEntry
deriving DecidableEq, Repr

/-- A staged configuration (PROG_LOAD, CAL_LOAD). -/
structure Configuration where
  num : Nat
  prog : Option ProgramImage
  cal : Option Calendar
deriving DecidableEq, Repr

/-- A hinge wave: the configuration it brings, the operation that started it (none: the Keeper's own), and the block
permutation it brings (R111, R121, R353). -/
structure Wave where
  config : Configuration
  op : Option Nat
  rot : List (ChipId × Fin 640 × Fin 640)
  /-- chips on which the carry regions of the moved blocks have been copied (R122) -/
  carried : List ChipId
deriving DecidableEq, Repr

/-- Where the partition's program stands. -/
inductive ProgState where
  | idle
  | running
  /-- stopping with a status; the operation that asked for it, if any -/
  | stopping (status : Nat) (op : Option Nat)
  /-- draining for a stop or a turn since an instant (R355) -/
  | draining (since : Nat) (op : Option Nat)
deriving DecidableEq, Repr

/-- A batch of chunks: (keyway, tag, tokens, first chunk, last chunk) (R221, R222). -/
structure BatchChunk where
  kw : KwId
  tag : BitVec 64
  tokens : Nat
  pad : Nat
  last : Bool
  cancelled : Bool
deriving DecidableEq, Repr

structure Batch where
  id : Nat
  /-- bucket length; 0 the overflow bucket; the row length in FIXED mode -/
  bucket : Nat
  fixed : Bool
  chunks : List BatchChunk
  opened : Nat
  limit : Nat
  wait : Nat
  rows : Nat
  closed : Bool
deriving DecidableEq, Repr

/-- A member's view of one instance of a collective (R179 to R184). -/
inductive MemberState where
  | waiting
  | running (since : Nat) (step : Nat)
  | done
  | completed
  /-- aborted at an instant, with the lowest status known -/
  | aborting (since : Nat) (status : Nat)
  | finalised (status : Nat)
deriving DecidableEq, Repr

inductive Fused where
  | mmRs | mmAr | agMm | ar | ag
deriving DecidableEq, Repr

structure Member where
  index : Nat
  st : MemberState
  args : Option FusedArgs
  /-- members known to be done -/
  bitmap : List Nat
  /-- the operands the member launched on: its tensor or A, and B -/
  data : List Byte
  dataB : List Byte
  /-- the launch as an open cut sees it (R135) -/
  launch : Option Config.OpenLaunch
  /-- what has landed of the instance: step, sender, piece (R175) -/
  got : List (Nat × Nat × Nat)
deriving DecidableEq, Repr

structure Instance where
  seq : Nat
  kind : Fused
  members : List Member
  cut : BitVec 32
  /-- CG_ABORTED raised (once per instance) -/
  reported : Bool
  /-- requests of the batch that used the instance (R185) -/
  reqs : List (KwId × BitVec 64)
deriving DecidableEq, Repr

structure Group where
  num : Nat
  members : List Nat
  gx : Nat
  gy : Nat
  gz : Nat
  timeoutUs : Nat
  /-- sequence of the newest instance per member -/
  memberSeq : List Nat
  lastSeq : Nat
  lastStatus : Nat
  insts : List Instance
  /-- destroyed; its aborted instances still settle (R172) -/
  dying : Bool
deriving DecidableEq, Repr

/-- A loaded tokeniser table (R209 to R211). -/
structure TokTable where
  model : BitVec 32
  vocab : List (List Byte)
  merges : List (Nat × Nat × Nat)
  specials : List (Nat × List Byte)
  pad : Nat
  kvb : Nat
  eos : Nat
  classes : List Nat
  imageLen : Nat
  crc : BitVec 32
  chips : List ChipId
deriving DecidableEq, Repr

/-- A block of the hot tier (R193, R205). -/
structure HotBlock where
  idx : Fin 128
  gen : Nat
  key : BitVec 128
  kvb : Nat
  data : List Host.Cell
  usedAt : Nat
deriving DecidableEq, Repr

structure Part where
  shape : Shape
  epoch : BitVec 32
  epochHigh : BitVec 32
  configs : List Configuration
  /-- the configuration the last completed hinge wave brought, as it was started -/
  running : Option Configuration
  prog : ProgState
  /-- hinge waves started and not complete, the passing one first -/
  waves : List Wave
  /-- the session that started the program last -/
  starter : Option (Ep × SessRef)
  /-- the configuration loaded last and not yet started (R71) -/
  staged : Option Nat
  hinges : Nat
  spills : Nat
  /-- the block permutation in force: (chip, logical block, physical block) for every block moved (R121) -/
  rot : List (ChipId × Fin 640 × Fin 640)
  /-- power state reached by every quadrant: 0 OPEN, 1 AJAR, 2 SHUT -/
  power : Nat
  /-- the instant from which a woken program runs on (R96), and the CELL cycle count of each chip when its clock was gated -/
  runsFrom : Nat
  gated : List (ChipId × Nat)
  groups : List Group
  former : List Batch
  prepared : List Batch
  taken : Option Batch
  nextBatch : Nat
  alarmArmed : Bool
  tables : List TokTable
  hot : List HotBlock
  cells : List Nat
  fabric : List Nat
  ingest : List Nat
  recovery : List Nat
  /-- the reporting period: the rack instants of its start and of the next boundary, and the length in force in ns (R376) -/
  perStart : Nat
  perEnd : Nat
  perLen : Nat
  /-- a length that takes effect at its first boundary after its turn, and that boundary -/
  perNew : Option (Nat × Nat)
  /-- a step of rack time has ended the period (R376), and the next has not begun -/
  perDue : Bool
  perGap : Bool
  /-- the period's rotation hinge has been inserted (R121) -/
  perHinge : Bool
  perMisses : Nat
  perDropSeen : Bool
  perSpills : Nat
  waiting : Bool
  nextDump : Nat
  rotPlan : Option (List (ChipId × Fin 640 × Fin 640))
  /-- chips whose part of the plan is complete (R246) -/
  rotDone : List ChipId
  movedAt : Option Nat
  /-- held at its quiesce point by a rack-wide turn (R358), and quiesce point reached (R353) -/
  heldByTurn : Bool
  quiesced : Bool
  /-- the drain attempt in progress: its start and the hinge count then; and when the next one starts (R353) -/
  drainStart : Option Nat
  drainHinge : Nat
  drainRetry : Option Nat
  ingestChip : ChipId
deriving DecidableEq, Repr

/-! ### Cells and Deadbolt -/

/-- What a blocked cell waits for (R101, R110); the message of a blocked send stands in its output queue. -/
inductive Blocked where
  | send (q : Fin 4)
  | recv (q : Fin 4)
deriving DecidableEq, Repr

/-- The HBM backlog of a queue (R116 to R118): its messages, oldest first, and the words written to and read from its segments since
the queue became extended. -/
structure Backlog where
  msgs : List Msg
  written : Nat
  read : Nat
deriving DecidableEq, Repr

structure CellState where
  /-- input queues: messages oldest first (on chip, then the HBM backlog), and whether the queue is extended -/
  inq : Tab (Fin 4) (List Msg)
  backlog : Tab (Fin 4) Backlog
  extended : List (Fin 4)
  /-- output queues: what a send has put there and the mesh has not taken (R79, R101) -/
  outq : Tab (Fin 4) (List Msg)
  active : Option CellCfg
  /-- shadow banks: none while incomplete; else what the next configuration gives the cell, if anything (R111, R114) -/
  shadow : Option (Option CellCfg)
  /-- number of the last hinge wave the cell has swapped in (R112) -/
  swapped : Nat
  blocked : Option Blocked
  /-- the CELL cycle in which it blocked -/
  blockedAt : Nat
  /-- the oldest tag not yet retired, and the tags ahead of it that have retired (R108) -/
  base : BitVec 16
  retired : List (BitVec 16)
  /-- the CELL cycle from which the active bank runs, schedule entries issued since, and cycles they have slipped (R107, R112) -/
  since : Nat
  sched : Nat
  slip : Nat
  trapped : Bool
deriving DecidableEq, Repr

/-- A message in the mesh (R104). -/
structure InFlight where
  src : CellId
  srcQ : Fin 4
  dst : CellId
  dstQ : Fin 4
  msg : Msg
  sentAt : Nat
deriving DecidableEq, Repr

/-- A wait-for edge with the number of consecutive samples that hold it (R115). -/
structure WaitEdge where
  src : CellId
  dst : CellId
  isSend : Bool
  samples : Nat
deriving DecidableEq, Repr

structure Deadbolt where
  part : PartId
  chip : ChipId
  edges : List WaitEdge
  /-- the CELL cycle of the next sample, and the window the samples belong to (R115) -/
  next : Nat
  window : Nat
  /-- reported cycles waiting for their spill -/
  reports : List (List CellId)
  /-- spill rounds per set of cells -/
  rounds : List (List CellId × Nat)
deriving DecidableEq, Repr

/-! ### Chips, quadrants, links -/

inductive ChipPower where
  | off | up | locked
deriving DecidableEq, Repr

/-- A black box record (R88); DATA is held as bytes. -/
structure BbRec where
  rtime : Nat
  bseq : Nat
  code : Nat
  src : Nat
  sev : Nat
  data : List Byte
deriving DecidableEq, Repr

/-- A black box as it is copied (R88): the header, and the ring's records. -/
structure BbImage where
  chip : ChipId
  firmware : BitVec 64
  oldest : Nat
  newest : Nat
  resetLevel : Nat
  resetTime : Nat
  recs : List BbRec
deriving DecidableEq, Repr

structure Prio0Msg where
  xseq : BitVec 32
  dst : ChipId
  body : Prio0Body
deriving DecidableEq, Repr

/-- A Tumbler run (R235 to R242). `replicas` holds bit r of word i as spin i of replica r. -/
structure TmbRun where
  kw : KwId
  op : Nat
  problem : Nat
  part : PartId
  seed : BitVec 64
  sweeps : Nat
  cut : BitVec 32
  init : Nat
  wsweeps : Nat
  xevery : Nat
  betas : List (BitVec 32)
  t : Nat
  replicas : List (BitVec 32)
  bestE : Option Int
  bestAt : Nat
  best : List Bool
  done : Bool
deriving DecidableEq, Repr

/-- A calendar that waits for its frame (R156): the oscillator instant, the hinge wave it belongs to, whose, entries. -/
structure CalTurn where
  at_ : Nat
  wave : Nat
  part : PartId
  entries : List CalEntry
deriving DecidableEq, Repr

structure Chip where
  power : ChipPower
  /-- divider of CELL and MTX asked for last, the instant it comes into force, and the one before it (R90) -/
  divider : Nat
  dividerAt : Nat
  dividerWas : Nat
  /-- CELL cycles counted up to an instant -/
  cycles : Nat
  cyclesAt : Nat
  thermSteps : Nat
  mtxGate : Bool
  /-- the instant of the last thermal step (R270, R271), and the last at which the governing temperature was not yet low enough -/
  lastStep : Nat
  hotAt : Nat
  /-- the divider the power loops ask for (R263) -/
  powerDiv : Nat
  /-- the sensor hub: the last sample taken of each junction and stack sensor, in m°C, and of the core-rail current in mA (R85, R98) -/
  junctions : Tab (Fin 16) Int
  stackTemps : Tab (Fin 8) Int
  railMa : Nat
  failed : List SensorId
  tripped : List SensorId
  /-- corrected and uncorrectable words per stack (R84) -/
  ecc : Tab (Fin 8) (Nat × Nat)
  bb : List BbRec
  /-- the newest BSEQ, modulo 2^32, and the firmware version of the header (R88) -/
  bseq : Nat
  bbFirmware : BitVec 64
  lastResetLevel : Nat
  lastResetTime : Nat
  /-- the slot table in force, the hinge wave each partition's came with, and calendars waiting for their frame (R155, R156) -/
  cal : List (PartId × CalEntry)
  calWave : Tab PartId Nat
  calNext : List CalTurn
  slice : Nat
  /-- oscillator instant at which the slice began (R241) -/
  sliceAt : Nat
  runs : List TmbRun
  xseq : BitVec 32
  seen : List (ChipId × BitVec 32)
  prio0 : List Prio0Msg
deriving DecidableEq, Repr

structure Quad where
  /-- doubled refresh, spaced requests and gated MTX (R272), and the instant of the last step -/
  hbmThrottled : Bool
  hbmStep : Nat
  hotAt : Nat
  /-- MTX gated in a duty cycle by the power loops (R263) -/
  powerGate : Bool
deriving DecidableEq, Repr

/-- A lane out for its test, from a frame on; an uncorrectable event ends it at a frame boundary (R166, R167). -/
structure LaneTest where
  lane : Fin 8
  since : Nat
  until_ : Option Nat
deriving DecidableEq, Repr

structure Link where
  inService : Bool
  /-- the natural latency found in training, and the delay line that pads it to 13 slots, in ns (R144) -/
  natural : Nat
  delay : Nat
  /-- the check of R307 failed when last made -/
  farBad : Bool
  quarantined : Bool
  quarAt : List Nat
  /-- qualified to rejoin at the next partition-map turn (R163) -/
  qualified : Bool
  /-- three quarantines in 24 h: out until a level 4 (R163) -/
  stuck : Bool
  /-- counters of R169 class 0x0008: corrected codewords, corrected symbols, uncorrectable, CRC, dropped, forced sends,
  quarantines -/
  counts : List Nat
  uncTimes : List Nat
  /-- the oscillator instant of the newest of them (R162) -/
  uncAt : Nat
  spared : BitVec 8
  /-- a level 4 of an end chip has retrained the spared lane, which rejoins once it passes a test (R167) -/
  retrained : Bool
  bers : List Nat
  baseline : List Nat
  test : Option LaneTest
  testHeldUntil : Nat
  /-- the one-packet forward stage, with the slot in which the packet leaves (R151) -/
  stage : Option (NetPkt × Nat)
  accept : Nat
  laneFailed : List Nat
  /-- slots of the oscillator up to which the tenant's queued packets fill its slots (R157) -/
  nextSlot : Nat
  /-- the slot from which its management slots are free for a PRIO0 packet (R164) -/
  prioNext : Nat
deriving DecidableEq, Repr

/-- A piece of a collective on its way: its instance, the step and the members it runs between (R174, R175). -/
structure CollLeg where
  group : Nat
  seq : Nat
  step : Nat
  src : Nat
  dst : Nat
  piece : Nat
deriving DecidableEq, Repr

/-- A fabric transfer a chip is sending (R157), or a step of a collective (R174). -/
structure Transfer where
  part : PartId
  chip : ChipId
  vdst : Nat
  raddr : Addr
  fromHbm : Bool
  saddr : Nat
  srcCell : CellId
  notify : Bool
  length : Nat
  tag : BitVec 16
  imm : BitVec 25
  /-- the number of the hinge wave whose configuration sent it (R156) -/
  wave : Nat
  /-- a collective's bytes, its first port where the ring fixes it, and its leg -/
  data : Option (List Byte)
  via : Option PortId
  leg : Option CollLeg
deriving DecidableEq, Repr

/-- A notifying transfer or a collective's piece on its way: the send slots of its packets that have not landed yet (R158, R175;
log 136). -/
structure Landing where
  src : ChipId
  dst : ChipId
  part : PartId
  tag : BitVec 16
  imm : BitVec 25
  left : List Nat
  leg : Option CollLeg
deriving DecidableEq, Repr

/-- Who sends on a fabric port: a chip on a link, or a switch on a port. -/
inductive Sender where
  | chip (l : LinkId)
  | switch (s : SwId) (port : Fin 32)
deriving DecidableEq, Repr

/-! ### Keyring -/

structure ShareKey where
  gen : Nat
  live : Bool
  label : BitVec 128
  value : BitVec 256
deriving DecidableEq, Repr

/-- A block of the warm tier, with its directory entry (R194, R195, R201). -/
structure WarmBlock where
  idx : Fin 128
  gen : Nat
  key : BitVec 128
  kvb : Nat
  copies : Nat
  r : Fin 4
  data : List Host.Cell
  committed : Bool
  by_ : PartId
  usedAt : Nat
  /-- granules lost with a switch tray: the trays -/
  lostOn : List SwId
deriving DecidableEq, Repr

structure Keyring where
  keys : Tab (Fin 128) ShareKey
  dir : List WarmBlock
  shard : Tab (BitVec 8) (Fin 4)
  keysDrawn : Nat
  /-- keys whose quota was lowered and whose pinned blocks still hold usage above it (R203) -/
  lowering : List (Fin 128)
deriving DecidableEq, Repr

/-! ### Power and cooling -/

inductive ChanState where
  | off | inrush | on | latched | fault
deriving DecidableEq, Repr

structure Channel where
  st : ChanState
  retries : Nat
  /-- 0 over-current, 1 low output, 2 leak; of the last opening -/
  cause : Option Nat
  since : Nat
deriving DecidableEq, Repr

structure Shelf where
  ac : Bool
  conv : Bool
deriving DecidableEq, Repr

structure Battery where
  countPct : Nat
  voltPct : Nat
  disputed : Bool
  calibrating : Bool
  capacityWh : Nat
deriving DecidableEq, Repr

/-- The rack power meter (R53): the current second of the oscillator, the W·ns in it, how far it has come, and the average of the last
whole second. -/
structure Meter where
  sec : Nat
  sum : Nat
  upTo : Nat
  watts : Nat
deriving DecidableEq, Repr

structure Power where
  drawW : Nat
  ballastW : Nat
  ballastAt : Nat
  /-- AC input, and rises held back by the ramp allowance -/
  heldRiseW : Nat
  /-- rises that reached the facility in the last 100 ms: instant and watts (R264) -/
  rises : List (Nat × Nat)
  /-- the instant since which the ballast burns more than its continuous 12 kW (R248) -/
  burnSince : Option Nat
  rideStart : Option Nat
  earlyDumped : Bool
  earlyArmed : Bool
  budgetW : Nat
  budgetTerm : Nat
deriving DecidableEq, Repr

inductive LeakState where
  | dry | wet | open_
deriving DecidableEq, Repr

/-- A factor of the thermal allowance in thousandths: in force, as the readings give it, and since when that lies above or below the one
in force (R274). -/
structure Factor where
  inForce : Nat
  reads : Nat
  since : Nat
deriving DecidableEq, Repr

def Factor.init : Factor := { inForce := 1000, reads := 1000, since := 0 }

structure Tray where
  inlet : Int
  outlet : Int
  flow : Nat
  airBefore : Int
  airAfter : Int
  /-- fan speeds in rpm -/
  fans : Tab (Fin 6) Nat
  failed : List SensorId
  fansFailed : List (Fin 6)
  leak : Tab (Fin 2) LeakState
  /-- F_flow, F_water and F_fan (R274) -/
  flowF : Factor
  waterF : Factor
  fanF : Factor
  /-- instants since which a stop condition has held (flow, inlet), and since which all have been normal -/
  lowFlowSince : Option Nat
  hotSince : Option Nat
  normalSince : Option Nat
  stopped : Bool
  efuseOpen : Bool
  outOfRange : Bool
  /-- off: pre-check of R306 failed, or never powered -/
  powered : Bool
deriving DecidableEq, Repr

/-! ### RMU -/

/-- An action log record (R287). Readings are 16-byte pairs. -/
structure LogRec where
  lseq : Nat
  rtime : Nat
  qual : Nat
  sev : Nat
  code : Nat
  unit : BitVec 16
  rflags : Nat
  tBefore : Int
  tAfter : Int
  detail : List Byte
  readings : List (BitVec 128)
  /-- the operator session whose own turn the record ends (R354) -/
  forSession : Option SessRef
deriving DecidableEq, Repr

structure Dump where
  rackNum : Nat
  partNum : Nat
  part : Option PartId
  kind : Nat
  level : Nat
  detector : Nat
  unit : BitVec 16
  rtime : Nat
  epoch : BitVec 32
  cut : BitVec 32
  config : Nat
  detail : List Byte
  body : List Byte
  /-- keyways bound to the partition when it was taken (R327) -/
  bound : List KwId
deriving DecidableEq, Repr

structure Account where
  name : String
  admin : Bool
  password : String
deriving DecidableEq, Repr

structure Rmu where
  up : Bool
  log : List LogRec
  logWait : List LogRec
  lseq : Nat
  accounts : List Account
  certificate : List Byte
  dumps : List Dump
  nextDump : Nat
  bbCopies : List BbImage
  fwB : Bool
  chipCounts : Tab ChipId (List Nat)
  trayCounts : Tab TrayId (List Nat)
  uartErrors : Tab (BitVec 16) Nat
  uartChars : Tab (BitVec 16) (List Byte)
  bootAt : Nat
  recoverySelected : Bool
  /-- Redfish and the operator channel are absent until then (R289, R334) -/
  absentUntil : Nat
  /-- rack time at which the level 6 began that the next start completes, and whether it was commanded (R314, R375) -/
  level6 : Option Nat
  commanded : Bool
deriving DecidableEq, Repr

/-! ### Resets and turns -/

structure ResetReq where
  level : Nat
  scope : Scope
  detector : Nat
  /-- chip on which the detector fired -/
  chip : Option ChipId
  op : Option Nat
  firedAt : Nat
  /-- detail of the dump: block, cell column and row, poisoned address, temperature (R326) -/
  detail : List Byte
deriving DecidableEq, Repr

structure ResetRun where
  level : Nat
  scope : Scope
  detector : Nat
  chip : Option ChipId
  startOsc : Nat
  startRack : Nat
  op : Option Nat
deriving DecidableEq, Repr

/-- A completed level inside its escalation window (R320). -/
structure Window where
  level : Nat
  scope : Scope
  chip : Option ChipId
  endOsc : Nat
deriving DecidableEq, Repr

/-- One change inside a turn. -/
inductive Change where
  | val (key : SetKey) (value : List Byte)
  | keyCreate (idx : Fin 128) (label : BitVec 128)
  | keyDelete (idx : Fin 128)
deriving DecidableEq, Repr

/-- A rack-wide turn in progress (R356 to R359). -/
structure Turn where
  ep : Ep
  session : SessRef
  /-- the operation to end; none for the firmware's own re-placement -/
  op : Option Nat
  changes : List Change
  /-- running values and share keys before, to turn back -/
  before : Tab SetKey (List Byte)
  keysBefore : Tab (Fin 128) ShareKey
  /-- placements the turn brings: none deletes the partition -/
  shapes : List (PartId × Option Shape)
  epochsBefore : List (PartId × BitVec 32)
  /-- partitions on which a later turn has landed, and the values it changed -/
  laterTurn : List PartId
  laterKeys : List SetKey
  units : List TurnUnit
  turned : List TurnUnit
  /-- changes whose unit has not turned yet, and the partitions that have -/
  todo : List Change
  turnedParts : List PartId
  /-- partitions whose existence or shape a turned unit changed, as they were, and the values lost with that -/
  partsBefore : List (PartId × Option Part)
  lost : Tab SetKey (List Byte)
  startOsc : Nat
  /-- shapes whose placement is still to be planned: class and extents -/
  placing : List (PartId × Nat × Nat × Nat × Nat)
  latches : List Latch
deriving DecidableEq, Repr

/-- A keyway or partition turn that waits: for a quiesce point, a drain, or a rack-wide turn (R353, R355, R359). -/
structure PartTurn where
  parts : List PartId
  ep : Ep
  session : SessRef
  op : Nat
  changes : List Change
  scopeByte : Nat
  needQuiesce : Bool
  needDrain : Bool
  startOsc : Nat
deriving DecidableEq, Repr

/-- The firmware's placement and shard-map problems (R244, R245): a placement is asked for by more than its period, runs that gave no
map since the last one that did, and when each last ran. -/
structure Placing where
  due : Bool
  fails : Nat
  ranAt : Nat
  shardAt : Nat
deriving DecidableEq, Repr

structure Accept where
  /-- 0 none, 1 lane phase, 2 codeword phase -/
  phase : Nat
  since : Nat
deriving DecidableEq, Repr

structure SwTray where
  up : Bool
  /-- packets dropped on its ports' receive sides (R159), and those receive sides (R162, R163) -/
  drops : Nat
  rx : Tab (Fin 32) Link
deriving DecidableEq, Repr

/-! ### The machine -/

/-- A matrix engine's accumulators: two banks of 16 x 64 FP32 values, 4 KiB each, and the bank it computes into (R82). -/
structure Acc where
  mem : List Host.Cell
  bank : Bool
deriving DecidableEq, Repr


structure State where
  pending : List Instr
  out : List Out
  fresh : Nat
  clk : Clock
  ports : Tab HostPortId HostPort
  mgmtDrops : Nat
  rateCuts : Tab HostPortId Nat
  kws : Tab KwId Keyway
  opr : Keyway
  ops : List Op
  nextOp : Nat
  lookups : List Lookup
  reqs : List Request
  cfg : Settings
  rackEpoch : BitVec 32
  rackEpochHigh : BitVec 32
  parts : Tab PartId (Option Part)
  hbm : List Host.Cell
  bufs : Tab (ChipId × Fin 640) (List Host.Cell)
  sram : Tab CellId (List Host.Cell)
  /-- accumulators of each block's matrix engine (R82) -/
  acc : Tab (ChipId × Fin 640) Acc
  poison : List Nat
  cells : Tab CellId CellState
  mesh : List InFlight
  /-- messages of the Keeper and of the fabric interface that wait for room in an input queue (R101, R111) -/
  waitIn : List (CellId × Fin 4 × Msg)
  deadbolts : List Deadbolt
  chips : Tab ChipId Chip
  quads : Tab QuadId Quad
  links : Tab LinkId Link
  sends : List Transfer
  landings : List Landing
  /-- the slot from which a sender's reserved vault (false) or host (true) slots are free for a partition (R153) -/
  laneNext : Tab (Sender × PartId × Bool) Nat
  accept : Accept
  place : Placing
  kr : Keyring
  sw : Tab SwId SwTray
  chan : Tab ChanId Channel
  shelf : Tab ShelfId Shelf
  batt : Tab (Fin 16) Battery
  pw : Power
  meter : Meter
  trays : Tab TrayId Tray
  rackLeak : LeakState
  /-- the building leak contact is closed -/
  leakContact : Bool
  rmu : Rmu
  resetReqs : List ResetReq
  resets : List ResetRun
  windows : List Window
  /-- trays whose level 5 failed, and when (R320) -/
  retry5 : List (TrayId × Nat)
  lockedChips : List ChipId
  lockedTrays : List TrayId
  serviceDue : Bool
  turn : Option Turn
  partTurns : List PartTurn
  /-- the machine has reached 'ready' of R304 -/
  ready : Bool
  /-- rejected harness ends: harness, end A (R285); units that do not match the factory record (R25) -/
  rejectedEnds : List (Fin 64 × Bool)
  mismatched : List (BitVec 16)
  /-- partitions of the settings image without a placement yet: class and extents (R245, R304) -/
  unplaced : List (PartId × Nat × Nat × Nat × Nat)
deriving DecidableEq, Repr

/-- Why a step stops with a fault. There is none: the manual gives the block an outcome for every command (R361). -/
inductive Fault where
deriving DecidableEq, Repr

/-- Why a step is refused. -/
inductive Refusal where
  /-- Raised by Dispatch alone, for a command without a meaning yet. Safe: nothing is claimed of it. -/
  | notModelled (mnemonic : String)
deriving DecidableEq, Repr

abbrev Out3 := Host.Outcome State Fault Refusal

/-! ### Entries at reset (log 3) -/

def HostPort.init : HostPort := { module := none, up := false, admission := 0, proto := 0, queue := [], drops := 0, marked := 0 }

def Keyway.init : Keyway :=
  { sessions := [], lastNum := 0, opened := 0, ended := [], evSeq := 0, hist := [], qps := [], regs := [], handles := [], problems := [],
    heldSources := [], resetOwed := false,
    krCount := List.replicate 7 0, tmbCount := List.replicate 7 0 }

def CellState.init : CellState :=
  { inq := [], backlog := [], extended := [], outq := [], active := none, shadow := none, swapped := 0, blocked := none, blockedAt := 0,
    base := 0, retired := [], since := 0, sched := 0, slip := 0, trapped := false }

def Chip.init : Chip :=
  { power := .off, divider := 4, dividerAt := 0, dividerWas := 4, cycles := 0, cyclesAt := 0,
    thermSteps := 0, mtxGate := false, lastStep := 0, hotAt := 0,
    powerDiv := 4, junctions := [], stackTemps := [], railMa := 0, failed := [], tripped := [], ecc := [], bb := [], bseq := 0,
    bbFirmware := Config.firmware false, lastResetLevel := 0,
    lastResetTime := 0, cal := [], calWave := [], calNext := [], slice := 0, sliceAt := 0, runs := [], xseq := 0, seen := [], prio0 := [] }

def Quad.init : Quad :=
  { hbmThrottled := false, hbmStep := 0, hotAt := 0, powerGate := false }

def Link.init : Link :=
  { inService := false, natural := 0, delay := 0, farBad := false, quarantined := false, quarAt := [],
    qualified := false, stuck := false, counts := List.replicate 7 0,
    uncTimes := [], uncAt := 0, spared := 0, retrained := false, bers := List.replicate 8 0, baseline := [],
    test := none, testHeldUntil := 0, stage := none,
    accept := 0, laneFailed := [], nextSlot := 0, prioNext := 0 }

def SwTray.init : SwTray := { up := false, drops := 0, rx := [] }

def Channel.init : Channel := { st := .off, retries := 0, cause := none, since := 0 }

def Shelf.init : Shelf := { ac := false, conv := false }

def Battery.init : Battery :=
  { countPct := 100, voltPct := 100, disputed := false, calibrating := false, capacityWh := 500 }

def Tray.init : Tray :=
  { inlet := 25000, outlet := 25000, flow := 16000, airBefore := 25000, airAfter := 25000, fans := [], failed := [], fansFailed := [],
    leak := [], flowF := Factor.init, waterF := Factor.init, fanF := Factor.init, lowFlowSince := none, hotSince := none,
    normalSince := none, stopped := false, efuseOpen := false, outOfRange := false, powered := false }

/-- A private share key at reset: generation 1, live, its value the i-th drawn (R188, R189; log 9). -/
def ShareKey.drawn (i : Fin 128) : ShareKey :=
  { gen := 1, live := true, label := 0, value := Config.freeKey i.val }

/-- A team index that has held no key (R189). -/
def ShareKey.free : ShareKey := { gen := 0, live := false, label := 0, value := 0 }

/-- What share-key index i holds until it is written: private keys live, team indexes free. -/
def ShareKey.init (i : Fin 128) : ShareKey := if i.val < 64 then ShareKey.drawn i else ShareKey.free

def ImageCopy.init : ImageCopy := { valid := true, img := { gen := 0, records := [] } }

def Mram.init : Mram := { a := ImageCopy.init, b := ImageCopy.init }

def Clock.init : Clock :=
  { osc := 0, rackQ := 0, rate := 0, quality := .unset, rtcValid := false, ptpLocked := false, ppsLocked := false,
    theta := none, lossAt := none, uLock := 0, rx := [], trims := [] }

def Power.init : Power :=
  { drawW := 0, ballastW := 0, ballastAt := 0, heldRiseW := 0, rises := [], burnSince := none, rideStart := none, earlyDumped := false,
    earlyArmed := false, budgetW := 0, budgetTerm := 1 }

def Meter.init : Meter := { sec := 0, sum := 0, upTo := 0, watts := 0 }

def Rmu.init : Rmu :=
  { up := false, log := [], logWait := [], lseq := 1,
    accounts := [{ name := "admin", admin := true, password := Config.factoryPassword }], certificate := [], dumps := [],
    nextDump := 1, bbCopies := [], fwB := false, chipCounts := [], trayCounts := [], uartErrors := [], uartChars := [],
    bootAt := 0, recoverySelected := false, absentUntil := 0, level6 := none, commanded := false }

/-- The machine as delivered, before its AC is applied: no unit is powered, no partition exists, every setting is at its
default (log 3). POWER_UP starts it (R304). -/
def State.reset : State :=
  { pending := [], out := [], fresh := 0, clk := Clock.init, ports := [], mgmtDrops := 0, rateCuts := [], kws := [],
    opr := Keyway.init, ops := [], nextOp := 0, lookups := [], reqs := [],
    cfg := { running := [], rmu := Mram.init, rmuActiveB := false, chipMram := [], genFlash := 0 },
    rackEpoch := 1, rackEpochHigh := 1, parts := [], hbm := [], bufs := [], sram := [], acc := [], poison := [], cells := [], mesh := [], waitIn := [],
    deadbolts := [], chips := [], quads := [], links := [], sends := [], landings := [], laneNext := [], accept := { phase := 0, since := 0 },
    place := { due := false, fails := 0, ranAt := 0, shardAt := 0 },
    kr := { keys := [], dir := [], shard := [], keysDrawn := 128, lowering := [] }, sw := [], chan := [], shelf := [], batt := [],
    pw := Power.init, meter := Meter.init, trays := [], rackLeak := .dry, leakContact := false, rmu := Rmu.init, resetReqs := [], resets := [],
    windows := [], retry5 := [], lockedChips := [], lockedTrays := [], serviceDue := false, turn := none, partTurns := [], ready := false,
    rejectedEnds := [], mismatched := [], unplaced := [] }

end Sys2Proof.Machine
end

