-- ==== Sys2Proof/Machine/Bits.lean ====
section
/-! DEFINITION. Byte order (R6), bit fields (R5), unit codes (R287), and the CRC-32C, BLAKE2b and Philox functions that
R56, R186 and R238 name. -/

namespace Sys2Proof.Machine

/-- The low n bytes of v, least significant first (R6, memory). -/
def le : Nat → Nat → List Byte
  | 0, _ => []
  | n + 1, v => BitVec.ofNat 8 v :: le n (v / 256)

/-- The low n bytes of v, most significant first (R6, wires). -/
def be (n v : Nat) : List Byte := (le n v).reverse

/-- The value of bytes stored least significant first. -/
def ofLe : List Byte → Nat
  | [] => 0
  | b :: bs => b.toNat + 256 * ofLe bs

/-- The value of bytes sent most significant first. -/
def ofBe (bs : List Byte) : Nat := ofLe bs.reverse

/-- Two's complement of a signed value in n bytes, least significant first. -/
def leInt (n : Nat) (v : Int) : List Byte := le n (v % (2 ^ (8 * n) : Int)).toNat

def beInt (n : Nat) (v : Int) : List Byte := (leInt n v).reverse

/-- Bytes i to i + n - 1 of a list. -/
def field (bs : List Byte) (i n : Nat) : List Byte := (bs.drop i).take n

/-- A field of a stored image, least significant byte first. -/
def fieldLe (bs : List Byte) (i n : Nat) : Nat := ofLe (field bs i n)

/-- A field of a wire value, most significant byte first. -/
def fieldBe (bs : List Byte) (i n : Nat) : Nat := ofBe (field bs i n)

/-- A 16-bit value read as signed. -/
def toSigned16 (v : Nat) : Int := if v < 32768 then (v : Int) else (v : Int) - 65536

/-- Bit b of a byte. -/
def bit (x : Byte) (b : Nat) : Bool := x.getLsbD b

/-! ### Unit codes (R287) -/

/-- UNIT[15:12] type, UNIT[11:0] index. -/
def unitCode (type index : Nat) : BitVec 16 := BitVec.ofNat 16 (type * 4096 + index % 4096)

def unitRack : BitVec 16 := unitCode 0 0
def unitTray (t : TrayId) : BitVec 16 := unitCode 1 t.val
def unitChip (n : ChipId) : BitVec 16 := unitCode 2 n.val
def unitSwitch (s : SwId) : BitVec 16 := unitCode 3 s.val
def unitShelf (s : ShelfId) : BitVec 16 := unitCode 4 s.val
def unitChan (c : ChanId) : BitVec 16 := unitCode 5 (8 * c.shelf.val + c.ch.val)
def unitRmu : BitVec 16 := unitCode 6 0
def unitHarness (h : Nat) : BitVec 16 := unitCode 7 h
def unitHostPort (p : HostPortId) : BitVec 16 := unitCode 8 p.val
def unitPart (p : PartId) : BitVec 16 := unitCode 9 p.val
def unitKw (k : KwId) : BitVec 16 := unitCode 10 k.val

/-! ### CRC-32C (Castagnoli), reflected, as R56, R147, R209, R229 and R287 name it -/

/-- One bit of the reflected CRC. -/
def crcBit (c : BitVec 32) : BitVec 32 := if c.getLsbD 0 then (c >>> 1) ^^^ 0x82F63B78#32 else c >>> 1

/-- One byte of the CRC. -/
def crcByte (c : BitVec 32) (b : Byte) : BitVec 32 :=
  let c := c ^^^ b.setWidth 32
  crcBit (crcBit (crcBit (crcBit (crcBit (crcBit (crcBit (crcBit c)))))))

/-- CRC-32C over bytes. -/
def crc32c (bs : List Byte) : BitVec 32 := ~~~ (bs.foldl crcByte 0xFFFFFFFF#32)

/-! ### BLAKE2b (RFC 7693), named by R186 -/

def blakeIV : List (BitVec 64) :=
  [0x6A09E667F3BCC908#64, 0xBB67AE8584CAA73B#64, 0x3C6EF372FE94F82B#64, 0xA54FF53A5F1D36F1#64,
   0x510E527FADE682D1#64, 0x9B05688C2B3E6C1F#64, 0x1F83D9ABFB41BD6B#64, 0x5BE0CD19137E2179#64]

def blakeSigma : List (List Nat) :=
  [[0, 1, 2, 3, 4, 5, 6, 7, 8, 9, 10, 11, 12, 13, 14, 15],
   [14, 10, 4, 8, 9, 15, 13, 6, 1, 12, 0, 2, 11, 7, 5, 3],
   [11, 8, 12, 0, 5, 2, 15, 13, 10, 14, 3, 6, 7, 1, 9, 4],
   [7, 9, 3, 1, 13, 12, 11, 14, 2, 6, 5, 10, 4, 0, 15, 8],
   [9, 0, 5, 7, 2, 4, 10, 15, 14, 1, 11, 12, 6, 8, 3, 13],
   [2, 12, 6, 10, 0, 11, 8, 3, 4, 13, 7, 5, 15, 14, 1, 9],
   [12, 5, 1, 15, 14, 13, 4, 10, 0, 7, 6, 3, 9, 2, 8, 11],
   [13, 11, 7, 14, 12, 1, 3, 9, 5, 0, 15, 4, 8, 6, 2, 10],
   [6, 15, 14, 9, 11, 3, 0, 8, 12, 2, 13, 7, 1, 4, 10, 5],
   [10, 2, 8, 4, 7, 6, 1, 5, 15, 11, 9, 14, 3, 12, 13, 0]]

/-- The mixing function G on the working vector. -/
def blakeG (v : List (BitVec 64)) (a b c d : Nat) (x y : BitVec 64) : List (BitVec 64) :=
  let va := v.getD a 0 + v.getD b 0 + x
  let vd := (v.getD d 0 ^^^ va).rotateRight 32
  let vc := v.getD c 0 + vd
  let vb := (v.getD b 0 ^^^ vc).rotateRight 24
  let va := va + vb + y
  let vd := (vd ^^^ va).rotateRight 16
  let vc := vc + vd
  let vb := (vb ^^^ vc).rotateRight 63
  (((v.set a va).set b vb).set c vc).set d vd

/-- One round under a permutation. -/
def blakeRound (m : List (BitVec 64)) (v : List (BitVec 64)) (s : List Nat) : List (BitVec 64) :=
  let w := fun i => m.getD (s.getD i 0) 0
  let v := blakeG v 0 4 8 12 (w 0) (w 1)
  let v := blakeG v 1 5 9 13 (w 2) (w 3)
  let v := blakeG v 2 6 10 14 (w 4) (w 5)
  let v := blakeG v 3 7 11 15 (w 6) (w 7)
  let v := blakeG v 0 5 10 15 (w 8) (w 9)
  let v := blakeG v 1 6 11 12 (w 10) (w 11)
  let v := blakeG v 2 7 8 13 (w 12) (w 13)
  blakeG v 3 4 9 14 (w 14) (w 15)

/-- The compression function: chain value h, a 128-byte block, bytes so far, last block. -/
def blakeF (h : List (BitVec 64)) (block : List Byte) (t : Nat) (last : Bool) : List (BitVec 64) :=
  let m := (List.range 16).map fun i => BitVec.ofNat 64 (fieldLe block (8 * i) 8)
  let v := h ++ blakeIV
  let v := v.set 12 (v.getD 12 0 ^^^ BitVec.ofNat 64 t)
  let v := v.set 13 (v.getD 13 0 ^^^ BitVec.ofNat 64 (t / 2 ^ 64))
  let v := if last then v.set 14 (~~~ v.getD 14 0) else v
  let v := ((List.range 12).map fun i => blakeSigma.getD (i % 10) []).foldl (blakeRound m) v
  (List.range 8).map fun i => h.getD i 0 ^^^ v.getD i 0 ^^^ v.getD (i + 8) 0

/-- Pad to 128 bytes. -/
def blakePad (bs : List Byte) : List Byte := bs ++ List.replicate (128 - bs.length) 0

/-- Blocks of 128 bytes; `n` is fuel, one more than the number of full blocks. -/
def blakeBlocks : Nat → List (BitVec 64) → List Byte → Nat → List (BitVec 64)
  | 0, h, _, _ => h
  | n + 1, h, bs, t =>
    if bs.length ≤ 128 then blakeF h (blakePad bs) (t + bs.length) true
    else blakeBlocks n (blakeF h (bs.take 128) (t + 128) false) (bs.drop 128) (t + 128)

/-- `blake2b(data, n, key)` of R186 under RFC 7693. -/
def blake2b (data : List Byte) (n : Nat) (key : List Byte) : List Byte :=
  let h := blakeIV.set 0 (blakeIV.getD 0 0 ^^^ BitVec.ofNat 64 (0x01010000 + key.length * 256 + n))
  let input := if key.isEmpty then data else blakePad key ++ data
  let h := blakeBlocks (input.length / 128 + 1) h input 0
  ((h.map fun w => le 8 w.toNat).flatten).take n

/-! ### Philox4x32-10, named by R238 -/

/-- One Philox round on (c0, c1, c2, c3) with keys (k0, k1). -/
def philoxRound (c : BitVec 32 × BitVec 32 × BitVec 32 × BitVec 32) (k0 k1 : BitVec 32) :
    BitVec 32 × BitVec 32 × BitVec 32 × BitVec 32 :=
  let p0 := 0xD2511F53 * c.1.toNat
  let p1 := 0xCD9E8D57 * c.2.2.1.toNat
  (BitVec.ofNat 32 (p1 / 2 ^ 32) ^^^ c.2.1 ^^^ k0, BitVec.ofNat 32 p1,
   BitVec.ofNat 32 (p0 / 2 ^ 32) ^^^ c.2.2.2 ^^^ k1, BitVec.ofNat 32 p0)

/-- n rounds, the keys bumped between rounds. -/
def philoxRounds : Nat → BitVec 32 × BitVec 32 × BitVec 32 × BitVec 32 → BitVec 32 → BitVec 32 →
    BitVec 32 × BitVec 32 × BitVec 32 × BitVec 32
  | 0, c, _, _ => c
  | n + 1, c, k0, k1 => philoxRounds n (philoxRound c k0 k1) (k0 + 0x9E3779B9#32) (k1 + 0xBB67AE85#32)

/-- Output word 0 of Philox4x32-10 for a seed and a counter (R238). -/
def philox (seed : BitVec 64) (c0 c1 c2 c3 : Nat) : BitVec 32 :=
  (philoxRounds 10 (BitVec.ofNat 32 c0, BitVec.ofNat 32 c1, BitVec.ofNat 32 c2, BitVec.ofNat 32 c3)
    (seed.setWidth 32) ((seed >>> 32).setWidth 32)).1

end Sys2Proof.Machine
end

