-- ==== Sys2Proof/Machine/Flags.lean ====
section
/-! DEFINITION. Status codes (R73), event codes (R74), log codes, counters that saturate (R51, R161), the class byte of
SET_GET (R332) and the classes-lost byte (R345). -/

namespace Sys2Proof.Machine

/-! ### Status codes (R73) -/

abbrev St.ok : Nat := 0x0000
abbrev St.accepted : Nat := 0x0001
abbrev St.cancelled : Nat := 0x0002
abbrev St.seqGap : Nat := 0x0003
abbrev St.staleSeq : Nat := 0x0004
abbrev St.noSession : Nat := 0x0005
abbrev St.sessionLimit : Nat := 0x0006
abbrev St.notFound : Nat := 0x0007
abbrev St.busy : Nat := 0x0010
abbrev St.rolledBack : Nat := 0x0011
abbrev St.epochChanged : Nat := 0x0012
abbrev St.nothingLatched : Nat := 0x0013
abbrev St.wardFault : Nat := 0x0020
abbrev St.shareDenied : Nat := 0x0021
abbrev St.quotaExceeded : Nat := 0x0022
abbrev St.policyBound : Nat := 0x0023
abbrev St.collAborted : Nat := 0x0030
abbrev St.collTimeout : Nat := 0x0031
abbrev St.slotMiss : Nat := 0x0040
abbrev St.lockedOut : Nat := 0x0050
abbrev St.resetAborted : Nat := 0x0051
abbrev St.resetting : Nat := 0x0052
abbrev St.noResource : Nat := 0x0060
abbrev St.queueFull : Nat := 0x0061
abbrev St.qpFailed : Nat := 0x0062
abbrev St.programInvalid : Nat := 0x0070
abbrev St.calendarConflict : Nat := 0x0071
abbrev St.cutUnknown : Nat := 0x0072
abbrev St.modelUnknown : Nat := 0x0073
abbrev St.problemInvalid : Nat := 0x0074
abbrev St.unknownOpcode : Nat := 0x00F0
abbrev St.badParameter : Nat := 0x00F1
abbrev St.badLength : Nat := 0x00F2
abbrev St.badVersion : Nat := 0x00F3
abbrev St.internalError : Nat := 0x00FF

/-! ### Event codes a keyway receives (R74) -/

abbrev Ev.eventsLost : Nat := 0x0001
abbrev Ev.sessionExpired : Nat := 0x0002
abbrev Ev.fenceDone : Nat := 0x0003
abbrev Ev.xferDone : Nat := 0x0101
abbrev Ev.rdmaImmediate : Nat := 0x0102
abbrev Ev.qpError : Nat := 0x0103
abbrev Ev.wardViolation : Nat := 0x0120
abbrev Ev.pinBroken : Nat := 0x0121
abbrev Ev.bindingChanged : Nat := 0x0122
abbrev Ev.progHinge : Nat := 0x0201
abbrev Ev.progStopped : Nat := 0x0202
abbrev Ev.slotMisses : Nat := 0x0203
abbrev Ev.deadboltSpill : Nat := 0x0204
abbrev Ev.krFetchDone : Nat := 0x0301
abbrev Ev.tokens : Nat := 0x0401
abbrev Ev.reqComplete : Nat := 0x0402
abbrev Ev.queueLow : Nat := 0x0403
abbrev Ev.sourceLate : Nat := 0x0404
abbrev Ev.cgAborted : Nat := 0x0501
abbrev Ev.epochTurned : Nat := 0x0601
abbrev Ev.policyOverridden : Nat := 0x0701
abbrev Ev.powerStateChanged : Nat := 0x0702
abbrev Ev.tmbDone : Nat := 0x0801
abbrev Ev.reset : Nat := 0x0901
abbrev Ev.partitionMoved : Nat := 0x0902
abbrev Ev.serviceDue : Nat := 0x0903
abbrev Ev.timeQuality : Nat := 0x0904

/-! ### Log codes (R255, R281, R300, R316, R330, R348, R360) -/

abbrev Lg.channelTripped : Nat := 0x0710
abbrev Lg.softstartRetry : Nat := 0x0711
abbrev Lg.channelFault : Nat := 0x0712
abbrev Lg.channelCleared : Nat := 0x0713
abbrev Lg.conversionLost : Nat := 0x0714
abbrev Lg.conversionRestored : Nat := 0x0715
abbrev Lg.rideThrough : Nat := 0x0716
abbrev Lg.dumpStarted : Nat := 0x0717
abbrev Lg.chargeDisputed : Nat := 0x0718
abbrev Lg.calibration : Nat := 0x0719
abbrev Lg.rampExceeded : Nat := 0x071A
abbrev Lg.budgetChanged : Nat := 0x071B
abbrev Lg.thermalThrottle : Nat := 0x0720
abbrev Lg.thermalRecover : Nat := 0x0721
abbrev Lg.thermalTrip : Nat := 0x0722
abbrev Lg.hbmThrottle : Nat := 0x0723
abbrev Lg.waterOutOfRange : Nat := 0x0724
abbrev Lg.allowanceChanged : Nat := 0x0725
abbrev Lg.trayThermalStop : Nat := 0x0726
abbrev Lg.fanFault : Nat := 0x0727
abbrev Lg.leakDetected : Nat := 0x0728
abbrev Lg.leakSensorFault : Nat := 0x0729
abbrev Lg.sensorFailed : Nat := 0x072A
abbrev Lg.unitSilent : Nat := 0x0730
abbrev Lg.identityMismatch : Nat := 0x0732
abbrev Lg.moduleInserted : Nat := 0x0733
abbrev Lg.moduleRemoved : Nat := 0x0734
abbrev Lg.controllerRestart : Nat := 0x0735
abbrev Lg.timeSourceLost : Nat := 0x0736
abbrev Lg.timeSourceLocked : Nat := 0x0737
abbrev Lg.timeSlew : Nat := 0x0738
abbrev Lg.timeStepped : Nat := 0x0739
abbrev Lg.ppsRejected : Nat := 0x073A
abbrev Lg.mapCheck : Nat := 0x0740
abbrev Lg.acceptTest : Nat := 0x0741
abbrev Lg.laneDrift : Nat := 0x0742
abbrev Lg.firmwareActivated : Nat := 0x0743
abbrev Lg.rackAccepted : Nat := 0x0744
abbrev Lg.resetStarted : Nat := 0x0910
abbrev Lg.resetDone : Nat := 0x0911
abbrev Lg.resetFailed : Nat := 0x0912
abbrev Lg.resetAbsorbed : Nat := 0x0913
abbrev Lg.unitLockout : Nat := 0x0914
abbrev Lg.replacement : Nat := 0x0915
abbrev Lg.dumpWritten : Nat := 0x0916
abbrev Lg.recordLost : Nat := 0x0917
abbrev Lg.storeCommitted : Nat := 0x0920
abbrev Lg.storeFailed : Nat := 0x0921
abbrev Lg.classesLost : Nat := 0x0922
abbrev Lg.imageLost : Nat := 0x0923
abbrev Lg.imageRefreshed : Nat := 0x0924
abbrev Lg.turnStarted : Nat := 0x0930
abbrev Lg.turnCompleted : Nat := 0x0931
abbrev Lg.turnRolledBack : Nat := 0x0932

/-! ### Counters -/

/-- A 64-bit counter that saturates: DIAG_COUNTERS returns 8 bytes each (R71; log 13). -/
def sat64 (c k : Nat) : Nat := min (2 ^ 64 - 1) (c + k)

/-- A fabric counter: 32 bits, saturating at 0xFFFF_FFFF (R161). -/
def sat32 (c k : Nat) : Nat := min (2 ^ 32 - 1) (c + k)

/-- Raise counter i of a list of 64-bit counters by k. -/
def bump (cs : List Nat) (i k : Nat) : List Nat := cs.set i (sat64 (cs.getD i 0) k)

/-- Raise fabric counter i by k (R161). -/
def bump32 (cs : List Nat) (i k : Nat) : List Nat := cs.set i (sat32 (cs.getD i 0) k)

/-! ### Encoded bytes -/

/-- The rack-time quality field (R294). -/
def Quality.code : Quality → Nat
  | .lockedPtp => 0 | .lockedPps => 1 | .holdover => 2 | .degraded => 3 | .freeRunning => 4 | .slewing => 5
  | .starting => 6 | .unset => 15

/-- The class byte of SET_GET (R332): CLASS, UNSTORED, LATCHED. -/
def classByte (cls : Nat) (unstored latched : Bool) : Byte :=
  BitVec.ofNat 8 (cls + (if unstored then 4 else 0) + (if latched then 8 else 0))

/-- The classes-lost byte of each reset level (R343, R345). -/
def classesLost (level : Nat) : Byte :=
  if level ≤ 2 then 0x00#8 else if level = 3 then 0x19#8 else if level ≤ 5 then 0x1B#8 else 0x1F#8

end Sys2Proof.Machine
end

