-- ==== Sys2Proof/Machine/Topology.lean ====
section
/-! DEFINITION. Where everything sits: chips, trays, quadrants, links, uplinks, harnesses, channels (R14 to R20), cells and
blocks (R80, R81), the HBM stack of an offset (R83), partition shapes and virtual numbering (R39, R42), and routes (R150). -/

namespace Sys2Proof.Machine

/-! ### Chips and trays (R14) -/

def chipX (n : ChipId) : Nat := n.val % 4
def chipY (n : ChipId) : Nat := n.val / 4 % 4
def chipZ (n : ChipId) : Nat := n.val / 16

/-- The chip at (x, y, z), coordinates taken mod 4 (R14, R15). -/
def chipAt (x y z : Nat) : ChipId := ⟨x % 4 + 4 * (y % 4) + 16 * (z % 4), by omega⟩

def trayOf (n : ChipId) : TrayId := ⟨n.val / 4, by omega⟩

/-- The four chips of a tray (R14). -/
def trayChips (t : TrayId) : List ChipId :=
  [⟨4 * t.val, by omega⟩, ⟨4 * t.val + 1, by omega⟩, ⟨4 * t.val + 2, by omega⟩, ⟨4 * t.val + 3, by omega⟩]

/-- All chips in ascending order. -/
def allChips : List ChipId := List.finRange 64

/-! ### Links (R15, R17) -/

/-- The port at the far end of a torus link. -/
def oppositePort (p : PortId) : PortId :=
  if p.val < 6 then ⟨if p.val % 2 = 0 then p.val + 1 else p.val - 1, by split <;> omega⟩ else p

/-- The neighbour on a torus port (R15); uplinks answer the chip itself. -/
def neighbour (n : ChipId) (p : PortId) : ChipId :=
  match p.val with
  | 0 => chipAt (chipX n + 1) (chipY n) (chipZ n)
  | 1 => chipAt (chipX n + 3) (chipY n) (chipZ n)
  | 2 => chipAt (chipX n) (chipY n + 1) (chipZ n)
  | 3 => chipAt (chipX n) (chipY n + 3) (chipZ n)
  | 4 => chipAt (chipX n) (chipY n) (chipZ n + 1)
  | 5 => chipAt (chipX n) (chipY n) (chipZ n + 3)
  | _ => n

/-- The far end of a torus link; an uplink's far end is a switch port. -/
def reverseLink (l : LinkId) : LinkId :=
  if l.port.val < 6 then { chip := neighbour l.chip l.port, port := oppositePort l.port } else l

/-- The switch an uplink lands on (R17): u = 0 or 1. -/
def uplinkSwitch (n : ChipId) (u : Nat) : SwId :=
  if u = 0 then ⟨chipZ n % 4, by omega⟩ else ⟨(chipZ n + 2) % 4, by omega⟩

/-- The switch port an uplink lands on (R17). -/
def uplinkPort (n : ChipId) (u : Nat) : Nat :=
  if u = 0 then 4 * chipY n + chipX n else 16 + 4 * chipY n + chipX n

/-- Does the chip have an uplink on the switch (R17)? -/
def hasUplink (n : ChipId) (s : SwId) : Bool := uplinkSwitch n 0 = s || uplinkSwitch n 1 = s

/-- The -z neighbour through which a switch without an uplink of the chip relays (R152). -/
def relayChip (n : ChipId) : ChipId := chipAt (chipX n) (chipY n) (chipZ n + 3)

/-- The switch tray of a host port (R18). -/
def hostPortSwitch (h : HostPortId) : SwId := ⟨h.val / 2, by omega⟩

/-! ### Channels (R20, R21) -/

def trayChannel (t : TrayId) : ChanId := { shelf := ⟨t.val / 4, by omega⟩, ch := ⟨t.val % 4, by omega⟩ }
def switchChannel (s : SwId) : ChanId := { shelf := s, ch := 4 }
def rmuChannel : ChanId := { shelf := 0, ch := 5 }

/-- The spare channels, always open (R21). -/
def spareChannel (c : ChanId) : Bool := c.ch = 5 && c.shelf ≠ 0

/-- The compute tray a channel feeds. -/
def channelTray (c : ChanId) : Option TrayId :=
  if h : c.ch.val < 4 then some ⟨4 * c.shelf.val + c.ch.val, by omega⟩ else none

/-- The switch tray a channel feeds. -/
def channelSwitch (c : ChanId) : Option SwId := if c.ch = 4 then some c.shelf else none

/-! ### Quadrants, cells and blocks (R16, R80, R81, R83) -/

def quadOf (n : ChipId) (k : Fin 4) : QuadId := ⟨4 * n.val + k.val, by omega⟩
def quadChip (q : QuadId) : ChipId := ⟨q.val / 4, by omega⟩
def quadK (q : QuadId) : Fin 4 := ⟨q.val % 4, by omega⟩

/-- The quadrants of a chip. -/
def chipQuads (n : ChipId) : List QuadId := [quadOf n 0, quadOf n 1, quadOf n 2, quadOf n 3]

/-- The quadrant k of a cell position (R80). -/
def cellK (c : Fin 80) (r : Fin 64) : Fin 4 := ⟨c.val / 40 + 2 * (r.val / 32), by omega⟩

def cellQuad (x : CellId) : QuadId := quadOf x.chip (cellK x.c x.r)

/-- The block of a cell (R80). -/
def cellBlock (c : Fin 80) (r : Fin 64) : Fin 640 := ⟨c.val / 4 + 20 * (r.val / 2), by omega⟩

/-- The quadrant k of a block. -/
def blockK (b : Fin 640) : Fin 4 := ⟨(b.val % 20) / 10 + 2 * ((b.val / 20) / 16), by omega⟩

/-- The local index of a block within its quadrant (R80). -/
def blockLocal (b : Fin 640) : Nat :=
  (b.val % 20 - 10 * ((blockK b).val % 2)) + 10 * (b.val / 20 - 16 * ((blockK b).val / 2))

/-- The bank of a block-buffer address: address[14:11] (R81). -/
def bufferBank (a : Nat) : Nat := a / 2048 % 16

/-- The stack of a quadrant's offset: OFFSET[8] selects stack 2k or 2k + 1 (R83). -/
def stackOf (k : Fin 4) (offset : Nat) : Fin 8 := ⟨2 * k.val + offset / 256 % 2, by omega⟩

/-- The Deadbolt's order of cells: c + 80 r (R116). -/
def cellOrder (x : CellId) : Nat := x.c.val + 80 * x.r.val

/-! ### Shapes and virtual numbering (R39, R42) -/

/-- Chips of a shape in the order of their virtual numbers (R42). -/
def Shape.chips (sh : Shape) : List ChipId :=
  if sh.cls = 3 then
    (List.range (sh.ex * sh.ey * sh.ez)).map fun v =>
      chipAt (chipX sh.chip + v % sh.ex) (chipY sh.chip + v / sh.ex % sh.ey) (chipZ sh.chip + v / (sh.ex * sh.ey))
  else [sh.chip]

/-- The quadrants k that the shape holds on a chip of it, ascending. -/
def Shape.ks (sh : Shape) : List (Fin 4) :=
  if sh.cls = 3 then [0, 1, 2, 3] else (List.finRange 4).filter fun k => sh.kmask.getLsbD k.val

/-- Quadrants of a shape in the order of their virtual numbers (R42). -/
def Shape.quads (sh : Shape) : List QuadId :=
  sh.chips.flatMap fun n => sh.ks.map fun k => quadOf n k

/-- The number of virtual chips. -/
def Shape.nChips (sh : Shape) : Nat := if sh.cls = 3 then sh.ex * sh.ey * sh.ez else 1

/-- The virtual number of a chip of the shape. -/
def Shape.vchip (sh : Shape) (n : ChipId) : Option Nat := sh.chips.findIdx? (· = n)

/-- The physical quadrant of a virtual one. -/
def Shape.quad? (sh : Shape) (vq : Nat) : Option QuadId := sh.quads[vq]?

/-- The virtual chip of a virtual quadrant. -/
def Shape.vqChip (sh : Shape) (vq : Nat) : Nat := if sh.cls = 3 then vq / 4 else 0

/-- Virtual coordinates of a virtual chip. -/
def Shape.coords (sh : Shape) (v : Nat) : Nat × Nat × Nat := (v % sh.ex, v / sh.ex % sh.ey, v / (sh.ex * sh.ey))

/-- The virtual chip at virtual coordinates. -/
def Shape.vAt (sh : Shape) (x y z : Nat) : Nat := x + sh.ex * y + sh.ex * sh.ey * z

/-- The shape word of R186 under a cut: 0 under a shape-sealed cut. -/
def Shape.word (sh : Shape) (cut : BitVec 32) : BitVec 32 :=
  if (cut >>> 24) = 3#32 then 0
  else BitVec.ofNat 32 (sh.cls * 2 ^ 24 + sh.ex * 2 ^ 16 + sh.ey * 2 ^ 8 + sh.ez)

/-- The physical quadrant that stands for quadrant j of a chip as a program sees it: a quarter or half partition's quadrants are
numbered 0 and 1 in ascending k (R42); past them, one the partition does not hold. -/
def Shape.homeK (sh : Shape) (j : Fin 4) : Fin 4 :=
  match sh.ks[j.val]? with
  | some k => k
  | none => ((List.finRange 4).find? fun k => !sh.ks.contains k).getD j

/-- The place of a logical cell of a chip, before any rotation (R42, R100; log 126). -/
def Shape.homeCell (sh : Shape) (c : Fin 80) (r : Fin 64) : Fin 80 × Fin 64 :=
  let k := (sh.homeK (cellK c r)).val
  (⟨c.val % 40 + 40 * (k % 2), by omega⟩, ⟨r.val % 32 + 32 * (k / 2 % 2), by omega⟩)

/-- The place of a logical block, before any rotation. -/
def Shape.homeBlock (sh : Shape) (b : Nat) : Fin 640 :=
  let x := sh.homeCell ⟨4 * (b % 20), by omega⟩ ⟨2 * (b / 20 % 32), by omega⟩
  cellBlock x.1 x.2

/-! ### Harnesses (R19, R285) -/

/-- The harness that carries a link end, and whether it is end A: y harnesses 4z + y, z harnesses 16 + 4y + z, uplink 0
32 + t, uplink 1 48 + t (R285). The x ring needs none. -/
def harnessOf (l : LinkId) : Option (Nat × Bool) :=
  let n := l.chip
  match l.port.val with
  | 2 => some (4 * chipZ n + chipY n, true)
  | 3 => some (4 * chipZ n + (chipY n + 3) % 4, false)
  | 4 => some (16 + 4 * chipY n + chipZ n, true)
  | 5 => some (16 + 4 * chipY n + (chipZ n + 3) % 4, false)
  | 6 => some (32 + (trayOf n).val, true)
  | 7 => some (48 + (trayOf n).val, true)
  | _ => none

/-- What the identity memory of a harness end has to hold (R19, R285): KIND, HARNESS, A unit and port, B unit and port. -/
def harnessExpect (h : Nat) : Nat × BitVec 16 × Nat × BitVec 16 × Nat :=
  if h < 16 then
    let z := h / 4
    let y := h % 4
    (0, unitCode 1 (4 * z + y), 2, unitCode 1 (4 * z + (y + 1) % 4), 3)
  else if h < 32 then
    let y := (h - 16) / 4
    let z := h % 4
    (1, unitCode 1 (y + 4 * z), 4, unitCode 1 (y + 4 * ((z + 1) % 4)), 5)
  else if h < 48 then
    let t := h - 32
    (2, unitCode 1 t, 6, unitCode 3 (t / 4), 4 * (t % 4))
  else
    let t := h - 48
    (3, unitCode 1 t, 7, unitCode 3 ((t / 4 + 2) % 4), 16 + 4 * (t % 4))

/-! ### Routes inside a box (R150) -/

/-- The ports along one axis (+ port code `plus`) from coordinate a to b on an axis of extent e: the shorter direction on a
full ring, + at distance 2; the only direction inside the box on a folded ring. -/
def axisRoute (plus : Nat) (e a b : Nat) : List PortId :=
  let p : PortId := ⟨plus % 8, by omega⟩
  let m : PortId := ⟨(plus + 1) % 8, by omega⟩
  if e = 4 then
    let d := (b + 4 - a) % 4
    if d = 3 then [m] else List.replicate d p
  else if a ≤ b then List.replicate (b - a) p else List.replicate (a - b) m

/-- The ports of the route between two virtual chips of a box, x then y then z (R150). -/
def Shape.route (sh : Shape) (v w : Nat) : List PortId :=
  let a := sh.coords v
  let b := sh.coords w
  axisRoute 0 sh.ex a.1 b.1 ++ axisRoute 2 sh.ey a.2.1 b.2.1 ++ axisRoute 4 sh.ez a.2.2 b.2.2

/-- The ports between two chips of the rack in one axis order, on full rings (R164). -/
def torusRoute (order : List Nat) (a b : ChipId) : List PortId :=
  order.flatMap fun ax =>
    if ax = 0 then axisRoute 0 4 (chipX a) (chipX b)
    else if ax = 1 then axisRoute 2 4 (chipY a) (chipY b)
    else axisRoute 4 4 (chipZ a) (chipZ b)

/-- The links a route passes from a chip. -/
def routeLinks (n : ChipId) : List PortId → List LinkId
  | [] => []
  | p :: ps => { chip := n, port := p } :: routeLinks (neighbour n p) ps

/-- The six axis orders of a priority-0 torus path, in their order (R164). -/
def axisOrders : List (List Nat) := [[0, 1, 2], [0, 2, 1], [1, 0, 2], [1, 2, 0], [2, 0, 1], [2, 1, 0]]

/-! ### Slots (R145, R151, R152, R153) -/

/-- The frame number at an oscillator instant: frames of 2,048 ns (R145). -/
def frameAt (osc : Nat) : BitVec 32 := BitVec.ofNat 32 (osc / 2048)

/-- The slot at an oscillator instant: 8 ns each (R145). -/
def slotAt (osc : Nat) : Nat := osc % 2048 / 8

/-- The slot in which a route of h links lands after a send in slot s (R151), counted from frame start. -/
def landingSlot (s h : Nat) : Nat := s + 14 * h - 1

/-- A management and priority-0 slot: offsets 0 and 32 of each lane (R153). -/
def mgmtSlot (s : Nat) : Bool := s % 64 = 0 || s % 64 = 32

/-- Direct vault offsets of an uplink (R153). -/
def vaultDirect (u : Nat) : List Nat := if u = 0 then [3, 15, 27, 39, 51] else [9, 21, 33, 45, 57]

/-- Direct host offsets of an uplink (R153). -/
def hostDirect (u : Nat) : List Nat := if u = 0 then [6, 38] else [22, 54]

/-- The reserved offsets of a port's send direction (R153). -/
def reservedOffsets (p : PortId) : List Nat :=
  match p.val with
  | 4 => [0, 32, 1, 7, 17, 23, 29, 35, 41, 47, 53, 59, 4, 20, 36, 52]
  | 5 => [0, 32, 1, 7, 13, 19, 25, 31, 37, 43, 53, 59, 8, 24, 40, 56]
  | 6 | 7 => [0, 32, 3, 15, 27, 39, 51, 9, 21, 33, 45, 57, 6, 38, 22, 54]
  | _ => [0, 32]

/-- Is the slot reserved on the port (R153)? -/
def reservedSlot (p : PortId) (s : Nat) : Bool := (reservedOffsets p).contains (s % 64)

/-- What a reserved uplink slot is for, and whose (R153): the quadrant lane, and whether it is a relay slot. -/
def uplinkSlotUse (u s : Nat) : Option (Bool × Bool × Fin 4) :=
  let o := s % 64
  let k : Fin 4 := ⟨s / 64 % 4, by omega⟩
  if (vaultDirect u).contains o then some (true, false, k)
  else if (vaultDirect (1 - u)).contains o then some (true, true, k)
  else if (hostDirect u).contains o then some (false, false, k)
  else if (hostDirect (1 - u)).contains o then some (false, true, k)
  else none

/-- The z slot paired with an uplink relay slot (R153): inbound u + 14 on the up direction, outbound u - 14 on the down. -/
def pairedZSlot (inbound : Bool) (u : Nat) : Nat := if inbound then (u + 14) % 256 else (u + 242) % 256

end Sys2Proof.Machine
end

