-- ==== Sys2Proof/Machine/SettingsTable.lean ====
section
/-! DEFINITION. The settings of the machine (R331, R368): scope, class, writer, length, range, default and turn class of
each setting ID, from the settings tables of the chapters. -/

namespace Sys2Proof.Machine

inductive SetScope where
  | rack | keyway | part
deriving DecidableEq, Repr

/-- Persistence class (R332). -/
inductive SetClass where
  | factory | stored | running | session
deriving DecidableEq, Repr

/-- Who writes a setting (R45). -/
inductive Writer where
  | operator | keyway | owner | none
deriving DecidableEq, Repr

/-- Turn classes of R352, narrowest first. -/
inductive TurnClass where
  | keyway | immediate | quiesce | drain | rack
deriving DecidableEq, Repr

def SetClass.code : SetClass → Nat
  | .factory => 0 | .stored => 1 | .running => 2 | .session => 3

def TurnClass.rank : TurnClass → Nat
  | .keyway => 0 | .immediate => 1 | .quiesce => 2 | .drain => 3 | .rack => 4

structure SetInfo where
  scope : SetScope
  cls : SetClass
  writer : Writer
  len : Nat
  /-- range check of a value of the right length -/
  ok : List Byte → Bool
  default : List Byte
  turn : TurnClass

/-- A number between lo and hi. -/
def inRange (lo hi : Nat) (v : List Byte) : Bool := lo ≤ ofBe v && ofBe v ≤ hi

def isPow2 (n : Nat) : Bool := n ≠ 0 && Nat.land n (n - 1) = 0

/-- A single-number setting of `len` bytes (R368). -/
def numSet (scope : SetScope) (cls : SetClass) (w : Writer) (len lo hi dflt : Nat) (turn : TurnClass) : SetInfo :=
  { scope := scope, cls := cls, writer := w, len := len, ok := inRange lo hi, default := be len dflt, turn := turn }

/-- Entries of KW_SOURCES and OP_SOURCES (R368): count, then entries of address 16 and prefix length 1. -/
def prefixesOk (maxCount : Nat) (v : List Byte) : Bool :=
  fieldBe v 0 1 ≤ maxCount && (List.range (fieldBe v 0 1)).all fun i => fieldBe v (1 + 17 * i + 16) 1 ≤ 128

/-- PART_SHAPE as written (R40): CLASS 0 to 3, extents in the range of the class; bytes 4 to 8 are ignored. -/
def shapeBytesOk (v : List Byte) : Bool :=
  let c := fieldBe v 0 1
  let e := fun i => fieldBe v i 1
  if c = 0 then true
  else if c = 1 ∨ c = 2 then e 1 = 1 && e 2 = 1 && e 3 = 1
  else if c = 3 then (1 ≤ e 1 && e 1 ≤ 4) && (1 ≤ e 2 && e 2 ≤ 4) && (1 ≤ e 3 && e 3 ≤ 4)
  else false

/-- RACK_MODEL "KT64-A" padded with 0x20 (R348). -/
def rackModel : List Byte :=
  [0x4B#8, 0x54#8, 0x36#8, 0x34#8, 0x2D#8, 0x41#8] ++ List.replicate 10 0x20#8

/-- The baud rates of CON_BAUD (R300). -/
def bauds : List Nat := [9600, 19200, 38400, 57600, 115200, 230400, 460800, 921600]

/-- The settings with one ID each. -/
def setInfoSingle (id : Nat) : Option SetInfo :=
  match id with
  | 0x0101 => some { scope := .keyway, cls := .stored, writer := .operator, len := 2, default := [0, 0], turn := .keyway,
                     ok := fun v => fieldBe v 1 1 ≤ 2 && (fieldBe v 1 1 = 0 || fieldBe v 0 1 ≤ 63) }
  | 0x0102 => some (numSet .keyway .stored .operator 1 0 255 255 .keyway)
  | 0x0103 => some { scope := .keyway, cls := .stored, writer := .operator, len := 69, default := List.replicate 69 0,
                     turn := .keyway, ok := prefixesOk 4 }
  | 0x0104 => some { scope := .rack, cls := .stored, writer := .operator, len := 2, default := be 2 7431, turn := .rack,
                     ok := fun v => inRange 1024 65535 v && ofBe v ≠ 4791 && ofBe v ≠ 7432 }
  | 0x0105 => some { scope := .keyway, cls := .stored, writer := .keyway, len := 4, turn := .keyway, ok := fun _ => true,
                     default := be 4 ((Config.cuts.headD 0).toNat) }
  | 0x0106 => some (numSet .keyway .stored .operator 2 1 3600 60 .keyway)
  | 0x0107 => some (numSet .keyway .session .keyway 2 1 65535 400 .keyway)
  | 0x0108 => some (numSet .keyway .session .keyway 1 0 3 0 .keyway)
  | 0x0201 => some { scope := .part, cls := .stored, writer := .operator, len := 9, default := List.replicate 9 0,
                     turn := .rack, ok := shapeBytesOk }
  | 0x0202 => some (numSet .part .stored .owner 1 0 1 0 .immediate)
  | 0x0203 => some (numSet .part .stored .owner 1 0 1 1 .drain)
  | 0x0204 => some (numSet .part .stored .owner 2 8 256 48 .drain)
  | 0x0205 => some { scope := .part, cls := .stored, writer := .owner, len := 4, default := be 4 4096, turn := .quiesce,
                     ok := fun v => inRange 1024 65536 v && ofBe v % 1024 = 0 }
  | 0x0206 => some (numSet .part .stored .owner 1 1 16 4 .quiesce)
  | 0x0207 => some (numSet .part .running .owner 1 4 6 6 .immediate)
  | 0x0208 => some (numSet .part .running .owner 1 0 1 1 .immediate)
  | 0x0209 => some (numSet .part .running .owner 2 10 1000 50 .immediate)
  | 0x020A => some (numSet .part .running .owner 4 0 0xFFFFFFFF 0 .immediate)
  | 0x0301 => some (numSet .rack .stored .operator 4 60 86400 600 .rack)
  | 0x0302 => some (numSet .rack .stored .operator 1 1 60 2 .rack)
  | 0x0303 => some (numSet .rack .stored .operator 1 10 90 50 .rack)
  | 0x0304 => some (numSet .rack .stored .operator 1 1 1 0 .rack)
  | 0x0401 => some (numSet .part .stored .operator 1 0 16 8 .drain)
  | 0x0402 => some (numSet .rack .stored .operator 1 1 60 10 .rack)
  | 0x0501 => some (numSet .part .stored .operator 2 100 50000 2000 .immediate)
  | 0x0502 => some (numSet .part .stored .operator 1 1 31 4 .immediate)
  | 0x0503 => some (numSet .part .stored .operator 4 65536 262144 65536 .immediate)
  | 0x0504 => some (numSet .part .stored .operator 2 0 10000 200 .immediate)
  | 0x0505 => some (numSet .part .stored .operator 1 1 64 8 .drain)
  | 0x0506 => some { scope := .part, cls := .stored, writer := .operator, len := 4, default := be 4 4096, turn := .drain,
                     ok := fun v => inRange 512 65536 v && isPow2 (ofBe v) }
  | 0x0507 => some (numSet .part .stored .operator 2 1 4096 1024 .immediate)
  | 0x0601 => some (numSet .rack .stored .operator 1 2 80 20 .rack)
  | 0x0602 => some (numSet .rack .stored .operator 1 40 82 82 .rack)
  | 0x0603 => some (numSet .rack .stored .operator 2 5 300 30 .rack)
  | 0x0604 => some { scope := .rack, cls := .stored, writer := .operator, len := 4, default := be 2 180 ++ be 2 120,
                     turn := .rack, ok := fun v => fieldBe v 0 2 ≤ 1439 && (30 ≤ fieldBe v 2 2 && fieldBe v 2 2 ≤ 720) }
  | 0x0605 => some { scope := .part, cls := .stored, writer := .operator, len := 2, default := [0, 0], turn := .immediate,
                     ok := fun v => ofBe v = 0 || inRange 150 3600 v }
  | 0x0701 => some (numSet .rack .stored .operator 1 80 95 95 .rack)
  | 0x0702 => some (numSet .rack .stored .operator 1 75 88 88 .rack)
  | 0x0703 => some (numSet .rack .stored .operator 1 3 15 5 .rack)
  | 0x07F0 => some (numSet .rack .factory .none 1 105 105 105 .rack)
  | 0x07F1 => some (numSet .rack .factory .none 1 95 95 95 .rack)
  | 0x0801 => some (numSet .rack .stored .operator 1 0 2 0 .rack)
  | 0x0802 => some (numSet .rack .stored .operator 1 0 127 0 .rack)
  | 0x0803 => some (numSet .rack .stored .operator 1 0 2 0 .rack)
  | 0x0804 => some (numSet .rack .stored .operator 1 0 1 1 .rack)
  | 0x0901 => some (numSet .part .stored .owner 2 1 10000 100 .immediate)
  | 0x0902 => some (numSet .rack .stored .operator 2 10 60000 1000 .rack)
  | 0x0903 => some (numSet .rack .stored .operator 2 10 1000 100 .rack)
  | 0x0A01 => some { scope := .rack, cls := .stored, writer := .operator, len := 4, default := be 4 115200, turn := .rack,
                     ok := fun v => bauds.contains (ofBe v) }
  | 0x0A02 => some (numSet .rack .stored .operator 1 0 3 1 .rack)
  | 0x0A10 => some { scope := .rack, cls := .stored, writer := .operator, len := 137, default := List.replicate 137 0,
                     turn := .rack, ok := prefixesOk 8 }
  | 0x0A11 => some { scope := .rack, cls := .stored, writer := .operator, len := 18, default := List.replicate 18 0,
                     turn := .rack, ok := fun _ => true }
  | 0x0A12 => some (numSet .rack .stored .operator 1 0 2 0 .rack)
  | 0x0A13 => some (numSet .rack .stored .operator 1 0 3 1 .rack)
  | 0x0A20 => some (numSet .rack .stored .operator 1 0 1 0 .rack)
  | 0x0AF0 => some { scope := .rack, cls := .factory, writer := .none, len := 16, default := Config.rackSerial,
                     turn := .rack, ok := fun _ => true }
  | 0x0AF1 => some { scope := .rack, cls := .factory, writer := .none, len := 16, default := rackModel, turn := .rack,
                     ok := fun _ => true }
  | _ => none

/-- KR_QUOTA_i: quota in GiB 4 bytes, copies 1 byte; private keys 16 GiB, team keys 0, 1 copy (R206). -/
def quotaInfo (i : Nat) : SetInfo :=
  { scope := .rack, cls := .stored, writer := .operator, len := 5, turn := .rack,
    default := be 4 (if i < 64 then 16 else 0) ++ [1],
    ok := fun v => fieldBe v 0 4 ≤ 12160 && (fieldBe v 4 1 = 1 || fieldBe v 4 1 = 2) }

/-- KW_SHARE_SLOT_n (R47, R369). -/
def shareSlotInfo : SetInfo :=
  { scope := .keyway, cls := .stored, writer := .operator, len := 5, turn := .keyway, default := List.replicate 5 0,
    ok := fun v => fieldBe v 4 1 ≤ 2 }

/-- Scope, class, writer, length, range, default and turn class of a setting; none = the ID is unassigned. -/
def setInfo (id : BitVec 16) : Option SetInfo :=
  let n := id.toNat
  if 0x0110 ≤ n ∧ n ≤ 0x011F then some shareSlotInfo
  else if 0x0480 ≤ n ∧ n ≤ 0x04FF then some (quotaInfo (n - 0x0480))
  else setInfoSingle n

/-- The default of a setting value (R343: what a lost value returns to). -/
def setDefault (id : BitVec 16) : List Byte :=
  match setInfo id with
  | some i => i.default
  | none => []

/-- Every assigned setting ID with one ID each, for SET_STORE 0x0000 (R336). -/
def singleIds : List Nat :=
  [0x0101, 0x0102, 0x0103, 0x0104, 0x0105, 0x0106, 0x0107, 0x0108, 0x0201, 0x0202, 0x0203, 0x0204, 0x0205, 0x0206, 0x0207,
   0x0208, 0x0209, 0x020A, 0x0301, 0x0302, 0x0303, 0x0304, 0x0401, 0x0402, 0x0501, 0x0502, 0x0503, 0x0504, 0x0505, 0x0506,
   0x0507, 0x0601, 0x0602, 0x0603, 0x0604, 0x0605, 0x0701, 0x0702, 0x0703, 0x0801, 0x0802, 0x0803, 0x0804, 0x0901, 0x0902,
   0x0903, 0x0A01, 0x0A02, 0x0A10, 0x0A11, 0x0A12, 0x0A13, 0x0A20]

end Sys2Proof.Machine
end

