-- ==== Sys2Proof/Machine/Ops.lean ====
section
/-! DEFINITION. The named operations over memory, tables and registers that every meaning uses: byte memories in canonical
form, the entries of each unit, time, settings, epochs, events, logs and replies. -/

namespace Sys2Proof.Machine

/-! ### Byte memories (log 8)

A memory lists (address, byte) pairs, addresses strictly rising, no byte zero; an unlisted address reads 0. -/

abbrev Memory := List Host.Cell

/-- The canonical form of a memory. -/
abbrev Memory.wf (m : Memory) : Prop := m.Pairwise (fun a b => a.1 < b.1) ∧ ∀ c ∈ m, c.2 ≠ 0

/-- The byte at an address. -/
def Memory.read (m : Memory) (a : Nat) : Byte :=
  match m.find? (fun c => c.1 = a) with
  | some c => c.2
  | none => 0

/-- n bytes from an address on. -/
def Memory.bytes (m : Memory) (a n : Nat) : List Byte := (List.range n).map fun i => m.read (a + i)

/-- The cells of the range a to a + n - 1, counted from its start. -/
def Memory.slice (m : Memory) (a n : Nat) : Memory :=
  (m.filter fun c => decide (a ≤ c.1) && decide (c.1 < a + n)).map fun c => (c.1 - a, c.2)

/-- One byte stored; a zero leaves no entry. -/
def Memory.put : Memory → Nat → Byte → Memory
  | [], a, b => if b = 0 then [] else [(a, b)]
  | c :: m, a, b =>
    if a < c.1 then (if b = 0 then c :: m else (a, b) :: c :: m)
    else if a = c.1 then (if b = 0 then m else (a, b) :: m)
    else c :: Memory.put m a b

/-- Any list of cells in canonical form, an earlier entry of an address in force. -/
def Memory.canon (l : List Host.Cell) : Memory := l.foldr (fun c m => m.put c.1 c.2) []

/-- The memory with the range a to a + n - 1 holding the first n bytes of `src`. -/
def Memory.paste (m : Memory) (a n : Nat) (src : Memory) : Memory :=
  m.filter (fun c => decide (c.1 < a)) ++
    (((Memory.canon src).filter fun c => decide (c.1 < n)).map fun c => (c.1 + a, c.2)) ++
    m.filter (fun c => decide (a + n ≤ c.1))

/-- The range zeroed. -/
def Memory.clear (m : Memory) (a n : Nat) : Memory := m.paste a n []

/-- The memory that holds the given bytes from address i on, by their index. -/
def Memory.ofBytesFrom : Nat → List Byte → Memory
  | _, [] => []
  | i, b :: bs => if b = 0 then ofBytesFrom (i + 1) bs else (i, b) :: ofBytesFrom (i + 1) bs

def Memory.ofBytes (bs : List Byte) : Memory := Memory.ofBytesFrom 0 bs

/-- Bytes written at an address. -/
def Memory.write (m : Memory) (a : Nat) (bs : List Byte) : Memory := m.paste a bs.length (Memory.ofBytes bs)

/-! ### The thermal allowance of a tray (R274) -/

/-- The factor in force: the least of the three. -/
def Tray.factor (x : Tray) : Nat := min x.flowF.inForce (min x.waterF.inForce x.fanF.inForce)

/-- A = 4.5 kW times the factor, in W. -/
def Tray.allowanceW (x : Tray) : Nat := 4500 * x.factor / 1000

/-! ### The power meter (R53) -/

/-- AC input of the rack in W: the loads without the rise held back, and the ballast (R264, R265). -/
def Power.inputW (p : Power) : Nat := p.drawW - p.heldRiseW + p.ballastW

/-- The meter at an instant, with an input power since it was last read: the average of a second stands through the next (R53). -/
def Meter.advance (m : Meter) (w now : Nat) : Meter :=
  let sec := now / 1000000000
  if sec = m.sec then { m with sum := m.sum + w * (now - m.upTo), upTo := max m.upTo now }
  else if sec = m.sec + 1 then
    { sec := sec, sum := w * (now - sec * 1000000000), upTo := now,
      watts := (m.sum + w * (sec * 1000000000 - m.upTo)) / 1000000000 }
  else { sec := sec, sum := w * (now - sec * 1000000000), upTo := now, watts := w }

/-! ### Entries of State -/

namespace State

def emit (s : State) (o : Out) : State := { s with out := s.out ++ [o] }

def part (s : State) (p : PartId) : Option Part := Tab.get s.parts none p
def setPart (s : State) (p : PartId) (v : Option Part) : State := { s with parts := Tab.set s.parts p v }
def modPart (s : State) (p : PartId) (f : Part → Part) : State :=
  match s.part p with
  | some q => s.setPart p (some (f q))
  | none => s

def kw (s : State) (k : KwId) : Keyway := Tab.get s.kws Keyway.init k
def endp (s : State) : Ep → Keyway
  | .kw k => s.kw k
  | .op => s.opr
def modEp (s : State) (e : Ep) (f : Keyway → Keyway) : State :=
  match e with
  | .kw k => { s with kws := Tab.set s.kws k (f (s.kw k)) }
  | .op => { s with opr := f s.opr }
def modKw (s : State) (k : KwId) (f : Keyway → Keyway) : State := s.modEp (.kw k) f

def chip (s : State) (n : ChipId) : Chip := Tab.get s.chips Chip.init n
def modChip (s : State) (n : ChipId) (f : Chip → Chip) : State := { s with chips := Tab.set s.chips n (f (s.chip n)) }
def quad (s : State) (q : QuadId) : Quad := Tab.get s.quads Quad.init q
def modQuad (s : State) (q : QuadId) (f : Quad → Quad) : State := { s with quads := Tab.set s.quads q (f (s.quad q)) }
def link (s : State) (l : LinkId) : Link := Tab.get s.links Link.init l
def modLink (s : State) (l : LinkId) (f : Link → Link) : State := { s with links := Tab.set s.links l (f (s.link l)) }
def port (s : State) (p : HostPortId) : HostPort := Tab.get s.ports HostPort.init p
def modPort (s : State) (p : HostPortId) (f : HostPort → HostPort) : State :=
  { s with ports := Tab.set s.ports p (f (s.port p)) }
def cell (s : State) (c : CellId) : CellState := Tab.get s.cells CellState.init c
def modCell (s : State) (c : CellId) (f : CellState → CellState) : State :=
  { s with cells := Tab.set s.cells c (f (s.cell c)) }
def swt (s : State) (i : SwId) : SwTray := Tab.get s.sw SwTray.init i
def modSw (s : State) (i : SwId) (f : SwTray → SwTray) : State := { s with sw := Tab.set s.sw i (f (s.swt i)) }
def channel (s : State) (c : ChanId) : Channel := Tab.get s.chan Channel.init c
def modChan (s : State) (c : ChanId) (f : Channel → Channel) : State :=
  { s with chan := Tab.set s.chan c (f (s.channel c)) }
def shelfOf (s : State) (i : ShelfId) : Shelf := Tab.get s.shelf Shelf.init i
def modShelf (s : State) (i : ShelfId) (f : Shelf → Shelf) : State :=
  { s with shelf := Tab.set s.shelf i (f (s.shelfOf i)) }
def battery (s : State) (i : Fin 16) : Battery := Tab.get s.batt Battery.init i
def modBatt (s : State) (i : Fin 16) (f : Battery → Battery) : State :=
  { s with batt := Tab.set s.batt i (f (s.battery i)) }
def tray (s : State) (t : TrayId) : Tray := Tab.get s.trays Tray.init t
def modTray (s : State) (t : TrayId) (f : Tray → Tray) : State := { s with trays := Tab.set s.trays t (f (s.tray t)) }
def modRmu (s : State) (f : Rmu → Rmu) : State := { s with rmu := f s.rmu }
def shareKey (s : State) (i : Fin 128) : ShareKey := Tab.get s.kr.keys (ShareKey.init i) i

/-! ### Time (R294, R296; log 11) -/

/-- The rack time in ns. -/
def rackNs (s : State) : Nat := s.clk.rackQ / 2 ^ 40

/-- The clock at oscillator instant t: rack time advances by the time passed, at 1 + RATE x 2^-40, and a slew in progress
corrects its offset by what RATE adds (R296, R298). -/
def tickClock (c : Clock) (t : Nat) : Clock :=
  let dt : Int := ((max c.osc t - c.osc : Nat) : Int)
  { c with osc := max c.osc t, rackQ := ((c.rackQ : Int) + dt * (2 ^ 40 + c.rate)).toNat,
           theta := c.theta.map fun q => q - dt * c.rate }

/-- Time reaches the instant of a command. -/
def tick (s : State) (t : Nat) : State :=
  { s with clk := tickClock s.clk t, meter := s.meter.advance s.pw.inputW (tickClock s.clk t).osc }

def osc (s : State) : Nat := s.clk.osc

/-- A fresh number for a free value (log 4). -/
def freshNat (s : State) : Nat := s.fresh
def useFresh (s : State) (k : Nat) : State := { s with fresh := s.fresh + k }

/-- A number the machine hands out from lo to hi - 1 (a QPN, an R_Key, a handle, a group, a problem): the manual leaves it
open, so the search for one not in use starts at a free value (log 5). -/
def pickId (s : State) (lo hi : Nat) (used : List Nat) : Nat :=
  let start := Config.freeReading s.fresh
  (((List.range (used.length + 1)).map fun i => lo + (start + i) % (hi - lo)).find? fun n => !used.contains n).getD lo

end State

/-! ### Partitions and their units -/

/-- All partition numbers that hold a partition, ascending. -/
def State.partIds (s : State) : List PartId := (List.finRange 64).filter fun p => (s.part p).isSome

/-- The partition that holds a quadrant, if any (R39). -/
def State.quadOwner (s : State) (q : QuadId) : Option PartId :=
  s.partIds.find? fun p =>
    match s.part p with
    | some v => v.shape.quads.contains q
    | none => false

/-- A quadrant is SHUT with its partition (R95); one of no partition is OPEN. -/
def State.quadShut (s : State) (q : QuadId) : Bool :=
  match (s.quadOwner q).bind s.part with
  | some v => v.power = 2
  | none => false

/-- The state a chip reports: the most awake of its quadrants (R95). -/
def State.chipState (s : State) (n : ChipId) : Nat :=
  (((chipQuads n).map fun q => ((s.quadOwner q).bind s.part).elim 0 Part.power)).foldl min 2

/-- NET, INGS and the Tumbler of a chip run while any quadrant of it is OPEN or AJAR (R95). -/
def State.unitsRun (s : State) (n : ChipId) : Bool := decide (s.chipState n < 2)

/-- Partitions that hold a quadrant of a chip. -/
def State.partsOn (s : State) (n : ChipId) : List PartId :=
  s.partIds.filter fun p =>
    match s.part p with
    | some v => v.shape.chips.contains n
    | none => false

/-- The first chip of a partition: the ingest chip of R28 is held in its record. -/
def Part.chips (v : Part) : List ChipId := v.shape.chips

def Part.nQuads (v : Part) : Nat := v.shape.quads.length

/-- A locked-out chip, itself or with its tray (R322). -/
def State.chipLocked (s : State) (n : ChipId) : Bool := s.lockedChips.contains n || s.lockedTrays.contains (trayOf n)

/-- A chip in service: up, and not locked out. -/
def State.chipUp (s : State) (n : ChipId) : Bool := (s.chip n).power = .up && !s.chipLocked n

/-! ### Settings in force (R331, R334) -/

/-- The PART_SHAPE value of a placement (R40). -/
def Shape.bytes (sh : Shape) : List Byte :=
  [BitVec.ofNat 8 sh.cls, BitVec.ofNat 8 sh.ex, BitVec.ofNat 8 sh.ey, BitVec.ofNat 8 sh.ez,
   BitVec.ofNat 8 (chipX sh.chip), BitVec.ofNat 8 (chipY sh.chip), BitVec.ofNat 8 (chipZ sh.chip),
   BitVec.ofNat 8 sh.chip.val, if sh.cls = 3 then 0x0F#8 else sh.kmask.setWidth 8]

/-- Share-key reference: index in the low byte, generation above (R189). -/
def shareRef (i : Fin 128) (gen : Nat) : BitVec 32 := BitVec.ofNat 32 (i.val + 256 * gen)

/-- The live share key a reference names: its index, in its current generation (R369). -/
def State.liveRef (s : State) (r : BitVec 32) : Option (Fin 128) :=
  if h : r.toNat % 256 < 128 then
    let i : Fin 128 := ⟨r.toNat % 256, h⟩
    let k := s.shareKey i
    if k.live ∧ shareRef i k.gen = r then some i else none
  else none

/-- The number n of KW_SHARE_SLOT_n, for those setting IDs. -/
def shareSlotOf (id : BitVec 16) : Option Nat :=
  if 0x0110 ≤ id.toNat ∧ id.toNat ≤ 0x011F then some (id.toNat - 0x0110) else none

/-- The running value of a setting (R334). PART_SHAPE is the placement in force (R40); slot 0 is the keyway's private
key, and a slot whose key is dead reads empty (R369). -/
def State.setVal (s : State) (key : SetKey) : List Byte :=
  let stored := Tab.get s.cfg.running (setDefault key.1) key
  match key.2 with
  | .part p =>
    if key.1 = 0x0201#16 then
      match s.part p with
      | some v => v.shape.bytes
      | none => List.replicate 9 0
    else stored
  | .kw k =>
    match shareSlotOf key.1 with
    | some 0 =>
      let i : Fin 128 := ⟨k.val, by omega⟩
      be 4 (shareRef i (s.shareKey i).gen).toNat ++ [2]
    | some _ =>
      if (s.liveRef (BitVec.ofNat 32 (fieldBe stored 0 4))).isSome then stored else List.replicate 5 0
    | none => stored
  | .rack => stored

def State.setNum (s : State) (id : BitVec 16) (ix : ScopeIx) : Nat := ofBe (s.setVal (id, ix))

/-- A rack-scope number. -/
def State.rackSet (s : State) (id : BitVec 16) : Nat := s.setNum id .rack

/-- A partition-scope number. -/
def State.partSet (s : State) (p : PartId) (id : BitVec 16) : Nat := s.setNum id (.part p)

/-- The length of a reporting period in ns (R376). -/
def State.periodNs (s : State) (p : PartId) : Nat := s.partSet p 0x0209#16 * 1000000

def State.writeRun (s : State) (key : SetKey) (v : List Byte) : State :=
  { s with cfg := { s.cfg with running := Tab.set s.cfg.running key v } }

/-- A value returned to its default. -/
def State.dropRun (s : State) (f : SetKey → Bool) : State :=
  { s with cfg := { s.cfg with running := s.cfg.running.filter fun e => !f e.1 } }

/-! ### Bindings (R44) -/

/-- The partition number and the role a keyway is bound with: 0 NONE, 1 OWNER, 2 USER. -/
def State.binding (s : State) (k : KwId) : Option PartId × Nat :=
  let v := s.setVal (0x0101#16, .kw k)
  let role := fieldBe v 1 1
  if h : fieldBe v 0 1 < 64 ∧ role ≠ 0 then (some ⟨fieldBe v 0 1, h.1⟩, role) else (none, 0)

/-- The existing partition a keyway is bound to (R44). -/
def State.kwPart (s : State) (k : KwId) : Option PartId :=
  match (s.binding k).1 with
  | some p => if (s.part p).isSome then some p else none
  | none => none

/-- The role in force: NONE while the partition does not exist (R44). -/
def State.kwRole (s : State) (k : KwId) : Nat := if (s.kwPart k).isSome then (s.binding k).2 else 0

/-- The keyways bound to a partition number. -/
def State.boundKws (s : State) (p : PartId) : List KwId :=
  (List.finRange 64).filter fun k => (s.binding k).1 = some p

/-- A keyway is open while it has a session. -/
def State.kwOpen (s : State) (k : KwId) : Bool := !(s.kw k).sessions.isEmpty

/-! ### Epochs (R349) -/

/-- The next epoch number: modulo 2^32, skipping 0. -/
def nextEpoch (e : BitVec 32) : BitVec 32 := if e + 1 = 0 then 1 else e + 1

/-- The epoch in force for a keyway (R67, R349). -/
def State.kwEpoch (s : State) (k : KwId) : BitVec 32 :=
  match s.kwPart k with
  | some p =>
    match s.part p with
    | some v => v.epoch
    | none => s.rackEpoch
  | none => s.rackEpoch

/-- The epoch in force for the sender of a packet: on the operator channel that of the keyway named (R349). -/
def State.hdrEpoch (s : State) (h : Hdr) : BitVec 32 :=
  if hk : h.keyway.toNat < 64 then s.kwEpoch ⟨h.keyway.toNat, hk⟩ else s.rackEpoch

def State.epEpoch (s : State) : Ep → BitVec 32
  | .kw k => s.kwEpoch k
  | .op => s.rackEpoch

/-- A partition's epoch advances from the highest number issued (R349). -/
def State.advanceEpoch (s : State) (p : PartId) : State :=
  s.modPart p fun v => { v with epoch := nextEpoch v.epochHigh, epochHigh := nextEpoch v.epochHigh }

def State.advanceRackEpoch (s : State) : State :=
  { s with rackEpoch := nextEpoch s.rackEpochHigh, rackEpochHigh := nextEpoch s.rackEpochHigh }

/-! ### Packets out (R47, R56, R67) -/

/-- The KEYWAY field of an owner's packets. -/
def epKeyway : Ep → Nat
  | .kw k => k.val
  | .op => 255

/-- A reply to a packet, on the port it arrived on (R47), to its source. -/
def State.reply (s : State) (h : Hdr) (op status : Nat) (epoch : BitVec 32) (body : List Byte) (retry : Bool := false) :
    State :=
  s.emit (.packet h.via h.src h.udp h.keyway.toNat false retry op h.seq epoch h.session.toNat status s.clk.quality.code
    s.rackNs body)

/-- An event packet to a session's event address, on the port of its latest command (R67); RTIME and QUAL are those of the
sending, the rest as first sent (R56, R68; log 16). The KEYWAY field of an event to an operator session is 0xFF whatever keyway its
command named: a DESIGN CHOICE (log 151). -/
def State.sendEvent (s : State) (e : Ep) (q : Session) (ev : Event) (retry : Bool) : State :=
  s.emit (.packet q.lastVia q.evAddr q.evPort (epKeyway e) true retry ev.code ev.seq ev.epoch q.num 0
    s.clk.quality.code s.rackNs ev.body)

/-- How a session is named from outside its record. -/
def Session.ref (q : Session) : SessRef := { num := q.num, serial := q.serial }

/-- No session: session 0 (R65). -/
def SessRef.none : SessRef := { num := 0, serial := 0 }

/-- The open session that bears a number (R58). -/
def Keyway.bearing? (w : Keyway) (n : Nat) : Option Session := w.sessions.find? fun q => q.num = n

/-- The session named, while it is open. -/
def Keyway.session? (w : Keyway) (n : SessRef) : Option Session := w.sessions.find? fun q => q.ref = n

def Keyway.modSession (w : Keyway) (n : SessRef) (f : Session → Session) : Keyway :=
  { w with sessions := w.sessions.map fun q => if q.ref = n then f q else q }

def State.bearing? (s : State) (e : Ep) (n : Nat) : Option Session := (s.endp e).bearing? n

def State.session? (s : State) (e : Ep) (n : SessRef) : Option Session := (s.endp e).session? n

def State.modSession (s : State) (e : Ep) (n : SessRef) (f : Session → Session) : State :=
  s.modEp e fun w => w.modSession n f

/-! ### Events (R67, R68, R375) -/

/-- The event an owner raises now. -/
def State.eventOf (s : State) (e : Ep) (code session : Nat) (body : List Byte) : Event :=
  { code := code, seq := (s.endp e).evSeq + 1, epoch := s.epEpoch e, session := session, qual := s.clk.quality.code,
    rtime := s.rackNs, body := body }

/-- The event numbered and entered in the history, which holds the last 4,096 (R375). -/
def State.enterEvent (s : State) (e : Ep) (ev : Event) : State :=
  s.modEp e fun w => { w with evSeq := ev.seq, hist := (w.hist ++ [ev]).drop (w.hist.length + 1 - 4096) }

/-- An event queued at a session (R68): at 1,024 unacknowledged, the oldest make room for it and for EVENTS_LOST. -/
def Session.queue (q : Session) (u : Unacked) : Session × Nat :=
  if q.unacked.length < 1024 then ({ q with unacked := q.unacked ++ [u] }, 0)
  else ({ q with unacked := q.unacked.drop (q.unacked.length - 1022) ++ [u] }, q.unacked.length - 1022)

/-- An event sent to one session and, unless it is sent once only (R69), queued for resending. -/
def State.deliver (s : State) (e : Ep) (n : SessRef) (ev : Event) (keep : Bool) : State :=
  match s.session? e n with
  | none => s
  | some q =>
    let s := s.sendEvent e q ev false
    if keep then
      let u : Unacked := { ev := { ev with session := n.num }, sends := 1, lastSend := s.osc }
      let r := q.queue u
      let s := s.modSession e n fun _ => r.1
      if r.2 = 0 then s
      else
        let lost := s.eventOf e Ev.eventsLost n.num (be 4 r.2)
        let s := s.enterEvent e lost
        match s.session? e n with
        | none => s
        | some q =>
          (s.sendEvent e q lost false).modSession e n fun q =>
            { q with unacked := q.unacked ++ [{ ev := lost, sends := 1, lastSend := s.osc }] }
    else s

/-- A session-routed event (R67): numbered whether or not its session is still open, and sent to no other that bears its number. -/
def State.raiseS (s : State) (e : Ep) (n : SessRef) (code : Nat) (body : List Byte) (keep : Bool := true) : State :=
  let ev := s.eventOf e code n.num body
  if e = .op ∧ s.session? e n = none then s else (s.enterEvent e ev).deliver e n ev keep

/-- An owner-wide event (R67): to every session opened with EVENTS_ALL, and to one further session (R339, R354). A keyway's
history holds every event raised for it; the operator's holds those sent to its sessions, so that one sent to none is not
numbered there (R375). -/
def State.raiseAlso (s : State) (e : Ep) (also : Option SessRef) (code : Nat) (body : List Byte) : State :=
  let ev := s.eventOf e code 0 body
  let targets := (s.endp e).sessions.filter fun q => q.eventsAll || also = some q.ref
  if e = .op ∧ targets = [] then s
  else targets.foldl (fun s q => s.deliver e q.ref ev true) (s.enterEvent e ev)

def State.raiseK (s : State) (k : KwId) (code : Nat) (body : List Byte) : State := s.raiseAlso (.kw k) none code body

/-- An event to every keyway bound to a partition. -/
def State.raisePart (s : State) (p : PartId) (code : Nat) (body : List Byte) : State :=
  (s.boundKws p).foldl (fun s k => s.raiseK k code body) s

/-- An event to every open keyway. -/
def State.raiseOpen (s : State) (code : Nat) (body : List Byte) : State :=
  ((List.finRange 64).filter fun k => s.kwOpen k).foldl (fun s k => s.raiseK k code body) s

/-! ### Logs (R88, R287, R288) -/

/-- A field padded or cut to n bytes. -/
def padTo (n : Nat) (bs : List Byte) : List Byte := bs.take n ++ List.replicate (n - bs.length) 0

/-- An action whose record waits for its commit (R288); `fs` the operator session whose own turn it ends. -/
def State.logRec (s : State) (code : Nat) (unit : BitVec 16) (detail : List Byte) (tb ta : Int)
    (readings : List (BitVec 128)) (fs : Option SessRef := none) : State :=
  s.modRmu fun r => { r with logWait := r.logWait ++
    [{ lseq := 0, rtime := s.rackNs, qual := s.clk.quality.code, sev := (Config.severity code).val, code := code,
       unit := unit, rflags := 0, tBefore := tb, tAfter := ta, detail := padTo 32 detail, readings := readings,
       forSession := fs }] }

/-- An action without readings. -/
def State.log (s : State) (code : Nat) (unit : BitVec 16) (detail : List Byte) : State :=
  s.logRec code unit detail 0 0 []

/-- What a detector names in a dump's DETAIL: block, cell column and row, poisoned address, temperature (R326; log 38). -/
def dumpDetail (block col row addr : Nat) (temp : Int) : List Byte :=
  le 2 block ++ le 1 col ++ le 1 row ++ le 6 addr ++ leInt 4 temp

/-- A black-box record taken now, the next of a chip. -/
def State.bbRec (s : State) (n : ChipId) (code src : Nat) (data : List Byte) : BbRec :=
  { rtime := s.rackNs, bseq := ((s.chip n).bseq + 1) % 2 ^ 32, code := code, src := src, sev := (Config.severity code).val,
    data := padTo 48 data }

/-- A black-box record: the ring keeps the newest 4,032 (R88). -/
def State.bbox (s : State) (n : ChipId) (code src : Nat) (data : List Byte) : State :=
  s.modChip n fun c =>
    { c with bseq := (c.bseq + 1) % 2 ^ 32, bb := (c.bb ++ [s.bbRec n code src data]).drop (c.bb.length + 1 - 4032) }

/-! ### The CELL clock (R89, R90) -/

/-- CELL cycles of a chip up to an instant: 6 PLL cycles in a ns, a cycle every 4, 5 or 6 of them. -/
def Chip.cellCycle (c : Chip) (now : Nat) : Nat :=
  c.cycles + (min now c.dividerAt - c.cyclesAt) * 6 / c.dividerWas + (now - max c.dividerAt c.cyclesAt) * 6 / c.divider

/-- The divider in force. -/
def Chip.dividerNow (c : Chip) (now : Nat) : Nat := if now < c.dividerAt then c.dividerWas else c.divider

/-- A divider is asked for: it comes into force at the next boundary of 60 PLL cycles, 10 ns, and replaces a request that has
not taken effect. -/
def Chip.requestDivider (c : Chip) (d now : Nat) : Chip :=
  if now < c.dividerAt then { c with divider := d }
  else if d = c.divider then c
  else { c with divider := d, dividerWas := c.divider, dividerAt := (now / 10 + 1) * 10, cycles := c.cellCycle now, cyclesAt := now }

/-- CELL cycles of a chip so far. -/
def State.cycleOn (s : State) (n : ChipId) : Nat := (s.chip n).cellCycle s.osc

/-! ### Memory of quadrants (R43, R84) -/

/-- The place of a quadrant's offset in `hbm`. -/
def hbmAddr (q : QuadId) (off : Nat) : Nat := q.val * 2 ^ 36 + off

/-- HBM with a range replaced; every poisoned 32-byte word the range covers whole is rewritten and so no longer poisoned
(R84; log 14). -/
def State.hbmPaste (s : State) (a n : Nat) (src : Memory) : State :=
  { s with hbm := Memory.paste s.hbm a n src,
           poison := s.poison.filter fun w => !(decide (a ≤ 32 * w) && decide (32 * w + 32 ≤ a + n)) }

/-- A quadrant's HBM, block buffers, cell SRAM and queues zeroed (R40). -/
def State.zeroQuad (s : State) (q : QuadId) : State :=
  let s := s.hbmPaste (hbmAddr q 0) (2 ^ 36) []
  { s with bufs := s.bufs.filter fun e => quadOf e.1.1 (blockK e.1.2) ≠ q,
           acc := s.acc.filter fun e => quadOf e.1.1 (blockK e.1.2) ≠ q,
           sram := s.sram.filter fun e => cellQuad e.1 ≠ q,
           cells := s.cells.filter fun e => cellQuad e.1 ≠ q,
           mesh := s.mesh.filter fun m => cellQuad m.dst ≠ q,
           waitIn := s.waitIn.filter fun m => cellQuad m.1 ≠ q }

def State.zeroQuads (s : State) (qs : List QuadId) : State := qs.foldl State.zeroQuad s

/-! ### Accepted operations (R61, R63) -/

/-- An operation of a session ACCEPTED now; its number is the `nextOp` before. -/
def State.addOp (s : State) (e : Ep) (session : SessRef) (seq epoch : BitVec 32) (kind : OpKind) : State :=
  { s with ops := s.ops ++ [{ id := s.nextOp, ep := e, session := session, seq := seq, epoch := epoch, kind := kind }],
           nextOp := s.nextOp + 1 }

def State.op? (s : State) (id : Nat) : Option Op := s.ops.find? fun o => o.id = id

def State.endOp (s : State) (id : Nat) : State := { s with ops := s.ops.filter fun o => o.id ≠ id }

def State.modOp (s : State) (id : Nat) (f : Op → Op) : State :=
  { s with ops := s.ops.map fun o => if o.id = id then f o else o }

/-- The operations of a session that have not ended (R63). -/
def State.opsOf (s : State) (e : Ep) (session : SessRef) : List Op := s.ops.filter fun o => o.ep = e && o.session = session

end Sys2Proof.Machine
end

