-- ==== Sys2Proof/Machine/Numerics.lean ====
section
/-! DEFINITION. Number formats, rounding, conversion and dot products (R125 to R136), the reduction tree of R137, and the choice of a
token (R138, R139). -/

namespace Sys2Proof.Machine

/-! ### Values -/

/-- An exact value of a format: (-1)^neg * m * 2^e, an infinity, or a NaN (R125). -/
inductive Num where
  | fin (neg : Bool) (m : Nat) (e : Int)
  | inf (neg : Bool)
  | nan
deriving DecidableEq, Repr

/-- How a format uses its largest exponent field. -/
inductive TopUse where
  /-- infinity and NaNs (FP32, BF16, E5M2) -/
  | ieee
  /-- one NaN pattern, no infinity (E4M3) -/
  | nanOnly
  /-- ordinary values (E2M1) -/
  | values
deriving DecidableEq, Repr

/-- An element format of R125. -/
structure FloatFmt where
  ebits : Nat
  mbits : Nat
  bias : Nat
  top : TopUse
  /-- beyond the largest value: infinity, or the largest value (R130) -/
  saturates : Bool
deriving DecidableEq, Repr

def fp32 : FloatFmt := { ebits := 8, mbits := 23, bias := 127, top := .ieee, saturates := false }
def bf16 : FloatFmt := { ebits := 8, mbits := 7, bias := 127, top := .ieee, saturates := false }
def e4m3 : FloatFmt := { ebits := 4, mbits := 3, bias := 7, top := .nanOnly, saturates := true }
def e5m2 : FloatFmt := { ebits := 5, mbits := 2, bias := 15, top := .ieee, saturates := true }
def e2m1 : FloatFmt := { ebits := 2, mbits := 1, bias := 1, top := .values, saturates := true }

/-- The magnitude bits of the largest finite value. -/
def FloatFmt.maxBits (f : FloatFmt) : Nat :=
  match f.top with
  | .ieee => (2 ^ f.ebits - 1) * 2 ^ f.mbits - 1
  | .nanOnly => 2 ^ (f.ebits + f.mbits) - 2
  | .values => 2 ^ (f.ebits + f.mbits) - 1

/-- The value of a bit pattern (R125). -/
def FloatFmt.decode (f : FloatFmt) (bits : Nat) : Num :=
  let neg := decide (bits / 2 ^ (f.ebits + f.mbits) % 2 = 1)
  let mag := bits % 2 ^ (f.ebits + f.mbits)
  let e := mag / 2 ^ f.mbits
  let m := mag % 2 ^ f.mbits
  if f.maxBits < mag then (if f.top = .ieee ∧ m = 0 then .inf neg else .nan)
  else if e = 0 then .fin neg m (1 - (f.bias : Int) - f.mbits)
  else .fin neg (2 ^ f.mbits + m) ((e : Int) - f.bias - f.mbits)

/-- m / 2^k rounded to nearest, ties to even (R128). -/
def rneShift (m k : Nat) : Nat :=
  let q := m / 2 ^ k
  let r := m % 2 ^ k
  if 2 * r < 2 ^ k then q else if 2 ^ k < 2 * r then q + 1 else if q % 2 = 0 then q else q + 1

/-- The magnitude bits of m * 2^e rounded to a format, exponent unbounded above (R128; subnormals kept). -/
def FloatFmt.roundMag (f : FloatFmt) (m : Nat) (e : Int) : Nat :=
  if m = 0 then 0
  else
    let q : Int := max ((Nat.log2 m : Int) + e) (1 - (f.bias : Int)) - f.mbits
    let n := if q ≤ e then m * 2 ^ (e - q).toNat else rneShift m (q - e).toNat
    (q + f.mbits + f.bias - 1).toNat * 2 ^ f.mbits + n

/-- The bit pattern of a NaN of a format. -/
def FloatFmt.nanBits (f : FloatFmt) : Nat :=
  let w := f.ebits + f.mbits
  let sign := (Config.nanLow.toNat / 2 ^ 22) * 2 ^ w
  match f.top with
  | .ieee => sign + (2 ^ f.ebits - 1) * 2 ^ f.mbits + 2 ^ (f.mbits - 1) + Config.nanLow.toNat % 2 ^ (f.mbits - 1)
  | _ => sign + (2 ^ w - 1)

/-- A value converted to a format (R128, R130): overflow to infinity or to the largest value; an infinity a format lacks is a
NaN. -/
def FloatFmt.encode (f : FloatFmt) (x : Num) : Nat :=
  let w := f.ebits + f.mbits
  let sign := fun (neg : Bool) => if neg then 2 ^ w else 0
  match x with
  | .nan => f.nanBits
  | .inf neg => if f.top = .ieee then sign neg + f.maxBits + 1 else f.nanBits
  | .fin neg m e =>
    let b := f.roundMag m e
    if b ≤ f.maxBits then sign neg + b
    else if f.saturates then sign neg + f.maxBits else sign neg + f.maxBits + 1

/-! ### Exact arithmetic -/

/-- The signed integer of a finite value at exponent e0, no larger than its own. -/
def atExp (neg : Bool) (m : Nat) (e e0 : Int) : Int :=
  let v : Int := (m * 2 ^ (e - e0).toNat : Nat)
  if neg then -v else v

/-- The exact sum. A zero sum is negative only when both terms are. -/
def Num.add (a b : Num) : Num :=
  match a, b with
  | .nan, _ | _, .nan => .nan
  | .inf x, .inf y => if x = y then .inf x else .nan
  | .inf x, _ | _, .inf x => .inf x
  | .fin s m e, .fin t n g =>
    let e0 := min e g
    let v := atExp s m e e0 + atExp t n g e0
    if v = 0 then .fin (s && t) 0 e0 else .fin (decide (v < 0)) v.natAbs e0

/-- The exact product. -/
def Num.mul (a b : Num) : Num :=
  match a, b with
  | .nan, _ | _, .nan => .nan
  | .inf x, .inf y => .inf (x != y)
  | .inf x, .fin s m _ | .fin s m _, .inf x => if m = 0 then .nan else .inf (x != s)
  | .fin s m e, .fin t n g => .fin (s != t) (m * n) (e + g)

/-- An FP32 addition with one rounding (R128, R170). -/
def addFp32 (a b : BitVec 32) : BitVec 32 :=
  BitVec.ofNat 32 (fp32.encode ((fp32.decode a.toNat).add (fp32.decode b.toNat)))

/-! ### MX formats (R126, R127, R129, R130) -/

/-- The element format of an MX format, and its emax. -/
def mxElem : NumFormat → Option (FloatFmt × Int)
  | .mxfp8e4m3 => some (e4m3, 8)
  | .mxfp8e5m2 => some (e5m2, 15)
  | .mxfp4 => some (e2m1, 2)
  | _ => none

/-- An E8M0 scale as a factor; 0xFF makes every element NaN. -/
def scaleNum (s : Byte) : Num := if s = 0xFF#8 then .nan else .fin false 1 ((s.toNat : Int) - 127)

/-- floor(log2) of a finite value that is not zero. -/
def floorLog (m : Nat) (e : Int) : Int := (Nat.log2 m : Int) + e

/-- floor(log2(amax)) of a block, none when every magnitude is zero. -/
def blockLog (xs : List Num) : Option Int :=
  xs.foldl (fun a x =>
    match x with
    | .fin _ m e => if m = 0 then a else some (max (a.getD (floorLog m e)) (floorLog m e))
    | _ => a) none

def isNan (x : Num) : Bool := match x with | .nan => true | _ => false
def isInf (x : Num) : Bool := match x with | .inf _ => true | _ => false

/-- The shared exponent of a block: an infinity is its largest magnitude and clamps it to 127 (R129). -/
def sharedExp (emax : Int) (xs : List Num) : Option Int :=
  if xs.any isInf then some 127 else (blockLog xs).map fun l => max (-127) (min 127 (l - emax))

/-- A block of 32 values in an MX format: scale and element patterns (R129). An MXFP8 block that holds a NaN, and an MXFP4 one
that holds a NaN or an infinity, has scale 0xFF (R130); its element codes, which the manual leaves open, are 0 (DESIGN CHOICE, log
140). -/
def mxBlock (f : FloatFmt) (emax : Int) (xs : List Num) : Byte × List Nat :=
  if xs.any isNan || (f.top = .values && xs.any isInf) then (0xFF#8, xs.map fun _ => 0)
  else
    match sharedExp emax xs with
    | none => (0, xs.map fun _ => 0)
    | some x =>
      (BitVec.ofNat 8 (x + 127).toNat, xs.map fun v =>
        match v with
        | .fin s m e => f.encode (.fin s m (e - x))
        | v => f.encode v)

/-- Element bits of a format, 4 or 8. -/
def elemBits (f : FloatFmt) : Nat := 1 + f.ebits + f.mbits

/-! ### Tensors in memory (R127) -/

/-- The plain formats, one element after another, least significant byte first (R6). -/
def plainFmt : NumFormat → Option FloatFmt
  | .fp32 => some fp32 | .bf16 => some bf16 | .e4m3 => some e4m3 | .e5m2 => some e5m2
  | _ => none

/-- Blocks of 32 along a row of k elements. -/
def rowBlocks (k : Nat) : Nat := (k + 31) / 32

/-- Bytes of a tensor of rows of k elements: an MX tensor's blocks run along the rows, the last of a row padded to 32; its scale array
stands behind its element array (R126, R127, R131; log 31). -/
def tensorBytes (f : NumFormat) (rows k : Nat) : Nat :=
  match mxElem f with
  | some (g, _) => rows * rowBlocks k * (4 * elemBits g + 1)
  | none => rows * k * ((elemBits ((plainFmt f).getD fp32)) / 8)

/-- Element i of a tensor's bytes, counted row by row. -/
def tensorElem (f : NumFormat) (rows k : Nat) (bs : List Byte) (i : Nat) : Num :=
  match mxElem f with
  | some (g, _) =>
    let b := i / k * rowBlocks k + i % k / 32
    let e := 32 * b + i % k % 32
    let raw := if elemBits g = 4 then fieldLe bs (e / 2) 1 / (if e % 2 = 0 then 1 else 16) % 16 else fieldLe bs e 1
    (g.decode raw).mul (scaleNum (BitVec.ofNat 8 (fieldLe bs (rows * rowBlocks k * (4 * elemBits g) + b) 1)))
  | none =>
    let g := (plainFmt f).getD fp32
    let w := elemBits g / 8
    g.decode (fieldLe bs (w * i) w)

/-- The elements of a tensor. -/
def tensorNums (f : NumFormat) (rows k : Nat) (bs : List Byte) : List Num := (List.range (rows * k)).map (tensorElem f rows k bs)

/-- Pairs of 4-bit elements packed, the first in bits 3:0. -/
def packNibbles : List Nat → List Byte
  | a :: b :: rest => BitVec.ofNat 8 (a + 16 * b) :: packNibbles rest
  | [a] => [BitVec.ofNat 8 a]
  | [] => []

/-- Blocks of 32; the number is fuel. -/
def blocksOf32 {α : Type} : Nat → List α → List (List α)
  | 0, _ => []
  | f + 1, xs => if xs.isEmpty then [] else xs.take 32 :: blocksOf32 f (xs.drop 32)

/-- A block padded with zeros to 32 values (R131). -/
def padBlock (xs : List Num) : List Num := xs ++ List.replicate (32 - xs.length) (.fin false 0 0)

/-- Values as one row of a tensor of a format. -/
def tensorOf (f : NumFormat) (xs : List Num) : List Byte :=
  match mxElem f with
  | some (g, emax) =>
    let bl := (blocksOf32 (xs.length / 32 + 1) xs).map fun b => mxBlock g emax (padBlock b)
    let es := bl.flatMap Prod.snd
    (if elemBits g = 4 then packNibbles es else es.map (BitVec.ofNat 8)) ++ bl.map Prod.fst
  | none =>
    let g := (plainFmt f).getD fp32
    xs.flatMap fun x => le (elemBits g / 8) (g.encode x)

/-! ### Dot products (R131, R132, R135, R136) -/

/-- The blocks of an order, shared out to engines: each engine keeps the order, and an engine with no block is left out. -/
def splitOver (order : List Nat) (engine : Nat → Nat) : List (List Nat) :=
  ((List.range order.length).map fun e => order.filter fun b => engine b % order.length = e).filter fun xs => !xs.isEmpty

/-- The 32-term sums of each engine under a sealed cut: the split is the cut's and the order ascends in K (R132, R136). -/
def cutOrder (cut : BitVec 32) (blocks : Nat) : List (List Nat) := splitOver (List.range blocks) (Config.cutEngine cut blocks)

/-- The 32-term sums of each engine for an element in a launch under an open cut: split and order are the launch's (R135). -/
def openOrder (l : Config.OpenLaunch) (i blocks : Nat) : List (List Nat) :=
  let first := ((Config.openOrder l i).filter fun b => decide (b < blocks)).dedup
  splitOver (first ++ (List.range blocks).filter fun b => !first.contains b) (Config.openEngine l i)

/-- The exact sum of the products of up to 32 terms. -/
def dot32 (as bs : List Num) : Num := (List.zipWith Num.mul as bs).foldl Num.add (.fin false 0 0)

/-- The chain of a sum: the terms in their order, one rounding for each addition (R170, R176). -/
def chainSum : List (BitVec 32) → BitVec 32
  | [] => 0
  | x :: xs => xs.foldl (fun acc y => addFp32 acc y) x

/-- One engine's FP32 accumulator: a rounding for each 32-term sum (R131). -/
def engineSum (as bs : List (List Num)) (blocks : List Nat) : BitVec 32 :=
  blocks.foldl (fun acc b =>
    BitVec.ofNat 32 (fp32.encode ((fp32.decode acc.toNat).add (dot32 (as.getD b []) (bs.getD b []))))) 0

/-- A dot product: each engine sums its 32-term blocks, then their FP32 sums are added (R131, R132). -/
def dotFp32 (order : Nat → List (List Nat)) (as bs : List Num) : BitVec 32 :=
  let xs := blocksOf32 (as.length / 32 + 1) as
  let ys := blocksOf32 (bs.length / 32 + 1) bs
  chainSum ((order xs.length).map (engineSum xs ys))

/-- C = A B with A as m rows and B as n rows of k elements, K contiguous in both (log 31); row-major FP32. `order` gives the order of
an element's 32-term sums; only the K blocks from lo up to hi are summed. -/
def matmul (order : Nat → Nat → List (List Nat)) (m k n lo hi : Nat) (a b : List Num) : List (BitVec 32) :=
  let slice := fun (xs : List Num) (r : Nat) => (((xs.drop (r * k)).take k).drop (32 * lo)).take (32 * (hi - lo))
  (List.range (m * n)).map fun i => dotFp32 (order i) (slice a (i / n)) (slice b (i % n))

/-! ### Sums across members (R137, R176, R177) -/

/-- A binary tree over 2^d leaves, left child plus right child, rounded once at each node. -/
def treeSum : Nat → List (BitVec 32) → BitVec 32
  | 0, xs => xs.headD 0
  | d + 1, xs => addFp32 (treeSum d (xs.take (2 ^ d))) (treeSum d (xs.drop (2 ^ d)))

/-- Ring positions of the chain of chunk j on a ring of length l, in the + or the - direction. -/
def chainOrder (l j : Nat) (plus : Bool) : List Nat :=
  (List.range l).map fun i => if plus then (j + 1 + i) % l else (j + l - 1 - i % l) % l

/-! ### The choice of a token (R138, R139) -/

/-- Is an FP32 value larger than another? A NaN is not. -/
def above (a b : BitVec 32) : Bool :=
  match fp32.decode a.toNat, fp32.decode b.toNat with
  | .nan, _ | _, .nan => false
  | .inf x, .inf y => !x && y
  | .inf x, _ => !x
  | _, .inf y => y
  | .fin s m e, .fin t n g => decide (atExp t n g (min e g) < atExp s m e (min e g))

/-- The token of highest logit, the lowest index on a tie (R139). -/
def greedy (xs : List (BitVec 32)) : Nat :=
  (xs.zipIdx.foldl (fun (best : Option (BitVec 32 × Nat)) x =>
    match best with
    | none => some x
    | some b => if above x.1 b.1 then some x else best) none).elim 0 Prod.snd

/-- A token from logits: greedy at temperature 0, else drawn from the tempered weights by the word of the seed and the token's index;
top-p 1 applies no nucleus cut (R138, R139). -/
def sample (cut : BitVec 32) (temperature topP : BitVec 16) (seed : BitVec 64) (index : Nat) (logits : List (BitVec 32)) : Nat :=
  if temperature = 0 then greedy logits
  else
    let w := Config.tempered cut temperature logits
    Config.drawn cut (if topP = 0x3F80#16 then w else Config.nucleus cut topP w) (Config.randomWord seed index)

end Sys2Proof.Machine
end

