-- ==== Sys2Proof/Machine/Operands.lean ====
section
/-! DEFINITION. The operand forms of commands: opcodes and body lengths (R71), tenant addresses and the ward's whole-range
checks (R43, R48, R49), rights by role (R45), and IPv6 prefixes (R46). -/

namespace Sys2Proof.Machine

/-! ### Opcodes and lengths (R71) -/

def opcodeOf : Body → Nat
  | .hello => 0x0001 | .sessionOpen _ => 0x0002 | .sessionClose => 0x0003 | .eventAck _ => 0x0004 | .ping => 0x0005
  | .memRegister .. => 0x0101 | .memDeregister _ => 0x0102 | .qpCreate _ => 0x0103 | .qpDestroy _ => 0x0104
  | .memFill .. => 0x0105 | .memCopy .. => 0x0106 | .xferOut _ => 0x0107 | .xferIn _ => 0x0108
  | .progLoad .. => 0x0201 | .calLoad .. => 0x0202 | .progStart _ => 0x0203 | .progStop _ => 0x0204 | .progStatus => 0x0205
  | .krLookup .. => 0x0301 | .krInsert .. => 0x0302 | .krFetch .. => 0x0303 | .krRelease _ => 0x0304 | .krUsage _ => 0x0305
  | .tokLoad .. => 0x0401 | .reqSubmit _ => 0x0402 | .reqSource _ => 0x0403 | .reqCancel _ => 0x0404
  | .reqStatus _ => 0x0405 | .reqTokens .. => 0x0406 | .deltaForget => 0x0407
  | .cgCreate .. => 0x0501 | .cgDestroy _ => 0x0502 | .cgStatus _ => 0x0503
  | .setGet _ => 0x0601 | .setSet .. => 0x0602 | .setLatch .. => 0x0603 | .setTurn => 0x0604 | .setStore _ => 0x0605
  | .setDiscard => 0x0606
  | .pwrState .. => 0x0701 | .pwrCap _ => 0x0702 | .pwrRead => 0x0703 | .policySet .. => 0x0704
  | .tmbLoad .. => 0x0801 | .tmbRun .. => 0x0802 | .tmbResult .. => 0x0803 | .tmbFree _ => 0x0804
  | .diagCounters .. => 0x0901 | .diagEventsRead .. => 0x0902 | .diagEcho _ => 0x0903 | .diagDumpRead .. => 0x0904
  | .opKeywayReset => 0x0F01 | .opReset .. => 0x0F02 | .opChannelClear .. => 0x0F03 | .opShareKeyCreate _ => 0x0F04
  | .opShareKeyDelete _ => 0x0F05 | .opTimeStep => 0x0F06 | .opLogRead .. => 0x0F07 | .opServiceStatus => 0x0F08
  | .unassigned op => op.toNat

/-- Is the opcode one of the table of R71? -/
def isAssigned : Body → Bool
  | .unassigned _ => false
  | _ => true

/-- The length of a source's text in a packet: a reference is address 6 and length 4. -/
def textWire : SrcText → Nat
  | .text bs => bs.length
  | .ref _ _ => 10

/-- The body length that fits a command (R71). -/
def bodyLength : Body → Nat
  | .hello => 0 | .sessionOpen _ => 36 | .sessionClose => 0 | .eventAck _ => 4 | .ping => 0
  | .memRegister .. => 15 | .memDeregister _ => 4 | .qpCreate _ => 25 | .qpDestroy _ => 3
  | .memFill .. => 22 | .memCopy .. => 20 | .xferOut _ => 29 | .xferIn _ => 29
  | .progLoad .. => 16 | .calLoad .. => 16 | .progStart _ => 2 | .progStop _ => 1 | .progStatus => 0
  | .krLookup .. => 10 | .krInsert .. => 17 | .krFetch .. => 10 | .krRelease _ => 4 | .krUsage _ => 1
  | .tokLoad .. => 18 | .reqSubmit a => 34 + textWire a.text | .reqSource a => 18 + textWire a.text | .reqCancel _ => 8
  | .reqStatus _ => 8 | .reqTokens .. => 14 | .deltaForget => 0
  | .cgCreate m _ => 5 + 2 * m.length | .cgDestroy _ => 2 | .cgStatus _ => 2
  | .setGet _ => 2 | .setSet _ v => 2 + v.length | .setLatch _ v => 2 + v.length | .setTurn => 0 | .setStore _ => 2
  | .setDiscard => 0
  | .pwrState .. => 2 | .pwrCap _ => 4 | .pwrRead => 0 | .policySet .. => 4
  | .tmbLoad .. => 15 | .tmbRun .. => 20 | .tmbResult .. => 8 | .tmbFree _ => 2
  | .diagCounters .. => 4 | .diagEventsRead .. => 6 | .diagEcho bs => bs.length | .diagDumpRead .. => 14
  | .opKeywayReset => 0 | .opReset .. => 3 | .opChannelClear .. => 2 | .opShareKeyCreate _ => 16
  | .opShareKeyDelete _ => 4 | .opTimeStep => 0 | .opLogRead .. => 10 | .opServiceStatus => 0
  | .unassigned _ => 0

/-- The opcodes marked S: also accepted on session 0 (R65, R71). -/
def isSessionless : Body → Bool
  | .hello | .sessionOpen _ | .ping | .diagEcho _ => true
  | _ => false

/-! ### Rights by role (R45, R70) -/

/-- May a role send an opcode on a keyway? Settings are judged further by their writer. -/
def roleMay (role op : Nat) : Bool :=
  match op / 256 with
  | 0 => true
  | 1 => role = 1 || role = 2
  | 2 => role = 1
  | 3 => role = 1 || role = 2
  | 4 => if op = 0x0401 then role = 1 else role = 1 || role = 2
  | 5 => role = 1
  | 6 => true
  | 7 => if op = 0x0703 then role = 1 || role = 2 else role = 1
  | 8 => role = 1 || role = 2
  | 9 => true
  | _ => false

/-- The opcode groups of the operator channel (R70). -/
def operatorMay (op : Nat) : Bool := op / 256 = 0 || op / 256 = 6 || op / 256 = 9 || op / 256 = 15

/-- May a role on a keyway read a setting (R45)? -/
def roleReads (role : Nat) (id : BitVec 16) (i : SetInfo) : Bool :=
  match i.scope with
  | .keyway => true
  | .part => role = 1 || role = 2
  | .rack => (role = 1 || role = 2) && id.toNat / 256 ≠ 0x0A

/-- May a role on a keyway write a setting (R45)? -/
def roleWrites (role : Nat) (i : SetInfo) : Bool :=
  match i.writer with
  | .keyway => true
  | .owner => role = 1
  | .operator | .none => false

/-! ### Tenant addresses (R43) -/

/-- `ADDR[47:36]`, the virtual quadrant. -/
def addrVq (a : Addr) : Nat := a.toNat / 2 ^ 36

/-- `ADDR[35:0]`, the byte offset. -/
def addrOff (a : Addr) : Nat := a.toNat % 2 ^ 36

/-- The tenant limit of a partition's quadrants: 48 GiB less (64 + 20 PART_SPILL_CAP) MiB and KR_HOT_SIZE GiB
(R43, R118, R205). -/
def State.tenantLimit (s : State) (p : PartId) : Nat :=
  48 * 2 ^ 30 - (64 + 20 * s.partSet p 0x0204#16) * 2 ^ 20 - s.partSet p 0x0401#16 * 2 ^ 30

/-- The ward's whole-range check (R48, R49): every byte of the range lies in a quadrant of the partition below the tenant
limit. A range of length 0 is judged at its start (log 15). -/
def State.rangeOk (s : State) (p : PartId) (a : Addr) (len : Nat) : Bool :=
  match s.part p with
  | some v => decide (addrVq a < v.nQuads) && decide (addrOff a + max len 1 ≤ s.tenantLimit p)
  | none => false

/-- The place in `hbm` of a tenant address of a partition. -/
def State.phys (s : State) (p : PartId) (a : Addr) : Nat :=
  match s.part p with
  | some v =>
    match v.shape.quad? (addrVq a) with
    | some q => hbmAddr q (addrOff a)
    | none => 0
  | none => 0

/-- The byte that HBM returns: a free one in a poisoned word (R84). -/
def State.hbmByte (s : State) (a : Nat) : Byte :=
  if s.poison.contains (a / 32) then Config.poisonByte a else Memory.read s.hbm a

/-- The bytes of a range of HBM as it returns them, from address 0. -/
def State.hbmSlice (s : State) (a n : Nat) : Memory :=
  let bad : List Host.Cell := s.poison.flatMap fun w => (List.range 32).map fun i => (32 * w + i, Config.poisonByte (32 * w + i))
  Memory.canon (Memory.slice (bad ++ s.hbm) a n)

/-- Bytes of tenant memory. -/
def State.tread (s : State) (p : PartId) (a : Addr) (len : Nat) : List Byte :=
  (List.range len).map fun i => s.hbmByte (s.phys p a + i)

/-- Bytes written to tenant memory. -/
def State.twrite (s : State) (p : PartId) (a : Addr) (bs : List Byte) : State :=
  s.hbmPaste (s.phys p a) bs.length (Memory.ofBytes bs)

/-! ### Sources (R46, R289) -/

/-- Does an IPv6 address match a prefix? -/
def prefixMatch (addr pre : BitVec 128) (len : Nat) : Bool := (addr >>> (128 - len)) = (pre >>> (128 - len))

/-- Does an address match one of the prefixes of a KW_SOURCES or OP_SOURCES value? -/
def sourceListed (addr : BitVec 128) (v : List Byte) : Bool :=
  (List.range (fieldBe v 0 1)).any fun i =>
    prefixMatch addr (BitVec.ofNat 128 (fieldBe v (1 + 17 * i) 16)) (fieldBe v (1 + 17 * i + 16) 1)

/-- Does a packet of a source on a host port speak for a keyway (R46)? -/
def State.speaksFor (s : State) (p : HostPortId) (src : BitVec 128) (k : KwId) : Bool :=
  (BitVec.ofNat 8 (s.setNum 0x0102#16 (.kw k))).getLsbD p.val && sourceListed src (s.setVal (0x0103#16, .kw k))

/-- Host ports carry packets: the switch tray is in service and the machine has started (R304). -/
def State.portLive (s : State) (p : HostPortId) : Bool := s.ready && (s.swt (hostPortSwitch p)).up && (s.port p).up

/-- No keyway is admitted before acceptance (R316) or while the rack-time quality is UNSET (R298). -/
def State.admits (s : State) : Bool := s.rackSet 0x0A20#16 = 1 && s.clk.quality ≠ .unset

end Sys2Proof.Machine
end

