-- ==== Sys2Proof/Machine/Tokens.lean ====
section
/-! DEFINITION. Tokeniser tables and tokenisation (R209, R210, R215). -/

namespace Sys2Proof.Machine

/-! ### The table image (R209, R210) -/

/-- n entries of length 1 then bytes, and what follows them; a length outside lo to hi refuses the image. -/
def parseStrings (lo hi : Nat) : Nat → List Byte → Option (List (List Byte) × List Byte)
  | 0, bs => some ([], bs)
  | n + 1, bs =>
    match bs with
    | [] => none
    | l :: rest =>
      if lo ≤ l.toNat ∧ l.toNat ≤ hi ∧ l.toNat ≤ rest.length then
        match parseStrings lo hi n (rest.drop l.toNat) with
        | some (es, r) => some (rest.take l.toNat :: es, r)
        | none => none
      else none

/-- n merges of left 4, right 4, result 4. -/
def parseMerges : Nat → List Byte → Option (List (Nat × Nat × Nat) × List Byte)
  | 0, bs => some ([], bs)
  | n + 1, bs =>
    if bs.length < 12 then none
    else
      match parseMerges n (bs.drop 12) with
      | some (es, r) => some ((fieldLe bs 0 4, fieldLe bs 4 4, fieldLe bs 8 4) :: es, r)
      | none => none

/-- n specials of token 4, length 1 (1 to 64), bytes. -/
def parseSpecials : Nat → List Byte → Option (List (Nat × List Byte) × List Byte)
  | 0, bs => some ([], bs)
  | n + 1, bs =>
    if bs.length < 5 then none
    else
      let l := fieldLe bs 4 1
      if 1 ≤ l ∧ l ≤ 64 ∧ 5 + l ≤ bs.length then
        match parseSpecials n (bs.drop (5 + l)) with
        | some (es, r) => some ((fieldLe bs 0 4, field bs 5 l) :: es, r)
        | none => none
      else none

/-- The largest table image: 6 MiB (R209). -/
def tokImageMax : Nat := 6 * 2 ^ 20

/-- Fields of the header in range (R209). -/
def tokHeaderOk (bs : List Byte) (model : BitVec 32) : Bool :=
  let vocab := fieldLe bs 8 4
  fieldLe bs 0 2 = 0x4B54 && fieldLe bs 2 1 = 1 && fieldLe bs 4 4 = model.toNat && decide (256 ≤ vocab) &&
    decide (vocab ≤ 262144) && decide (fieldLe bs 12 4 ≤ vocab - 256) && decide (fieldLe bs 16 2 ≤ 256) &&
    decide (fieldLe bs 20 4 < vocab) && fieldLe bs 24 4 % 2048 = 0 && fieldLe bs 24 4 ≠ 0 &&
    decide (fieldLe bs 24 4 ≤ 2 ^ 28) && (decide (fieldLe bs 28 4 < vocab) || fieldLe bs 28 4 = 0xFFFFFFFF) &&
    (field bs 32 256).all fun c => decide (c.toNat ≤ 15)

/-- A table image read, or none where R210 refuses it: the CRC, the ranges, a one-byte token for every byte value among
tokens 0 to 255, and merges and specials that name tokens below VOCAB. -/
def parseTable (bs : List Byte) (model : BitVec 32) : Option TokTable :=
  if bs.length < 292 ∨ tokImageMax < bs.length then none
  else
    let crc := crc32c (bs.take (bs.length - 4))
    if crc.toNat ≠ fieldLe bs (bs.length - 4) 4 ∨ tokHeaderOk bs model = false then none
    else
      let vocab := fieldLe bs 8 4
      match parseStrings 1 255 vocab (bs.drop 288) with
      | none => none
      | some (toks, r) =>
        match parseMerges (fieldLe bs 12 4) r with
        | none => none
        | some (ms, r) =>
          match parseSpecials (fieldLe bs 16 2) r with
          | none => none
          | some (sp, r) =>
            let bytesOk := (List.range 256).all fun b => (toks.take 256).contains [BitVec.ofNat 8 b]
            let mergesOk := ms.all fun m => decide (m.1 < vocab) && decide (m.2.1 < vocab) && decide (m.2.2 < vocab)
            let specialsOk := sp.all fun x => decide (x.1 < vocab)
            if r.length = 4 ∧ bytesOk ∧ mergesOk ∧ specialsOk then
              some { model := model, vocab := toks, merges := ms, specials := sp, pad := fieldLe bs 20 4,
                     kvb := fieldLe bs 24 4, eos := fieldLe bs 28 4, classes := (field bs 32 256).map BitVec.toNat,
                     imageLen := bs.length, crc := crc, chips := [] }
            else none

/-! ### Step 1: specials (R215) -/

/-- A stretch of text not yet matched, or a token. -/
inductive Seg where
  | raw (bs : List Byte)
  | tok (t : Nat)
deriving DecidableEq, Repr

/-- The special of length n at the start of the text. -/
def specialAt (sp : List (Nat × List Byte)) (n : Nat) (bs : List Byte) : Option Nat :=
  (sp.find? fun x => x.2.length = n && x.2 = bs.take n).map Prod.fst

/-- Matches of specials of length n in a raw stretch, leftmost first; fuel is the stretch's length. -/
def matchLen (sp : List (Nat × List Byte)) (n : Nat) : Nat → List Byte → List Byte → List Seg
  | 0, acc, _ => [.raw acc.reverse]
  | _ + 1, acc, [] => [.raw acc.reverse]
  | f + 1, acc, b :: bs =>
    match specialAt sp n (b :: bs) with
    | some t => .raw acc.reverse :: .tok t :: matchLen sp n f [] ((b :: bs).drop n)
    | none => matchLen sp n f (b :: acc) bs

/-- Specials matched, longest first and leftmost first (log 18). -/
def matchSpecials (sp : List (Nat × List Byte)) (text : List Byte) : List Seg :=
  ((List.range 64).map fun i => 64 - i).foldl
    (fun segs n => segs.flatMap fun g =>
      match g with
      | .raw bs => matchLen sp n (bs.length + 1) [] bs
      | .tok t => [.tok t]) [.raw text]

/-! ### Step 2: pieces by class -/

/-- Bytes with their classes; a UTF-8 continuation byte takes the class of the byte before it. -/
def classesOf (cls : List Nat) : Option Nat → List Byte → List (Byte × Nat)
  | _, [] => []
  | prev, b :: bs =>
    let own := cls.getD b.toNat 0
    let c :=
      match prev with
      | some p => if 0x80 ≤ b.toNat ∧ b.toNat ≤ 0xBF then p else own
      | none => own
    (b, c) :: classesOf cls (some c) bs

/-- Runs of equal class: the class and the bytes. -/
def runs : List (Byte × Nat) → List (Nat × List Byte)
  | [] => []
  | (b, c) :: rest =>
    match runs rest with
    | (c', bs) :: rs => if c = c' then (c, b :: bs) :: rs else (c, [b]) :: (c', bs) :: rs
    | [] => [(c, [b])]

/-- A single byte of class 0 joins the piece that follows it. -/
def joinZero : List (Nat × List Byte) → List (List Byte)
  | [] => []
  | [(_, bs)] => [bs]
  | (c, bs) :: (c', bs') :: rest =>
    if c = 0 ∧ bs.length = 1 then (bs ++ bs') :: joinZero rest else bs :: joinZero ((c', bs') :: rest)

def pieces (cls : List Nat) (text : List Byte) : List (List Byte) := joinZero (runs (classesOf cls none text))

/-! ### Step 3: merges -/

/-- The rank and result of a pair. -/
def mergeRank : List (Nat × Nat × Nat) → Nat → Nat → Nat → Option (Nat × Nat)
  | [], _, _, _ => none
  | (l, r, x) :: ms, i, a, b => if l = a ∧ r = b then some (i, x) else mergeRank ms (i + 1) a b

/-- The lowest rank present among adjacent pairs, with its result and the pair's position (leftmost). -/
def bestMerge (ms : List (Nat × Nat × Nat)) : Nat → List Nat → Option (Nat × Nat × Nat)
  | _, [] => none
  | _, [_] => none
  | i, a :: b :: rest =>
    let later := bestMerge ms (i + 1) (b :: rest)
    match mergeRank ms 0 a b with
    | none => later
    | some (k, x) =>
      match later with
      | none => some (k, x, i)
      | some (k', x', j) => if k' < k then some (k', x', j) else some (k, x, i)

/-- Merges applied until none does; fuel is the piece's length. -/
def mergeAll (ms : List (Nat × Nat × Nat)) : Nat → List Nat → List Nat
  | 0, ts => ts
  | f + 1, ts =>
    match bestMerge ms 0 ts with
    | none => ts
    | some (_, x, i) => mergeAll ms f (ts.take i ++ [x] ++ ts.drop (i + 2))

/-- The one-byte token of a byte (R210). -/
def byteToken (t : TokTable) (b : Byte) : Nat := ((t.vocab.take 256).idxOf? [b]).getD 0

def tokenisePiece (t : TokTable) (bs : List Byte) : List Nat := mergeAll t.merges bs.length (bs.map (byteToken t))

/-- One source tokenised (R215): with SPECIALS, special strings first. -/
def tokeniseSource (t : TokTable) (specials : Bool) (text : List Byte) : List Nat :=
  (if specials then matchSpecials t.specials text else [.raw text]).flatMap fun g =>
    match g with
    | .tok x => [x]
    | .raw bs => (pieces t.classes bs).flatMap (tokenisePiece t)

/-! ### Invalid UTF-8 (R215) -/

/-- Is byte i of a list within lo to hi? -/
def byteIn (bs : List Byte) (i lo hi : Nat) : Bool :=
  match bs[i]? with
  | some b => decide (lo ≤ b.toNat) && decide (b.toNat ≤ hi)
  | none => false

/-- The length of the valid UTF-8 sequence at the start of a text, or 0. -/
def utf8Len (bs : List Byte) : Nat :=
  if byteIn bs 0 0 0x7F then 1
  else if byteIn bs 0 0xC2 0xDF && byteIn bs 1 0x80 0xBF then 2
  else if byteIn bs 0 0xE0 0xEF && byteIn bs 2 0x80 0xBF &&
      byteIn bs 1 (if byteIn bs 0 0xE0 0xE0 then 0xA0 else 0x80) (if byteIn bs 0 0xED 0xED then 0x9F else 0xBF) then 3
  else if byteIn bs 0 0xF0 0xF4 && byteIn bs 2 0x80 0xBF && byteIn bs 3 0x80 0xBF &&
      byteIn bs 1 (if byteIn bs 0 0xF0 0xF0 then 0x90 else 0x80) (if byteIn bs 0 0xF4 0xF4 then 0x8F else 0xBF) then 4
  else 0

/-- Bytes outside every valid sequence; fuel is the text's length. -/
def invalidUtf8 : Nat → List Byte → Nat
  | 0, _ => 0
  | _ + 1, [] => 0
  | f + 1, b :: bs =>
    match utf8Len (b :: bs) with
    | 0 => 1 + invalidUtf8 f bs
    | n => invalidUtf8 f ((b :: bs).drop n)

end Sys2Proof.Machine
end

