-- ==== Sys2Proof/Machine/Slots.lean ====
section
/-! DEFINITION. Packets on links: their bytes (R6, R147), the slots in which they leave (R145, R146, R153, R164), and what the
firmware sends in reserved slots between switches and chips (R149, R152, R153). -/

namespace Sys2Proof.Machine

/-! ### The bytes of a packet (R6, R147) -/

def pktCode : PktType → Nat
  | .null => 0 | .data => 1 | .prio0 => 2 | .mgmt => 3 | .vault => 4 | .host => 5

/-- FLAGS: bit 0 LAST, bit 1 NOTIFY, bit 2 FORCED. -/
def pktFlags (k : NetPkt) : Nat := (if k.last then 1 else 0) + (if k.notify then 2 else 0) + (if k.forced then 4 else 0)

/-- The 32-byte header, every field most significant byte first. -/
def netHeader (k : NetPkt) : List Byte :=
  be 1 (pktCode k.type * 16 + pktFlags k) ++ be 1 k.dchip.val ++ be 1 k.schip.val ++
    be 1 (k.dpart.val + if k.fw then 128 else 0) ++ be 6 k.raddr.toNat ++ be 2 k.payload.length ++ be 4 k.xseq.toNat ++
    be 6 (k.tag.toNat * 2 ^ 25 + k.imm.toNat) ++ be 2 0 ++ be 4 k.frame.toNat ++ be 1 k.slot.toNat ++ be 3 0

/-- The CRC-32C over header and payload. -/
def netCrc (k : NetPkt) : BitVec 32 := crc32c (netHeader k ++ k.payload)

/-- A packet on the wire. -/
def netWire (k : NetPkt) : List Byte := netHeader k ++ k.payload ++ be 4 (netCrc k).toNat

/-- Does a packet bear the CRC of its content? -/
def crcGood (k : NetPkt) (crc : BitVec 32) : Bool := crc = netCrc k

/-- A codeword corrects up to 15 symbol errors (R142). -/
def correctable : Nat := 15

/-- Is some codeword of a packet uncorrectable, by the symbol errors of each? -/
def uncorrectable (symbols : List Nat) : Bool := symbols.any fun n => decide (correctable < n)

/-- The codewords corrected, and the symbols corrected in them. -/
def correctedIn (symbols : List Nat) : Nat × Nat :=
  let xs := symbols.filter fun n => decide (0 < n) && decide (n ≤ correctable)
  (xs.length, xs.sum)

/-- The NULL of a slot: the fields it needs none of are 0 (R146; log 137). -/
def nullPkt (l : LinkId) (slot : Nat) : NetPkt :=
  { type := .null, last := false, notify := false, forced := false, dchip := 0, schip := l.chip, dpart := 0, fw := false, raddr := 0,
    xseq := 0, tag := 0, imm := 0, frame := BitVec.ofNat 32 (slot / 256), slot := BitVec.ofNat 8 slot, payload := [] }

/-- What a link in service carries in a slot: the packet its owner has put there, else a NULL (R146). -/
def State.carriedIn (s : State) (l : LinkId) (slot : Nat) : List Byte :=
  (s.out.findSome? fun o =>
    match o with
    | .fabric l' n w => if l' = l ∧ n = slot then some w else none
    | _ => none).getD (netWire (nullPkt l slot))

/-! ### Slots -/

/-- The latency of every link: 13 slots, in ns (R144). -/
def linkNs : Nat := 104

/-- The slot of an instant, counted from the oscillator's start: 8 ns each (R145). -/
def absSlot (osc : Nat) : Nat := osc / 8

/-- The frame boundary at or after an instant (R145). -/
def frameUp (t : Nat) : Nat := (t + 2047) / 2048 * 2048

/-- The first frame boundary after an instant. -/
def nextFrame (t : Nat) : Nat := (t / 2048 + 1) * 2048

/-- The k-th of the slots that recur in every frame, from an absolute slot on. -/
def nthSlot (slots : List Nat) (start k : Nat) : Nat :=
  let m := slots.length
  let g := (start / 256) * m + (slots.filter fun x => decide (x < start % 256)).length + k
  (g / m) * 256 + slots.getD (g % m) 0

/-- The first management slot from an absolute slot on (R153). -/
def mgmtFrom (start : Nat) : Nat := (start + 31) / 32 * 32

/-- A packet put on a link in a slot; FRAME and SLOT name that slot (R147). -/
def State.putOn (s : State) (l : LinkId) (slot : Nat) (k : NetPkt) : State :=
  s.emit (.fabric l slot (netWire { k with frame := BitVec.ofNat 32 (slot / 256), slot := BitVec.ofNat 8 slot }))

/-! ### Links and switch ports -/

/-- A port's link carries tenant and reserved traffic (R162, R163). -/
def State.carries (s : State) (l : LinkId) : Bool :=
  (s.link l).inService && !(s.link l).quarantined &&
    (decide (l.port.val < 6) || (s.swt (uplinkSwitch l.chip (l.port.val - 6))).up)

/-- Both ends of a link. -/
def State.modBoth (s : State) (l : LinkId) (f : Link → Link) : State :=
  if l.port.val < 6 then (s.modLink l f).modLink (reverseLink l) f else s.modLink l f

/-- The receive side of a switch port. -/
def State.swPort (s : State) (i : SwId) (p : Fin 32) : Link := Tab.get (s.swt i).rx Link.init p

def State.modSwPort (s : State) (i : SwId) (p : Fin 32) (f : Link → Link) : State :=
  s.modSw i fun x => { x with rx := Tab.set x.rx p (f (Tab.get x.rx Link.init p)) }

/-- The uplink that ends on a switch port (R17). -/
def switchPortLink (sw : SwId) (port : Fin 32) : LinkId :=
  let p := port.val % 16
  if port.val < 16 then { chip := chipAt p (p / 4) sw.val, port := 6 }
  else { chip := chipAt p (p / 4) (sw.val + 2), port := 7 }

/-- The switch port of a chip's uplink on a switch, if it has one. -/
def portTo (sw : SwId) (n : ChipId) : Option (Fin 32) :=
  if uplinkSwitch n 0 = sw then some ⟨uplinkPort n 0 % 32, by omega⟩
  else if uplinkSwitch n 1 = sw then some ⟨uplinkPort n 1 % 32, by omega⟩
  else none

/-- The switch port an uplink ends on. -/
def uplinkEnd (l : LinkId) : SwId × Fin 32 :=
  let u := l.port.val - 6
  (uplinkSwitch l.chip u, ⟨uplinkPort l.chip u % 32, by omega⟩)

/-- The far receive side of a link: its other end, or for an uplink the switch port's. -/
def State.farSide (s : State) (l : LinkId) : Link :=
  if l.port.val < 6 then s.link (reverseLink l) else s.swPort (uplinkEnd l).1 (uplinkEnd l).2

def State.modFar (s : State) (l : LinkId) (f : Link → Link) : State :=
  if l.port.val < 6 then s.modLink (reverseLink l) f else s.modSwPort (uplinkEnd l).1 (uplinkEnd l).2 f

/-- A change on both receive sides of a link. -/
def State.modSides (s : State) (l : LinkId) (f : Link → Link) : State := (s.modLink l f).modFar l f

/-! ### Reserved slots of the firmware's traffic (R152, R153) -/

/-- The vault or host slots of an uplink for quadrant lanes, direct or relay, ascending. -/
def reservedFor (u : Nat) (host relay : Bool) (ks : List (Fin 4)) : List Nat :=
  ks.flatMap fun k => ((if host then hostDirect else vaultDirect) (if relay then 1 - u else u)).map fun o => 64 * k.val + o

/-- The lanes of a partition on a chip: those of the quadrants it holds there (R153). -/
def State.lanesOn (s : State) (p : PartId) (n : ChipId) : List (Fin 4) :=
  match s.part p with
  | some v => if v.shape.chips.contains n then v.shape.ks else []
  | none => []

/-- How a switch and a chip reach each other: the switch's port, the uplink there, and the z link of a relay (R152). -/
structure SwitchWay where
  port : Fin 32
  uplink : LinkId
  relay : Option LinkId
deriving DecidableEq, Repr

def switchWayTo (sw : SwId) (n : ChipId) : Option SwitchWay :=
  match portTo sw n with
  | some p => some { port := p, uplink := switchPortLink sw p, relay := none }
  | none =>
    (portTo sw (relayChip n)).map fun p =>
      { port := p, uplink := switchPortLink sw p, relay := some { chip := relayChip n, port := 4 } }

/-- The way carries traffic: uplink, and the relay's z link where there is one. -/
def State.wayCarries (s : State) (w : SwitchWay) : Bool := s.carries w.uplink && w.relay.all s.carries

/-- The slots of a partition's vault or host traffic on a way, in the switch port's numbering. -/
def State.waySlots (s : State) (w : SwitchWay) (p : PartId) (n : ChipId) (host : Bool) : List Nat :=
  reservedFor (w.uplink.port.val - 6) host w.relay.isSome (s.lanesOn p n)

/-- The slot from which a sender's reserved slots are free. -/
def State.laneFrom (s : State) (x : Sender) (p : PartId) (host : Bool) : Nat :=
  max (absSlot s.osc + 1) (Tab.get s.laneNext 0 (x, p, host))

def State.takeLane (s : State) (x : Sender) (p : PartId) (host : Bool) (next : Nat) : State :=
  { s with laneNext := Tab.set s.laneNext (x, p, host) next }

/-- Packets from a switch to a chip of a partition, in its vault or host slots, one in each (R149, R152, R153); none where the way
carries nothing. With the packets the slot in which each leaves. -/
def State.switchSend (s : State) (sw : SwId) (p : PartId) (n : ChipId) (host : Bool) (pkts : List NetPkt) :
    Option (State × List Nat) :=
  (switchWayTo sw n).bind fun w =>
    let slots := s.waySlots w p n host
    if slots.isEmpty || !s.wayCarries w then none
    else
      let x := Sender.switch sw w.port
      let start := s.laneFrom x p host
      let at_ := fun i => nthSlot slots start i
      let s := pkts.zipIdx.foldl (fun s e =>
        s.emit (.switchOut sw w.port (at_ e.2) (netWire { e.1 with frame := BitVec.ofNat 32 (at_ e.2 / 256), slot := BitVec.ofNat 8 (at_ e.2) })))
        s
      some (s.takeLane x p host (if pkts.isEmpty then start else at_ (pkts.length - 1) + 1), (List.range pkts.length).map at_)

/-- Packets from a chip of a partition to a switch: on its uplink there, or down its -z link in the paired slots to the relay's
(R152, R153). -/
def State.uplinkSend (s : State) (sw : SwId) (p : PartId) (n : ChipId) (host : Bool) (pkts : List NetPkt) :
    Option (State × List Nat) :=
  (switchWayTo sw n).bind fun w =>
    let slots := s.waySlots w p n host
    if slots.isEmpty || !s.wayCarries w then none
    else
      let l : LinkId := if w.relay.isSome then { chip := n, port := 5 } else w.uplink
      let back := if w.relay.isSome then 14 else 0
      let x := Sender.chip l
      let start := s.laneFrom x p host + back
      let at_ := fun i => nthSlot slots start i - back
      let s := pkts.zipIdx.foldl (fun s e => s.putOn l (at_ e.2) e.1) s
      some (s.takeLane x p host (if pkts.isEmpty then start - back else at_ (pkts.length - 1) + 1), (List.range pkts.length).map at_)

/-- Bytes cut into packets of a firmware transfer to or from a chip: 1,280 bytes each, the last padded to a multiple of 32 (R147). -/
def firmwarePkts (type : PktType) (src dst : ChipId) (p : PartId) (raddr : Addr) (bs : List Byte) : List NetPkt :=
  let n := (bs.length + 1279) / 1280
  (List.range n).map fun i =>
    let b := field bs (1280 * i) 1280
    { type := type, last := decide (i + 1 = n), notify := false, forced := false, dchip := dst, schip := src, dpart := p, fw := true,
      raddr := raddr + BitVec.ofNat 48 (1280 * i), xseq := BitVec.ofNat 32 i, tag := 0, imm := 0, frame := 0, slot := 0,
      payload := b ++ List.replicate ((32 - b.length % 32) % 32) 0 }

end Sys2Proof.Machine
end

