-- ==== Sys2Proof/Machine/Keyring.lean ====
section
/-! DEFINITION. Keyring: keys, pins, tiers, quotas and eviction (R186 to R207), the KR_* commands and their events. -/

namespace Sys2Proof.Machine

/-! ### A command in its handler -/

/-- What a handler knows of its command: the owner of its session, the packet, the session (0 none), its epoch (R64). -/
structure Ctx where
  ep : Ep
  h : Hdr
  session : SessRef
  epoch : BitVec 32
  /-- rack time at which the packet arrived (R35, R72) -/
  arrived : Nat
  /-- a fenced command that waited and was answered ACCEPTED (R377) -/
  late : Bool := false
deriving DecidableEq, Repr

/-- What a handler answers: the state, the status, the reply body; `later` when the reply leaves with an event row. -/
structure Res where
  s : State
  status : Nat
  body : List Byte
  later : Bool
deriving DecidableEq, Repr

def Res.ok (s : State) (body : List Byte := []) : Res := { s := s, status := St.ok, body := body, later := false }
def Res.accepted (s : State) : Res := { s := s, status := St.accepted, body := [], later := false }
def Res.fail (s : State) (status : Nat) (body : List Byte := []) : Res :=
  { s := s, status := status, body := body, later := false }

/-- The keyway a command acts on: its own, or on the operator channel the one named in KEYWAY. -/
def Ctx.kw? (c : Ctx) : Option KwId :=
  match c.ep with
  | .kw k => some k
  | .op => if h : c.h.keyway.toNat < 64 then some ⟨c.h.keyway.toNat, h⟩ else none

/-- The partition in force of that keyway. -/
def Ctx.part? (c : Ctx) (s : State) : Option PartId :=
  match c.kw? with
  | some k => s.kwPart k
  | none => none

/-! ### Keys (R186) -/

/-- Tokens as 32-bit values, least significant byte first. -/
def tokensOf (bs : List Byte) : List (BitVec 32) :=
  (List.range (bs.length / 4)).map fun i => BitVec.ofNat 32 (fieldLe bs (4 * i) 4)

/-- The message of a chain key. -/
def chainMsg (prev : List Byte) (model cut shape : BitVec 32) (toks : List (BitVec 32)) : List Byte :=
  [0x01#8] ++ prev ++ le 4 model.toNat ++ le 4 cut.toNat ++ le 4 shape.toNat ++ toks.flatMap fun t => le 4 t.toNat

/-- A 16-byte digest as a 128-bit value: byte 0 is K[7:0] (R194; log 10). -/
def digestKey (bs : List Byte) : BitVec 128 := BitVec.ofNat 128 (ofLe bs)

def keyBytes (k : BitVec 128) : List Byte := le 16 k.toNat

/-- Chain keys of the first n full blocks. -/
def chainKeysFrom : Nat → List Byte → BitVec 32 → BitVec 32 → BitVec 32 → List (BitVec 32) → List (BitVec 128)
  | 0, _, _, _, _, _ => []
  | n + 1, prev, model, cut, shape, toks =>
    if toks.length < 256 then []
    else
      let c := blake2b (chainMsg prev model cut shape (toks.take 256)) 16 []
      digestKey c :: chainKeysFrom n c model cut shape (toks.drop 256)

/-- Chain keys of every full block of a token list (R186). -/
def chainKeys (model cut shape : BitVec 32) (toks : List (BitVec 32)) : List (BitVec 128) :=
  chainKeysFrom (toks.length / 256) (List.replicate 16 0) model cut shape toks

/-- The block key of a chain key under a share-key value (R186). -/
def blockKey (value : BitVec 256) (c : BitVec 128) : BitVec 128 := digestKey (blake2b (keyBytes c) 16 (le 32 value.toNat))

/-! ### Slots (R191, R369) -/

/-- What slot n of a keyway names: its share-key index and whether it may insert; none for an EMPTY slot. -/
def State.slotKey (s : State) (k : KwId) (n : Nat) : Option (Fin 128 × Bool) :=
  let v := s.setVal (BitVec.ofNat 16 (0x0110 + n), .kw k)
  match s.liveRef (BitVec.ofNat 32 (fieldBe v 0 4)) with
  | some i => if fieldBe v 4 1 = 0 then none else some (i, fieldBe v 4 1 = 2)
  | none => none

/-- Every non-empty slot of a keyway, ascending (R191). -/
def State.slots (s : State) (k : KwId) : List (Fin 128 × Bool) := (List.range 16).filterMap fun n => s.slotKey k n

/-! ### Pins (R30, R198) -/

/-- Is a block pinned: by a handle, by a lookup whose reply waits, or by a request in prefill? -/
def State.pinned (s : State) (i : Fin 128) (key : BitVec 128) : Bool :=
  (s.kws.any fun e => e.2.handles.any fun h => h.blocks.contains (i, key)) ||
  (s.lookups.any fun l => l.found.any fun f => f.1 = i && f.2.1 = key) ||
  (s.reqs.any fun r => r.pinned && r.found.any fun f => f.1 = i && f.2.1 = key)

/-! ### The warm tier (R194, R195, R201 to R204) -/

/-- The shard map entry of a block key; the model's first map is the identity modulo 4 (R194; log 10). -/
def State.shardOf (s : State) (key : BitVec 128) : Fin 4 :=
  let b : BitVec 8 := key.setWidth 8
  Tab.get s.kr.shard ⟨b.toNat % 4, by omega⟩ b

/-- The switch trays that hold granule g of a block (R194). -/
def granuleTrays (r : Fin 4) (copies g : Nat) : List SwId :=
  ⟨(g + r.val) % 4, by omega⟩ :: (if copies = 2 then [⟨(g + r.val + 2) % 4, by omega⟩] else [])

def WarmBlock.trays (w : WarmBlock) (g : Nat) : List SwId := granuleTrays w.r w.copies g

/-- Does every granule of a block lie on at least one of the trays that `ok` admits? -/
def granulesOn (r : Fin 4) (copies : Nat) (ok : SwId → Bool) : Bool :=
  (List.range 64).all fun g => (granuleTrays r copies g).any ok

/-- Bytes of granule g of a block (R192). -/
def granuleBytes (data : Memory) (kvb g : Nat) : List Byte := Memory.bytes data (g * (kvb / 64)) (kvb / 64)

/-- A share key's current generation is the block's: only such blocks match (R190). -/
def State.genLive (s : State) (i : Fin 128) (gen : Nat) : Bool := (s.shareKey i).live && (s.shareKey i).gen = gen

/-- The copies value and quota (GiB) of a share key (R206). -/
def State.krQuota (s : State) (i : Fin 128) : Nat := fieldBe (s.setVal (BitVec.ofNat 16 (0x0480 + i.val), .rack)) 0 4
def State.krCopies (s : State) (i : Fin 128) : Nat := fieldBe (s.setVal (BitVec.ofNat 16 (0x0480 + i.val), .rack)) 4 1

def WarmBlock.size (b : WarmBlock) : Nat := b.kvb * b.copies

/-- The blocks of a share key's current generation. -/
def State.keyBlocks (s : State) (i : Fin 128) : List WarmBlock :=
  s.kr.dir.filter fun b => b.idx = i && b.gen = (s.shareKey i).gen

/-- Vault usage of a share key (R203). -/
def State.usage (s : State) (i : Fin 128) : Nat := ((s.keyBlocks i).map WarmBlock.size).sum

/-- Usage that no eviction can free: pinned blocks, and claims not yet committed (R202). -/
def State.heldUsage (s : State) (i : Fin 128) : Nat :=
  (((s.keyBlocks i).filter fun b => s.pinned i b.key || !b.committed).map WarmBlock.size).sum

/-- The least recently used block of a list, the earlier entry winning a tie. -/
def lruWarm : List WarmBlock → Option WarmBlock
  | [] => none
  | b :: bs =>
    match lruWarm bs with
    | none => some b
    | some c => if c.usedAt < b.usedAt then some c else some b

def State.dropWarm (s : State) (i : Fin 128) (key : BitVec 128) : State :=
  { s with kr := { s.kr with dir := s.kr.dir.filter fun b => !(b.idx = i && b.key = key) } }

/-- Evict the key's least recently used unpinned blocks until its usage fits `limit`; n is fuel (R203, R204). -/
def State.evictTo (s : State) (i : Fin 128) (limit : Nat) : Nat → State
  | 0 => s
  | n + 1 =>
    if s.usage i ≤ limit then s
    else
      match lruWarm ((s.keyBlocks i).filter fun b => b.committed && !s.pinned i b.key) with
      | none => s
      | some b => (s.dropWarm i b.key).evictTo i limit n

/-- Evict a key down to a number of bytes. -/
def State.evict (s : State) (i : Fin 128) (limit : Nat) : State := s.evictTo i limit s.kr.dir.length

/-- A key whose quota was lowered is evicted down to it; while what is held keeps it above, the rest goes as that ends (R203). -/
def State.fitQuota (s : State) (i : Fin 128) : State :=
  let limit := s.krQuota i * 2 ^ 30
  let s := s.evict i limit
  { s with kr := { s.kr with lowering := s.kr.lowering.filter (fun (j : Fin 128) => j ≠ i) ++ (if s.usage i ≤ limit then [] else [i]) } }

/-- The committed warm block of a key, if a lookup may match it (R191, R201). -/
def State.warm? (s : State) (i : Fin 128) (key : BitVec 128) : Option WarmBlock :=
  s.kr.dir.find? fun b => b.idx = i && b.key = key && b.committed && s.genLive i b.gen

/-! ### The hot tier (R193, R205) -/

/-- Granules of virtual chip v in a partition of n chips (R192). -/
def granuleShare (n v : Nat) : Nat := 64 * (v + 1) / n - 64 * v / n

/-- Bytes the hot tier holds on virtual chip v, for the block sizes given. -/
def hotOn (n v : Nat) (sizes : List Nat) : Nat := (sizes.map fun b => granuleShare n v * (b / 64)).sum

/-- Do the blocks fit the hot tier on every chip? -/
def State.hotFits (s : State) (p : PartId) (sizes : List Nat) : Bool :=
  match s.part p with
  | none => false
  | some v =>
    let room := s.partSet p 0x0401#16 * 2 ^ 30 * v.shape.ks.length
    (List.range v.shape.nChips).all fun c => decide (hotOn v.shape.nChips c sizes ≤ room)

def lruHot : List HotBlock → Option HotBlock
  | [] => none
  | b :: bs =>
    match lruHot bs with
    | none => some b
    | some c => if c.usedAt < b.usedAt then some c else some b

def Part.dropHot (v : Part) (i : Fin 128) (key : BitVec 128) : Part :=
  { v with hot := v.hot.filter fun b => !(b.idx = i && b.key = key) }

def Part.hot? (v : Part) (i : Fin 128) (key : BitVec 128) : Option HotBlock := v.hot.find? fun b => b.idx = i && b.key = key

/-- A block enters the hot tier; the partition's least recently used unpinned blocks make room on every chip, and with
every block pinned it skips the tier (R205). n is fuel. -/
def State.addHotN (s : State) (p : PartId) (b : HotBlock) : Nat → State
  | 0 => s
  | n + 1 =>
    match s.part p with
    | none => s
    | some v =>
      if s.hotFits p (b.kvb :: v.hot.map HotBlock.kvb) then s.setPart p (some { v with hot := v.hot ++ [b] })
      else
        match lruHot (v.hot.filter fun x => !s.pinned x.idx x.key) with
        | none => s
        | some x => (s.setPart p (some (v.dropHot x.idx x.key))).addHotN p b n

def State.addHot (s : State) (p : PartId) (b : HotBlock) : State :=
  match s.part p with
  | none => s
  | some v => if (v.hot? b.idx b.key).isSome then s else s.addHotN p b (v.hot.length + 1)

/-- The hot block of a key that a lookup of the partition may match (R193, R201). -/
def State.hotBlock? (s : State) (p : PartId) (i : Fin 128) (key : BitVec 128) : Option HotBlock :=
  match s.part p with
  | none => none
  | some v => v.hot.find? fun b => b.idx = i && b.key = key && s.genLive i b.gen

/-! ### What the end of a pin frees (R190, R203) -/

/-- Blocks of deleted keys whose pins have ended are freed, a team index with none left is free again, and a key whose
pins held it above a lowered quota is evicted down to it. -/
def State.krSweep (s : State) : State :=
  let dead := fun (i : Fin 128) (gen : Nat) (key : BitVec 128) => !s.genLive i gen && !s.pinned i key
  let s := { s with
    kr := { s.kr with dir := s.kr.dir.filter fun b => !dead b.idx b.gen b.key },
    parts := s.parts.map fun (e : PartId × Option Part) =>
      (e.1, e.2.map fun (v : Part) => { v with hot := v.hot.filter fun b => !dead b.idx b.gen b.key }) }
  s.kr.lowering.foldl State.fitQuota s

/-! ### Lookup (R191, R196, R197) -/

/-- The first hit of a chain key over the slots in ascending order, the hot tier before the warm directory: the block and
whether it is found only warm. -/
def State.findBlock (s : State) (p : PartId) (c : BitVec 128) : List (Fin 128) → Option (Fin 128 × BitVec 128 × Bool)
  | [] => none
  | i :: is =>
    let key := blockKey (s.shareKey i).value c
    if (s.hotBlock? p i key).isSome then some (i, key, false)
    else if (s.warm? i key).isSome then some (i, key, true)
    else s.findBlock p c is

/-- Blocks found from the first on; the search stops at the first miss. -/
def State.search (s : State) (p : PartId) (slots : List (Fin 128)) : List (BitVec 128) → List (Fin 128 × BitVec 128 × Bool)
  | [] => []
  | c :: cs =>
    match s.findBlock p c slots with
    | some f => f :: s.search p slots cs
    | none => []

/-- A lookup hit is a use of the block in both tiers (R204). -/
def State.useBlocks (s : State) (p : PartId) (fs : List (Fin 128 × BitVec 128 × Bool)) : State :=
  let hit := fun (i : Fin 128) (k : BitVec 128) => fs.any fun f => f.1 = i && f.2.1 = k
  let now := s.rackNs
  let s := { s with kr := { s.kr with dir := s.kr.dir.map fun (b : WarmBlock) => if hit b.idx b.key then { b with usedAt := now } else b } }
  s.modPart p fun v => { v with hot := v.hot.map fun (b : HotBlock) => if hit b.idx b.key then { b with usedAt := now } else b }

/-- The warm bitmap: bit j mod 8 of byte j div 8 (R196). -/
def warmBitmap (blocks : Nat) (fs : List (Fin 128 × BitVec 128 × Bool)) : List Byte :=
  (List.range ((blocks + 7) / 8)).map fun b =>
    BitVec.ofNat 8 (((List.range 8).map fun j =>
      match fs[8 * b + j]? with
      | some (_, _, true) => 2 ^ j
      | _ => 0).sum)

/-- Raise counter i of class 0x0009 of a keyway (R207). -/
def State.krBump (s : State) (k : KwId) (i n : Nat) : State := s.modKw k fun w => { w with krCount := bump w.krCount i n }

/-- The interval of R197 in ns: 20 us and 0.2 us for each block. -/
def lookupNs (blocks : Nat) : Nat := 20000 + 200 * blocks

/-- The share keys of a slot mask, ascending; none when a bit names an EMPTY slot (R191). -/
def State.maskKeys (s : State) (k : KwId) (mask : BitVec 16) : Option (List (Fin 128)) :=
  let ns := (List.range 16).filter fun n => mask.getLsbD n
  if ns.all fun n => (s.slotKey k n).isSome then some (ns.filterMap fun n => (s.slotKey k n).map Prod.fst) else none

/-- The directory replica a lookup of an ingest chip consults is in reach: that of its uplink-0 switch, or with that tray out of
service that of its uplink-1 switch (R195). -/
def State.replicaUp (s : State) (n : ChipId) : Bool := (s.swt (uplinkSwitch n 0)).up || (s.swt (uplinkSwitch n 1)).up

/-- A search of a partition needs the directory as soon as a block is not hot; it cannot finish where no replica is in reach (R195,
R197; ch. 10 Edges). -/
def State.searchEnds (s : State) (p : PartId) (slots : List (Fin 128)) (cs : List (BitVec 128)) : Bool :=
  ((s.part p).any fun v => s.replicaUp v.ingestChip) ||
    cs.all fun c => slots.any fun i => (s.hotBlock? p i (blockKey (s.shareKey i).value c)).isSome

/-- A lookup whose reply will leave at the end of its interval. -/
def State.addLookup (s : State) (l : Lookup) : State := { s with lookups := s.lookups ++ [l] }

/-- KR_LOOKUP (R196, R197): the search, whose reply leaves with KR_LOOKUP_REPLY. -/
def opKrLookup (c : Ctx) (addr : Addr) (blocks mask : BitVec 16) (s : State) : Res :=
  match c.kw?, c.part? s with
  | some k, some p =>
    match s.session? c.ep c.session, s.part p with
    | some q, some v =>
      let l : Lookup := { kw := k, part := some p, session := c.session, hdr := c.h, arrived := c.arrived, epoch := c.epoch,
                          due := s.osc + lookupNs blocks.toNat, blocks := blocks.toNat, found := [], status := St.ok,
                          reached := true, lateOp := none }
      if (s.kw k).handles.length + (s.lookups.filter fun l => l.kw = k && !l.found.isEmpty).length ≥ 256 then Res.fail s St.noResource
      else
        match s.maskKeys k mask with
        | none => { s := s.addLookup { l with status := St.shareDenied }, status := St.shareDenied, body := [], later := true }
        | some keys =>
          let toks := tokensOf (s.tread p addr (1024 * blocks.toNat))
          let chain := chainKeys q.model q.cut (v.shape.word q.cut) toks
          let reached := s.searchEnds p keys chain
          let found := if reached then s.search p keys chain else []
          { s := (s.useBlocks p found).addLookup { l with found := found, reached := reached }, status := St.ok, body := [],
            later := true }
    | _, _ => Res.fail s St.noSession
  | _, _ => Res.fail s St.wardFault

/-- KR_RELEASE: the handle's pins end, once a fetch that runs on it has completed (R198). -/
def State.endHandle (s : State) (k : KwId) (n : Nat) : State :=
  let busy := s.ops.any fun o =>
    match o.ep, o.kind with
    | .kw k', .fetch _ h .. => k' = k && h = n
    | _, _ => false
  if busy then
    s.modKw k fun w => { w with handles := w.handles.map fun h => if h.num = n then { h with ended := true } else h }
  else (s.modKw k fun w => { w with handles := w.handles.filter fun h => h.num ≠ n }).krSweep

def opKrRelease (c : Ctx) (handle : BitVec 32) (s : State) : Res :=
  match c.kw? with
  | some k =>
    if (s.kw k).handles.any fun h => h.num = handle.toNat && !h.ended then Res.ok (s.endHandle k handle.toNat)
    else Res.fail s St.notFound
  | none => Res.fail s St.wardFault

/-- KR_HANDLE_TTL_EXPIRY: the handle ends KR_HANDLE_TTL after its lookup (R198). -/
def execKrHandleTtlExpiry (t : Nat) (k : KwId) (handle : BitVec 32) (s : State) : Out3 :=
  let s := s.tick t
  match (s.kw k).handles.find? fun h => h.num = handle.toNat with
  | some h => if h.expires ≤ s.osc then .next (s.endHandle k handle.toNat) else .next s
  | none => .next s

/-! ### Fetch (R199, R200) -/

/-- The blocks of a list that a partition must read from the vault, by their place in it: committed and not hot there (R193). -/
def State.warmOf (s : State) (p : PartId) (bs : List (Fin 128 × BitVec 128)) : List (Nat × WarmBlock) :=
  bs.zipIdx.filterMap fun e =>
    if ((s.part p).bind fun v => v.hot? e.1.1 e.1.2).isSome then none
    else (s.kr.dir.find? fun w => w.idx = e.1.1 && w.key = e.1.2 && w.committed).map fun w => (e.2, w)

/-- A copy on a switch tray cannot be read for a chip: the tray is out of service or has lost it, or nothing is carried between them
(R200). -/
def State.vaultGone (s : State) (n : ChipId) (w : WarmBlock) (sw : SwId) : Bool :=
  !(s.swt sw).up || w.lostOn.contains sw || !((switchWayTo sw n).any s.wayCarries)

/-- Of numbered warm blocks: the granules whose first copy cannot be read, and the blocks with a granule that no copy serves
(R200). -/
def unreadable (gone : WarmBlock → Fin 64 → SwId → Bool) (bs : List (Nat × WarmBlock)) : List (Nat × Fin 64) × List Nat :=
  (bs.flatMap fun b => ((List.finRange 64).filter fun g => ((b.2.trays g.val).head?).any (gone b.2 g)).map fun g => (b.1, g),
   (bs.filter fun b => (List.finRange 64).any fun g => (b.2.trays g.val).all (gone b.2 g)).map Prod.fst)

/-- What is not in a list yet, once each, after it. -/
def addNew {α : Type} [DecidableEq α] (xs ys : List α) : List α := xs ++ (ys.filter fun y => !xs.contains y).dedup

/-- Second reads of a fetch noted: every granule once, counted (R200, R207). -/
def State.noteFetch (s : State) (o : Op) (new : List (Nat × Fin 64) × List Nat) : State :=
  match o.ep, o.kind with
  | .kw k, .fetch p h dst kvb re bad =>
    let re' := addNew re new.1
    (s.modOp o.id fun o => { o with kind := .fetch p h dst kvb re' (addNew bad new.2) }).krBump k 5 (re'.length - re.length)
  | _, _ => s

/-- Second reads of a request's warm blocks noted (R200, R207). -/
def State.noteRequest (s : State) (r : Request) (new : List (Nat × Fin 64) × List Nat) : State :=
  let re := addNew r.reread new.1
  ({ s with reqs := s.reqs.map fun (x : Request) =>
      if x.kw = r.kw && x.tag = r.tag then { x with reread := re, holes := addNew r.holes new.2 } else x }).krBump r.kw 5
    (re.length - r.reread.length)

/-- A granule sent to a chip of a partition in its vault slots, from the first of the trays that can serve it, as packets of its own
(R149, R153, R199). -/
def State.sendGranule (s : State) (p : PartId) (n : ChipId) (raddr : Addr) (w : WarmBlock) (g : Fin 64) (trays : List SwId) : State :=
  match trays.find? fun sw => !s.vaultGone n w sw with
  | some sw =>
    ((s.switchSend sw p n false (firmwarePkts .vault n n p raddr (granuleBytes w.data w.kvb g.val))).map Prod.fst).getD s
  | none => s

/-- Numbered warm blocks sent, each granule to its chip and address. -/
def State.sendBlocks (s : State) (p : PartId) (dest : Nat → Fin 64 → ChipId × Addr) (bs : List (Nat × WarmBlock)) : State :=
  bs.foldl (fun s b => (List.finRange 64).foldl (fun s g =>
    s.sendGranule p (dest b.1 g).1 (dest b.1 g).2 b.2 g (b.2.trays g.val)) s) s

/-- The virtual chip that holds granule g in a partition of n chips (R192). -/
def granuleChip (n : Nat) (g : Fin 64) : Nat := ((List.range n).find? fun v => decide (g.val < 64 * (v + 1) / n)).getD 0

/-- Where a request's warm granule goes: its own chip, in the hot tier above the tenant limit (R192, R193, R205; log 144). -/
def State.ownChip (s : State) (p : PartId) (v : Part) (g : Fin 64) : ChipId × Addr :=
  let c := granuleChip v.chips.length g
  (v.chips.getD c 0, BitVec.ofNat 48 (c * v.shape.ks.length * 2 ^ 36 + s.tenantLimit p))

def opKrFetch (c : Ctx) (handle : BitVec 32) (dst : Addr) (s : State) : Res :=
  match c.kw?, c.part? s with
  | some k, some p =>
    match (s.kw k).handles.find? fun h => h.num = handle.toNat && !h.ended with
    | none => Res.fail s St.notFound
    | some h =>
      let size := fun (b : Fin 128 × BitVec 128) =>
        match (s.part p).bind fun v => v.hot? b.1 b.2 with
        | some x => x.kvb
        | none =>
          match s.kr.dir.find? fun w => w.idx = b.1 && w.key = b.2 with
          | some w => w.kvb
          | none => 0
      let kvb := (h.blocks.map size).foldl max 0
      if s.rangeOk p dst (h.blocks.length * kvb) then
        let n := (((s.part p).bind fun v => v.shape.quad? (addrVq dst)).map quadChip).getD 0
        let warm := s.warmOf p h.blocks
        let un := unreadable (fun w _ => s.vaultGone n w) warm
        let s := (s.addOp c.ep c.session c.h.seq c.epoch (.fetch p handle.toNat dst kvb un.1 un.2)).krBump k 5 un.1.length
        Res.accepted (s.sendBlocks p (fun j g => (n, dst + BitVec.ofNat 48 (j * kvb + g.val * (kvb / 64)))) warm)
      else Res.fail s St.wardFault
  | _, _ => Res.fail s St.wardFault

/-- VAULT_REFETCH: a granule of a warm block of the fetch failed its first read and is read once more in the next vault slot, from
the second copy if there is one (R200, R207). -/
def execVaultRefetch (t : Nat) (op : Nat) (g : Granule) (ok : Bool) (s : State) : Out3 :=
  let s := s.tick t
  match s.op? op with
  | some o =>
    match o.ep, o.kind with
    | .kw k, .fetch p h dst kvb re _ =>
      match (s.kw k).handles.find? fun x => x.num = h with
      | some x =>
        match (s.warmOf p x.blocks).find? fun b => b.1 = g.block with
        | some b =>
          if re.contains (g.block, g.granule) then .next s
          else
            let n := (((s.part p).bind fun v => v.shape.quad? (addrVq dst)).map quadChip).getD 0
            let s := s.noteFetch o ([(g.block, g.granule)], if ok then [] else [g.block])
            let raddr := dst + BitVec.ofNat 48 (g.block * kvb + g.granule.val * (kvb / 64))
            .next (s.sendGranule p n raddr b.2 g.granule (b.2.trays g.granule.val).reverse)
        | none => .next s
      | none => .next s
    | _, _ => .next s
  | none => .next s

/-- The data of a block that a fetch of a partition reads: the hot copy, or the warm one while every granule lies on a tray
in service; none when it is lost. -/
def State.blockData (s : State) (p : PartId) (i : Fin 128) (key : BitVec 128) : Option Memory :=
  match (s.part p).bind fun v => v.hot? i key with
  | some x => some x.data
  | none =>
    match s.kr.dir.find? fun w => w.idx = i && w.key = key && w.committed with
    | some w => if granulesOn w.r w.copies (fun x => (s.swt x).up && !w.lostOn.contains x) then some w.data else none
    | none => none

/-- Bytes the manual leaves undefined: free values (log 4). -/
def freeMem (n0 n : Nat) : Memory := Memory.ofBytes ((List.range n).map fun i => Config.freeByte (n0 + i))

/-- One block of a fetch written at its destination; a failed block's content is undefined. -/
def State.fetchBlock (s : State) (p : PartId) (a kvb : Nat) (i : Fin 128) (key : BitVec 128) (failed : Bool) : State :=
  match (if failed then none else s.blockData p i key) with
  | some d => s.hbmPaste a kvb d
  | none => (s.hbmPaste a kvb (freeMem s.fresh kvb)).useFresh kvb

/-- The blocks of a fetch, block j at destination + j x B. -/
def State.fetchFrom (s : State) (p : PartId) (a kvb : Nat) (bad : List Nat) : Nat → List (Fin 128 × BitVec 128) → State
  | _, [] => s
  | j, b :: bs => (s.fetchBlock p (a + j * kvb) kvb b.1 b.2 (bad.contains j)).fetchFrom p a kvb bad (j + 1) bs

/-- Warm blocks a partition has fetched enter its hot tier (R193). -/
def State.warmToHot (s : State) (p : PartId) (bs : List (Fin 128 × BitVec 128)) : State :=
  bs.foldl (fun s b =>
    match s.kr.dir.find? fun w => w.idx = b.1 && w.key = b.2 && w.committed with
    | some w => s.addHot p { idx := w.idx, gen := w.gen, key := w.key, kvb := w.kvb, data := w.data, usedAt := w.usedAt }
    | none => s) s

/-- KR_FETCH_DONE: the blocks are written and the event sent (R199, R200). -/
def execKrFetchDone (t : Nat) (op : Nat) (s : State) : Out3 :=
  let s := s.tick t
  match s.op? op with
  | some o =>
    match o.ep, o.kind with
    | .kw k, .fetch p hn dst kvb re bad =>
      match (s.kw k).handles.find? fun h => h.num = hn with
      | some h =>
        let lost := (List.range h.blocks.length).filter fun j =>
          match h.blocks[j]? with
          | some b => (s.blockData p b.1 b.2).isNone
          | none => false
        let bad := addNew bad lost
        let again := (re.map Prod.fst).dedup
        let s := s.fetchFrom p (s.phys p dst) kvb bad 0 h.blocks
        let good := ((List.range h.blocks.length).filter fun j => !bad.contains j).filterMap fun j => h.blocks[j]?
        let s := (s.warmToHot p good).endOp op
        let s := s.raiseS o.ep o.session Ev.krFetchDone
          (be 4 hn ++ be 2 (if bad.isEmpty then St.ok else St.slotMiss) ++ be 2 (addNew again bad).length)
        .next (if h.ended then s.endHandle k hn else s)
      | none => .next (s.endOp op)
    | _, _ => .next s
  | none => .next s

/-! ### Insert (R201, R202) -/

/-- The model's block size B, from a table loaded in the partition (R192, R209). -/
def State.kvbOf (s : State) (p : PartId) (model : BitVec 32) : Option Nat :=
  match s.part p with
  | some v => (v.tables.find? fun t => t.model = model).map TokTable.kvb
  | none => none

/-- A block's granules on their way to every tray of its copies: each chip of the partition sends its own, in its outbound vault slots
(R149, R153, R192, R201). -/
def State.storeBlock (s : State) (p : PartId) (w : WarmBlock) : State :=
  match s.part p with
  | none => s
  | some v =>
    (List.finRange 64).foldl (fun s g =>
      let n := v.chips.getD (granuleChip v.chips.length g) 0
      (w.trays g.val).foldl (fun s sw =>
        ((s.uplinkSend sw p n false (firmwarePkts .vault n n p 0 (granuleBytes w.data w.kvb g.val))).map Prod.fst).getD s) s) s

/-- A new block is claimed in the directory, written to the inserting partition's hot tier and sent to the vault (R201). -/
def State.claim (s : State) (p : PartId) (i : Fin 128) (key : BitVec 128) (kvb copies : Nat) (data : Memory) : State :=
  let gen := (s.shareKey i).gen
  let w : WarmBlock := { idx := i, gen := gen, key := key, kvb := kvb, copies := copies, r := s.shardOf key, data := data,
                         committed := false, by_ := p, usedAt := s.rackNs, lostOn := [] }
  let s := { s with kr := { s.kr with dir := s.kr.dir ++ [w] } }
  (s.addHot p { idx := i, gen := gen, key := key, kvb := kvb, data := data, usedAt := s.rackNs }).storeBlock p w

/-- The blocks of an insert that are neither committed nor claimed (R201). -/
def State.unclaimed (s : State) (i : Fin 128) (bs : List (BitVec 128 × Memory)) : List (BitVec 128 × Memory) :=
  bs.filter fun b => !(s.kr.dir.any fun w => w.idx = i && w.key = b.1 && w.gen = (s.shareKey i).gen)

/-- An insert, all or nothing against the quota (R202): the state and the blocks claimed, or none when refused. -/
def State.insertBlocks (s : State) (p : PartId) (i : Fin 128) (kvb copies quota : Nat) (bs : List (BitVec 128 × Memory)) :
    Option (State × Nat) :=
  let new := s.unclaimed i bs
  let need := new.length * (kvb * copies)
  if s.heldUsage i + need > quota * 2 ^ 30 then none
  else
    let s := s.evict i (quota * 2 ^ 30 - need)
    some (new.foldl (fun s b => s.claim p i b.1 kvb copies b.2) s, new.length)

def opKrInsert (c : Ctx) (tokAddr kvAddr : Addr) (first blocks : BitVec 16) (slot : BitVec 8) (s : State) : Res :=
  match c.kw?, c.part? s with
  | some k, some p =>
    match s.session? c.ep c.session, s.part p, s.slotKey k slot.toNat with
    | some q, some v, some (i, true) =>
      match s.kvbOf p q.model with
      | none => Res.fail s St.modelUnknown
      | some kvb =>
        let f := first.toNat
        let n := blocks.toNat
        if s.rangeOk p kvAddr (n * kvb) then
          let toks := tokensOf (s.tread p tokAddr (1024 * (f + n)))
          let keys := (chainKeys q.model q.cut (v.shape.word q.cut) toks).drop f
          let bs := (List.range n).filterMap fun j =>
            (keys[j]?).map fun ck =>
              (blockKey (s.shareKey i).value ck, s.hbmSlice (s.phys p kvAddr + j * kvb) kvb)
          match s.insertBlocks p i kvb (s.krCopies i) (s.krQuota i) bs with
          | none => Res.fail (s.krBump k 4 1) St.quotaExceeded
          | some (s, m) => Res.ok (s.krBump k 3 m) (be 2 m)
        else Res.fail s St.wardFault
    | some _, some _, _ => Res.fail s St.shareDenied
    | _, _, _ => Res.fail s St.noSession
  | _, _ => Res.fail s St.wardFault

/-- KR_INSERT_COMMIT: the last granule of every copy is written and the block is found by any partition; with a tray of one out of
service it cannot be (R201). A block whose key was deleted meanwhile is dropped with its claim. -/
def execKrInsertCommit (t : Nat) (idx : Fin 128) (key : BitVec 128) (s : State) : Out3 :=
  let s := s.tick t
  match s.kr.dir.find? fun b => b.idx = idx && b.key = key && !b.committed with
  | none => .next s
  | some b =>
    if !s.genLive idx b.gen then .next (s.dropWarm idx key)
    else if (List.finRange 64).all fun g => (b.trays g.val).all fun x => (s.swt x).up then
      .next ({ s with kr := { s.kr with dir := s.kr.dir.map fun (w : WarmBlock) =>
        if w.idx = idx && w.key = key && !w.committed then { w with committed := true } else w } }).krSweep
    else .next s

/-- KR_USAGE (R206): blocks held and quota in GiB of a slot. -/
def opKrUsage (c : Ctx) (slot : BitVec 8) (s : State) : Res :=
  match c.kw? with
  | some k =>
    match s.slotKey k slot.toNat with
    | some (i, _) => Res.ok s (be 4 (s.keyBlocks i).length ++ be 4 (s.krQuota i))
    | none => Res.fail s St.shareDenied
  | none => Res.fail s St.wardFault

/-- A request's warm blocks that are still on their way (R30). -/
def State.warmWaiting (s : State) (r : Request) : List (Nat × WarmBlock) :=
  if r.stage = .queued && !r.resident then
    (s.warmOf r.part (r.found.map fun f => (f.1, f.2.1))).filter fun b => decide (b.1 < r.p)
  else []

/-- The second reads that the loss of trays brings fetches and requests on their way (R200; ch. 10 Edges). -/
def State.noteLoss (s : State) (gone : WarmBlock → Fin 64 → SwId → Bool) : State :=
  let s := s.ops.foldl (fun s o =>
    match o.ep, o.kind with
    | .kw k, .fetch p h .. =>
      match (s.kw k).handles.find? fun x => x.num = h with
      | some x => s.noteFetch o (unreadable gone (s.warmOf p x.blocks))
      | none => s
    | _, _ => s) s
  s.reqs.foldl (fun s r => s.noteRequest r (unreadable gone (s.warmWaiting r))) s

/-- The vault content of a switch tray is lost (R195): blocks with a granule that lies on no tray in service leave the
directory, and with them the claims that had granules there (log 145). -/
def State.loseVault (s : State) (x : SwId) : State :=
  let s := s.noteLoss fun w _ y => decide (y = x) || w.lostOn.contains y
  { s with kr := { s.kr with dir := (s.kr.dir.map fun (b : WarmBlock) =>
      if b.lostOn.contains x then b else { b with lostOn := b.lostOn ++ [x] }).filter fun b =>
        b.committed && granulesOn b.r b.copies fun y => !b.lostOn.contains y } }

end Sys2Proof.Machine
end

