-- ==== Sys2Proof/Machine/Time.lean ====
section
/-! DEFINITION. Rack time: quality, sources, slews and steps, and the receivers of the time sideband (R294 to R299). -/

namespace Sys2Proof.Machine

/-- 100 ppm in units of 2^-40, rounded as the worked example of 15_tray_controllers_and_rack_time.md rounds it (R298). -/
def maxSlew : Nat := 109951163

/-- Every change of quality raises TIME_QUALITY to every open keyway (R297). -/
def State.setQuality (s : State) (q : Quality) : State :=
  if s.clk.quality = q then s
  else
    let s := { s with clk := { s.clk with quality := q } }
    s.raiseOpen Ev.timeQuality [BitVec.ofNat 8 q.code]

/-- The locked quality of the sources now locked (R294). -/
def State.lockedQuality (s : State) : Quality := if s.clk.ptpLocked then .lockedPtp else .lockedPps

def State.anyOpen (s : State) : Bool := (List.finRange 64).any fun k => s.kwOpen k

/-- A step of rack time ends the reporting period at the step; the next begins at the first whole multiple after it (R376). -/
def endPeriod (now : Nat) (v : Part) : Part :=
  let old := (now / v.perLen + 1) * v.perLen
  let new := v.perNew.map fun e => (e.1, (now / e.1 + 1) * e.1)
  { v with perDue := true, perGap := true, perEnd := min old ((new.map Prod.snd).getD old), perNew := new }

/-- Rack time stepped by theta ns, logged with its cause: 0 automatic, 1 operator (R298 to R300). -/
def State.stepTime (s : State) (theta : Int) (cause : Byte) : State :=
  let s := { s with clk := { s.clk with rackQ := ((s.clk.rackQ : Int) + theta * 2 ^ 40).toNat, theta := none, rate := 0 } }
  let s := { s with parts := s.parts.map fun (e : PartId × Option Part) => (e.1, e.2.map (endPeriod s.rackNs)) }
  (s.log Lg.timeStepped unitRmu (leInt 8 theta ++ [cause])).setQuality s.lockedQuality

/-- The offset that a slew in progress has left, in ns. -/
def State.thetaNs (s : State) : Int :=
  match s.clk.theta with
  | some q => q.tdiv (2 ^ 40)
  | none => 0

/-- If the last keyway has closed during a slew beyond 10 ms with TIME_STEP_AUTO set, the remainder is stepped (R298). -/
def State.stepIfClosed (s : State) : State :=
  if !s.anyOpen && decide (s.thetaNs.natAbs > 10000000) && s.rackSet 0x0804#16 = 1 then s.stepTime s.thetaNs 0 else s

/-- A rate in 10^-3 ppm, from units of 2^-40 (R367). -/
def ratePpm (rate : Int) : Int := (rate * 1000000000).tdiv (2 ^ 40)

/-- The offset of a lock slewed: RATE has the offset's sign and at most 100 ppm, its size the machine's own (R298). -/
def State.startSlew (s : State) (theta : Int) : State :=
  let size : Int := ((Config.freeReading s.fresh % maxSlew + 1 : Nat) : Int)
  let rate := if theta < 0 then -size else size
  let s := { s with fresh := s.fresh + 1, clk := { s.clk with theta := some (theta * 2 ^ 40), rate := rate } }
  (s.log Lg.timeSlew unitRmu ([0#8] ++ leInt 8 theta ++ leInt 4 (ratePpm rate))).setQuality .slewing

/-- TIME_SOURCE admits the source: 0 both, 1 PTP only, 2 PPS only (R300). -/
def State.sourceUsed (s : State) (pps : Bool) : Bool :=
  let v := s.rackSet 0x0801#16
  v = 0 || (v = 1 && !pps) || (v = 2 && pps)

/-- Quality once a source is locked with offset theta (R298). A PPS lock beside a locked PTP changes no quality (R294). -/
def State.correct (s : State) (pps : Bool) (theta : Int) : State :=
  if s.clk.quality = .unset then s.stepTime theta 0
  else if pps ∧ s.clk.ptpLocked then s
  else if theta.natAbs ≤ 1000 then
    ({ s with clk := { s.clk with theta := none } }).setQuality (if pps then .lockedPps else .lockedPtp)
  else if theta.natAbs ≤ 10000000 ∨ s.anyOpen ∨ s.rackSet 0x0804#16 = 0 then s.startSlew theta
  else s.stepTime theta 0

/-- TIME_SOURCE_LOCKED: a source steady for 16 consecutive seconds locks and its offset is corrected (R295, R298). -/
def execTimeSourceLocked (t : Nat) (pps : Bool) (thetaNs : Int) (seconds : Nat) (s : State) : Out3 :=
  let s := s.tick t
  if s.sourceUsed pps ∧ 16 ≤ seconds then
    let s := { s with clk := { s.clk with
      ptpLocked := s.clk.ptpLocked || !pps, ppsLocked := s.clk.ppsLocked || pps, lossAt := none } }
    .next ((s.log Lg.timeSourceLocked unitRmu ([if pps then 1 else 0] ++ leInt 8 thetaNs)).correct pps thetaNs)
  else .next s

/-- TIME_SLEW_END: the slewed offset is within 1 us and quality becomes the locked value (R298). -/
def execTimeSlewEnd (t : Nat) (thetaNs : Int) (rate : Int) (s : State) : Out3 :=
  let s := s.tick t
  if s.clk.quality = .slewing ∧ thetaNs.natAbs ≤ 1000 ∧ rate.natAbs ≤ maxSlew then
    let s := { s with clk := { s.clk with theta := none, rate := rate } }
    .next ((s.log Lg.timeSlew unitRmu ([1#8] ++ leInt 8 thetaNs ++ leInt 4 (ratePpm rate))).setQuality s.lockedQuality)
  else .next s

/-- A source is lost (R295, R297): with every source lost, quality goes to HOLDOVER at once and RATE is held; in STARTING
and UNSET nothing changes. -/
def State.loseSource (s : State) (pps : Bool) (uLockNs : Nat) : State :=
  let s := { s with clk := { s.clk with
    ptpLocked := s.clk.ptpLocked && pps, ppsLocked := s.clk.ppsLocked && !pps } }
  let s := s.log Lg.timeSourceLost unitRmu [if pps then 1 else 0]
  if s.clk.ptpLocked || s.clk.ppsLocked then
    if s.clk.quality = .lockedPtp && !s.clk.ptpLocked then s.setQuality .lockedPps else s
  else if s.clk.quality = .starting ∨ s.clk.quality = .unset then s
  else
    ({ s with clk := { s.clk with lossAt := some s.clk.osc, uLock := uLockNs, theta := none } }).setQuality .holdover

/-- TIME_SOURCE_LOST: PTP without an announce for 3 intervals, or PPS without a pulse for 2 s. -/
def execTimeSourceLost (t : Nat) (pps : Bool) (uLockNs : Nat) (s : State) : Out3 :=
  let s := s.tick t
  if (if pps then s.clk.ppsLocked else s.clk.ptpLocked) then .next (s.loseSource pps uLockNs) else .next s

/-- PPS_PULSE: a pulse more than 1 us from the PTP phase while PTP is locked is rejected, logged and loses PPS (R295). -/
def execPpsPulse (t : Nat) (deviationNs : Int) (s : State) : Out3 :=
  let s := s.tick t
  if s.clk.ptpLocked ∧ deviationNs.natAbs > 1000 then
    let s := s.log Lg.ppsRejected unitRmu (leInt 8 deviationNs)
    if s.clk.ppsLocked then .next (s.loseSource true s.clk.uLock) else .next s
  else .next s

/-- The uncertainty in holdover, in ns: u_lock and 1 us per hour since the loss (R297). -/
def holdoverNs (uLock elapsed : Nat) : Nat := uLock + elapsed * 1000 / 3600000000000

/-- TIME_QUALITY_DECAY: beyond 10 us DEGRADED, 24 h after the loss FREE_RUNNING (R297). -/
def execTimeQualityDecay (t : Nat) (s : State) : Out3 :=
  let s := s.tick t
  match s.clk.lossAt with
  | none => .next s
  | some at_ =>
    let d := s.osc - at_
    if s.clk.quality = .holdover ∨ s.clk.quality = .degraded then
      if 86400000000000 ≤ d then .next (s.setQuality .freeRunning)
      else if holdoverNs s.clk.uLock d > 10000 then .next (s.setQuality .degraded)
      else .next s
    else .next s

def rxInit : TimeRx := { tNext := 0, rate := 0, quality := 15, seq := 0, missed := 0, lost := false }

def State.setRx (s : State) (unit : BitVec 16) (r : TimeRx) : State := { s with clk := { s.clk with rx := Tab.set s.clk.rx unit r } }

/-- The first 20 bytes of a time-of-day message, most significant byte of each field first (R6, R296). -/
def timeFields (r : TimeRx) : List Byte :=
  be 2 0x5254 ++ be 1 1 ++ be 1 r.quality.toNat ++ be 4 r.seq.toNat ++ be 8 r.tNext ++ be 4 (BitVec.ofInt 32 r.rate).toNat

/-- A time-of-day message with its CRC-32C. -/
def timeMessage (r : TimeRx) : List Byte := timeFields r ++ be 4 (crc32c (timeFields r)).toNat

/-- What a receiver reads from a message: none where MAGIC, VER, the CRC or a reserved quality forbids it; the reserved bits beside
QUAL are ignored (R7, R8, R294, R296). -/
def parseTime (bs : List Byte) : Option TimeRx :=
  let q := fieldBe bs 3 1 % 16
  if fieldBe bs 0 2 = 0x5254 ∧ fieldBe bs 2 1 = 1 ∧ (q < 7 ∨ q = 15) ∧ fieldBe bs 20 4 = (crc32c (field bs 0 20)).toNat then
    some { tNext := fieldBe bs 8 8, rate := (BitVec.ofNat 32 (fieldBe bs 16 4)).toInt, quality := BitVec.ofNat 4 q,
           seq := BitVec.ofNat 32 (fieldBe bs 4 4), missed := 0, lost := false }
  else none

/-- A message missed, or one that cannot be read: the receiver goes on at its last RATE; the 16th consecutive miss is logged and it
reports FREE_RUNNING (R296). -/
def State.missTime (s : State) (unit : BitVec 16) : State :=
  let r := Tab.get s.clk.rx rxInit unit
  let r := { r with missed := r.missed + 1 }
  if r.missed = 16 then (s.setRx unit { r with quality := 4, lost := true }).log Lg.timeSourceLost unit [2] else s.setRx unit r

/-- The bytes of a message as they arrive. -/
def timeBytes (head seq : BitVec 32) (tNext tail : BitVec 64) : List Byte :=
  be 4 head.toNat ++ be 4 seq.toNat ++ be 8 tNext.toNat ++ be 8 tail.toNat

/-- TIME_OF_DAY_MESSAGE: a receiver loads T_NEXT and RATE at the pulse (R296). -/
def execTimeOfDayMessage (t : Nat) (unit : BitVec 16) (head seq : BitVec 32) (tNext tail : BitVec 64) (s : State) : Out3 :=
  let s := s.tick t
  match parseTime (timeBytes head seq tNext tail) with
  | some r => .next (s.setRx unit r)
  | none => .next (s.missTime unit)

/-- TIME_MESSAGE_MISSED. -/
def execTimeMessageMissed (t : Nat) (unit : BitVec 16) (s : State) : Out3 := .next ((s.tick t).missTime unit)

end Sys2Proof.Machine
end

