-- ==== Sys2Proof/Machine/Session.lean ====
section
/-! DEFINITION. Sessions, the machine description, acknowledgements and the protocol's timers (R58 to R69, R371). -/

namespace Sys2Proof.Machine

/-! ### HELLO (R371) -/

/-- The machine description in the order of R71. -/
def helloBody (role ex ey ez quads limit : Nat) (fw : BitVec 64) (epoch : BitVec 32) : List Byte :=
  [0x01#8, BitVec.ofNat 8 role, BitVec.ofNat 8 ex, BitVec.ofNat 8 ey, BitVec.ofNat 8 ez, 0] ++ be 2 quads ++ be 8 limit ++
    be 8 fw.toNat ++ be 4 epoch.toNat ++ be 2 Config.cuts.length ++ Config.cuts.flatMap fun c => be 4 c.toNat

/-- What a keyway is told: its partition, or a description of none (R371). -/
def State.helloKw (s : State) (k : KwId) : List Byte :=
  let fw := Config.firmware s.rmu.fwB
  match s.kwPart k with
  | some p =>
    match s.part p with
    | some v => helloBody (s.kwRole k) v.shape.ex v.shape.ey v.shape.ez v.nQuads (s.tenantLimit p) fw v.epoch
    | none => helloBody 0 0 0 0 0 0 fw s.rackEpoch
  | none => helloBody 0 0 0 0 0 0 fw s.rackEpoch

/-- Quadrants in service: four of every chip in service. -/
def State.quadsInService (s : State) : Nat := 4 * (allChips.filter fun n => s.chipUp n).length

def opHello (c : Ctx) (s : State) : Res :=
  match c.kw? with
  | some k => Res.ok s (s.helloKw k)
  | none => Res.ok s (helloBody 0 4 4 4 s.quadsInService 0 (Config.firmware s.rmu.fwB) s.rackEpoch)

/-! ### Opening and closing (R58, R66, R71) -/

/-- The number after the last one assigned, from 1,024 back to 1, passing over numbers in use (R58). -/
def Keyway.nextNumber (w : Keyway) : Option Nat :=
  ((List.range 1024).map fun i => (w.lastNum + i) % 1024 + 1).find? fun n => (w.bearing? n).isNone

/-- A cut identifier without reserved values (R133). -/
def cutWellFormed (cut : BitVec 32) : Bool :=
  let cls := cut.toNat / 2 ^ 24
  let serial := cut.toNat % 2 ^ 24
  (cls = 1 || cls = 2 || cls = 3) && serial ≠ 0 && serial ≠ 0xFFFFFF

def Session.fresh (num serial : Nat) (a : OpenArgs) (cut : BitVec 32) (via : Via) (now : Nat) : Session :=
  { num := num, serial := serial, nonce := a.nonce, openedAt := now, model := a.model, cut := cut, evAddr := a.evAddr, evPort := a.evPort,
    eventsAll := a.flags.getLsbD 0, next := 1, replies := [], lastCmd := now, lastVia := via, unacked := [], base := none,
    latches := [], held := [], waiting := [] }

/-- The RESET of an image loss goes to the first session a keyway opens, and to the EVENTS_ALL sessions then open (R339). -/
def State.payReset (s : State) (e : Ep) (n : SessRef) : State :=
  if (s.endp e).resetOwed then
    let s := s.modEp e fun w => { w with resetOwed := false }
    match (s.endp e).hist.find? fun ev => ev.code = Ev.reset && ev.seq = 1 with
    | some ev =>
      ((s.endp e).sessions.filter fun q => q.eventsAll || q.ref = n).foldl (fun s q => s.deliver e q.ref ev true) s
    | none => s
  else s

def opSessionOpen (c : Ctx) (a : OpenArgs) (s : State) : Res :=
  let w := s.endp c.ep
  let cut :=
    match c.ep with
    | .kw k => if a.cut = 0 then BitVec.ofNat 32 (s.setNum 0x0105#16 (.kw k)) else a.cut
    | .op => 0
  match w.sessions.find? fun q => q.nonce = a.nonce && decide (s.osc - q.openedAt ≤ 10000000000) with
  | some q => Res.ok s (be 2 q.num)
  | none =>
    if c.ep ≠ .op ∧ !cutWellFormed cut then Res.fail s St.badParameter
    else if c.ep ≠ .op ∧ !Config.cuts.contains cut then Res.fail s St.cutUnknown
    else if w.sessions.length ≥ 1024 then Res.fail s St.sessionLimit
    else
      match w.nextNumber with
      | none => Res.fail s St.sessionLimit
      | some n =>
        let q := Session.fresh n w.opened a cut c.h.via s.osc
        let s := s.modEp c.ep fun w =>
          { w with sessions := w.sessions ++ [q], lastNum := n, opened := w.opened + 1, ended := w.ended.filter fun e => e.1 ≠ n }
        Res.ok (s.payReset c.ep q.ref) (be 2 n)

/-- The body of NO_SESSION: level 1, rack time 8 of the reset that ended the session (R73). -/
def noSessionBody (level time : Nat) : List Byte := be 1 level ++ be 8 time

/-- SESSION-class settings of a keyway lost (R341). -/
def State.dropSessionSettings (s : State) (k : KwId) : State :=
  s.dropRun fun key => decide (key.2 = .kw k) &&
    (match setInfo key.1 with
     | some i => i.cls = .session
     | none => false)

/-- The session's record leaves the owner: its delta base, replies, latches, events and waiting commands go with it. -/
def State.removeSession (s : State) (e : Ep) (n : SessRef) : State :=
  s.modEp e fun w => { w with sessions := w.sessions.filter fun q => q.ref ≠ n }

/-- The handles of a session end with it (R198). -/
def State.endHandles (s : State) (k : KwId) (n : SessRef) : State :=
  ((s.kw k).handles.filter fun h => h.session = n).foldl (fun s h => s.endHandle k h.num) s

/-- A session closes or expires (R66): held commands receive NO_SESSION with level 0, waiting ones are dropped, operations
that have started run on; completed requests lose their records (R69), and the last session takes the SESSION settings. -/
def State.closeSession (s : State) (e : Ep) (n : SessRef) : State :=
  match s.session? e n with
  | none => s
  | some q =>
    let s := q.held.foldl (fun s h =>
      s.reply h.hdr (opcodeOf h.body) St.noSession (s.hdrEpoch h.hdr) (noSessionBody 0 0)) s
    let s := s.removeSession e n
    match e with
    | .op => s
    | .kw k =>
      let s := s.endHandles k n
      let s := { s with reqs := s.reqs.filter fun r => !(r.kw = k && r.session = n && r.stage = Stage.complete) }
      let s := if s.kwOpen k then s else s.dropSessionSettings k
      s.stepIfClosed

def opSessionClose (c : Ctx) (s : State) : Res := Res.ok (s.closeSession c.ep c.session)

/-- `a` is `b` or before it, modulo 2^32. -/
def seqLe (a b : BitVec 32) : Bool := decide ((b - a).toNat < 2 ^ 31)

/-- EVENT_ACK: every event up to the SEQ named (R68). -/
def opEventAck (c : Ctx) (seq : BitVec 32) (s : State) : Res :=
  Res.ok (s.modSession c.ep c.session fun q => { q with unacked := q.unacked.filter fun u => !seqLe u.ev.seq seq })

def opPing (_ : Ctx) (s : State) : Res := Res.ok s

/-! ### Timers -/

/-- The idle limit of a session in ns: KW_SESSION_IDLE, or 60 s on the operator channel (R66, R70). -/
def State.idleNs (s : State) : Ep → Nat
  | .kw k => s.setNum 0x0106#16 (.kw k) * 1000000000
  | .op => 60000000000

/-- SESSION_EXPIRED: a session idle for its limit is closed with the event (R66). -/
def execSessionExpired (t : Nat) (e : Ep) (session : BitVec 16) (s : State) : Out3 :=
  let s := s.tick t
  match s.bearing? e session.toNat with
  | none => .next s
  | some q =>
    if q.lastCmd + s.idleNs e ≤ s.osc then
      .next ((s.raiseS e q.ref Ev.sessionExpired (be 2 q.num)).closeSession e q.ref)
    else .next s

/-- SEQ_GAP_HOLD_EXPIRY: every command held for 2 ms receives SEQ_GAP with E and is dropped without effect (R59). -/
def execSeqGapHoldExpiry (t : Nat) (e : Ep) (session : BitVec 16) (s : State) : Out3 :=
  let s := s.tick t
  match s.bearing? e session.toNat with
  | none => .next s
  | some q =>
    let due := fun (h : HeldCmd) => decide (h.since + 2000000 ≤ s.osc)
    let s' := (q.held.filter due).foldl (fun s h =>
      s.reply h.hdr (opcodeOf h.body) St.seqGap (s.hdrEpoch h.hdr) (be 4 q.next.toNat)) s
    .next (s'.modSession e q.ref fun q => { q with held := q.held.filter fun h => !due h })

/-- EVENT_RESEND: an unacknowledged event is resent every 10 ms with RETRY, and leaves the queue after its eighth send
(R68). -/
def execEventResend (t : Nat) (e : Ep) (session : BitVec 16) (evSeq : BitVec 32) (s : State) : Out3 :=
  let s := s.tick t
  match s.bearing? e session.toNat with
  | none => .next s
  | some q =>
    match q.unacked.find? fun u => u.ev.seq = evSeq with
    | none => .next s
    | some u =>
      if u.lastSend + 10000000 ≤ s.osc then
        let s' := s.sendEvent e q u.ev true
        .next (s'.modSession e q.ref fun q =>
          if u.sends + 1 < 8 then
            { q with unacked := q.unacked.map fun x =>
                if x.ev.seq = evSeq then { x with sends := u.sends + 1, lastSend := s.osc } else x }
          else { q with unacked := q.unacked.filter fun x => x.ev.seq ≠ evSeq })
      else .next s

end Sys2Proof.Machine
end

