-- ==== Sys2Proof/Machine/Transfer.lean ====
section
/-! DEFINITION. Memory registrations, queue pairs, fills, copies and transfers (R71, R372 to R374), the RoCE v2 requests of
hosts (R77, R78), and the ingress buffers of the host ports (R168). -/

namespace Sys2Proof.Machine

/-! ### Registrations and queue pairs -/

def opMemRegister (c : Ctx) (addr : Addr) (len : BitVec 64) (access : BitVec 8) (s : State) : Res :=
  match c.kw? with
  | some k =>
    if (s.kw k).regs.length ≥ 1024 then Res.fail s St.noResource
    else
      let rkey := BitVec.ofNat 32 (s.pickId 0 (2 ^ 32) ((s.kw k).regs.map fun r => r.rkey.toNat))
      let r : MemReg := { rkey := rkey, addr := addr, len := len.toNat, remoteRead := access.getLsbD 0,
                          remoteWrite := access.getLsbD 1 }
      Res.ok ((s.modKw k fun w => { w with regs := w.regs ++ [r] }).useFresh 1) (be 4 rkey.toNat)
  | none => Res.fail s St.wardFault

def opMemDeregister (c : Ctx) (rkey : BitVec 32) (s : State) : Res :=
  match c.kw? with
  | some k =>
    if (s.kw k).regs.any fun r => r.rkey = rkey then
      Res.ok (s.modKw k fun w => { w with regs := w.regs.filter fun r => r.rkey ≠ rkey })
    else Res.fail s St.notFound
  | none => Res.fail s St.wardFault

/-- Every queue pair number in use: an admitted packet names its keyway by it (R46). -/
def State.allQpns (s : State) : List Nat := (List.finRange 64).flatMap fun k => (s.kw k).qps.map fun q => q.qpn.toNat

/-- QP_CREATE (R373): the machine's QPN and PSN are its own choice. -/
def opQpCreate (c : Ctx) (a : QpArgs) (s : State) : Res :=
  match c.kw? with
  | some k =>
    if (s.kw k).qps.length ≥ 64 then Res.fail s St.noResource
    else
      let qpn := BitVec.ofNat 24 (s.pickId 2 (2 ^ 24) s.allQpns)
      let psn := Config.freePsn s.fresh
      let q : Qp := { qpn := qpn, psn := psn, gid := a.gid, hostQpn := a.hostQpn, hostPsn := a.hostPsn,
                      retry := a.retry.toNat, timeout := a.timeout.toNat, error := false, retriesUsed := 0, since := s.osc }
      Res.ok ((s.modKw k fun w => { w with qps := w.qps ++ [q] }).useFresh 1) (be 3 qpn.toNat ++ be 3 psn.toNat)
  | none => Res.fail s St.wardFault

def Keyway.qp? (w : Keyway) (qpn : BitVec 24) : Option Qp := w.qps.find? fun q => q.qpn = qpn

def opQpDestroy (c : Ctx) (qpn : BitVec 24) (s : State) : Res :=
  match c.kw? with
  | some k =>
    match (s.kw k).qp? qpn with
    | some _ => Res.ok (s.modKw k fun w => { w with qps := w.qps.filter fun q => q.qpn ≠ qpn })
    | none => Res.fail s St.notFound
  | none => Res.fail s St.wardFault

/-! ### Fills, copies and transfers: accepted now, their effect at XFER_DONE -/

def opMemFill (c : Ctx) (addr : Addr) (len pattern : BitVec 64) (s : State) : Res :=
  match c.part? s with
  | some p => Res.accepted (s.addOp c.ep c.session c.h.seq c.epoch (.fill p addr len.toNat pattern))
  | none => Res.fail s St.wardFault

def opMemCopy (c : Ctx) (src dst : Addr) (len : BitVec 64) (s : State) : Res :=
  match c.part? s with
  | some p => Res.accepted (s.addOp c.ep c.session c.h.seq c.epoch (.copy p src dst len.toNat))
  | none => Res.fail s St.wardFault

/-- The transfers that an owner's queue pair still carries (R373). -/
def State.qpXfers (s : State) (e : Ep) (qpn : BitVec 24) : List Op :=
  s.ops.filter fun o => o.ep = e &&
    (match o.kind with
     | .xferOut _ a | .xferIn _ a => a.qpn = qpn
     | _ => false)

/-- The RDMA READs among them, in the order they were accepted: the first sixteen are outstanding, the others wait (R77). -/
def State.qpReads (s : State) (e : Ep) (qpn : BitVec 24) : List Op :=
  s.ops.filter fun o => o.ep = e &&
    (match o.kind with
     | .xferIn _ a => a.qpn = qpn
     | _ => false)

/-- Outstanding RDMA READs of a queue pair in one direction (R77). -/
def readLimit : Nat := 16

/-- The numbers of the READs outstanding on a queue pair. -/
def State.readsOut (s : State) (e : Ep) (qpn : BitVec 24) : List Nat := ((s.qpReads e qpn).take readLimit).map Op.id

/-- The machine's own RDMA READ request of an XFER_IN. -/
def State.issueRead (s : State) (q : Qp) (a : XferArgs) : State :=
  s.emit (.rdmaRead q.gid q.hostQpn a.remoteVa a.remoteRkey a.len.toNat)

/-- A queue pair's local ACK timeout runs from now (R373). -/
def State.startAckTimer (s : State) (k : KwId) (qpn : BitVec 24) : State :=
  s.modKw k fun w => { w with qps := w.qps.map fun q => if q.qpn = qpn then { q with since := s.osc } else q }

/-- A transfer starts on a queue pair of the keyway that is not in error (R373). -/
def startXfer (c : Ctx) (a : XferArgs) (kind : PartId → OpKind) (s : State) : Res :=
  match c.kw?, c.part? s with
  | some k, some p =>
    match (s.kw k).qp? a.qpn with
    | none => Res.fail s St.notFound
    | some q =>
      if q.error then Res.fail s St.qpFailed
      else
        let s := if (s.qpXfers c.ep a.qpn).isEmpty then s.startAckTimer k a.qpn else s
        Res.accepted (s.addOp c.ep c.session c.h.seq c.epoch (kind p))
  | _, _ => Res.fail s St.wardFault

def opXferOut (c : Ctx) (a : XferArgs) (s : State) : Res := startXfer c a (fun p => .xferOut p a) s

def opXferIn (c : Ctx) (a : XferArgs) (s : State) : Res :=
  let r := startXfer c a (fun p => .xferIn p a) s
  match c.kw? with
  | some k =>
    match (s.kw k).qp? a.qpn with
    | some q =>
      if r.status = St.accepted ∧ (s.qpReads c.ep a.qpn).length < readLimit then { r with s := r.s.issueRead q a } else r
    | none => r
  | none => r

/-- Byte i of a fill is byte i mod 8 of the pattern stored least significant byte first (R372). -/
def fillBytes (pattern : BitVec 64) (len : Nat) : List Byte :=
  (List.range len).map fun i => (le 8 pattern.toNat).getD (i % 8) 0

/-- XFER_DONE: session 2, SEQ 4, status 2, and the body of its status where that has one (R73); the operation has ended. -/
def State.xferEnd (s : State) (o : Op) (status : Nat) (tail : List Byte := []) : State :=
  (s.endOp o.id).raiseS o.ep o.session Ev.xferDone (be 2 o.session.num ++ be 4 o.seq.toNat ++ be 2 status ++ tail)

/-- Bytes that a failed transfer leaves undefined in tenant memory (R373). -/
def State.scramble (s : State) (a n : Nat) : State := (s.hbmPaste a n (freeMem s.fresh n)).useFresh n

/-- The bytes an operation of group 0x01 moves still lie in tenant memory: the ward judges them again before the first byte
moves (R48, R49). -/
def State.opInTenant (s : State) : OpKind → Bool
  | .fill p a n _ => s.rangeOk p a n
  | .copy p a b n => s.rangeOk p a n && s.rangeOk p b n
  | .xferOut p a | .xferIn p a => s.rangeOk p a.addr a.len.toNat
  | _ => true

/-- A transfer whose queue pair is in error or gone ends QP_FAILED; what it had written is undefined (R373). A READ that had
not been requested had written nothing. -/
def State.xferFail (s : State) (o : Op) (requested : Bool) : State :=
  match o.kind with
  | .xferIn p a =>
    (if requested && s.opInTenant o.kind then s.scramble (s.phys p a.addr) a.len.toNat else s).xferEnd o St.qpFailed
  | _ => s.xferEnd o St.qpFailed

/-- Has an operation's RDMA READ been requested of the host (R77)? -/
def State.requested (s : State) (o : Op) : Bool :=
  match o.kind with
  | .xferIn _ a => (s.readsOut o.ep a.qpn).contains o.id
  | _ => false

/-- Transfers fail together. -/
def State.failXfers (s : State) (os : List Op) : State :=
  (os.map fun o => (o, s.requested o)).foldl (fun s e => s.xferFail e.1 e.2) s

/-- A queue pair enters error with QP_ERROR, and the transfers on it end (R373, R374). -/
def State.failQp (s : State) (k : KwId) (qpn : BitVec 24) (syndrome : Byte) : State :=
  let s := s.modKw k fun w => { w with qps := w.qps.map fun q => if q.qpn = qpn then { q with error := true } else q }
  let s := s.raiseK k Ev.qpError (be 3 qpn.toNat ++ [syndrome])
  s.failXfers (s.qpXfers (.kw k) qpn)

/-- A transfer's end answers its queue pair: its transport retries and its ACK timeout start afresh. -/
def State.resetRetries (s : State) (k : KwId) (qpn : BitVec 24) : State :=
  s.modKw k fun w => { w with qps := w.qps.map fun q =>
    if q.qpn = qpn then { q with retriesUsed := 0, since := s.osc } else q }

/-- The end of an outstanding READ makes room: the first that waits is requested (R77). -/
def State.issueNext (s : State) (e : Ep) (q : Qp) : State :=
  match ((s.qpReads e q.qpn)[readLimit - 1]?).map Op.kind with
  | some (.xferIn _ a) => s.issueRead q a
  | _ => s

/-- The working queue pair of an operation. -/
def State.opQp (s : State) (o : Op) (qpn : BitVec 24) : Option (KwId × Qp) :=
  match o.ep with
  | .kw k => ((s.kw k).qp? qpn).bind fun q => if q.error then none else some (k, q)
  | .op => none

/-- The bytes of the packets of a transfer that the fabric lost keep what the destination held (R148, R160; log 139). -/
def keepLost (was bs : List Byte) (lost : List Nat) : List Byte :=
  bs.zipIdx.map fun e => if lost.contains (e.2 / 1280) then was.getD e.2 0 else e.1

/-- How a transfer ends: SLOT_MISS where it has lost a packet (R160). -/
def lossStatus (lost : List Nat) : Nat := if lost.isEmpty then St.ok else St.slotMiss

/-- XFER_DONE: the operation's bytes are in place and its event is sent. A copy reads its whole source first (R372). A range
that is no longer the tenant's moves no byte (R48, R49), and a READ that waits for its turn has nothing to end (R77). -/
def execXferDone (t : Nat) (op : Nat) (r : XferResult) (s : State) : Out3 :=
  let s := s.tick t
  match s.op? op with
  | none => .next s
  | some o =>
    if !s.opInTenant o.kind then .next (s.xferEnd o St.wardFault)
    else
    match o.kind with
    | .fill p a n pat => .next ((s.twrite p a (fillBytes pat n)).xferEnd o St.ok)
    | .copy p a b n => 
      let src := s.hbmSlice (s.phys p a) n
      let new := r.lost.foldl (fun m i => Memory.paste m (1280 * i) (min 1280 (n - 1280 * i))
        (Memory.slice s.hbm (s.phys p b + 1280 * i) (min 1280 (n - 1280 * i)))) src
      .next ((s.hbmPaste (s.phys p b) n new).xferEnd o (lossStatus r.lost))
    | .xferOut p a =>
      match s.opQp o a.qpn with
      | some (k, q) =>
        let s := if r.lost.isEmpty then s.emit (.rdmaWrite q.gid q.hostQpn a.remoteVa a.remoteRkey (s.tread p a.addr a.len.toNat)) else s
        .next ((s.resetRetries k a.qpn).xferEnd o (lossStatus r.lost))
      | none => .next (s.xferFail o false)
    | .xferIn p a =>
      match s.opQp o a.qpn with
      | some (k, q) =>
        if !s.requested o then .next s
        else
          let waits := decide (readLimit < (s.qpReads o.ep a.qpn).length)
          let bs := r.host.take a.len.toNat
          let s := s.twrite p a.addr (keepLost (s.tread p a.addr bs.length) bs r.lost)
          let s := (s.resetRetries k a.qpn).xferEnd o (lossStatus r.lost)
          .next (if waits then s.issueNext o.ep q else s)
      | none => .next (s.xferFail o (s.requested o))
    | _ => .next s

/-! ### RoCE v2 (R46, R48, R77, R78) -/

/-- The keyway that created a queue pair. -/
def State.qpOwner (s : State) (qpn : BitVec 24) : Option (KwId × Qp) :=
  (List.finRange 64).findSome? fun k => ((s.kw k).qp? qpn).map fun q => (k, q)

/-- A packet that fails admission is discarded and counted (R46). -/
def State.countAdmission (s : State) (p : HostPortId) : State := s.modPort p fun q => { q with admission := sat64 q.admission 1 }

/-- What becomes of a RoCE packet: lost with a dead port, discarded by admission, or for a queue pair of a keyway. A queue
pair in error answers nothing (log 17). -/
inductive RdmaVerdict where
  | lost
  | discard
  | silent
  | admitted (k : KwId) (q : Qp)
deriving DecidableEq, Repr

def State.rdmaAdmit (s : State) (port : HostPortId) (src : BitVec 128) (qpn : BitVec 24) : RdmaVerdict :=
  if !s.portLive port then .lost
  else
    match s.qpOwner qpn with
    | none => .discard
    | some (k, q) =>
      if s.admits && s.speaksFor port src k then (if q.error then .silent else .admitted k q) else .discard

/-- The region an R_Key names, when it admits the access and holds the whole range, and the partition's address of the
range when every byte of it is tenant memory (R48, R49, R78). -/
def State.rdmaRange (s : State) (k : KwId) (r : RdmaReq) (n : Nat) (write : Bool) : Option (PartId × Addr) :=
  match (s.kw k).regs.find? fun g => g.rkey = r.rkey, s.kwPart k with
  | some g, some p =>
    let a : Addr := BitVec.ofNat 48 r.va.toNat
    if decide (r.va.toNat < 2 ^ 48) && (if write then g.remoteWrite else g.remoteRead) &&
        decide (g.addr.toNat ≤ r.va.toNat) && decide (r.va.toNat + n ≤ g.addr.toNat + g.len) && s.rangeOk p a n then
      some (p, a)
    else none
  | _, _ => none

/-- A CNP for every packet that arrived ECN-marked (R77). -/
def State.sendCnps (s : State) (port : HostPortId) (n : Nat) : State :=
  (List.replicate n ()).foldl (fun s _ => s.emit (.rdmaCnp port)) s

/-- A host RDMA request: too long, refused by the ward, or `go` on the permitted range (R77, R78). -/
def State.rdma (s : State) (r : RdmaReq) (n : Nat) (write : Bool) (go : State → KwId → PartId → Addr → State) : State :=
  match s.rdmaAdmit r.port r.src r.qpn with
  | .lost | .silent => s
  | .discard => s.countAdmission r.port
  | .admitted k _ =>
    let s := s.sendCnps r.port r.marked
    if r.dmaLen > 2 ^ 31 then s.emit (.rdmaNak r.port r.qpn true)
    else
      match s.rdmaRange k r n write with
      | some (p, a) => go s k p a
      | none => (s.emit (.rdmaNak r.port r.qpn false)).failQp k r.qpn 5

def execRdmaWrite (t : Nat) (r : RdmaReq) (data : List Byte) (s : State) : Out3 :=
  .next ((s.tick t).rdma r data.length true fun s _ p a => (s.twrite p a data).emit (.rdmaAck r.port r.qpn))

/-- RDMA_IMMEDIATE is raised after the last byte is resident (R78). -/
def execRdmaWriteImmediate (t : Nat) (r : RdmaReq) (data : List Byte) (imm : BitVec 32) (s : State) : Out3 :=
  .next ((s.tick t).rdma r data.length true fun s k p a =>
    ((s.twrite p a data).emit (.rdmaAck r.port r.qpn)).raiseK k Ev.rdmaImmediate (be 3 r.qpn.toNat ++ be 4 imm.toNat))

def execRdmaRead (t : Nat) (r : RdmaReq) (s : State) : Out3 :=
  .next ((s.tick t).rdma r r.dmaLen false fun s _ p a =>
    s.emit (.rdmaReadData r.port r.qpn (s.tread p a r.dmaLen)))

/-- RDMA_REFUSED_OPERATION: SEND, atomics and other transports receive an invalid-request NAK (R77). -/
def execRdmaRefusedOperation (t : Nat) (port : HostPortId) (src : RdmaSource) (qpn : BitVec 24) (s : State) : Out3 :=
  let s := s.tick t
  match s.rdmaAdmit port src.gid qpn with
  | .lost | .silent => .next s
  | .discard => .next (s.countAdmission port)
  | .admitted _ _ => .next ((s.sendCnps port (if src.marked then 1 else 0)).emit (.rdmaNak port qpn true))

/-- HOST_NAK_RECEIVED: a NAK of the host puts the queue pair in error with its syndrome (R374). -/
def execHostNakReceived (t : Nat) (port : HostPortId) (src : BitVec 128) (qpn : BitVec 24) (syndrome : Byte) (s : State) :
    Out3 :=
  let s := s.tick t
  match s.rdmaAdmit port src qpn with
  | .lost | .silent => .next s
  | .discard => .next (s.countAdmission port)
  | .admitted k _ =>
    if syndrome = 2 ∨ syndrome = 3 ∨ syndrome = 4 then .next (s.failQp k qpn syndrome) else .next s

/-- The local ACK timeout of a code in ns: 4.096 us x 2^code (R373). -/
def ackTimeoutNs (code : Nat) : Nat := 4096 * 2 ^ code

/-- QP_ACK_TIMEOUT: a transfer of the queue pair has gone unanswered for its timeout: a retry while the retry count allows one,
else the queue pair enters error (R373). Code 0 is no timeout. -/
def execQpAckTimeout (t : Nat) (k : KwId) (qpn : BitVec 24) (s : State) : Out3 :=
  let s := s.tick t
  match (s.kw k).qp? qpn with
  | none => .next s
  | some q =>
    if q.error ∨ q.timeout = 0 ∨ (s.qpXfers (.kw k) qpn).isEmpty = true ∨ s.osc < q.since + ackTimeoutNs q.timeout then .next s
    else if q.retriesUsed < q.retry then
      .next (s.modKw k fun w => { w with qps := w.qps.map fun q =>
        if q.qpn = qpn then { q with retriesUsed := q.retriesUsed + 1, since := s.osc } else q })
    else .next (s.failQp k qpn 1)

/-- CNP_RECEIVED: the machine lowers its sending rate towards the port (R77). -/
def execCnpReceived (t : Nat) (port : HostPortId) (src : BitVec 128) (qpn : BitVec 24) (s : State) : Out3 :=
  let s := s.tick t
  match s.rdmaAdmit port src qpn with
  | .lost | .silent => .next s
  | .discard => .next (s.countAdmission port)
  | .admitted _ _ => .next { s with rateCuts := Tab.set s.rateCuts port (Tab.get s.rateCuts 0 port + 1) }

/-- The ingress buffer of a host port: 32 MiB (R168). -/
def ingressBytes : Nat := 32 * 2 ^ 20

/-- What an ingress buffer holds at an instant: the frames' bytes whose host slot has not come. -/
def HostPort.fill (q : HostPort) (now : Nat) : Nat := ((q.queue.filter fun e => decide (absSlot now ≤ e.1)).map Prod.snd).sum

/-- HOST_FRAME_INGRESS: a frame enters the port's buffer and leaves it as HOST packets in the partition's host slots to its ingest
chip; it is marked CE above FAB_HOST_ECN_FILL, so that the machine returns a CNP, and dropped at a full buffer or where no way leads
to the chip (R153, R168). -/
def execHostFrameIngress (t : Nat) (port : HostPortId) (f : HostFrame) (s : State) : Out3 :=
  let s := s.tick t
  if s.portLive port then
    let fill := (s.port port).fill s.osc
    let drop := s.modPort port fun q => { q with drops := sat64 q.drops 1 }
    if fill + f.bytes.length > ingressBytes then .next drop
    else
      let n := ((s.part f.part).map Part.ingestChip).getD 0
      let pkts := firmwarePkts .host n n f.part 0 f.bytes
      match s.switchSend (hostPortSwitch port) f.part n true pkts with
      | none => .next drop
      | some (s, slots) =>
        let s := s.modPort port fun q =>
          { q with queue := (q.queue.filter fun e => decide (absSlot s.osc ≤ e.1)) ++
              slots.zipIdx.map fun e => (e.1, min 1280 (f.bytes.length - 1280 * e.2)) }
        if fill * 100 > ingressBytes * s.rackSet 0x0303#16 then
          .next ((s.modPort port fun q => { q with marked := sat64 q.marked 1 }).emit (.rdmaCnp port))
        else .next s
  else .next s

end Sys2Proof.Machine
end

