-- ==== Sys2Proof/Machine/Ingest.lean ====
section
/-! DEFINITION. Ingest and requests: sources, alignment, tokenising, delta, lookup, batching, prefill and decode, with the
REQ_*, TOK_LOAD and DELTA_FORGET commands (R27 to R35, R208 to R227). -/

namespace Sys2Proof.Machine

/-! ### Requests -/

def State.request? (s : State) (k : KwId) (tag : BitVec 64) : Option Request :=
  s.reqs.find? fun r => r.kw = k && r.tag = tag

/-- A request is open until its completion (R72, R225). -/
def Request.isOpen (r : Request) : Bool := r.stage ≠ .complete

def State.modReq (s : State) (k : KwId) (tag : BitVec 64) (f : Request → Request) : State :=
  { s with reqs := s.reqs.map fun r => if r.kw = k && r.tag = tag then f r else r }

def State.openReqs (s : State) (p : PartId) : List Request := s.reqs.filter fun r => r.part = p && r.isOpen

/-- Raise ingest counter i of a partition (R227). -/
def State.ingestBump (s : State) (p : PartId) (i n : Nat) : State :=
  s.modPart p fun v => { v with ingest := bump v.ingest i n }

/-- Mark i taken at an instant; stages that did not run repeat the previous mark (R35). -/
def Request.mark (r : Request) (i now : Nat) : Request :=
  let ms := r.marks.take i
  { r with marks := ms ++ List.replicate (i - ms.length) (ms.getLastD 0) ++ [now] }

/-- The 92-byte completion record (R75). -/
def Request.record (r : Request) : List Byte :=
  let before := r.found.take r.p
  let warm := (before.filter fun f => f.2.2).length
  be 4 r.prompt.length ++ be 4 (if r.hadBase then r.d else 0) ++ be 4 r.p ++ be 4 (before.length - warm) ++ be 4 warm ++
    be 2 (r.reread.map Prod.fst).dedup.length ++ be 2 r.holes.length ++ be 4 r.generated.length ++
    ((List.range 8).flatMap fun i => be 8 (r.marks.getD i (r.marks.getLastD 0)))

/-- A request's place in a batch becomes padding (ch. 11 Edges). -/
def cancelChunk (k : KwId) (tag : BitVec 64) (b : Batch) : Batch :=
  { b with chunks := b.chunks.map fun c => if c.kw = k && c.tag = tag then { c with cancelled := true } else c }

/-- A request's chunk leaves the open batches of the former and stays as padding in closed ones. -/
def Part.dropChunk (v : Part) (k : KwId) (tag : BitVec 64) : Part :=
  let leave := fun (b : Batch) => { b with chunks := b.chunks.filter fun c => !(c.kw = k && c.tag = tag) }
  { v with former := (v.former.map fun b => if b.closed then cancelChunk k tag b else leave b).filter fun b =>
             !b.chunks.isEmpty,
           prepared := v.prepared.map (cancelChunk k tag), taken := v.taken.map (cancelChunk k tag) }

/-- The body of REQ_COMPLETE (R74): tag 8, status 2, reserved 2, the record; where a reset ended the request no record is sent,
and the body of RESET_ABORTED, its level, stands in its place (R73; log 19). -/
def completeBody (r : Request) (status : Nat) : List Byte :=
  be 8 r.tag.toNat ++ be 2 status ++ be 2 0 ++
    (match r.resetBy with
     | some level => be 1 level
     | none => r.record)

/-- END is taken when the last token leaves; a request that returned none repeats the mark before (R35). -/
def Request.ended (r : Request) : Request := if r.generated.isEmpty then r else r.mark 7 r.tokenAt

/-- A session that has closed keeps no record of a request that ends after it (R69). -/
def State.dropOrphan (s : State) (r : Request) : State :=
  if (s.session? (.kw r.kw) r.session).isSome then s
  else { s with reqs := s.reqs.filter fun x => !(x.kw = r.kw && x.tag = r.tag) }

/-- The operation of a request in its session (R63). -/
def State.reqOp (s : State) (r : Request) : State :=
  { s with ops := s.ops.filter fun o => !(o.ep = .kw r.kw && o.kind = .request r.tag) }

/-- A request ends: its record is fixed, its pins end, its chunk leaves its batch, and REQ_COMPLETE is sent once (R33,
R69); `reset` is the level of the reset that ends it. -/
def State.endRequest (s : State) (k : KwId) (tag : BitVec 64) (status : Nat) (reset : Option Nat := none) : State :=
  match s.request? k tag with
  | none => s
  | some r =>
    if r.isOpen then
      let r' := { r.ended with stage := .complete, pinned := false, status := some status, resetBy := reset,
                               endedAt := s.rackNs }
      let s := (s.modReq k tag fun _ => r').reqOp r
      let s := (s.modPart r.part fun v => v.dropChunk k tag).krSweep
      (s.raiseS (.kw k) r.session Ev.reqComplete (completeBody r' status) false).dropOrphan r
    else s

def State.endRequests (s : State) (rs : List Request) (status : Nat) (reset : Option Nat := none) : State :=
  rs.foldl (fun s r => s.endRequest r.kw r.tag status reset) s

/-! ### The prepared-batch queue (R223, R224) -/

/-- Padding of a batch: its chunks' and, in FIXED mode, its empty rows' (R222, R227). -/
def Batch.pads (b : Batch) : Nat :=
  (b.chunks.map BatchChunk.pad).sum + (if b.fixed then (b.rows - b.chunks.length) * b.bucket else 0)

/-- Padded tokens of a batch. -/
def Batch.total (b : Batch) : Nat := (b.chunks.map fun c => c.tokens + c.pad).sum

/-- A batch enters the queue: counted, and the alarm re-arms at min(ING_LOW_WATER + 4, 32) (R224). -/
def Part.enqueue (v : Part) (low : Nat) (b : Batch) : Part :=
  { v with prepared := v.prepared ++ [b], former := v.former.filter fun x => x.id ≠ b.id,
           ingest := bump (bump v.ingest 5 1) 6 b.pads,
           alarmArmed := v.alarmArmed || decide (min (low + 4) 32 ≤ v.prepared.length + 1) }

/-- A batch closes: it enters the queue, or with the queue full it stays in the former (R223). -/
def State.closeBatch (s : State) (p : PartId) (id : Nat) : State :=
  let low := s.partSet p 0x0502#16
  s.modPart p fun v =>
    match v.former.find? fun b => b.id = id with
    | none => v
    | some b =>
      if v.prepared.length < 32 then v.enqueue low { b with closed := true }
      else { v with former := v.former.map fun x => if x.id = id then { x with closed := true } else x,
                    ingest := if b.closed then v.ingest else bump v.ingest 7 1 }

/-- May a chunk's batch be taken: its request's blocks are resident (R30, R223), or the chunk is only padding. -/
def State.chunkReady (s : State) (c : BatchChunk) : Bool :=
  c.cancelled ||
    (match s.request? c.kw c.tag with
     | some r => r.resident
     | none => true)

/-- A place falls free: the oldest ready closed batch of the former takes it, or else the oldest closed one. -/
def State.refillQueue (s : State) (p : PartId) : State :=
  let low := s.partSet p 0x0502#16
  match s.part p with
  | none => s
  | some v =>
    if v.prepared.length < 32 then
      let closed := v.former.filter fun b => b.closed
      match (closed.find? fun b => b.chunks.all s.chunkReady) <|> closed.head? with
      | some b => s.setPart p (some (v.enqueue low b))
      | none => s
    else s

/-- QUEUE_LOW when the depth falls from above the mark to it or below while armed (R224). -/
def State.depthFell (s : State) (p : PartId) (before : Nat) : State :=
  match s.part p with
  | none => s
  | some v =>
    let low := s.partSet p 0x0502#16
    if v.alarmArmed && decide (low < before) && decide (v.prepared.length ≤ low) then
      let s := s.setPart p (some { v with alarmArmed := false, ingest := bump v.ingest 8 1 })
      s.raisePart p Ev.queueLow [BitVec.ofNat 8 v.prepared.length]
    else s

/-! ### The batch former (R220 to R222) -/

/-- The smallest bucket that holds m tokens. -/
def bucketOf (m : Nat) : Nat := (([512, 1024, 2048, 4096, 8192, 16384, 32768, 65536].find? fun b => m ≤ b).getD 65536)

/-- FIXED for STATIC partitions, BUCKET for TAGGED ones (R220). -/
def State.fixedMode (s : State) (p : PartId) : Bool := s.partSet p 0x0203#16 = 0

/-- Tokens the request's prefill covers, and the length of a full chunk (R220). -/
def Request.prefillTokens (r : Request) : Nat := r.prompt.length - 256 * r.p
def Request.chunkMax (r : Request) (fixed : Bool) : Nat := if fixed then r.fixedTokens else 65536

/-- Tokens of the request's next chunk, and whether it is the last. -/
def Request.nextChunk (r : Request) (fixed : Bool) : Nat × Bool :=
  let left := r.prefillTokens - r.chunk * r.chunkMax fixed
  (min left (r.chunkMax fixed), decide (left ≤ r.chunkMax fixed))

/-- The bucket of a request's chunk: the row length in FIXED mode, 0 for the overflow bucket (R221, R222). -/
def Request.bucket (r : Request) (fixed : Bool) : Nat :=
  if fixed then r.fixedTokens
  else if r.prefillTokens > 65536 then 0
  else bucketOf (r.nextChunk fixed).1

/-- Has a batch no room for a further chunk? -/
def Batch.full (b : Batch) : Bool :=
  if b.fixed then decide (b.rows ≤ b.chunks.length)
  else if b.bucket = 0 then true
  else decide (b.limit < b.total + b.bucket)

/-- The request's next chunk joins the batch former of its partition; a batch it fills closes. A batch holds chunks of one cut only
(R141; log 147). -/
def State.joinFormer (s : State) (k : KwId) (tag : BitVec 64) : State :=
  match s.request? k tag with
  | none => s
  | some r =>
    let fixed := s.fixedMode r.part
    let nc := r.nextChunk fixed
    let bucket := r.bucket fixed
    let c : BatchChunk := { kw := k, tag := tag, tokens := nc.1, pad := if bucket = 0 then 0 else bucket - nc.1,
                            last := nc.2, cancelled := false }
    match s.part r.part with
    | none => s
    | some v =>
      let sameCut := fun (b : Batch) => b.chunks.all fun x => (s.request? x.kw x.tag).all fun y => y.cut = r.cut
      match v.former.find? fun b => b.bucket = bucket && b.fixed = fixed && !b.full && sameCut b with
      | some b =>
        let b' := { b with chunks := b.chunks ++ [c] }
        let s := s.setPart r.part (some { v with former := v.former.map fun x => if x.id = b.id then b' else x })
        if b'.full then s.closeBatch r.part b.id else s
      | none =>
        let b : Batch := { id := v.nextBatch, bucket := bucket, fixed := fixed, chunks := [c], opened := s.osc,
                           limit := r.batchTokens, wait := r.batchWait, rows := r.fixedRows, closed := false }
        let s := s.setPart r.part (some { v with former := v.former ++ [b], nextBatch := v.nextBatch + 1 })
        if b.full then s.closeBatch r.part b.id else s

/-! ### REQ_SUBMIT and REQ_SOURCE (R71, R72, R212 to R214) -/

/-- The larger stamp less the smaller. -/
def stampGap (a b : Nat) : Nat := (a - b) + (b - a)

/-- A source is accepted when it arrived by the deadline and its stamp lies within the window of source 0's (R213). -/
def accepts (rx windowNs stamp0 : Nat) (x : Source) : Bool :=
  decide (x.arrived ≤ rx + windowNs) && decide (stampGap x.stamp stamp0 ≤ windowNs)

/-- A stamp of 0 is replaced by the source's arrival time (R213). -/
def stampOf (stamp : BitVec 64) (now : Nat) : Nat := if stamp = 0 then now else stamp.toNat

/-- The content a repeat is compared by: the flags INLINE and SPECIALS and the text or reference (log 20). -/
def sameContent (a b : Source) : Bool :=
  a.flags.getLsbD 0 = b.flags.getLsbD 0 && a.flags.getLsbD 1 = b.flags.getLsbD 1 && a.text = b.text

/-- Sources held for a tag. -/
def State.heldFor (s : State) (k : KwId) (tag : BitVec 64) : List HeldSource :=
  (s.kw k).heldSources.filter fun h => h.tag = tag

def State.dropHeld (s : State) (k : KwId) (tag : BitVec 64) : State :=
  s.modKw k fun w => { w with heldSources := w.heldSources.filter fun h => h.tag ≠ tag }

/-- A held source whose source 0 has not arrived by its deadline (R214). -/
def HeldSource.stale (h : HeldSource) (now : Nat) : Bool := decide (h.rx + h.window < now)

/-- Held sources past their deadline are discarded, each counted for the partition it arrived for (R214). -/
def State.dropStale (s : State) (k : KwId) (now : Nat) : State :=
  let old := (s.kw k).heldSources.filter fun h => h.stale now
  let s := s.modKw k fun w => { w with heldSources := w.heldSources.filter fun h => !h.stale now }
  old.foldl (fun s h => s.ingestBump h.part 2 1) s

/-- A source held for a request still to come: the settings in force at the tag's RX are those of the request (R213, R226). -/
def State.holdSource (s : State) (p : PartId) (k : KwId) (tag : BitVec 64) (x : Source) : HeldSource :=
  match s.heldFor k tag with
  | h :: _ => { h with src := x }
  | [] => { tag := tag, src := x, rx := x.arrived, window := s.partSet p 0x0501#16 * 1000,
            batchTokens := s.partSet p 0x0503#16, batchWait := s.partSet p 0x0504#16 * 1000,
            maxOpen := s.partSet p 0x0507#16, part := p }

/-- The share key a request inserts under, when its slot allows insertion (R31, R191). -/
def State.insertKeyOf (s : State) (k : KwId) (slot : Nat) : Option (Fin 128 × Nat) :=
  match s.slotKey k slot with
  | some (i, true) => some (i, (s.shareKey i).gen)
  | _ => none

/-- The request as it is submitted, under the values of its epoch and of its RX (R226, R350). -/
def State.newRequest (s : State) (c : Ctx) (k : KwId) (p : PartId) (q : Session) (a : ReqArgs) (held : List HeldSource) :
    Request :=
  let now := c.arrived
  let first := held.head?
  let windowNs := (first.map HeldSource.window).getD (s.partSet p 0x0501#16 * 1000)
  let rx := (first.map HeldSource.rx).getD now
  let src0 : Source := { index := 0, flags := a.flags, stamp := stampOf a.stamp now, arrived := now, text := a.text,
                         via := c.h.via, accepted := true }
  let others := (held.filter fun h => h.src.index < a.sources.toNat).map fun h =>
    { h.src with accepted := accepts rx windowNs src0.stamp h.src }
  let ins := s.insertKeyOf k a.insertSlot.toNat
  { tag := a.tag, kw := k, session := c.session, seq := c.h.seq, part := p, epoch := c.epoch, model := q.model, cut := q.cut,
    declared := a.sources.toNat, flags := a.flags,
    maxTokens := if a.maxTokens = 0 then s.setNum 0x0107#16 (.kw k) else a.maxTokens.toNat,
    temperature := a.temperature, topP := a.topP, seed := a.seed, sources := src0 :: others, rx := rx,
    window := windowNs, batchTokens := (first.map HeldSource.batchTokens).getD (s.partSet p 0x0503#16),
    batchWait := (first.map HeldSource.batchWait).getD (s.partSet p 0x0504#16 * 1000),
    fixedRows := s.partSet p 0x0505#16, fixedTokens := s.partSet p 0x0506#16,
    slots := (s.slots k).map fun x => (x.1, (s.shareKey x.1).gen, x.2), insertKey := ins,
    quota := (ins.map fun i => s.krQuota i.1).getD 0, copies := (ins.map fun i => s.krCopies i.1).getD 1,
    stage := .receiving, fusing := false, prompt := [], keys := [], hadBase := false, d := 0, p := 0, found := [],
    resident := false, chunk := 0, pinned := false, marks := [rx], reread := [], holes := [], generated := [],
    tokenAt := 0, status := none, resetBy := none, endedAt := 0 }

/-- The cut of a configuration's image. -/
def Configuration.cut (c : Configuration) : Option (BitVec 32) := c.prog.map ProgramImage.cut

/-- The configuration in force carries a request's cut (R141). -/
def Part.runsCut (v : Part) (cut : BitVec 32) : Bool := v.running.bind Configuration.cut = some cut

/-- A started configuration of the partition carries the cut (R141). -/
def Part.startedCut (v : Part) (cut : BitVec 32) : Bool :=
  (v.running.toList ++ v.waves.map Wave.config).any fun c => (c.prog.map ProgramImage.cut) = some cut

/-- REQ_SUBMIT (R72, R141, R191, R210, R213, R225): source 0, and the sources held under its tag whose deadline has not passed. The
tag of a completed request may be given again: its tokens and record are then discarded at once, a DESIGN CHOICE (log 146). -/
def opReqSubmit (c : Ctx) (a : ReqArgs) (s : State) : Res :=
  match c.kw?, c.part? s with
  | some k, some p =>
    match s.session? c.ep c.session with
    | none => Res.fail s St.noSession
    | some q =>
      let s := s.dropStale k c.arrived
      let held := s.heldFor k a.tag
      if (s.request? k a.tag).any Request.isOpen then Res.fail s St.badParameter
      else if !((s.part p).any fun v => v.startedCut q.cut) then Res.fail s St.badParameter
      else if (s.kvbOf p q.model).isNone then Res.fail s St.modelUnknown
      else if (s.insertKeyOf k a.insertSlot.toNat).isNone then Res.fail s St.shareDenied
      else if (s.openReqs p).length ≥ ((held.head?).map HeldSource.maxOpen).getD (s.partSet p 0x0507#16) then Res.fail s St.queueFull
      else
        let dead := held.length - (held.filter fun h => h.src.index < a.sources.toNat).length
        let r := s.newRequest c k p q a held
        let s := (s.dropHeld k a.tag).ingestBump p 2 dead
        let s := s.ingestBump p 0 1
        let s := { s with reqs := s.reqs.filter (fun (x : Request) => !(x.kw = k && x.tag = a.tag)) ++ [r] }
        Res.accepted (s.addOp c.ep c.session c.h.seq c.epoch (.request a.tag))
  | _, _ => Res.fail s St.wardFault

/-- REQ_SOURCE (R212 to R214): joins its request by tag, is held for a request still to come, or finds it closed. -/
def opReqSource (c : Ctx) (a : SourceArgs) (s : State) : Res :=
  match c.kw?, c.part? s with
  | some k, some p =>
    let now := c.arrived
    let s := s.dropStale k now
    let x : Source := { index := a.index.toNat, flags := a.flags, stamp := stampOf a.stamp now, arrived := now,
                        text := a.text, via := c.h.via, accepted := false }
    match (s.request? k a.tag).filter Request.isOpen with
    | some r =>
      if r.stage ≠ .receiving then Res.fail s St.notFound
      else if r.declared ≤ x.index then Res.fail s St.badParameter
      else
        match r.sources.find? fun y => y.index = x.index with
        | some y => if sameContent x y then Res.ok s else Res.fail s St.badParameter
        | none =>
          if !r.fusing && decide (now ≤ r.rx + r.window) then
            let stamp0 := ((r.sources.find? fun y => y.index = 0).map Source.stamp).getD 0
            let x := { x with accepted := accepts r.rx r.window stamp0 x }
            Res.ok (s.modReq k a.tag fun r => { r with sources := r.sources ++ [x] })
          else Res.fail s St.notFound
    | none =>
      match (s.heldFor k a.tag).find? fun h => h.src.index = x.index with
      | some h => if sameContent x h.src then Res.ok s else Res.fail s St.badParameter
      | none =>
        if (s.kw k).heldSources.length ≥ 64 then Res.fail s St.noResource
        else Res.ok (s.modKw k fun w => { w with heldSources := w.heldSources ++ [s.holdSource p k a.tag x] })
  | _, _ => Res.fail s St.wardFault

/-- HELD_SOURCE_EXPIRY: sources held past their deadline without a source 0 are discarded and counted (R214). -/
def execHeldSourceExpiry (t : Nat) (k : KwId) (tag : BitVec 64) (s : State) : Out3 :=
  let s := s.tick t
  let held := s.heldFor k tag
  if held.any fun h => decide (h.rx + h.window ≤ s.rackNs) then
    .next (held.foldl (fun s h => s.ingestBump h.part 2 1) (s.dropHeld k tag))
  else .next s

/-! ### Alignment and fusion (R213, R214) -/

/-- The ingest unit of a partition's ingest chip runs: its clock stops while every quadrant of the chip is SHUT (R95). -/
def State.ingestRuns (s : State) (p : PartId) : Bool := (s.part p).any fun v => s.unitsRun v.ingestChip

/-- Every declared source is accepted. -/
def Request.allAccepted (r : Request) : Bool :=
  (List.range r.declared).all fun i => r.sources.any fun x => x.index = i && x.accepted

/-- A declared source that is not accepted is left out, with SOURCE_LATE to the session (R214). -/
def State.lateSources (s : State) (r : Request) : State :=
  ((List.range r.declared).filter fun i => !(r.sources.any fun x => x.index = i && x.accepted)).foldl
    (fun s i => (s.raiseS (.kw r.kw) r.session Ev.sourceLate (be 8 r.tag.toNat ++ [BitVec.ofNat 8 i])).ingestBump r.part 1 1) s

/-- ALIGN_DEADLINE: at RX + window the request fuses with the sources accepted so far (R213). -/
def execAlignDeadline (t : Nat) (k : KwId) (tag : BitVec 64) (s : State) : Out3 :=
  let s := s.tick t
  match s.request? k tag with
  | none => .next s
  | some r =>
    if r.stage = .receiving ∧ r.fusing = false ∧ r.rx + r.window ≤ s.rackNs then
      .next ((s.lateSources r).modReq k tag fun r =>
        { r with fusing := true, sources := r.sources.filter fun x => x.accepted })
    else .next s

/-- The bytes of a source: inline, or read from its reference. -/
def State.sourceText (s : State) (p : PartId) : SrcText → List Byte
  | .text bs => bs
  | .ref a n => s.tread p a n.toNat

/-- ASM: the text of the last accepted source is in the unit (R213). -/
def execAsm (t : Nat) (k : KwId) (tag : BitVec 64) (s : State) : Out3 :=
  let s := s.tick t
  match s.request? k tag with
  | none => .next s
  | some r =>
    if r.stage = .receiving ∧ (r.fusing ∨ r.allAccepted) ∧ s.ingestRuns r.part = true then
      .next (s.modReq k tag fun r =>
        { r.mark 1 s.rackNs with
          stage := .assembled, sources := r.sources.map fun x => { x with text := .text (s.sourceText r.part x.text) } })
    else .next s

/-! ### Tokenising (R215, R216, R218) -/

/-- The model's table in a partition. -/
def State.table? (s : State) (p : PartId) (model : BitVec 32) : Option TokTable :=
  (s.part p).bind fun v => v.tables.find? fun t => t.model = model

/-- The fused prompt: each source on its own, in ascending index (R215). -/
def fusePrompt (t : TokTable) (srcs : List Source) : List (BitVec 32) :=
  (List.range 4).flatMap fun i =>
    match srcs.find? fun x => x.index = i with
    | some x =>
      match x.text with
      | .text bs => (tokeniseSource t (x.flags.getLsbD 1) bs).map (BitVec.ofNat 32)
      | .ref _ _ => []
    | none => []

/-- Invalid UTF-8 bytes of the sources (R215). -/
def invalidBytes (srcs : List Source) : Nat :=
  (srcs.map fun x =>
    match x.text with
    | .text bs => invalidUtf8 bs.length bs
    | .ref _ _ => 0).sum

/-- Tokens written to the token ring of the running configuration, checked by the ward (R216). Where in the ring they lie
is not the manual's: the place is a free value (log 4). -/
def State.writeRing (s : State) (p : PartId) (toks : List (BitVec 32)) : State :=
  match s.part p with
  | none => s
  | some v =>
    match v.running.bind Configuration.prog with
    | none => s
    | some g =>
      if s.rangeOk p g.ringAddr g.ringLen && decide (4 ≤ g.ringLen) then
        let slots := g.ringLen / 4
        let start := Config.freeReading s.fresh % slots
        let base := s.phys p g.ringAddr
        (toks.zipIdx.foldl (fun s x => s.hbmPaste (base + 4 * ((start + x.2) % slots)) 4 (Memory.ofBytes (le 4 x.1.toNat)))
          s).useFresh 1
      else s

/-- TOK: the prompt's tokens and chain keys are computed; a prompt outside 1 to 262,144 tokens ends here (R216). -/
def execTok (t : Nat) (k : KwId) (tag : BitVec 64) (s : State) : Out3 :=
  let s := s.tick t
  match s.request? k tag with
  | none => .next s
  | some r =>
    if r.stage = .assembled ∧ s.ingestRuns r.part = true then
      match s.table? r.part r.model, s.part r.part with
      | some tb, some v =>
        let prompt := fusePrompt tb r.sources
        let s := s.ingestBump r.part 3 (invalidBytes r.sources)
        let keys := chainKeys r.model r.cut (v.shape.word r.cut) prompt
        let s := s.modReq k tag fun r => { r.mark 2 s.rackNs with prompt := prompt, keys := keys, stage := .tokenised }
        if prompt.isEmpty ∨ 262144 < prompt.length then .next (s.endRequest k tag St.badParameter)
        else .next (s.writeRing r.part prompt)
      | _, _ => .next (s.endRequest k tag St.modelUnknown)
    else .next s

/-! ### Delta and lookup (R29, R30, R217, R218) -/

/-- Blocks of a prompt, a part-block included. -/
def Request.nb (r : Request) : Nat := (r.prompt.length + 255) / 256

/-- The first block whose keys differ (R217). -/
def firstChange : List (BitVec 128) → List (BitVec 128) → Nat
  | a :: as, b :: bs => if a = b then firstChange as bs + 1 else 0
  | _, _ => 0

/-- An earlier request of the same session has still to pass the delta stage (ch. 02 Edges). -/
def State.deltaBlocked (s : State) (r : Request) : Bool :=
  (s.reqs.takeWhile fun x => !(x.kw = r.kw && x.tag = r.tag)).any fun x =>
    x.kw = r.kw && x.session = r.session && (x.stage = .receiving || x.stage = .assembled || x.stage = .tokenised)

/-- The session's delta base, unless the request asks for none (R212, R217). -/
def State.baseOf (s : State) (r : Request) : Option DeltaBase :=
  if r.flags.getLsbD 2 then none
  else (s.session? (.kw r.kw) r.session).bind fun q => q.base

/-- DLT: d against the session's base as it stands now, which is a use of the base (R217, R219). -/
def execDlt (t : Nat) (k : KwId) (tag : BitVec 64) (s : State) : Out3 :=
  let s := s.tick t
  match s.request? k tag with
  | none => .next s
  | some r =>
    if r.stage = .tokenised ∧ s.deltaBlocked r = false ∧ s.ingestRuns r.part = true then
      let base := s.baseOf r
      let d := match base with
        | some b => firstChange r.keys b.keys
        | none => r.nb
      let s := if base.isSome then
          s.modSession (.kw k) r.session fun q => { q with base := q.base.map fun b => { b with usedAt := s.rackNs } }
        else s
      .next (s.modReq k tag fun r => { r.mark 3 s.rackNs with stage := .deltaDone, hadBase := base.isSome, d := d })
    else .next s

/-- Blocks the lookup stage asks for: 0 to d - 1, and with no base every full block (ch. 02). -/
def Request.lookupBlocks (r : Request) : Nat := if r.hadBase then min r.d r.keys.length else r.keys.length

/-- The warm blocks before p go to the partition's chips, each granule to its own, in their vault slots (R29, R192, R199). -/
def State.fetchWarm (s : State) (k : KwId) (tag : BitVec 64) : State :=
  match s.request? k tag with
  | none => s
  | some r =>
    match s.part r.part with
    | none => s
    | some v =>
      let warm := s.warmWaiting r
      let s := s.noteRequest r (unreadable (fun w g => s.vaultGone (s.ownChip r.part v g).1 w) warm)
      s.sendBlocks r.part (fun _ g => s.ownChip r.part v g) warm

/-- LKP: the blocks found are pinned, p is fixed and the request joins the batch former (R29, R30, R197, R220). -/
def execLkp (t : Nat) (k : KwId) (tag : BitVec 64) (finished : Bool) (s : State) : Out3 :=
  let s := s.tick t
  match s.request? k tag with
  | none => .next s
  | some r =>
    if r.stage = .deltaDone ∧ r.marks.getD 3 0 + lookupNs r.lookupBlocks ≤ s.rackNs + 500 ∧ s.ingestRuns r.part = true then
      let keys := (r.slots.filter fun x => s.genLive x.1 x.2.1).map fun x => x.1
      let finished := finished && s.searchEnds r.part keys (r.keys.take r.lookupBlocks)
      let found := if finished then s.search r.part keys (r.keys.take r.lookupBlocks) else []
      let p := min (min r.d found.length) (r.nb - 1)
      let warm := (found.filter fun f => f.2.2).length
      let s := (s.krBump k 0 1).krBump k 1 (found.length - warm)
      let s := (s.krBump k 2 warm).krBump k 6 (if finished then 0 else 1)
      let s := (s.useBlocks r.part found).modReq k tag fun r =>
        { r.mark 4 s.rackNs with stage := .queued, found := found, p := p, pinned := true }
      .next ((s.joinFormer k tag).fetchWarm k tag)
    else .next s

/-- Does a request read block j from the vault? -/
def Request.reads (r : Request) (j : Nat) : Bool := (r.found.take r.p)[j]?.any fun f => f.2.2

/-- RES: blocks 0 to p - 1 are resident; warm blocks fetched enter the hot tier, those recomputed as holes do not (R30, R193, R200).
Of the second reads named, only those of blocks the request reads from the vault are any. -/
def execRes (t : Nat) (k : KwId) (tag : BitVec 64) (refetched : List (Nat × Fin 64)) (recomputed : List Nat) (s : State) : Out3 :=
  let s := s.tick t
  match s.request? k tag with
  | none => .next s
  | some r =>
    if r.stage = .queued ∧ r.resident = false then
      let re := refetched.filter fun e => r.reads e.1
      let s := s.noteRequest r (re, recomputed.filter fun j => (r.reread ++ re).any fun e => e.1 = j)
      let holes := ((s.request? k tag).map Request.holes).getD []
      let s := s.modReq k tag fun r => { r.mark 5 s.rackNs with resident := true }
      let got := ((r.found.take r.p).zipIdx.filter fun f => !holes.contains f.2).map fun f => (f.1.1, f.1.2.1)
      .next (s.warmToHot r.part got)
    else .next s

/-! ### Batches (R221 to R224) -/

/-- BATCH_WAIT_EXPIRY: ING_BATCH_WAIT after its first chunk joined, a batch closes. -/
def execBatchWaitExpiry (t : Nat) (p : PartId) (batch : Nat) (s : State) : Out3 :=
  let s := s.tick t
  match (s.part p).bind fun v => v.former.find? fun b => b.id = batch with
  | some b => if !b.closed && decide (b.opened + b.wait ≤ s.osc) then .next (s.closeBatch p batch) else .next s
  | none => .next s

/-- The program runs and may take batches: no drain attempt or turn holds them back (R353, R355, R358). -/
def Part.takesBatches (v : Part) : Bool :=
  v.prog = .running && v.running.isSome && v.drainStart.isNone && !v.heldByTurn && v.power = 0

/-- The grid computes: also while a hinge passes or a drain lets it run (R112, R355), and once it has resumed after a wake (R96). -/
def Part.gridRuns (v : Part) (now : Nat) : Bool :=
  (match v.prog with
   | .running | .draining .. => true
   | _ => false) && v.power = 0 && decide (v.runsFrom ≤ now)

/-- BATCH_TAKEN: the oldest prepared batch whose every chunk is ready (R223). -/
def execBatchTaken (t : Nat) (p : PartId) (s : State) : Out3 :=
  let s := s.tick t
  match s.part p with
  | none => .next s
  | some v =>
    match v.prepared.find? fun b => b.chunks.all fun c => s.chunkReady c && (s.request? c.kw c.tag).all fun r => v.runsCut r.cut with
    | some b =>
      if v.takesBatches && v.taken.isNone then
        let s := s.setPart p (some { v with taken := some b, prepared := v.prepared.filter fun x => x.id ≠ b.id })
        .next ((s.depthFell p v.prepared.length).refillQueue p)
      else .next s
    | none => .next s

/-- The chunk of a request in the batch being prefilled. -/
def Part.takenChunk (v : Part) (k : KwId) (tag : BitVec 64) : Option BatchChunk :=
  v.taken.bind fun b => b.chunks.find? fun c => c.kw = k && c.tag = tag && !c.cancelled

/-- A chunk of the taken batch is done; with none left the batch is. -/
def Part.chunkDone (v : Part) (k : KwId) (tag : BitVec 64) : Part :=
  let taken := v.taken.map (cancelChunk k tag)
  { v with taken := if (taken.map fun b => b.chunks.all fun c => c.cancelled) = some true then none else taken }

/-- The next chunk of a request, which with the prefill of the one before it may be taken; RES of a request is that of its last chunk
(R30, R223). -/
def Request.nextPart (r : Request) (fixed : Bool) (now : Nat) : Request :=
  let r := { r with chunk := r.chunk + 1 }
  if (r.nextChunk fixed).2 then r.mark 5 now else r

/-- PREFILL_CHUNK_DONE: a chunk but the last is prefilled, and the next joins the former (R220). -/
def execPrefillChunkDone (t : Nat) (k : KwId) (tag : BitVec 64) (s : State) : Out3 :=
  let s := s.tick t
  match s.request? k tag with
  | none => .next s
  | some r =>
    match (s.part r.part).bind fun v => v.takenChunk k tag, s.part r.part with
    | some c, some v =>
      if v.gridRuns s.osc && v.runsCut r.cut && !c.last then
        let s := s.setPart r.part (some (v.chunkDone k tag))
        .next ((s.modReq k tag fun r => r.nextPart (s.fixedMode r.part) s.rackNs).joinFormer k tag)
      else .next s
    | _, _ => .next s

/-! ### The end of prefill, and decode (R31 to R33) -/

/-- The rows of a launch: the requests in decode, or those of the batch in prefill, each with its tokens (R135). -/
def State.batchRows (s : State) (p : PartId) (decode : Bool) : List Request :=
  if decode then (s.openReqs p).filter fun r => r.stage = .decoding
  else (((s.part p).bind Part.taken).map Batch.chunks).getD [] |>.filterMap fun c =>
    if c.cancelled then none else s.request? c.kw c.tag

/-- A launch as an open cut sees it; under a sealed one there is nothing to see (R135, R136). -/
def State.openLaunch (s : State) (p : PartId) (v : Part) (cut : BitVec 32) (decode : Bool) (input : List Byte) :
    Option Config.OpenLaunch :=
  if cut.toNat / 2 ^ 24 = 1 then
    some { image := v.running.bind Configuration.prog, shape := v.shape.word cut, placement := v.chips,
           batch := (s.batchRows p decode).map fun r => r.prompt ++ r.generated, input := input }
  else none

/-- What the model computes from for a request's tokens so far (R34, R135 to R137). -/
def State.modelInput (s : State) (r : Request) (v : Part) (decode : Bool) (tokens : List (BitVec 32)) : Config.ModelInput :=
  { tokens := tokens, model := r.model, cut := r.cut, shape := v.shape.word r.cut, launch := s.openLaunch r.part v r.cut decode [] }

/-- The KV data of full block j of a prompt: the model's own computation, a free value (R34). -/
def State.kvBlock (s : State) (r : Request) (v : Part) (kvb j : Nat) : Memory :=
  let inp := s.modelInput r v false (r.prompt.take (256 * (j + 1)))
  Memory.ofBytes ((List.range kvb).map fun i => Config.kvByte inp i)

/-- The full blocks from p onward inserted under the request's share key, dropped whole where it may not insert or the quota
refuses (R31, R202, R203). -/
def State.insertPrompt (s : State) (r : Request) : State :=
  if r.keys.length ≤ r.p then s
  else
  match r.insertKey, s.kvbOf r.part r.model, s.part r.part with
  | some (i, gen), some kvb, some v =>
    if s.genLive i gen then
      let bs := (List.range r.keys.length).drop r.p |>.filterMap fun j =>
        (r.keys[j]?).map fun ck => (blockKey (s.shareKey i).value ck, s.kvBlock r v kvb j)
      match s.insertBlocks r.part i kvb r.copies (min r.quota (s.krQuota i)) bs with
      | some (s, m) => s.krBump r.kw 3 m
      | none => s.krBump r.kw 4 1
    else s
  | _, _, _ => s

/-- Sessions of the keyways bound to a partition that hold a delta base: owner, number, last use. -/
def State.bases (s : State) (p : PartId) : List (KwId × SessRef × Nat) :=
  (s.boundKws p).flatMap fun k => (s.kw k).sessions.filterMap fun q => q.base.map fun b => (k, q.ref, b.usedAt)

def dropBase (q : Session) : Session := { q with base := none }

def oldestBase : List (KwId × SessRef × Nat) → Option (KwId × SessRef × Nat)
  | [] => none
  | b :: bs =>
    match oldestBase bs with
    | none => some b
    | some c => if c.2.2 < b.2.2 then some c else some b

/-- Delta bases a partition's share of the session store holds: 128 for each quadrant on the ingest chip (R208). -/
def Part.baseShare (v : Part) : Nat := 128 * v.shape.ks.length

/-- The prompt's keys become the session's delta base; with the share full the least recently used base gives way (R219). -/
def State.setBase (s : State) (r : Request) : State :=
  match s.session? (.kw r.kw) r.session, s.part r.part with
  | some q, some v =>
    let s :=
      if q.base.isNone ∧ v.baseShare ≤ (s.bases r.part).length then
        match oldestBase (s.bases r.part) with
        | some b => (s.modSession (.kw b.1) b.2.1 dropBase).ingestBump r.part 4 1
        | none => s
      else s
    s.modSession (.kw r.kw) r.session fun q => { q with base := some { keys := r.keys, model := r.model, usedAt := s.rackNs } }
  | _, _ => s

/-- PREFILL_COMPLETE: the last chunk is prefilled; blocks are inserted, the base is set, the pins end and decode begins
(R30, R31). -/
def execPrefillComplete (t : Nat) (k : KwId) (tag : BitVec 64) (s : State) : Out3 :=
  let s := s.tick t
  match s.request? k tag with
  | none => .next s
  | some r =>
    match (s.part r.part).bind fun v => v.takenChunk k tag, s.part r.part with
    | some c, some v =>
      if v.gridRuns s.osc && v.runsCut r.cut && c.last then
        let s := s.setPart r.part (some (v.chunkDone k tag))
        let s := (s.insertPrompt r).setBase r
        .next ((s.modReq k tag fun r => { r with stage := .decoding, pinned := false }).krSweep)
      else .next s
    | _, _ => .next s

/-- The next token of a request (R135 to R139): under a sealed cut its logits never see the launch, under a shape-sealed one never
the shape; greedy decoding draws no random word. -/
def State.nextToken (s : State) (r : Request) (v : Part) : BitVec 32 :=
  BitVec.ofNat 32 (sample r.cut r.temperature r.topP r.seed r.generated.length
    (Config.logits (s.modelInput r v true (r.prompt ++ r.generated))))

/-- DECODE_STEP: one token, sent once; the request ends at EOS or at its max tokens (R32, R33). -/
def execDecodeStep (t : Nat) (k : KwId) (tag : BitVec 64) (s : State) : Out3 :=
  let s := s.tick t
  match s.request? k tag with
  | none => .next s
  | some r =>
    match s.part r.part, s.table? r.part r.model with
    | some v, some tb =>
      if r.stage = .decoding ∧ v.gridRuns s.osc = true ∧ v.runsCut r.cut = true then
        let tok := s.nextToken r v
        let n := r.generated.length
        let s := (s.modReq k tag fun r =>
          { (if n = 0 then r.mark 6 s.rackNs else r) with
            generated := r.generated ++ [tok], tokenAt := s.rackNs })
        let s := s.raiseS (.kw k) r.session Ev.tokens (be 8 tag.toNat ++ be 4 n ++ [1#8] ++ be 4 tok.toNat) false
        if (tb.eos ≠ 0xFFFFFFFF ∧ tok.toNat = tb.eos) ∨ r.maxTokens ≤ n + 1 then .next (s.endRequest k tag St.ok)
        else .next s
      else .next s
    | _, _ => .next s

/-! ### Commands about a request (R71, R69) -/

def opReqCancel (c : Ctx) (tag : BitVec 64) (s : State) : Res :=
  match c.kw? with
  | some k =>
    match s.request? k tag with
    | none => Res.fail s St.notFound
    | some r => if r.isOpen then Res.ok (s.endRequest k tag St.cancelled) [0] else Res.ok s [1]
  | none => Res.fail s St.wardFault

/-- 0 queued, 1 prefill, 2 decode, 3 complete (R71). -/
def State.reqState (s : State) (r : Request) : Nat :=
  match r.stage with
  | .complete => 3
  | .decoding => 2
  | _ =>
    if decide (0 < r.chunk) || ((s.part r.part).bind fun v => v.takenChunk r.kw r.tag).isSome then 1 else 0

def opReqStatus (c : Ctx) (tag : BitVec 64) (s : State) : Res :=
  match c.kw? with
  | some k =>
    match s.request? k tag with
    | none => Res.fail s St.notFound
    | some r =>
      let st := s.reqState r
      Res.ok s (BitVec.ofNat 8 st :: (if st = 3 ∧ r.resetBy = none then r.record else []))
  | none => Res.fail s St.wardFault

def opReqTokens (c : Ctx) (tag : BitVec 64) (first : BitVec 32) (count : BitVec 16) (s : State) : Res :=
  match c.kw? with
  | some k =>
    match s.request? k tag with
    | none => Res.fail s St.notFound
    | some r => Res.ok s (((r.generated.drop first.toNat).take count.toNat).flatMap fun t => be 4 t.toNat)
  | none => Res.fail s St.wardFault

/-- REQ_RECORD_EXPIRY: 10 s after END the tokens and the record are discarded (R69). -/
def execReqRecordExpiry (t : Nat) (k : KwId) (tag : BitVec 64) (s : State) : Out3 :=
  let s := s.tick t
  match s.request? k tag with
  | none => .next s
  | some r =>
    if r.stage = .complete ∧ r.endedAt + 10000000000 ≤ s.rackNs then
      .next { s with reqs := s.reqs.filter fun x => !(x.kw = k && x.tag = tag) }
    else .next s

def opDeltaForget (c : Ctx) (s : State) : Res := Res.ok (s.modSession c.ep c.session dropBase)

/-! ### TOK_LOAD (R208 to R211) -/

/-- A partition's chips in service in ascending chip number (R28, R210). -/
def State.serviceChips (s : State) (v : Part) : List ChipId := allChips.filter fun n => v.chips.contains n && s.chipUp n

/-- Every delta base of a model of a partition's keyways discarded (R210, R219). -/
def State.dropModelBases (s : State) (p : PartId) (model : BitVec 32) : State :=
  (s.boundKws p).foldl (fun s k => s.modKw k fun w =>
    { w with sessions := w.sessions.map fun q => if (q.base.map DeltaBase.model) = some model then dropBase q else q }) s

/-- A loaded table is the image's, whatever chips hold it. -/
def sameTable (a b : TokTable) : Bool := { a with chips := [] } = { b with chips := [] }

/-- The table store of a chip has room for a partition's tables: 6 MiB for each quadrant it holds there (R208). -/
def tablesFit (v : Part) (ts : List TokTable) : Bool :=
  v.chips.all fun n =>
    decide (((ts.filter fun t => t.chips.contains n).map TokTable.imageLen).sum ≤ tokImageMax * v.shape.ks.length)

/-- The open requests of a model, when they block a replacement or an unload (R210). -/
def State.modelReqs (s : State) (p : PartId) (model : BitVec 32) : List Request :=
  (s.openReqs p).filter fun r => r.model = model

/-- A table replaced or unloaded: with FORCE the model's open requests end CANCELLED, its bases are discarded (R210). -/
def State.retable (s : State) (p : PartId) (model : BitVec 32) (t : Option TokTable) : State :=
  let s := (s.endRequests (s.modelReqs p model) St.cancelled).dropModelBases p model
  s.modPart p fun v => { v with tables := v.tables.filter (fun x => x.model ≠ model) ++ t.toList }

def opTokLoad (c : Ctx) (model : BitVec 32) (addr : Addr) (len : BitVec 64) (s : State) : Res :=
  match c.part? s with
  | none => Res.fail s St.wardFault
  | some p =>
    match s.part p with
    | none => Res.fail s St.wardFault
    | some v =>
      let old := v.tables.find? fun t => t.model = model
      let blocked := !(s.modelReqs p model).isEmpty && !c.h.force
      if len = 0 then
        match old with
        | none => Res.ok s (be 4 0)
        | some _ => if blocked then Res.fail s St.busy else Res.ok (s.retable p model none) (be 4 0)
      else
        match parseTable (s.tread p addr len.toNat) model with
        | none => Res.fail s St.badParameter
        | some t =>
          let t := { t with chips := (s.serviceChips v).take 2 }
          let vocab := be 4 t.vocab.length
          match old with
          | some o =>
            if sameTable o t then Res.ok s vocab
            else if o.kvb ≠ t.kvb then Res.fail s St.badParameter
            else if !tablesFit v (t :: v.tables.filter fun x => x.model ≠ model) then Res.fail s St.noResource
            else if blocked then Res.fail s St.busy
            else Res.ok (s.retable p model (some t)) vocab
          | none =>
            if tablesFit v (t :: v.tables) then
              Res.ok (s.setPart p (some { v with tables := v.tables ++ [t] })) vocab
            else Res.fail s St.noResource

end Sys2Proof.Machine
end

