-- ==== Sys2Proof/Machine/Abort.lean ====
section
/-! DEFINITION. Collective groups, instances and their aborts (R164, R171, R172, R181 to R184): what stops, traps and resets
need of them. -/

namespace Sys2Proof.Machine

/-- A message queued at its sender under the next XSEQ. -/
def State.queuePrio0 (s : State) (n dst : ChipId) (b : Prio0Body) : State :=
  s.modChip n fun c => { c with xseq := c.xseq + 1, prio0 := c.prio0 ++ [{ xseq := c.xseq + 1, dst := dst, body := b }] }

/-! ### Groups and instances -/

def Part.group? (v : Part) (n : Nat) : Option Group := v.groups.find? fun g => g.num = n && !g.dying

def Part.modGroup (v : Part) (n : Nat) (f : Group → Group) : Part :=
  { v with groups := v.groups.map fun g => if g.num = n then f g else g }

def Group.inst? (g : Group) (seq : Nat) : Option Instance := g.insts.find? fun i => i.seq = seq

def Group.modInst (g : Group) (seq : Nat) (f : Instance → Instance) : Group :=
  { g with insts := g.insts.map fun i => if i.seq = seq then f i else i }

def Instance.member? (x : Instance) (i : Nat) : Option Member := x.members[i]?

def Instance.modMember (x : Instance) (i : Nat) (f : Member → Member) : Instance :=
  { x with members := x.members.modify i f }

/-- The chip of a member. -/
def Part.memberChip (v : Part) (g : Group) (i : Nat) : Option ChipId := (g.members[i]?).bind fun m => v.chips[m]?

/-- The index of a chip's member. -/
def Part.memberOn (v : Part) (g : Group) (n : ChipId) : Option Nat :=
  (v.shape.vchip n).bind fun vc => g.members.findIdx? (· = vc)

/-- A member's instance is live: launched, and neither complete nor final. -/
def Member.live (m : Member) : Bool :=
  match m.st with
  | .running .. | .done => true
  | .aborting .. => m.args.isSome
  | _ => false

def Instance.live (x : Instance) : Bool := x.members.any Member.live

def Group.live (g : Group) : Bool := g.insts.any Instance.live

/-! ### Aborts (R181 to R184) -/

/-- The state of a member at an abort it sends or receives: the first stops it and starts its 10 us; later ones can only
lower the status. -/
def abortState (now status : Nat) : MemberState → MemberState
  | .waiting => .aborting now status
  | .running .. => .aborting now status
  | .done => .aborting now status
  | .aborting since st => .aborting since (min st status)
  | st => st

/-- A member that still runs or has sent its DONE stops now. -/
def Member.stops (m : Member) : Bool :=
  match m.st with
  | .running .. | .done => true
  | _ => false

/-- Is a transfer a member's send for an instance? -/
def Transfer.ofMember (x : Transfer) (p : PartId) (group seq i : Nat) : Bool :=
  x.part = p && x.leg.any fun l => l.group = group && l.seq = seq && l.src = i

/-- A member aborts a live instance, stops its sends and sends notices to every other member (R182, R183). -/
def State.abortMember (s : State) (p : PartId) (g : Group) (seq i status : Nat) : State :=
  match s.part p with
  | none => s
  | some v =>
    match ((v.groups.find? fun x => x.num = g.num).bind fun g => g.inst? seq).bind fun x => x.member? i with
    | some m =>
      if m.stops then
        let s := s.modPart p fun v => v.modGroup g.num fun g => g.modInst seq fun x => x.modMember i fun m =>
          { m with st := abortState s.osc status m.st }
        let s := { s with sends := s.sends.filter fun x => !x.ofMember p g.num seq i }
        match v.memberChip g i with
        | some n =>
          ((List.range g.members.length).filter fun j => j ≠ i).foldl (fun s j =>
            match v.memberChip g j with
            | some d => s.queuePrio0 n d (.abort p g.num seq (BitVec.ofNat 16 status))
            | none => s) s
        | none => s
      else s
    | none => s

/-- Every live instance of one member of a group aborts. -/
def State.abortMemberAll (s : State) (p : PartId) (g : Group) (i status : Nat) : State :=
  g.insts.foldl (fun s x => s.abortMember p g x.seq i status) s

/-- The live instances on a chip abort: its reset, its trap or its program's stop (R182). -/
def State.abortChip (s : State) (p : PartId) (n : ChipId) : State :=
  match s.part p with
  | none => s
  | some v => v.groups.foldl (fun s g =>
      match v.memberOn g n with
      | some i => s.abortMemberAll p g i St.collAborted
      | none => s) s

/-- The live instances of every member abort. -/
def State.abortPart (s : State) (p : PartId) : State :=
  match s.part p with
  | none => s
  | some v => v.chips.foldl (fun s n => s.abortChip p n) s

end Sys2Proof.Machine
end

