-- ==== Sys2Proof/Machine/Program.lean ====
section
/-! DEFINITION. Programs of a partition: loading, hinge waves, cell swaps and calendars' switches, stopping (R99, R100, R106,
R111 to R114, R121, R122, R141, R154 to R156), with the PROG_* and CAL_LOAD commands. -/

namespace Sys2Proof.Machine

/-! ### Cells and blocks of a configuration -/

/-- Words of a message (R102). -/
def msgWords (m : Msg) : Nat := 1 + m.data.length

/-- KIND values (R102). -/
def isHinge (m : Msg) : Bool := m.kind = 1

def hingeMsg : Msg := { kind := 1, tag := 0, imm := 0, data := [], poisoned := false }

/-- The physical block of a logical one under a permutation (R100, R121). -/
def physBlock (rot : List (ChipId × Fin 640 × Fin 640)) (n : ChipId) (b : Fin 640) : Fin 640 :=
  ((rot.find? fun e => e.1 = n && e.2.1 = b).map fun e => e.2.2).getD b

/-- The cell at the place of (c, r) in another block. -/
def cellInBlock (n : ChipId) (b : Fin 640) (c : Fin 80) (r : Fin 64) : CellId :=
  { chip := n, c := ⟨4 * (b.val % 20) + c.val % 4, by omega⟩, r := ⟨2 * (b.val / 20) + r.val % 2, by omega⟩ }

/-- The physical cell of a logical one: its home in the placement, then the permutation in force (R42, R100). -/
def physCell (sh : Shape) (rot : List (ChipId × Fin 640 × Fin 640)) (n : ChipId) (c : Fin 80) (r : Fin 64) : CellId :=
  let h := sh.homeCell c r
  cellInBlock n (physBlock rot n (cellBlock h.1 h.2)) h.1 h.2

def Part.holdsCell (v : Part) (x : CellId) : Bool := v.shape.quads.contains (cellQuad x)

/-- A binding with its cells translated to the physical blocks in force (R100). -/
def bindPhys (sh : Shape) (rot : List (ChipId × Fin 640 × Fin 640)) (n : ChipId) (g : CellCfg) : CellCfg :=
  let p := fun (c : Fin 80) (r : Fin 64) => physCell sh rot n c r
  { g with outs := g.outs.map fun o =>
             match o.2 with
             | .cell c r q => (o.1, .cell (p c r).c (p c r).r q)
             | .fabric => o,
           ins := g.ins.map fun i => (i.1, i.2.map fun x => ((p x.1 x.2).c, (p x.1 x.2).r)) }

/-- What a wave gives the partition's cells: physical cell and binding. A cell outside the partition gets nothing. -/
def Part.cellsOf (v : Part) (w : Wave) : List (CellId × CellCfg) :=
  match w.config.prog with
  | none => []
  | some g => g.cells.filterMap fun x =>
    (v.chips[x.vchip]?).bind fun n =>
      let y := physCell v.shape w.rot n x.c x.r
      if v.holdsCell y then some (y, bindPhys v.shape w.rot n x) else none

/-- The running configuration as the wave that brought it. -/
def Part.runningWave (v : Part) : Option Wave := v.running.map fun c => { config := c, op := none, rot := v.rot, carried := [] }

/-- Waves by number: the passing one is number hinges + 1. -/
def Part.wave? (v : Part) (n : Nat) : Option Wave := if n ≤ v.hinges then none else v.waves[n - v.hinges - 1]?

/-- The configuration in force once every wave started has passed. -/
def Part.latest (v : Part) : Option Wave :=
  match v.waves.getLast? with
  | some w => some w
  | none => v.runningWave

/-- The wave before number n: the one a cell that has not swapped in n runs. -/
def Part.before? (v : Part) (n : Nat) : Option Wave := if n ≤ v.hinges + 1 then v.runningWave else v.wave? (n - 1)

/-- The cells that a wave reaches: those of the configuration before it and those it brings. -/
def Part.waveCells (v : Part) (n : Nat) : List CellId :=
  let old := ((v.before? n).map fun w => (v.cellsOf w).map Prod.fst).getD []
  let new := ((v.wave? n).map fun w => (v.cellsOf w).map Prod.fst).getD []
  (old ++ new).dedup

/-- The next wave a cell swaps in: the first behind its last one that reaches it (R112, R114); past every wave, the number of one
not started. -/
def State.nextWave (s : State) (v : Part) (x : CellId) : Nat :=
  let first := max (s.cell x).swapped v.hinges + 1
  let past := v.hinges + v.waves.length + 1
  (((List.range (past - first)).map (first + ·)).find? fun n => (v.waveCells n).contains x).getD (max first past)

/-- What wave n gives a cell. -/
def Part.given (v : Part) (n : Nat) (x : CellId) : Option CellCfg :=
  (v.wave? n).bind fun w => ((v.cellsOf w).find? fun e => e.1 = x).map Prod.snd

/-- The Keeper streams the wave a cell swaps in next into its shadow banks (R111, R114). -/
def State.loadShadow (s : State) (v : Part) (x : CellId) : State :=
  let n := s.nextWave v x
  if (v.wave? n).isSome then s.modCell x fun c => { c with shadow := some (v.given n x) } else s

/-! ### Queues -/

def CellState.queue (c : CellState) (q : Fin 4) : List Msg := Tab.get c.inq [] q
/-- The backlog of a queue that has none. -/
def Backlog.empty : Backlog := { msgs := [], written := 0, read := 0 }
def CellState.behind (c : CellState) (q : Fin 4) : Backlog := Tab.get c.backlog Backlog.empty q
def CellState.log (c : CellState) (q : Fin 4) : List Msg := (c.behind q).msgs
def CellState.sent (c : CellState) (q : Fin 4) : List Msg := Tab.get c.outq [] q
def CellState.setQueue (c : CellState) (q : Fin 4) (ms : List Msg) : CellState := { c with inq := Tab.set c.inq q ms }

/-- 64-bit words of messages. -/
def wordsOf (ms : List Msg) : Nat := (ms.map msgWords).sum

/-- Segments of 4 KiB (512 words) that the words written to a backlog take: none is freed before it is empty (R117, R118). -/
def Backlog.segments (b : Backlog) : Nat := (b.written + 511) / 512

/-- A message at a backlog's tail. -/
def Backlog.push (b : Backlog) (m : Msg) : Backlog := { b with msgs := b.msgs ++ [m], written := b.written + msgWords m }

/-- The highest backlog of a partition, in segments (R124). -/
def State.sawBacklog (s : State) (x : CellId) (b : Backlog) : State :=
  match s.quadOwner (cellQuad x) with
  | some p => s.modPart p fun v => { v with cells := v.cells.set 2 (max (v.cells.getD 2 0) b.segments) }
  | none => s

/-- A message enters an input queue: at its tail on the chip, or, while the queue is extended, at the tail of its backlog
(R117). -/
def State.enqueue (s : State) (x : CellId) (q : Fin 4) (m : Msg) : State :=
  let c := s.cell x
  if c.extended.contains q then
    let b := (c.behind q).push m
    (s.modCell x fun c => { c with backlog := Tab.set c.backlog q b }).sawBacklog x b
  else s.modCell x fun c => c.setQueue q (c.queue q ++ [m])

/-! ### Room and delivery (R79, R101, R104, R105) -/

/-- The quadrants a message enters: along its row, then along the column (R104). -/
def meshPath (src dst : CellId) : List QuadId :=
  [cellQuad src, cellQuad { chip := src.chip, c := dst.c, r := src.r }, cellQuad { chip := src.chip, c := dst.c, r := dst.r }]

/-- Does the message cross into a quadrant of another partition, or end outside its own (R48, R105)? -/
def State.crosses (s : State) (p : PartId) (src dst : CellId) : Bool :=
  (meshPath src dst).any (fun q => (s.quadOwner q).any fun o => o ≠ p) || s.quadOwner (cellQuad dst) ≠ some p

/-- Will a message on its way be dropped at the edge of another partition's quadrant? It then takes no room (R54). -/
def State.strays (s : State) (m : InFlight) : Bool :=
  match s.quadOwner (cellQuad m.src) with
  | some p => s.crosses p m.src m.dst
  | none => true

/-- Words of a queue of 16 that messages on their way take. -/
def State.inFlightWords (s : State) (x : CellId) (q : Fin 4) : Nat :=
  wordsOf ((s.mesh.filter fun m => m.dst = x && m.dstQ = q && !s.strays m).map InFlight.msg)

/-- The partition's cap on a backlog, in segments (R118). -/
def State.spillCap (s : State) (x : CellId) : Nat :=
  match s.quadOwner (cellQuad x) with
  | some p => s.partSet p 0x0204#16
  | none => 0

/-- Can an input queue take a whole message: 16 words on the chip, or room below the cap in its backlog (R79, R101, R118)? -/
def State.canTake (s : State) (x : CellId) (q : Fin 4) (m : Msg) (flying : Nat) : Bool :=
  let c := s.cell x
  if c.extended.contains q then decide (((c.behind q).push m).segments ≤ s.spillCap x)
  else decide (wordsOf (c.queue q) + flying + msgWords m ≤ 16)

/-- Messages of the Keeper and the fabric interface that wait for an input queue enter it as far as it takes them, in their order;
the number is fuel. -/
def State.settleIn (s : State) (x : CellId) (q : Fin 4) : Nat → State
  | 0 => s
  | f + 1 =>
    match s.waitIn.find? fun e => e.1 = x && e.2.1 = q with
    | none => s
    | some e =>
      if s.canTake x q e.2.2 (s.inFlightWords x q) then
        (({ s with waitIn := s.waitIn.erase e }).enqueue x q e.2.2).settleIn x q f
      else s

/-- The messages that wait for a queue enter it after words of it have been taken. -/
def State.enterWaiting (s : State) (x : CellId) (q : Fin 4) : State := s.settleIn x q s.waitIn.length

/-- A message of the Keeper or of the fabric interface for an input queue (R111, R158): behind those that wait already. -/
def State.offer (s : State) (x : CellId) (q : Fin 4) (m : Msg) : State :=
  ({ s with waitIn := s.waitIn ++ [(x, q, m)] }).enterWaiting x q

/-- The entry cells of the running and of the new configuration. -/
def Part.entryCells (v : Part) (w : Wave) : List CellId :=
  (([v.latest, some w].filterMap id).flatMap fun u =>
    ((u.config.prog.map ProgramImage.entries).getD []).filterMap fun e =>
      (v.chips[e.1]?).map fun n => physCell v.shape u.rot n e.2.1 e.2.2).dedup

/-- HINGE messages of the Keeper: to each entry cell of the running and of the new configuration, on every input queue that names no
source cell in the configuration in front of the wave (R111; log 21). -/
def State.entryHinges (s : State) (v : Part) (w : Wave) : State :=
  let old := (v.latest.map v.cellsOf).getD []
  (v.entryCells w).foldl (fun s x =>
    match old.find? fun e => e.1 = x with
    | some e => (e.2.ins.filter fun i => i.2.isEmpty).foldl (fun s i => s.offer x i.1 hingeMsg) s
    | none => s) s

/-! ### Waves -/

/-- The blocks of a chip that a permutation moves from another: home block, old place, new place. -/
def movedBlocks (old new : List (ChipId × Fin 640 × Fin 640)) (n : ChipId) : List (Fin 640 × Fin 640 × Fin 640) :=
  ((((old ++ new).filter fun e => e.1 = n).map fun e => e.2.1).dedup.map fun b => (b, physBlock old n b, physBlock new n b)).filter
    fun m => m.2.1 ≠ m.2.2

/-- The class of an image that holds a home block on a chip of a placement. -/
def classOf (g : ProgramImage) (sh : Shape) (b : Fin 640) : Option RotClass :=
  g.classes.find? fun c => c.blocks.any fun l => sh.homeBlock l = b

/-- Ranges of one memory copied from another. -/
def copyRanges (size : Nat) (dst src : Memory) (rs : List (Nat × Nat)) : Memory :=
  rs.foldl (fun m r => Memory.paste m r.1 (min r.2 (size - r.1)) (Memory.slice src r.1 (min r.2 (size - r.1)))) dst

/-- The eight cells of a block. -/
def blockCells (n : ChipId) (b : Fin 640) : List CellId :=
  (List.range 8).map fun i => cellInBlock n b ⟨i % 4, by omega⟩ ⟨i / 4 % 2, by omega⟩

/-- The carry region of a moved block, read in `was`, stands at its new place: bytes of the block buffer and of each cell's SRAM. -/
def State.carryBlock (was s : State) (n : ChipId) (c : RotClass) (m : Fin 640 × Fin 640 × Fin 640) : State :=
  let buf := copyRanges (2 ^ 19) (Tab.get s.bufs [] (n, m.2.2)) (Tab.get was.bufs [] (n, m.2.1)) c.buf
  let s := { s with bufs := Tab.set s.bufs (n, m.2.2) buf }
  ((blockCells n m.2.1).zip (blockCells n m.2.2)).foldl (fun s e =>
    { s with sram := Tab.set s.sram e.2 (copyRanges (2 ^ 16) (Tab.get s.sram [] e.2) (Tab.get was.sram [] e.1) c.sram) }) s

/-- The Keeper copies the carry regions of a chip's moved blocks to their new places, all read before any is written (R122). -/
def State.carryChip (s : State) (v : Part) (w : Wave) (old : List (ChipId × Fin 640 × Fin 640)) (n : ChipId) : State :=
  (movedBlocks old w.rot n).foldl (fun t m =>
    match w.config.prog.bind fun g => classOf g v.shape m.1 with
    | some c => State.carryBlock s t n c m
    | none => t) s

/-- The permutation in front of wave n. -/
def Part.rotBefore (v : Part) (n : Nat) : List (ChipId × Fin 640 × Fin 640) := ((v.before? n).map Wave.rot).getD v.rot

/-- The carry regions of a chip follow wave n, once (R122; log 22). -/
def State.carryOnce (s : State) (p : PartId) (n : Nat) (chip : ChipId) : State :=
  match s.part p with
  | none => s
  | some v =>
    match v.wave? n with
    | none => s
    | some w =>
      if w.carried.contains chip then s
      else
        (s.carryChip v w (v.rotBefore n) chip).modPart p fun v =>
          { v with waves := v.waves.modify (n - v.hinges - 1) fun w => { w with carried := w.carried ++ [chip] } }

/-- Does wave n move the block of a cell, away or to its place? -/
def Part.movesBlock (v : Part) (n : Nat) (x : CellId) : Bool :=
  match v.wave? n with
  | some w => (movedBlocks (v.rotBefore n) w.rot x.chip).any fun m => m.2.1 = cellBlock x.c x.r || m.2.2 = cellBlock x.c x.r
  | none => false

/-- Has every cell a wave reaches swapped in it? On one chip, or on all. -/
def State.waveDone (s : State) (v : Part) (n : Nat) (on : Option ChipId) : Bool :=
  (v.waveCells n).all fun x => on.any (· ≠ x.chip) || decide (n ≤ (s.cell x).swapped)

/-- The passing wave completes once its last cell has swapped: the hinge count rises and PROG_HINGE goes to the session that
started it (R113); so do the waves behind it that have passed too. The number is fuel. -/
def State.completeWaves (s : State) (p : PartId) : Nat → State
  | 0 => s
  | f + 1 =>
    match s.part p with
    | none => s
    | some v =>
      match v.waves with
      | [] => s
      | w :: rest =>
        if s.waveDone v (v.hinges + 1) none then
          let s := v.chips.foldl (fun s n => s.carryOnce p (v.hinges + 1) n) s
          let s := s.setPart p (some { v with running := some w.config, rot := w.rot, waves := rest, hinges := v.hinges + 1 })
          let s :=
            match w.op.bind s.op? with
            | some o => (s.raiseS o.ep o.session Ev.progHinge (be 2 w.config.num)).endOp o.id
            | none => s
          s.completeWaves p f
        else s

/-- The entries of a wave's calendar for one chip. -/
def Part.calFor (v : Part) (w : Wave) (n : ChipId) : List CalEntry :=
  match v.shape.vchip n, w.config.cal with
  | some vc, some c => c.entries.filter fun e => e.vchip = vc
  | _, _ => []

/-- Once a chip's last cell has swapped in a wave, its calendar waits for frame F + 1, where F is the first frame that begins
after the swap; in frame F both ends of every link of the chip hear of it (R156). -/
def State.armCalendar (s : State) (p : PartId) (v : Part) (n : Nat) (chip : ChipId) : State :=
  match v.wave? n with
  | some w =>
    if s.waveDone v n (some chip) then
      let f := nextFrame s.osc
      let s := s.modChip chip fun c =>
        { c with calNext := c.calNext ++ [{ at_ := f + 2048, wave := n, part := p, entries := v.calFor w chip }] }
      (List.finRange 8).foldl (fun s i =>
        if s.carries { chip := chip, port := i } then s.emit (.mgmt { chip := chip, port := i } (f / 2048) (.calendar p)) else s) s
    else s
  | none => s

/-- A wave starts: it queues behind those started before it, its cells' shadows are loaded, the entry cells receive hinges
and chips it does not reach take their calendars (R111, R114). -/
def State.startWave (s : State) (p : PartId) (w : Wave) : State :=
  match s.part p with
  | none => s
  | some v0 =>
    let s := (s.entryHinges v0 w).modPart p fun v => { v with waves := v.waves ++ [w], prog := .running }
    let v := { v0 with waves := v0.waves ++ [w], prog := .running }
    let n := v.hinges + v.waves.length
    let s := (v.waveCells n).foldl (fun s x => s.loadShadow v x) s
    let idle := v.chips.filter fun c => !((v.waveCells n).any fun x => x.chip = c)
    let s := idle.foldl (fun s c => s.armCalendar p v n c) s
    s.completeWaves p v.waves.length

/-- Does a HINGE head every bound input queue? -/
def CellState.hingesHead (c : CellState) : Bool :=
  match c.active with
  | none => true
  | some g => g.ins.all fun i =>
    match c.queue i.1 with
    | m :: _ => isHinge m
    | [] => false

/-- A cell that waits to send has not retired its instruction; a receive that only hinges head yields to the swap (R112;
log 23). -/
def CellState.mayRetire (c : CellState) : Bool :=
  match c.blocked with
  | some (.send ..) => false
  | _ => true

/-- The cell takes the hinges, sends one on each bound output queue, and runs its shadow, 16 CELL cycles later (R112). -/
def State.swapCell (s : State) (v : Part) (x : CellId) (n : Nat) (nxt : Option CellCfg) : State :=
  let c := s.cell x
  let ins := ((c.active.map CellCfg.ins).getD []).map Prod.fst
  let taken := ins.foldl (fun c i => c.setQueue i (c.queue i).tail) c
  let out := ((c.active.map CellCfg.outs).getD []).filterMap fun o =>
    match o.2 with
    | .cell dc dr q =>
      some ({ src := x, srcQ := o.1, dst := { chip := x.chip, c := dc, r := dr }, dstQ := q, msg := hingeMsg,
              sentAt := s.cycleOn x.chip } :
        InFlight)
    | .fabric => none
  let s := { s with mesh := s.mesh ++ out }
  let s := s.modCell x fun _ => { taken with active := nxt, shadow := none, swapped := n, blocked := none, since := s.cycleOn x.chip + 16,
                                             sched := 0, slip := 0 }
  (ins.foldl (fun s q => s.enterWaiting x q) s).loadShadow v x

/-- CELL_SWAP (R112 to R114). -/
def execCellSwap (t : Nat) (c : CellId) (s : State) : Out3 :=
  let s := s.tick t
  match s.quadOwner (cellQuad c) with
  | none => .next s
  | some p =>
    match s.part p with
    | none => .next s
    | some v =>
      let n := s.nextWave v c
      match (s.cell c).shadow with
      | some nxt =>
        if v.gridRuns s.osc && (v.wave? n).isSome && (s.cell c).hingesHead && (s.cell c).mayRetire && !(s.cell c).trapped then
          let s := (if v.movesBlock n c then s.carryOnce p n c.chip else s).swapCell v c n nxt
          .next ((s.armCalendar p v n c.chip).completeWaves p v.waves.length)
        else .next s
      | none => .next s

/-! ### PROG_LOAD, CAL_LOAD (R106, R126, R134, R154) -/

def Part.config? (v : Part) (n : Nat) : Option Configuration := v.configs.find? fun c => c.num = n

def Part.setConfig (v : Part) (c : Configuration) : Part :=
  { v with configs := v.configs.filter (fun x => x.num ≠ c.num) ++ [c] }

/-- Formats the machine supports (R126). -/
def formatOk : NumFormat → Bool
  | .mxfp6 | .mxint8 | .otherBlock => false
  | _ => true

/-- A cell's tables fit it: up to 1,024 schedule entries inside a period of up to 65,536 cycles, up to 16 firing rules of one to four
queues (R107, R108). -/
def cellFits (g : CellCfg) : Bool :=
  decide (g.sched.length ≤ 1024) && decide (g.period ≤ 65536) && (g.sched.all fun o => decide (o < g.period)) && g.sched.Pairwise (· < ·) &&
    decide (g.rules.length ≤ 16) && g.rules.all fun r => decide (1 ≤ r.length) && decide r.Nodup

/-- PROG_LOAD stages an image after its checks; a cell's tables that exceed the cell are an image rejected (log 131);
0xFFFF stands for no configuration in PROG_STATUS (R71). -/
def opProgLoad (c : Ctx) (config : BitVec 16) (img : ProgramImage) (s : State) : Res :=
  match c.part? s with
  | none => Res.fail s St.wardFault
  | some p =>
    if config = 0xFFFF#16 then Res.fail s St.badParameter
    else if !img.intact || !img.formats.all formatOk || !img.cells.all cellFits then Res.fail s St.programInvalid
    else if img.mode.toNat ≠ s.partSet p 0x0203#16 then Res.fail s St.programInvalid
    else if !Config.cuts.contains img.cut then Res.fail s St.cutUnknown
    else
      Res.ok (s.modPart p fun v =>
        let cal := (v.config? config.toNat).bind Configuration.cal
        { (v.setConfig { num := config.toNat, prog := some img, cal := cal }) with staged := some config.toNat })

/-- Entries of a calendar image, 8 bytes each. -/
def calEntries : Nat → List Byte → List CalEntry
  | 0, _ => []
  | n + 1, bs =>
    { vchip := fieldLe bs 0 2, slot := fieldLe bs 2 1, port := ⟨fieldLe bs 3 1 % 8, by omega⟩, forward := fieldLe bs 4 1 = 1 } ::
      calEntries n (bs.drop 8)

/-- PORT and USE hold assigned values. -/
def calFieldsOk : Nat → List Byte → Bool
  | 0, _ => true
  | n + 1, bs => decide (fieldLe bs 3 1 ≤ 7) && decide (fieldLe bs 4 1 ≤ 1) && calFieldsOk n (bs.drop 8)

/-- The order of entries: VCHIP, then PORT, then SLOT. -/
def calKey (e : CalEntry) : Nat := (e.vchip * 8 + e.port.val) * 256 + e.slot

/-- Sorted, no two entries with one key. -/
def calSorted : List CalEntry → Bool
  | a :: b :: rest => decide (calKey a < calKey b) && calSorted (b :: rest)
  | _ => true

/-- A calendar image read (R154); `ok` false where no merge can take it. A reserved PORT or USE, a wrong MAGIC or VER, or entries out of
order are no case of R155: that CAL_LOAD takes such an image and its PROG_START is refused CALENDAR_CONFLICT is a DESIGN CHOICE
(log 150). -/
def parseCalendar (bs : List Byte) : Calendar :=
  let n := fieldLe bs 8 4
  let es := calEntries ((bs.length - 20) / 8) (bs.drop 16)
  let ok := decide (20 ≤ bs.length) && decide (fieldLe bs 0 2 = 0x4E43) && decide (fieldLe bs 2 1 = 1) &&
    decide (bs.length = 20 + 8 * n) && decide ((crc32c (bs.take (bs.length - 4))).toNat = fieldLe bs (bs.length - 4) 4) &&
    calFieldsOk n (bs.drop 16) && calSorted es
  { ok := ok, ex := fieldLe bs 3 1, ey := fieldLe bs 4 1, ez := fieldLe bs 5 1, entries := es }

def opCalLoad (c : Ctx) (config : BitVec 16) (addr : Addr) (len : BitVec 64) (s : State) : Res :=
  match c.part? s with
  | none => Res.fail s St.wardFault
  | some p =>
    if config = 0xFFFF#16 then Res.fail s St.badParameter
    else
      let cal := parseCalendar (s.tread p addr len.toNat)
      Res.ok (s.modPart p fun v =>
        v.setConfig { num := config.toNat, prog := (v.config? config.toNat).bind Configuration.prog, cal := some cal })

/-! ### Rotation (R121, R122) -/

/-- The block a logical block of a chip would have to leave holds an HBM backlog in some cell's queue. -/
def State.hasBacklog (s : State) (n : ChipId) (b : Fin 640) : Bool :=
  s.cells.any fun e => e.1.chip = n && cellBlock e.1.c e.1.r = b && !e.2.extended.isEmpty

/-- Moves that stay possible once some blocks are left in place: the occupant of the new place has to move too. The number is
fuel. -/
def settleMoves (rot : List (ChipId × Fin 640 × Fin 640)) : Nat → List (ChipId × Fin 640 × Fin 640) →
    List (ChipId × Fin 640 × Fin 640)
  | 0, ms => ms
  | f + 1, ms => settleMoves rot f (ms.filter fun m => ms.any fun o => o.1 = m.1 && physBlock rot o.1 o.2.1 = m.2.2)

/-- A rotation plan moves blocks only within one class and one quadrant of its chip, and as a permutation (R121). -/
def rotationOk (sh : Shape) (classes : List RotClass) (plan : List (Fin 640 × Fin 640)) : Bool :=
  let inClass := fun (c : RotClass) (b : Fin 640) => c.blocks.any fun l => sh.homeBlock l = b
  (plan.all fun m => blockK m.1 = blockK m.2 && classes.any fun c => inClass c m.1 && inClass c m.2) &&
    decide ((plan.map Prod.fst).Nodup) && decide ((plan.map Prod.snd).Nodup) &&
    plan.all fun m => plan.any fun o => o.1 = m.2

/-- The part of a permutation that an image's classes allow, chip by chip (R121): a configuration that brings other classes runs a
chip's blocks at home. -/
def Part.allowedRot (v : Part) (g : ProgramImage) (rot : List (ChipId × Fin 640 × Fin 640)) : List (ChipId × Fin 640 × Fin 640) :=
  v.chips.flatMap fun n =>
    let mine := rot.filter fun e => e.1 = n
    if rotationOk v.shape g.classes (mine.map Prod.snd) then mine else []

/-- The permutation a plan leads to from the one in force, blocks with a backlog left in place (R122), and the blocks it moves. -/
def State.planned (s : State) (plan rot : List (ChipId × Fin 640 × Fin 640)) : List (ChipId × Fin 640 × Fin 640) × Nat :=
  let ms := plan.filter fun m => physBlock rot m.1 m.2.1 ≠ m.2.2 && !s.hasBacklog m.1 (physBlock rot m.1 m.2.1)
  let ms := settleMoves rot ms.length ms
  (rot.filter (fun e => !(ms.any fun m => m.1 = e.1 && m.2.1 = e.2.1)) ++ ms, ms.length)

/-- Is the plan of every chip complete? One that is not moves no block (R246). -/
def State.planReady (s : State) (v : Part) : Bool := v.chips.all fun n => !s.chipUp n || v.rotDone.contains n

/-- The moves a rotation hinge brings. -/
def State.planMoves (s : State) (v : Part) : List (ChipId × Fin 640 × Fin 640) := if s.planReady v then v.rotPlan.getD [] else []

/-- PART_ROTATION is on (R122). -/
def State.rotates (s : State) (p : PartId) : Bool := s.partSet p 0x0208#16 = 1

/-! ### PROG_START (R111, R141, R155) -/

/-- A port whose link leaves the box (R155). -/
def leavesBox (sh : Shape) (v : Nat) (p : PortId) : Bool :=
  let co := sh.coords v
  let axis := fun (e x : Nat) (plus : Bool) => decide (e = 1) || (decide (e < 4) && (if plus then x = e - 1 else x = 0))
  match p.val with
  | 0 => axis sh.ex co.1 true
  | 1 => axis sh.ex co.1 false
  | 2 => axis sh.ey co.2.1 true
  | 3 => axis sh.ey co.2.1 false
  | 4 => axis sh.ez co.2.2 true
  | 5 => axis sh.ez co.2.2 false
  | _ => false

/-- Does a calendar merge into a partition's chips (R155)? -/
def merges (sh : Shape) : Option Calendar → Bool
  | none => true
  | some c =>
    c.ok && (c.ex = sh.ex && c.ey = sh.ey && c.ez = sh.ez) && (sh.cls = 3 || c.entries.isEmpty) &&
      c.entries.all fun e =>
        decide (e.vchip < sh.nChips) && !reservedSlot e.port e.slot && !leavesBox sh e.vchip e.port

/-- May a program of the partition start: none is being stopped? -/
def Part.startable (v : Part) : Bool :=
  match v.prog with
  | .idle | .running => true
  | _ => false

/-- PROG_START: refused where the configuration is unknown, of the wrong mode, under another cut with requests open, or its
calendar does not merge; else its hinge wave starts. -/
def opProgStart (c : Ctx) (config : BitVec 16) (s : State) : Res :=
  match c.part? s with
  | none => Res.fail s St.wardFault
  | some p =>
    match s.part p with
    | none => Res.fail s St.wardFault
    | some v =>
      match v.config? config.toNat with
      | none => Res.fail s St.notFound
      | some g =>
        match g.prog with
        | none => Res.fail s St.notFound
        | some img =>
          let cutChange := (v.runningWave <|> v.waves.head?).any fun w => w.config.cut ≠ some img.cut
          if (v.latest.map Wave.config) = some g then Res.ok s
          else if img.mode.toNat ≠ s.partSet p 0x0203#16 then Res.fail s St.programInvalid
          else if !v.startable then Res.fail s St.busy
          else if !merges v.shape g.cal then Res.fail s St.calendarConflict
          else if cutChange && !(s.openReqs p).isEmpty && !c.h.force then Res.fail s St.busy
          else
            let s := if cutChange then s.endRequests (s.openReqs p) St.cancelled else s
            let id := s.nextOp
            let s := s.addOp c.ep c.session c.h.seq c.epoch (.progStart p config.toNat)
            let s := s.modPart p fun v => { v with starter := some (c.ep, c.session),
                                                   staged := if v.staged = some config.toNat then none else v.staged }
            -- in a STATIC partition the program's own hinge carries the planned permutation (R121)
            let rot := v.allowedRot img ((v.latest.map Wave.rot).getD v.rot)
            if s.partSet p 0x0203#16 = 0 ∧ s.rotates p = true ∧ v.rotPlan.isSome then
              let m := s.planned (v.allowedRot img (s.planMoves v)) rot
              let s := s.modPart p fun v => { v with rotPlan := none, rotDone := [], cells := bump v.cells 6 m.2 }
              Res.accepted (s.startWave p { config := g, op := some id, rot := m.1, carried := [] })
            else Res.accepted (s.startWave p { config := g, op := some id, rot := rot, carried := [] })

/-! ### Stopping (R71, R96, R103, R355) -/

/-- Is a program in the partition? -/
def Part.hasProgram (v : Part) : Bool := v.prog ≠ .idle

/-- The cells of the partition lose their program and queues. -/
def State.clearCells (s : State) (v : Part) : State :=
  let mine := fun (x : CellId) => v.holdsCell x
  { s with cells := s.cells.filter fun e => !mine e.1, mesh := s.mesh.filter fun m => !mine m.dst,
           waitIn := s.waitIn.filter fun m => !mine m.1 }

/-- The partition's slots, deadlock samples, sends and landings leave its chips. -/
def State.clearFabric (s : State) (p : PartId) (v : Part) : State :=
  let s := v.chips.foldl (fun s n => s.modChip n fun c =>
    { c with cal := c.cal.filter fun e => e.1 ≠ p, calWave := c.calWave.filter fun e => e.1 ≠ p,
             calNext := c.calNext.filter fun e => e.part ≠ p }) s
  { s with deadbolts := s.deadbolts.filter fun d => d.part ≠ p, sends := s.sends.filter fun x => x.part ≠ p,
           landings := s.landings.filter fun x => x.part ≠ p }

/-- The partition has no program: what a stop and what a reset leaves. -/
def State.dropProgram (s : State) (p : PartId) : State :=
  match s.part p with
  | none => s
  | some v =>
    let ids := v.waves.filterMap Wave.op
    let s := (s.clearCells v).clearFabric p v
    let s := s.setPart p (some { v with running := none, prog := .idle, waves := [], rot := [], rotPlan := none, rotDone := [], taken := none,
                                        drainStart := none, drainRetry := none })
    { s with ops := s.ops.filter fun (o : Op) => !ids.contains o.id }

/-- PROG_STOPPED goes to the session that asked for the stop, or else to the one that started the program. -/
def State.raiseStopped (s : State) (v : Part) (op : Option Nat) (status : Nat) : State :=
  let body := be 2 ((v.latest.map fun w => w.config.num).getD 0xFFFF) ++ be 2 status
  match op.bind s.op? with
  | some o => (s.raiseS o.ep o.session Ev.progStopped body).endOp o.id
  | none =>
    match v.starter with
    | some (e, n) => s.raiseS e n Ev.progStopped body
    | none => s

/-- Requests that a stop ends: those of the batch taken and those decoding; after a drain, every open one (R355; log 24). -/
def State.stopRequests (s : State) (p : PartId) (v : Part) (all : Bool) : List Request :=
  (s.openReqs p).filter fun r => all || r.stage = .decoding || (v.takenChunk r.kw r.tag).isSome

/-- The program has stopped. -/
def State.finishStop (s : State) (p : PartId) : State :=
  match s.part p with
  | none => s
  | some v =>
    match v.prog with
    | .stopping status op =>
      (((s.endRequests (s.stopRequests p v false) St.cancelled).abortPart p).dropProgram p).raiseStopped v op status
    | .draining _ op =>
      (((s.endRequests (s.stopRequests p v true) St.cancelled).abortPart p).dropProgram p).raiseStopped v op St.ok
    | _ => s

def setProg (v : Part) (g : ProgState) : Part := { v with prog := g }

/-- PROG_STOP: with nothing running, no effect; with drain, the grid runs on until DRAIN_STOP (R71, R355). -/
def opProgStop (c : Ctx) (drain : BitVec 8) (s : State) : Res :=
  match c.part? s with
  | none => Res.fail s St.wardFault
  | some p =>
    match s.part p with
    | none => Res.fail s St.wardFault
    | some v =>
      let id := s.nextOp
      let s' := s.addOp c.ep c.session c.h.seq c.epoch (.progStop p)
      match v.prog with
      | .idle => Res.ok s
      | .running =>
        if drain = 1 then Res.accepted (s'.modPart p fun v => setProg v (.draining s.osc (some id)))
        else Res.accepted (s'.modPart p fun v => setProg v (.stopping St.ok (some id)))
      | .draining since none =>
        Res.accepted (s'.modPart p fun v => setProg v (if drain = 1 then .draining since (some id) else .stopping St.ok (some id)))
      | .stopping status none => Res.accepted (s'.modPart p fun v => setProg v (.stopping status (some id)))
      | _ => Res.fail s St.busy

def opProgStatus (c : Ctx) (s : State) : Res :=
  match (c.part? s).bind s.part with
  | none => Res.fail s St.wardFault
  | some v =>
    Res.ok s (be 2 ((v.running.map Configuration.num).getD 0xFFFF) ++ be 2 (v.staged.getD 0xFFFF) ++ be 8 v.hinges ++
      be 4 v.spills)

/-! ### Calendars' switches (R156) -/

/-- A calendar takes effect on a chip. -/
def Chip.takeCal (c : Chip) (e : CalTurn) : Chip :=
  { c with cal := c.cal.filter (fun x => x.1 ≠ e.part) ++ e.entries.map (fun y => (e.part, y)),
           calWave := Tab.set c.calWave e.part e.wave }

/-- The calendars due on a chip take effect. -/
def Chip.switchCal (c : Chip) (now : Nat) : Chip :=
  let due := c.calNext.filter fun e => decide (e.at_ ≤ now)
  due.foldl Chip.takeCal { c with calNext := c.calNext.filter fun e => decide (now < e.at_) }

end Sys2Proof.Machine
end

