-- ==== Sys2Proof/Machine/Cells.lean ====
section
/-! DEFINITION. Cells at work: sends, receives, arrivals, firings and schedule entries, the Deadbolt, rotation hinges and
reporting periods (R99 to R124, R376). -/

namespace Sys2Proof.Machine

/-! ### Drops charged to a partition (R51, R160) -/

/-- A packet or message dropped by the ward: counted, and described once in each reporting period (R51); between a step of rack time and
the next boundary no period runs (R376; log 127). -/
def State.wardDrop (s : State) (p : PartId) (check vchip vdest : Nat) (vaddr : Addr) : State :=
  match s.part p with
  | none => s
  | some v =>
    let s := s.setPart p (some { v with fabric := bump32 v.fabric 1 1, perDropSeen := v.perDropSeen || !v.perGap })
    if v.perDropSeen || v.perGap then s
    else s.raisePart p Ev.wardViolation (be 1 check ++ be 1 0 ++ be 2 vchip ++ be 2 vdest ++ be 6 vaddr.toNat)

/-- A slot miss of a partition (R160). -/
def State.slotMiss (s : State) (p : PartId) : State :=
  s.modPart p fun v => { v with fabric := bump32 v.fabric 0 1, perMisses := if v.perGap then v.perMisses else v.perMisses + 1 }

/-! ### Traps (R103) -/

/-- A trap stops the partition's program and aborts the chip's live collectives (R182): PROG_STOPPED follows with PROGRAM_INVALID, and the
cell's virtual coordinates, those of its binding, go to the black box (layout and SRC: log 128). -/
def State.trapCell (s : State) (p : PartId) (x : CellId) : State :=
  let vc := ((s.part p).bind fun v => v.shape.vchip x.chip).getD 0
  let s := s.modCell x fun c => { c with trapped := true }
  let at_ := (((s.cell x).active.map fun g => (g.c.val, g.r.val)).getD (x.c.val, x.r.val))
  let s := s.bbox x.chip Ev.progStopped 1 (be 2 vc ++ be 1 at_.1 ++ be 1 at_.2)
  (s.abortChip p x.chip).modPart p fun v =>
    let v := { v with cells := bump v.cells 4 1 }
    match v.prog with
    | .running | .draining _ none => setProg v (.stopping St.programInvalid none)
    | .draining _ (some o) => setProg v (.stopping St.programInvalid (some o))
    | _ => v

/-! ### Sends and receives (R99, R101, R104, R105) -/

/-- A message leaves its cell for another (R101). -/
def State.launch (s : State) (x : CellId) (q : Fin 4) (dst : CellId) (dq : Fin 4) (m : Msg) : State :=
  { s with mesh := s.mesh ++ [{ src := x, srcQ := q, dst := dst, dstQ := dq, msg := m, sentAt := s.cycleOn x.chip }] }

/-- The cell's partition, when its program computes and the cell runs its active bank: 16 CELL cycles after a swap (R112). -/
def State.cellRuns (s : State) (x : CellId) : Option (PartId × Part × CellCfg) :=
  match s.quadOwner (cellQuad x) with
  | none => none
  | some p =>
    match s.part p, (s.cell x).active with
    | some v, some g =>
      if v.gridRuns s.osc && !(s.cell x).trapped && decide ((s.cell x).since ≤ s.cycleOn x.chip) then some (p, v, g) else none
    | _, _ => none

/-- Where an output queue leads. -/
def outOf (g : CellCfg) (q : Fin 4) : Option OutBind := (g.outs.find? fun o => o.1 = q).map Prod.snd

/-- The sources of a bound input queue. -/
def insOf (g : CellCfg) (q : Fin 4) : Option (List (Fin 80 × Fin 64)) := (g.ins.find? fun i => i.1 = q).map Prod.snd

/-- An instruction that a cell's queues block, from this CELL cycle on (R101). -/
def State.blockCell (s : State) (x : CellId) (b : Blocked) : State :=
  s.modCell x fun k => { k with blocked := some b, blockedAt := if k.blocked = none then s.cycleOn x.chip else k.blockedAt }

/-- Cycles that a STATIC cell's schedule slips, counted as one slip when there are any (R107). -/
def State.slipBy (s : State) (p : PartId) (x : CellId) (lost : Nat) : State :=
  if lost = 0 ∨ s.partSet p 0x0203#16 ≠ 0 then s
  else (s.modCell x fun k => { k with slip := k.slip + lost }).modPart p fun v => { v with cells := bump v.cells 0 1 }

/-- The instruction that was blocked completes: the cell runs on, later by the cycles it was blocked (R101, R107). -/
def State.unblockCell (s : State) (p : PartId) (x : CellId) : State :=
  let k := s.cell x
  let lost := if k.blocked = none then 0 else s.cycleOn x.chip - k.blockedAt
  (s.modCell x fun k => { k with blocked := none }).slipBy p x lost

/-- A send on an output queue bound to a cell: its words stand in the output queue, and leave it at once or the cell blocks (R79, R99,
R101). A message that leaves the partition is not held back: the edge drops it. -/
def State.sendTo (s : State) (p : PartId) (x : CellId) (q : Fin 4) (c : Fin 80) (r : Fin 64) (dq : Fin 4) (m : Msg) : State :=
  let dst : CellId := { chip := x.chip, c := c, r := r }
  if s.crosses p x dst || s.canTake dst dq m (s.inFlightWords dst dq) then
    (((s.launch x q dst dq m).modCell x fun k => { k with outq := Tab.set k.outq q [] })).unblockCell p x
  else (s.modCell x fun k => { k with outq := Tab.set k.outq q [m] }).blockCell x (.send q)

/-- CELL_SEND (R99, R101, R103): a reserved KIND or an unused output queue traps. -/
def execCellSend (t : Nat) (c : CellId) (q : Fin 4) (m : Msg) (s : State) : Out3 :=
  let s := s.tick t
  match s.cellRuns c with
  | none => .next s
  | some (p, _, g) =>
    if (s.cell c).blocked.isSome then .next s
    else if 3 ≤ m.kind.toNat then .next (s.trapCell p c)
    else
      match outOf g q with
      | none => .next (s.trapCell p c)
      | some .fabric => .next (if m.kind = 2 ∧ m.data.length ≠ 3 then s.trapCell p c else s)
      | some (.cell dc dr dq) => .next (s.sendTo p c q dc dr dq m)

/-- The message a receive may take: the queue's head, unless it is a HINGE, in both firing modes (R101, R108; log 129). -/
def CellState.ready (c : CellState) (q : Fin 4) : Bool :=
  match c.queue q with
  | m :: _ => !isHinge m
  | [] => false

/-- A receive takes the head of its queue; what waits for the room enters. -/
def State.takeHead (s : State) (p : PartId) (x : CellId) (q : Fin 4) : State :=
  ((s.modCell x fun k => k.setQueue q (k.queue q).tail).unblockCell p x).enterWaiting x q

/-- CELL_RECEIVE (R99, R101): an unbound queue, or one without a named source, traps; the fabric is the source of a
queue bound to its notifications or aborts (R158, R183). -/
def execCellReceive (t : Nat) (c : CellId) (q : Fin 4) (s : State) : Out3 :=
  let s := s.tick t
  match s.cellRuns c with
  | none => .next s
  | some (p, _, g) =>
    if (s.cell c).blocked.isSome then .next s
    else
      match insOf g q with
      | none => .next (s.trapCell p c)
      | some srcs =>
        if srcs.isEmpty && g.notifyQ ≠ some q && g.abortQ ≠ some q then .next (s.trapCell p c)
        else if (s.cell c).ready q then .next (s.takeHead p c q)
        else .next (s.blockCell c (.recv q))

/-- BLOCKED_INSTRUCTION_COMPLETE (R101): nothing is lost or duplicated. -/
def execBlockedInstructionComplete (t : Nat) (c : CellId) (s : State) : Out3 :=
  let s := s.tick t
  match s.cellRuns c with
  | none => .next s
  | some (p, _, g) =>
    match (s.cell c).blocked with
    | some (.send q) =>
      match outOf g q, (s.cell c).sent q with
      | some (.cell dc dr dq), m :: _ => .next (s.sendTo p c q dc dr dq m)
      | _, _ => .next s
    | some (.recv q) => .next (if (s.cell c).ready q then s.takeHead p c q else s)
    | none => .next s

/-- The CELL cycles a head word takes over the mesh: |dc| + |dr| + 2 (R104; log 25). -/
def meshCycles (src dst : CellId) : Nat :=
  (src.c.val - dst.c.val) + (dst.c.val - src.c.val) + (src.r.val - dst.r.val) + (dst.r.val - src.r.val) + 2

/-- Removes the first element that satisfies a test. -/
def dropFirst {α : Type} (f : α → Bool) : List α → List α
  | [] => []
  | a :: as => if f a then as else a :: dropFirst f as

/-- MESSAGE_ARRIVAL (R104, R105): the oldest message of an output queue reaches its input queue, or is dropped at the edge of
another partition's quadrant. -/
def execMessageArrival (t : Nat) (src : CellId) (q : Fin 4) (s : State) : Out3 :=
  let s := s.tick t
  let mine := fun (m : InFlight) => decide (m.src = src) && decide (m.srcQ = q)
  match s.mesh.find? mine with
  | none => .next s
  | some m =>
    match s.quadOwner (cellQuad src) with
    | none => .next s
    | some p =>
      let gone : State := { s with mesh := dropFirst mine s.mesh }
      if s.cycleOn src.chip < m.sentAt + meshCycles src m.dst then .next s
      else if s.crosses p src m.dst then
        let vc := ((s.part p).bind fun v => v.shape.vchip src.chip).getD 0
        .next (gone.wardDrop p 3 vc vc 0)
      else if s.canTake m.dst m.dstQ m.msg 0 then .next (gone.enqueue m.dst m.dstQ m.msg)
      else .next s

/-! ### Firing modes (R107, R108) -/

/-- The CELL cycle at which a cell's next schedule entry is due: its offset in its repetition of the table, and the slips so far. -/
def CellState.entryDue (k : CellState) (g : CellCfg) : Nat :=
  k.since + k.slip + g.period * (k.sched / g.sched.length) + g.sched.getD (k.sched % g.sched.length) 0

/-- SCHEDULE_ENTRY_ISSUE (R107): the next entry, never skipped and never early; every later one slips by the cycles it loses, counted as
one slip. -/
def execScheduleEntryIssue (t : Nat) (c : CellId) (lost : Nat) (s : State) : Out3 :=
  let s := s.tick t
  match s.cellRuns c with
  | none => .next s
  | some (p, _, g) =>
    if s.partSet p 0x0203#16 = 0 ∧ g.sched ≠ [] ∧ (s.cell c).blocked = none ∧ (s.cell c).entryDue g ≤ s.cycleOn c.chip then
      .next ((s.modCell c fun k => { k with sched := k.sched + 1 }).slipBy p c lost)
    else .next s

/-- The messages of a queue that a rule may match: its first four, none behind a HINGE (R108). -/
def CellState.eligible (c : CellState) (q : Fin 4) : List Msg := ((c.queue q).take 4).takeWhile fun m => !isHinge m

/-- Age of a tag: (t - base) mod 2^16 (R108). -/
def tagAge (base t : BitVec 16) : Nat := (t - base).toNat

/-- The tags a rule matches. -/
def CellState.matches (c : CellState) (rule : List (Fin 4)) : List (BitVec 16) :=
  match rule with
  | [] => []
  | q :: qs => ((c.eligible q).map Msg.tag).filter fun t => qs.all fun q' => (c.eligible q').any fun m => m.tag = t

/-- The oldest match, ties to the lowest rule number: (rule, tag). -/
def CellState.pick (c : CellState) (rules : List (List (Fin 4))) : Option (List (Fin 4) × BitVec 16) :=
  (rules.flatMap fun r => (c.matches r).map fun t => (r, t)).foldl (fun best x =>
    match best with
    | none => some x
    | some b => if tagAge c.base x.2 < tagAge c.base b.2 then some x else some b) none

/-- The base moves past the tags that have retired, in order or not; the number is fuel (R108). -/
def CellState.advance (c : CellState) : Nat → CellState
  | 0 => c
  | f + 1 =>
    if c.retired.contains c.base then
      { c with base := c.base + 1, retired := c.retired.filter fun t => t ≠ c.base }.advance f
    else c

/-- A tag retires: the base is then the oldest tag that has not. -/
def CellState.retire (c : CellState) (t : BitVec 16) : CellState :=
  { c with retired := if c.retired.contains t then c.retired else c.retired ++ [t] }.advance (c.retired.length + 1)

/-- TAGGED_FIRE (R108): the rule with the oldest matching tag takes its messages; a tag more than 32,767 ahead traps. Whether the
firing is its tag's last, and retires it, is the program's: a free value (log 26). -/
def execTaggedFire (t : Nat) (c : CellId) (s : State) : Out3 :=
  let s := s.tick t
  match s.cellRuns c with
  | none => .next s
  | some (p, _, g) =>
    let k := s.cell c
    if s.partSet p 0x0203#16 = 1 ∧ k.blocked = none then
      if g.rules.any fun r => r.any fun q => (k.eligible q).any fun m => decide (32767 < tagAge k.base m.tag) then
        .next (s.trapCell p c)
      else
        match k.pick g.rules with
        | none => .next s
        | some (r, tag) =>
          let last := Config.freeReading s.fresh % 2 = 1
          let s := s.modCell c fun k =>
            let k := r.foldl (fun k q => k.setQueue q (dropFirst (fun m => m.tag = tag) (k.queue q))) k
            if last then k.retire tag else k
          .next ((r.foldl (fun s q => s.enterWaiting c q) s).useFresh 1)
    else .next s

/-! ### The Deadbolt (R110, R115 to R120) -/

/-- The wait-for edges of a blocked cell (R110). -/
def waitsOf (x : CellId) (c : CellState) : List (CellId × Bool) :=
  match c.blocked, c.active with
  | some (.send q), some g =>
    match outOf g q with
    | some (.cell dc dr _) => [({ chip := x.chip, c := dc, r := dr }, true)]
    | _ => []
  | some (.recv q), some g =>
    if c.hingesHead && !g.ins.isEmpty then []
    else ((insOf g q).getD []).map fun y => ({ chip := x.chip, c := y.1, r := y.2 }, false)
  | _, _ => []

def Deadbolt.init (p : PartId) (n : ChipId) : Deadbolt :=
  { part := p, chip := n, edges := [], next := 0, window := 0, reports := [], rounds := [] }

def State.deadbolt (s : State) (p : PartId) (n : ChipId) : Deadbolt :=
  (s.deadbolts.find? fun d => d.part = p && d.chip = n).getD (Deadbolt.init p n)

def State.setDeadbolt (s : State) (d : Deadbolt) : State :=
  { s with deadbolts := s.deadbolts.filter (fun x => !(x.part = d.part && x.chip = d.chip)) ++ [d] }

/-- Cells of a partition on a chip, by c + 80 r. -/
def State.cellsOn (s : State) (p : PartId) (n : ChipId) : List (CellId × CellState) :=
  (s.cells.filter fun e => e.1.chip = n && s.quadOwner (cellQuad e.1) = some p).mergeSort fun a b =>
    decide (cellOrder a.1 ≤ cellOrder b.1)

/-- The edges seen now, each with its run of samples. -/
def State.sampleEdges (s : State) (p : PartId) (n : ChipId) (old : List WaitEdge) : List WaitEdge :=
  (s.cellsOn p n).flatMap fun e => (waitsOf e.1 e.2).map fun w =>
    let prev := ((old.find? fun x => x.src = e.1 && x.dst = w.1 && x.isSend = w.2).map WaitEdge.samples).getD 0
    { src := e.1, dst := w.1, isSend := w.2, samples := prev + 1 }

/-- Cells reached from a set over edges; the number is fuel. -/
def reach (es : List WaitEdge) : Nat → List CellId → List CellId
  | 0, xs => xs
  | f + 1, xs =>
    let new := ((es.filter fun e => xs.contains e.src).map WaitEdge.dst).filter fun y => !xs.contains y
    if new.isEmpty then xs else reach es f (xs ++ new.dedup)

/-- Cells that a cell waits on over one or more edges. -/
def waitSet (es : List WaitEdge) (x : CellId) : List CellId :=
  reach es es.length ((es.filter fun e => e.src = x).map WaitEdge.dst)

/-- The cycle a cell is on: the cells that wait on it and that it waits on (log 27). -/
def cycleOf (es : List WaitEdge) (xs : List CellId) (x : CellId) : List CellId :=
  xs.filter fun y => (waitSet es x).contains y && (waitSet es y).contains x

/-- Every cycle of the stable edges. -/
def cyclesOf (es : List WaitEdge) (xs : List CellId) : List (List CellId) :=
  ((xs.map (cycleOf es xs)).filter fun c => !c.isEmpty).dedup

/-- The full input queues of a cycle: victim cell and queue, lowest c + 80 r first, lowest queue first (R116). A cell blocked sending to
itself is the member that waits, and the victim (log 130). -/
def State.victims (s : State) (cyc : List CellId) : List (CellId × Fin 4) :=
  cyc.flatMap fun v => (List.finRange 4).filterMap fun q =>
    if cyc.any fun x =>
      match (s.cell x).blocked, (s.cell x).active with
      | some (.send oq), some g =>
        decide (outOf g oq = some (OutBind.cell v.c v.r q)) &&
          ((s.cell x).sent oq).any fun m => !s.canTake v q m (s.inFlightWords v q)
      | _, _ => false
    then some (v, q) else none

/-- Spills of a set of cells so far. -/
def Deadbolt.roundsOf (d : Deadbolt) (cyc : List CellId) : Nat := ((d.rounds.find? fun r => r.1 = cyc).map Prod.snd).getD 0

/-- The first cell of a cycle, as its program numbers it, for the dump (R326). -/
def State.cycleDetail (s : State) (cyc : List CellId) : List Byte :=
  match cyc.head?.bind fun x => (s.cell x).active with
  | some g => dumpDetail 0 g.c.val g.r.val 0 0
  | none => []

/-- A cycle goes to the reset ladder at level 1 (R119; detector 1 of R317). -/
def State.escalateCycle (s : State) (p : PartId) (n : ChipId) (cyc : List CellId) : State :=
  let s := s.modPart p fun v => { v with cells := bump v.cells 3 1 }
  { s with resetReqs := s.resetReqs ++ [{ level := 1, scope := .part p, detector := 1, chip := some n, op := none,
                                             firedAt := s.osc, detail := s.cycleDetail cyc }] }

/-- A found cycle is reported for its spill, or goes to the ladder (R116, R119). -/
def State.reportCycle (s : State) (p : PartId) (n : ChipId) (cyc : List CellId) : State :=
  let d := s.deadbolt p n
  if d.reports.contains cyc then s
  else
    match s.victims cyc with
    | [] => s.escalateCycle p n cyc
    | (x, q) :: _ =>
      if s.partSet p 0x0206#16 ≤ d.roundsOf cyc then s.escalateCycle p n cyc
      else if s.partSet p 0x0204#16 ≤ ((s.cell x).behind q).segments then s.escalateCycle p n cyc
      else s.setDeadbolt { d with reports := d.reports ++ [cyc] }

/-- DEADBOLT_SAMPLE (R115): W/4 CELL cycles after the sample before; an edge is stable in its fifth consecutive sample, and the stable
edges are searched for cycles. Under another window the samples start anew. -/
def execDeadboltSample (t : Nat) (chip : ChipId) (p : PartId) (s : State) : Out3 :=
  let s := s.tick t
  match s.part p with
  | none => .next s
  | some v =>
    let d := s.deadbolt p chip
    let w := s.partSet p 0x0205#16
    if v.gridRuns s.osc && v.chips.contains chip && decide (d.next ≤ s.cycleOn chip) then
      let edges := s.sampleEdges p chip (if d.window = w then d.edges else [])
      let stable := edges.filter fun e => decide (5 ≤ e.samples)
      let cycles := cyclesOf stable ((s.cellsOn p chip).map Prod.fst)
      let s := s.setDeadbolt { d with edges := edges, next := s.cycleOn chip + w / 4, window := w }
      .next (cycles.foldl (fun s c => s.reportCycle p chip c) s)
    else .next s

/-- The queue's words go to its backlog, in front of what stands there (R116, R117). -/
def State.spill (s : State) (p : PartId) (x : CellId) (q : Fin 4) : State :=
  let c := s.cell x
  let old := c.behind q
  let b : Backlog := { old with msgs := c.queue q ++ old.msgs, written := old.written + wordsOf (c.queue q) }
  let s := s.modCell x fun c => { (c.setQueue q []) with backlog := Tab.set c.backlog q b,
                                                           extended := if c.extended.contains q then c.extended else c.extended ++ [q] }
  let s := (s.sawBacklog x b).modPart p fun v =>
    { v with cells := bump v.cells 1 1, spills := sat32 v.spills 1,
             perSpills := if v.perGap then v.perSpills else v.perSpills + 1 }
  s.enterWaiting x q

/-- DEADBOLT_SPILL (R116, R120): the first report is spilled; the first spill of a reporting period raises the event. -/
def execDeadboltSpill (t : Nat) (chip : ChipId) (p : PartId) (s : State) : Out3 :=
  let s := s.tick t
  let d := s.deadbolt p chip
  match d.reports, s.part p with
  | cyc :: rest, some v =>
    let rounds := d.rounds.filter (fun r => r.1 ≠ cyc) ++ [(cyc, d.roundsOf cyc + 1)]
    match s.victims cyc with
    | (x, q) :: _ =>
      let s := (s.setDeadbolt { d with reports := rest, rounds := rounds }).spill p x q
      if v.perSpills = 0 ∧ v.perGap = false then
        .next (s.raisePart p Ev.deadboltSpill (be 2 ((v.shape.vchip chip).getD 0) ++ be 4 1))
      else .next s
    | [] => .next (s.setDeadbolt { d with reports := rest })
  | _, _ => .next s

/-- The longest run of messages from the head that fits n words and begins in the k words left of its segment, and the rest. -/
def fitQueue : Nat → Nat → List Msg → List Msg × List Msg
  | _, _, [] => ([], [])
  | n, k, m :: ms =>
    if msgWords m ≤ n ∧ 0 < k then
      (m :: (fitQueue (n - msgWords m) (k - msgWords m) ms).1, (fitQueue (n - msgWords m) (k - msgWords m) ms).2)
    else ([], m :: ms)

/-- What a backlog gives an empty queue of 16 words: messages of its oldest segment alone (R117). -/
def Backlog.refill (b : Backlog) : List Msg × List Msg := fitQueue 16 (512 - b.read % 512) b.msgs

/-- QUEUE_REFILL (R117): the head refills from the oldest segment when the on-chip queue is empty; with the backlog empty the queue is
normal and its segments are freed. -/
def execQueueRefill (t : Nat) (c : CellId) (q : Fin 4) (s : State) : Out3 :=
  let s := s.tick t
  let k := s.cell c
  if k.extended.contains q ∧ k.queue q = [] then
    let b := k.behind q
    let r := b.refill
    let left : Backlog := if r.2.isEmpty then Backlog.empty else { b with msgs := r.2, read := b.read + wordsOf r.1 }
    .next ((s.modCell c fun k =>
      { (k.setQueue q r.1) with backlog := Tab.set k.backlog q left,
                                extended := if r.2.isEmpty then k.extended.filter fun x => x ≠ q else k.extended }).enterWaiting c q)
  else .next s

/-! ### Rotation hinges and reporting periods (R121, R122, R376) -/

/-- ROTATION_HINGE: once in a period, a TAGGED partition's current configuration reloads on the planned blocks, behind the waves
passing. -/
def execRotationHinge (t : Nat) (p : PartId) (s : State) : Out3 :=
  let s := s.tick t
  match s.part p with
  | none => .next s
  | some v =>
    match v.latest with
    | some w =>
      if s.partSet p 0x0203#16 = 1 ∧ s.rotates p = true ∧ v.prog = .running ∧ v.perHinge = false ∧ v.perGap = false then
        let m := s.planned (s.planMoves v) w.rot
        let s := s.setPart p (some { v with rotPlan := none, rotDone := [], perHinge := true, cells := bump (bump v.cells 5 1) 6 m.2 })
        .next (s.startWave p { config := w.config, op := none, rot := m.1, carried := [] })
      else .next s
    | none => .next s

/-- The period that begins at a boundary reached at an instant: under a new length once its first boundary has come (R376). -/
def Part.nextPeriod (v : Part) (now : Nat) : Part :=
  let turned := match v.perNew with
    | some e => if e.2 ≤ now then { v with perLen := e.1, perNew := none } else v
    | none => v
  let old := (now / turned.perLen + 1) * turned.perLen
  { turned with perStart := v.perEnd, perEnd := min old ((turned.perNew.map Prod.snd).getD old), perGap := false }

/-- What a period has counted starts anew. -/
def Part.clearPeriod (v : Part) : Part :=
  { v with perDue := false, perHinge := false, perMisses := 0, perDropSeen := false, perSpills := 0 }

/-- REPORTING_PERIOD_END: at a whole multiple of the period, or at a step of rack time; SLOT_MISSES for a non-zero count, and
first drops and spills are reported afresh (R51, R120, R160, R376). -/
def execReportingPeriodEnd (t : Nat) (p : PartId) (s : State) : Out3 :=
  let s := s.tick t
  match s.part p with
  | none => .next s
  | some v =>
    if v.perDue ∨ v.perEnd ≤ s.rackNs then
      let s := s.setPart p (some (if v.perEnd ≤ s.rackNs then (v.nextPeriod s.rackNs).clearPeriod else v.clearPeriod))
      .next (if v.perMisses = 0 then s else s.raisePart p Ev.slotMisses (be 4 v.perMisses))
    else .next s

end Sys2Proof.Machine
end

