-- ==== Sys2Proof/Machine/Rings.lean ====
section
/-! DEFINITION. The rings and trees of collectives: steps, what each sends and adds, chunks and their owners, results, and a
member's completion (R170, R173 to R178, R180). -/

namespace Sys2Proof.Machine

/-! ### Places in a group (R173) -/

/-- Extents of a group's axes. -/
def Group.extent (g : Group) : Nat → Nat
  | 0 => g.gx
  | 1 => g.gy
  | _ => g.gz

/-- A member's ring position on an axis (R173): members run x fastest. -/
def Group.pos (g : Group) (axis i : Nat) : Nat :=
  match axis with
  | 0 => i % g.gx
  | 1 => i / g.gx % g.gy
  | _ => i / (g.gx * g.gy)

/-- The member at another position of an axis's line. -/
def Group.onLine (g : Group) (axis i pos : Nat) : Nat :=
  match axis with
  | 0 => i - g.pos 0 i + pos
  | 1 => i - g.gx * g.pos 1 i + g.gx * pos
  | _ => i - g.gx * g.gy * g.pos 2 i + g.gx * g.gy * pos

/-- The cut's class is SHAPE_SEALED (R133). -/
def shapeSealed (cut : BitVec 32) : Bool := cut.toNat / 2 ^ 24 = 3

/-! ### Chunks (R175) -/

/-- Terms of a chunk of n terms split over l positions: c = 32 ceil(S / (32 L)) bytes, so c / 4 terms. -/
def chunkSize (l n : Nat) : Nat := 8 * ((4 * n + 32 * l - 1) / (32 * l))

/-- Terms chunk j covers of n: up to min((j + 1) c, S). -/
def chunkLen (l j n : Nat) : Nat := min ((j + 1) * chunkSize l n) n - j * chunkSize l n

/-- Terms of chunk j. -/
def chunkTerms (l j : Nat) (xs : List (BitVec 32)) : List (BitVec 32) := (xs.drop (j * chunkSize l xs.length)).take (chunkSize l xs.length)

/-- Where a chunk of n terms is split on a full ring: at half its 32-byte granules, which is what packets carry (R147, R174; log
32). -/
def halfTerms (n : Nat) : Nat := (n + 7) / 8 / 2 * 8

/-- The same split of n bytes. -/
def halfBytes (n : Nat) : Nat := (n + 31) / 32 / 2 * 32

/-! ### What a member brings (R170, R177) -/

/-- The order of an element's 32-term sums at a member (R132, R135, R136). -/
def Member.order (m : Member) (cut : BitVec 32) (i blocks : Nat) : List (List Nat) :=
  match m.launch with
  | some l => openOrder l i blocks
  | none => cutOrder cut blocks

/-- Slice t of n of a member's FP32 terms: of the K blocks of its matmul; a tensor of AR stands whole in slice 0, and the others add
nothing, -0 (R170, R177; log 32). -/
def Member.slice (kind : Fused) (cut : BitVec 32) (n t : Nat) (m : Member) : List (BitVec 32) :=
  match kind, m.args with
  | .ar, some a =>
    if t = 0 then (tensorNums a.fmt 1 a.len m.data).map fun x => BitVec.ofNat 32 (fp32.encode x)
    else List.replicate a.len 0x80000000#32
  | .mmRs, some a | .mmAr, some a =>
    let b := rowBlocks a.k
    matmul (m.order cut) a.m a.k a.n (t * b / n) ((t + 1) * b / n) (tensorNums a.fmt a.m a.k m.data) (tensorNums a.fmt a.n a.k m.dataB)
  | _, _ => []

/-- All of a member's terms. -/
def Member.terms (kind : Fused) (cut : BitVec 32) (m : Member) : List (BitVec 32) := m.slice kind cut 1 0

/-- The FP32 terms an operation reduces at each member. -/
def nTerms (kind : Fused) (a : FusedArgs) : Nat :=
  match kind with
  | .mmRs | .mmAr => a.m * a.n
  | .ar => a.len
  | .ag | .agMm => 0

/-! ### Sums (R176, R177) -/

/-- A reduce-scatter phase, at chunk j: term e after the first k positions of its chain; on a full ring the terms of the second half
run the - chain (R174, R176). -/
def chainTerm (l j k : Nat) (parts : List (List (BitVec 32))) (e : Nat) : BitVec 32 :=
  let n := (parts.headD []).length
  chainSum (((chainOrder l j (l ≠ 4 || decide (e < halfTerms n))).take k).map fun i => (parts.getD i []).getD e 0)

/-- What the owner of chunk j carries on from the data of the members on its line. -/
def reduceLine (l j : Nat) (line : List (List (BitVec 32))) : List (BitVec 32) :=
  let parts := line.map (chunkTerms l j)
  (List.range (parts.headD []).length).map (chainTerm l j l parts)

/-- The data on a member's line. -/
def Group.lineOf (g : Group) {α : Type} (data : List (List α)) (axis i : Nat) : List (List α) :=
  (List.range (g.extent axis)).map fun q => data.getD (g.onLine axis i q) []

/-- The data of every member after a reduce-scatter over an axis. -/
def Group.reducePhase (g : Group) (data : List (List (BitVec 32))) (axis : Nat) : List (List (BitVec 32)) :=
  if g.extent axis = 1 then data
  else (List.range data.length).map fun i => reduceLine (g.extent axis) (g.pos axis i) (g.lineOf data axis i)

/-- The data of every member after an all-gather over an axis: its line's data in order of position. -/
def Group.gatherPhase (g : Group) {α : Type} (data : List (List α)) (axis : Nat) : List (List α) :=
  (List.range data.length).map fun i => (g.lineOf data axis i).flatten

/-- The member, from chunk j's own on, that leaf i of the 64 lies on (R177). -/
def leafPos (n i : Nat) : Nat := i * n / 64

/-- Leaf i of chunk j: the member it lies on, that member's leaves, and which of them it is (R177). -/
def leafAt (n j i : Nat) : Nat × Nat × Nat :=
  let mine := (List.range 64).filter fun x => leafPos n x = leafPos n i
  ((leafPos n i + j) % n, mine.length, (mine.filter fun x => decide (x < i)).length)

/-- The leaves of chunk j (R137, R177). -/
def Instance.leaves (x : Instance) (j : Nat) : List (List (BitVec 32)) :=
  let n := x.members.length
  (List.range 64).map fun i =>
    let f := leafAt n j i
    chunkTerms n j (((x.members[f.1]?).map fun m => m.slice x.kind x.cut f.2.1 f.2.2).getD [])

/-- Term e of the subtree over 2^d leaves. -/
def nodeTerm (d first : Nat) (leaves : List (List (BitVec 32))) (e : Nat) : BitVec 32 :=
  treeSum d (((leaves.drop first).take (2 ^ d)).map fun xs => xs.getD e 0)

/-- Each member's data as the phases before an axis leave it. -/
def Group.before (g : Group) (x : Instance) (axis : Nat) : List (List (BitVec 32)) :=
  ((List.range 3).take axis).foldl g.reducePhase (x.members.map fun m => m.terms x.kind x.cut)

/-- Each member's owned terms after the reduce-scatter: under a shape-sealed cut one tree over the group, chunk j owned by member j mod
N (R177). -/
def Group.scattered (g : Group) (x : Instance) : List (List (BitVec 32)) :=
  if shapeSealed x.cut then
    (List.range x.members.length).map fun j =>
      let ls := x.leaves j
      (List.range (ls.headD []).length).map (nodeTerm 6 0 ls)
  else g.before x 3

/-- Terms each member owns of n, by their chunks alone. -/
def Group.ownedLen (g : Group) (cut : BitVec 32) (n i : Nat) : Nat :=
  if shapeSealed cut then chunkLen g.members.length i n
  else (List.range 3).foldl (fun n a => if g.extent a = 1 then n else chunkLen (g.extent a) (g.pos a i) n) n

/-! ### Results (R170, R176, R178) -/

/-- Terms converted to the output format the cut names: each owner converts the chunk it owns, and its bytes travel unchanged (R170,
R176). -/
def outputBytes (cut : BitVec 32) (xs : List (BitVec 32)) : List Byte :=
  tensorOf (Config.outputFormat cut) (xs.map fun x => fp32.decode x.toNat)

/-- The order in which the members' pieces stand in a gathered tensor: member order, or where rings have scattered it x, then y, then
z, as the chunks were cut. -/
def Group.owners (g : Group) (kind : Fused) (cut : BitVec 32) : List Nat :=
  match kind with
  | .ag | .agMm => List.range g.members.length
  | _ =>
    if shapeSealed cut then List.range g.members.length
    else (List.range g.gx).flatMap fun x => (List.range g.gy).flatMap fun y => (List.range g.gz).map fun z => x + g.gx * (y + g.gy * z)

/-- The bytes a member owns of what is gathered. -/
def Group.owned (g : Group) (x : Instance) (o : Nat) : List Byte :=
  match x.kind with
  | .ag | .agMm => ((x.members[o]?).map Member.data).getD []
  | _ => outputBytes x.cut ((g.scattered x).getD o [])

/-- The gathered tensor. -/
def Group.gathered (g : Group) (x : Instance) : List Byte := (g.owners x.kind x.cut).flatMap (g.owned x)

/-- The output of member i once every contribution has arrived (R170). -/
def Group.resultOf (g : Group) (x : Instance) (i : Nat) : List Byte :=
  match x.kind with
  | .mmRs => g.owned x i
  | .mmAr | .ar | .ag => g.gathered x
  | .agMm =>
    match x.members[i]? with
    | some m =>
      match m.args with
      | some a =>
        let am := x.members.flatMap fun y => tensorNums a.fmt a.m a.k y.data
        outputBytes x.cut (matmul (m.order x.cut) (a.m * x.members.length) a.k a.n 0 (rowBlocks a.k) am (tensorNums a.fmt a.n a.k m.dataB))
      | none => []
    | none => []

/-! ### Steps (R173 to R177) -/

/-- A step: of a ring's reduce-scatter, of a level of the tree, or of an all-gather after the axes gathered before. -/
inductive StepKind where
  | reduce (axis t : Nat)
  | level (l : Nat)
  | gather (before : List Nat) (axis t : Nat)
deriving DecidableEq, Repr

/-- Steps of an all-gather: L - 1 on each axis (R175). -/
def Group.gatherSteps (g : Group) (axes : List Nat) : List StepKind :=
  axes.zipIdx.flatMap fun a => (List.range (g.extent a.1 - 1)).map (.gather (axes.take a.2) a.1)

/-- Levels of the tree at which some node takes an operand from another member (R137, R177). -/
def crossLevels (n : Nat) : List Nat :=
  ((List.range 6).map (· + 1)).filter fun l =>
    (List.range (2 ^ (6 - l))).any fun m => leafPos n (2 * m * 2 ^ (l - 1)) ≠ leafPos n ((2 * m + 1) * 2 ^ (l - 1))

/-- The steps of an operation: a reduce-scatter runs x, y, z, the all-gather behind it z, y, x, and one alone x, y, z (R173). -/
def Group.steps (g : Group) (kind : Fused) (cut : BitVec 32) : List StepKind :=
  let reduce :=
    if shapeSealed cut then (crossLevels g.members.length).map .level
    else (List.range 3).flatMap fun a => (List.range (g.extent a - 1)).map (.reduce a)
  match kind with
  | .mmRs => reduce
  | .mmAr | .ar => reduce ++ g.gatherSteps [2, 1, 0]
  | .ag | .agMm => g.gatherSteps [0, 1, 2]

/-- What a leg carries: terms lo up to hi of chunk j after k positions of its chain, a node of the tree of chunk j, or bytes lo up to hi
of what a member owns. -/
inductive Piece where
  | chain (axis j k lo hi : Nat)
  | node (level j first : Nat)
  | owned (o lo hi : Nat)
deriving DecidableEq, Repr

/-- One send of a step: the member it goes to, the first port where the ring fixes it, the byte offset in the receive region or in the
output, and its bytes. -/
structure Leg where
  dst : Nat
  via : Option PortId
  toOutput : Bool
  off : Nat
  len : Nat
  piece : Piece
deriving DecidableEq, Repr

def plusPort (axis : Nat) : PortId := ⟨2 * axis % 8, by omega⟩
def minusPort (axis : Nat) : PortId := ⟨(2 * axis + 1) % 8, by omega⟩

/-- The next member in the + direction of a ring, and the port that leaves towards it: on a folded ring the last position goes back
along the - links (R174). -/
def Group.down (g : Group) (axis i : Nat) : Nat × PortId :=
  let l := g.extent axis
  let q := g.pos axis i
  (g.onLine axis i ((q + 1) % l), if q + 1 < l || l = 4 then plusPort axis else minusPort axis)

/-- The next member in the - direction of a full ring. -/
def Group.up (g : Group) (axis i : Nat) : Nat × PortId := (g.onLine axis i ((g.pos axis i + 3) % 4), minusPort axis)

/-- Bytes of n terms in the output format. -/
def outputLen (cut : BitVec 32) (n : Nat) : Nat := tensorBytes (Config.outputFormat cut) 1 n

/-- Bytes a member owns of what is gathered, by sizes alone. -/
def Group.ownedBytes (g : Group) (kind : Fused) (cut : BitVec 32) (a : FusedArgs) (o : Nat) : Nat :=
  match kind with
  | .ag => a.len
  | .agMm => tensorBytes a.fmt a.m a.k
  | _ => outputLen cut (g.ownedLen cut (nTerms kind a) o)

/-- Where a member's piece stands in the gathered tensor. -/
def Group.ownedOff (g : Group) (kind : Fused) (cut : BitVec 32) (a : FusedArgs) (o : Nat) : Nat :=
  (((g.owners kind cut).takeWhile fun x => x ≠ o).map (g.ownedBytes kind cut a)).sum

/-- Members whose pieces a member holds once some axes are gathered. -/
def Group.holds (g : Group) (axes : List Nat) (i : Nat) : List Nat :=
  (axes.foldl g.gatherPhase ((List.range g.members.length).map fun o => [o])).getD i []

/-- Bytes of the reduce-scatter's data as it enters an axis at a member. -/
def Group.enters (g : Group) (n axis i : Nat) : Nat :=
  ((List.range 3).take axis).foldl (fun n a => if g.extent a = 1 then n else chunkLen (g.extent a) (g.pos a i) n) n

/-- The legs of a step at member i: on a full ring the first half of a chunk in the + direction and the second in the -, on a folded
one the whole in the + (R174). Empty pieces send nothing. -/
def Group.legs (g : Group) (kind : Fused) (cut : BitVec 32) (a : FusedArgs) (i : Nat) (st : StepKind) : List Leg :=
  let ls : List Leg :=
    match st with
    | .reduce axis t =>
      let l := g.extent axis
      let q := g.pos axis i
      let n := g.enters (nTerms kind a) axis i
      let leg := fun (way : Nat × PortId) (j : Nat) (second : Bool) =>
        let size := chunkLen l j n
        let h := if l = 4 then halfTerms size else size
        let lo := if second then h else 0
        let hi := if second then size else h
        ({ dst := way.1, via := some way.2, toOutput := false, off := 4 * (j * chunkSize l n + lo), len := 4 * (hi - lo),
           piece := .chain axis j (t + 1) lo hi } : Leg)
      leg (g.down axis i) ((q + 2 * l - 1 - t) % l) false ::
        (if l = 4 then [leg (g.up axis i) ((q + 1 + t) % l) true] else [])
    | .level l =>
      let n := g.members.length
      (List.range n).flatMap fun j => (List.range (2 ^ (6 - l))).filterMap fun m =>
        let left := leafPos n (2 * m * 2 ^ (l - 1))
        let right := leafPos n ((2 * m + 1) * 2 ^ (l - 1))
        if left ≠ right ∧ (right + j) % n = i then
          some { dst := (left + j) % n, via := none, toOutput := false, off := 4 * (j * chunkSize n (nTerms kind a)),
                 len := 4 * chunkLen n j (nTerms kind a), piece := .node (l - 1) j ((2 * m + 1) * 2 ^ (l - 1)) }
        else none
    | .gather before axis t =>
      let l := g.extent axis
      let q := g.pos axis i
      let leg := fun (way : Nat × PortId) (second : Bool) (o : Nat) =>
        let size := g.ownedBytes kind cut a o
        let h := if l = 4 then halfBytes size else size
        let lo := if second then h else 0
        let hi := if second then size else h
        ({ dst := way.1, via := some way.2, toOutput := kind ≠ .agMm, off := g.ownedOff kind cut a o + lo, len := hi - lo,
           piece := .owned o lo hi } : Leg)
      (g.holds before (g.onLine axis i ((q + l - t) % l))).map (leg (g.down axis i) false) ++
        (if l = 4 then (g.holds before (g.onLine axis i ((q + t) % l))).map (leg (g.up axis i) true) else [])
  ls.filter fun x => decide (0 < x.len)

/-- FP32 terms as bytes. -/
def termBytes (xs : List (BitVec 32)) : List Byte := xs.flatMap fun x => le 4 x.toNat

/-- The FP32 terms in bytes. -/
def termsOf (bs : List Byte) : List (BitVec 32) := (List.range (bs.length / 4)).map fun i => BitVec.ofNat 32 (fieldLe bs (4 * i) 4)

/-- The bytes of a piece. -/
def Group.pieceBytes (g : Group) (x : Instance) (i : Nat) : Piece → List Byte
  | .chain axis j k lo hi =>
    let l := g.extent axis
    let parts := (g.lineOf (g.before x axis) axis i).map (chunkTerms l j)
    termBytes (((List.range hi).drop lo).map (chainTerm l j k parts))
  | .node d j first =>
    let ls := x.leaves j
    termBytes ((List.range (ls.headD []).length).map (nodeTerm d first ls))
  | .owned o lo hi => ((g.owned x o).take hi).drop lo

/-- Everything the first k steps send to a member has landed (R175). -/
def Group.received (g : Group) (x : Instance) (i k : Nat) : Bool :=
  match x.members[i]? with
  | none => false
  | some m =>
    match m.args with
    | none => false
    | some a =>
      ((g.steps x.kind x.cut).take k).zipIdx.all fun st => (List.range g.members.length).all fun src =>
        ((g.legs x.kind x.cut a src st.1).zipIdx).all fun leg => leg.1.dst ≠ i || m.got.contains (st.2, src, leg.2)

/-! ### Completion (R178, R180) -/

/-- Output bytes written where they lie in tenant memory, as the ward checks every range (R178). -/
def State.writeOutput (s : State) (p : PartId) (a : Addr) (bs : List Byte) : State :=
  if s.rangeOk p a bs.length then s.twrite p a bs else s

/-- An instance is over once every member has launched it and completed or finalised. -/
def Instance.over (x : Instance) : Bool :=
  x.members.all fun m =>
    match m.st with
    | .completed | .finalised _ => true
    | _ => false

def Group.reap (g : Group) : Group := { g with insts := g.insts.filter fun x => !x.over }

/-- The status CG_STATUS reports. -/
def Group.ended (g : Group) (seq status : Nat) : Group :=
  if g.lastSeq ≤ seq then { g with lastSeq := seq, lastStatus := status } else g

def setSt (st : MemberState) (m : Member) : Member := { m with st := st }

/-- A group by its number, a destroyed one that still settles included. -/
def State.group? (s : State) (p : PartId) (n : Nat) : Option Group := (s.part p).bind fun v => v.groups.find? fun g => g.num = n

/-- A member of an instance, with its group. -/
def State.member? (s : State) (p : PartId) (group seq i : Nat) : Option (Group × Instance × Member) :=
  match s.group? p group with
  | some g =>
    match g.inst? seq with
    | some x => (x.members[i]?).map fun m => (g, x, m)
    | none => none
  | none => none

def State.modMember (s : State) (p : PartId) (group seq i : Nat) (f : Member → Member) : State :=
  s.modPart p fun v => v.modGroup group fun g => g.modInst seq fun x => x.modMember i f

/-- A member's ring neighbours on every axis of its group. -/
def Group.neighbours (g : Group) (i : Nat) : List Nat :=
  ((List.range 3).flatMap fun a =>
    let l := g.extent a
    let q := g.pos a i
    [g.onLine a i ((q + 1) % l), g.onLine a i ((q + l - 1) % l)]).dedup.filter fun j => j ≠ i

/-- The marks a member puts into every management slot from its DONE on, until the instance finalises there (R180). -/
def State.marksOf (s : State) (p : PartId) (group seq i : Nat) : List (Nat × List Nat) :=
  match s.member? p group seq i with
  | some (g, _, m) => if m.st = .done then (g.neighbours i).map fun j => (j, m.bitmap) else []
  | none => []

/-- A member's marks, from its next management slot on. -/
def State.sendMarks (s : State) (p : PartId) (group seq i : Nat) : State :=
  (s.marksOf p group seq i).foldl (fun s e => s.emit (.doneMark p group seq i e.1 (mgmtFrom (absSlot s.osc + 1)) e.2)) s

/-- A member whose bitmap is full completes (R180). -/
def State.completeMember (s : State) (p : PartId) (n seq i : Nat) : State :=
  s.modPart p fun v => v.modGroup n fun g =>
    match (g.inst? seq).bind fun x => x.members[i]? with
    | some m =>
      if m.st = .done ∧ (List.range g.members.length).all (fun j => m.bitmap.contains j) then
        ((g.modInst seq fun x => x.modMember i (setSt .completed)).ended seq St.ok).reap
      else g
    | none => g

/-- Has a member still to send some of an instance's data? -/
def State.legWaits (s : State) (p : PartId) (group seq i : Nat) : Bool :=
  s.sends.any fun x => x.ofMember p group seq i

/-- A member that has sent all of its data and received all of its own writes its output and sends its DONE mark; with its bitmap full
it completes (R178, R180). -/
def State.settleMember (s : State) (p : PartId) (n seq i : Nat) : State :=
  match s.member? p n seq i with
  | none => s
  | some (g, x, m) =>
    match m.st, m.args with
    | .running _ k, some a =>
      let total := (g.steps x.kind x.cut).length
      if k = total ∧ g.received x i total = true ∧ s.legWaits p n seq i = false then
        let s := s.writeOutput p (a.outputs.getD i 0) (g.resultOf x i)
        let s := s.modMember p n seq i fun m =>
          { m with st := .done, bitmap := if m.bitmap.contains i then m.bitmap else m.bitmap ++ [i] }
        (s.sendMarks p n seq i).completeMember p n seq i
      else s
    | _, _ => s

/-- A collective's piece has landed at its member (R175). -/
def State.legArrived (s : State) (p : PartId) (l : CollLeg) : State :=
  (s.modMember p l.group l.seq l.dst fun m => { m with got := m.got ++ [(l.step, l.src, l.piece)] }).settleMember p l.group l.seq l.dst

end Sys2Proof.Machine
end

