-- ==== Sys2Proof/Machine/Fabric.lean ====
section
/-! DEFINITION. The Neton fabric: sends, landings, forwards, switches, calendars' switches, link quarantine, priority-0
messages and lane tests (R142 to R169, R48, R50, R51). -/

namespace Sys2Proof.Machine

/-! ### Links -/

/-- The 'link' field of a record: the sending end of what the port receives (R367). -/
def linkField (l : LinkId) : List Byte :=
  if l.port.val < 6 then
    let r := reverseLink l
    le 2 (unitChip r.chip).toNat ++ le 1 r.port.val
  else
    let u := l.port.val - 6
    le 2 (unitSwitch (uplinkSwitch l.chip u)).toNat ++ le 1 (uplinkPort l.chip u)

/-- A counter of R169 class 0x0008 raised. -/
def Link.count (k : Link) (i n : Nat) : Link := { k with counts := bump32 k.counts i n }

/-- The partition that owns a slot of a port's send direction (R153, R154): the calendar's, or for a reserved uplink or z
slot the holder of the quadrant it serves. -/
def State.slotOwner (s : State) (l : LinkId) (slot : Nat) : Option PartId :=
  let up := fun (n : ChipId) => neighbour n 4
  if mgmtSlot slot then none
  else if reservedSlot l.port slot then
    match l.port.val with
    | 4 =>
      let u := (slot + 242) % 256
      s.quadOwner (quadOf (up l.chip) ⟨u / 64 % 4, by omega⟩)
    | 5 =>
      let u := (slot + 14) % 256
      s.quadOwner (quadOf l.chip ⟨u / 64 % 4, by omega⟩)
    | _ =>
      match uplinkSlotUse (l.port.val - 6) slot with
      | some (_, false, k) => s.quadOwner (quadOf l.chip k)
      | some (_, true, k) => s.quadOwner (quadOf (up l.chip) k)
      | none => none
  else ((s.chip l.chip).cal.find? fun e => e.2.port = l.port && e.2.slot = slot).map Prod.fst

/-! ### Sends (R48, R50, R157) -/

/-- SEND slots of a partition on a port, ascending. -/
def State.sendSlots (s : State) (p : PartId) (l : LinkId) : List Nat :=
  ((s.chip l.chip).cal.filter fun e => e.1 = p && e.2.port = l.port && !e.2.forward).map fun e => e.2.slot

/-- The bytes of a transfer: a collective's own, padded to whole 32-byte units (R147), or from HBM, or from the sending cell's block
buffer; where the source lies outside what the partition may read, undefined (log 28). -/
def State.sendBytes (s : State) (x : Transfer) : List Byte :=
  let free := (List.range x.length).map fun i => Config.freeByte (s.fresh + i)
  if x.data.isSome then
    let bs := x.data.getD []
    bs ++ List.replicate ((32 - bs.length % 32) % 32) 0
  else if x.fromHbm then
    let a : Addr := BitVec.ofNat 48 x.saddr
    if s.rangeOk x.part a x.length then s.tread x.part a x.length else free
  else if x.saddr + x.length ≤ 524288 then
    Memory.bytes (Tab.get s.bufs [] (x.chip, cellBlock x.srcCell.c x.srcCell.r)) x.saddr x.length
  else free

/-- The remote range of a packet lies in the partition's tenant memory (R48). -/
def Part.remoteOk (v : Part) (limit : Nat) (a : Addr) (n : Nat) : Bool :=
  decide (addrVq a < v.nQuads) && decide (addrOff a + n ≤ limit)

/-- The notification of a transfer that has landed whole goes to the input queue the destination's configuration binds to
notifications (R158). -/
def State.notify (s : State) (p : PartId) (n : ChipId) (tag : BitVec 16) (imm : BitVec 25) : State :=
  match (s.cellsOn p n).findSome? fun e => (e.2.active.bind fun g => g.notifyQ).map fun q => (e.1, q) with
  | some (x, q) => s.offer x q { kind := 0, tag := tag, imm := imm, data := [], poisoned := false }
  | none => s

/-- A packet's payload written at its tenant address. -/
def State.landBytes (s : State) (p : PartId) (a : Addr) (bs : List Byte) : State := s.twrite p a bs

/-- The packets of a transfer: index, address, payload, last. -/
def packetsOf (raddr : Addr) (bs : List Byte) : List (Nat × Addr × List Byte × Bool) :=
  let n := (bs.length + 1279) / 1280
  (List.range n).map fun i => (i, raddr + BitVec.ofNat 48 (1280 * i), field bs (1280 * i) 1280, decide (i + 1 = n))

/-- The send slot a packet names, counted modulo the 2^32 frames of FRAME (R147). -/
def sentSlot (k : NetPkt) : Nat := k.frame.toNat * 256 + k.slot.toNat

/-- A landed packet leaves its transfer; the last to land of a notifying transfer delivers the notification, so that one that has
lost a packet delivers none, and the last of a collective's piece completes its step at the member (R158, R175; log 136). -/
def State.landing (s : State) (p : PartId) (k : NetPkt) : State :=
  let mine := fun (x : Landing) => x.src = k.schip && x.dst = k.dchip && x.part = p && x.left.contains (sentSlot k)
  match s.landings.find? mine with
  | none => s
  | some x =>
    let left := x.left.erase (sentSlot k)
    let rest := s.landings.erase x
    if left.isEmpty then
      let s : State := { s with landings := rest }
      match x.leg with
      | some l => s.legArrived p l
      | none => s.notify p k.dchip x.tag x.imm
    else { s with landings := rest ++ [{ x with left := left }] }

/-- A chip whose quadrants are all SHUT has no NET: what reaches it is lost (R95). -/
def State.netOff (s : State) (n : ChipId) : Bool := !s.unitsRun n

/-- A data packet at its destination: checked by the ward at ingress and written, dropped for a quadrant in SHUT, or dropped
(R48, R51, R148). The answer's second part says whether it landed. -/
def State.ingress (s : State) (owner : Option PartId) (k : NetPkt) : State × Bool :=
  let target := (s.part k.dpart).bind fun v =>
    (v.shape.quad? (addrVq k.raddr)).filter fun q =>
      quadChip q = k.dchip && decide (addrOff k.raddr + k.payload.length ≤ s.tenantLimit k.dpart)
  match target with
  | some q =>
    if s.quadShut q then (s.slotMiss (owner.getD k.dpart), false)
    else (s.landBytes k.dpart k.raddr k.payload, true)
  | none =>
    match owner with
    | some o =>
      let vc := fun (n : ChipId) => ((s.part o).bind fun v => v.shape.vchip n).getD 0
      (s.wardDrop o 2 (vc k.schip) (vc k.dchip) k.raddr, false)
    | none => (s, false)

/-- The packet of index i of a transfer, for a slot. -/
def Transfer.packet (x : Transfer) (dst : ChipId) (slot : Nat) (k : Nat × Addr × List Byte × Bool) : NetPkt :=
  { type := .data, last := k.2.2.2, notify := x.notify && k.2.2.2, forced := false, dchip := dst, schip := x.chip, dpart := x.part,
    fw := false, raddr := k.2.1, xseq := BitVec.ofNat 32 k.1, tag := x.tag, imm := x.imm, frame := BitVec.ofNat 32 (slot / 256),
    slot := BitVec.ofNat 8 slot, payload := k.2.2.1 }

/-- A transfer cut into packets, each checked by the ward and put in the partition's next SEND slots on the route's first
port, or the one a ring fixes; within one chip it meets the ingress checks at once (R48, R50, R150, R157; log 70). None: it has no slot yet and
waits. -/
def State.cutTransfer (s : State) (x : Transfer) : Option State :=
  match s.part x.part with
  | none => some s
  | some v =>
    let vsrc := (v.shape.vchip x.chip).getD 0
    let limit := s.tenantLimit x.part
    let bs := s.sendBytes x
    let s := s.useFresh x.length
    let pkts := packetsOf x.raddr bs
    let drop := fun (s : State) (a : Addr) => s.wardDrop x.part 1 vsrc x.vdst a
    let ok := fun (a : Addr) (b : List Byte) => decide (x.vdst < v.shape.nChips) && v.remoteOk limit a b.length
    if pkts.any fun k => ok k.2.1 k.2.2.1 then
      match v.chips[x.vdst]?, (x.via.map fun port => [port]).getD (v.shape.route vsrc x.vdst) with
      | some dst, port :: _ =>
        let l : LinkId := { chip := x.chip, port := port }
        let slots := s.sendSlots x.part l
        if slots.isEmpty then none
        else
          let now := absSlot s.osc + 1
          let start := max now (s.link l).nextSlot
          let at_ := fun i => nthSlot slots start i
          let held := if nthSlot slots now 0 < at_ 0 then 1 else 0
          let s := s.modPart x.part fun v => { v with fabric := bump32 v.fabric 2 held }
          let s := if x.notify || x.leg.isSome then
              { s with landings := s.landings ++
                [{ src := x.chip, dst := dst, part := x.part, tag := x.tag, imm := x.imm,
                   left := pkts.map fun k => sentSlot (x.packet dst (at_ k.1) k), leg := x.leg }] }
            else s
          let s := pkts.foldl (fun s k =>
            if ok k.2.1 k.2.2.1 then
              if s.carries l then s.putOn l (at_ k.1) (x.packet dst (at_ k.1) k)
              else (s.modLink l fun k => k.count 4 1).slotMiss x.part
            else drop s k.2.1) s
          some (s.modLink l fun k => { k with nextSlot := at_ (pkts.length - 1) + 1 })
      | some dst, [] =>
        let r := pkts.foldl (fun (r : State × Bool) k =>
          if ok k.2.1 k.2.2.1 then
            let i := r.1.ingress (some x.part) (x.packet dst (absSlot s.osc) k)
            (i.1, r.2 && i.2)
          else (drop r.1 k.2.1, false)) (s, true)
        some (if x.notify && r.2 then r.1.notify x.part dst x.tag x.imm else r.1)
      | none, _ => some s
    else some (pkts.foldl (fun s k => drop s k.2.1) s)

/-- A send waits while its configuration's calendar is not yet in force on its chip; sends of the old one go on under the old
(R156). -/
def State.calPending (s : State) (x : Transfer) : Bool := decide (Tab.get (s.chip x.chip).calWave 0 x.part < x.wave)

/-- Transfers of a chip that may be sent are cut, in order. -/
def State.flushSends (s : State) (n : ChipId) : State :=
  let mine := s.sends.filter fun x => x.chip = n
  mine.foldl (fun s x =>
    if s.calPending x then { s with sends := s.sends ++ [x] }
    else
      match s.cutTransfer x with
      | some s => s
      | none => { s with sends := s.sends ++ [x] }) { s with sends := s.sends.filter fun x => x.chip ≠ n }

/-- A send descriptor: word 1 VCHIP and RADDR, word 2 SRC, NOTIFY and SADDR, word 3 LENGTH (R157). -/
def descriptor (p : PartId) (x : CellId) (m : Msg) (wave : Nat) : Transfer :=
  let w := fun i => (m.data.getD i 0 : BitVec 64)
  { part := p, chip := x.chip, vdst := ((w 0) >>> 48).toNat, raddr := (w 0).setWidth 48, fromHbm := (w 1).getLsbD 63,
    saddr := ((w 1).setWidth 48).toNat, srcCell := x, notify := (w 1).getLsbD 62, length := ((w 2).setWidth 25).toNat,
    tag := m.tag, imm := m.imm, wave := wave, data := none, via := none, leg := none }

/-- LENGTH is 32 bytes to 16 MiB in multiples of 32 (R157). -/
def Transfer.lengthOk (x : Transfer) : Bool := decide (32 ≤ x.length) && decide (x.length ≤ 16777216) && x.length % 32 = 0

/-- FABRIC_SEND (R157): a descriptor on an output queue bound to the fabric interface; any other LEN traps, and so does a
length the descriptor may not name (log 29). A message of another kind to the interface carries nothing. -/
def execFabricSend (t : Nat) (c : CellId) (q : Fin 4) (m : Msg) (s : State) : Out3 :=
  let s := s.tick t
  match s.cellRuns c with
  | none => .next s
  | some (p, _, g) =>
    if (s.cell c).blocked.isSome then .next s
    else if 3 ≤ m.kind.toNat then .next (s.trapCell p c)
    else
      match outOf g q with
      | none => .next (s.trapCell p c)
      | some (.cell dc dr dq) => .next (s.sendTo p c q dc dr dq m)
      | some .fabric =>
        if m.kind ≠ 2 then .next s
        else
          let x := descriptor p c m (s.cell c).swapped
          if m.data.length ≠ 3 || !x.lengthOk then .next (s.trapCell p c)
          else .next ({ s with sends := s.sends ++ [x] }.flushSends c.chip)

/-- CALENDAR_SWITCH (R156): the calendars whose frame has come take effect and the sends that waited for them leave. -/
def execCalendarSwitch (t : Nat) (chip : ChipId) (s : State) : Out3 :=
  let s := s.tick t
  .next ((s.modChip chip fun c => c.switchCal s.osc).flushSends chip)

/-! ### Receiving (R48, R148, R158, R159, R162) -/

/-- What a port sends in the slot its packet landed from: the far end of the link and its send slot (R144). -/
def State.senderOf (s : State) (l : LinkId) : LinkId × Nat :=
  (reverseLink l, (slotAt s.osc + 243) % 256)

/-- An uncorrectable event on a receive side: its time joins the last 16 (R162). -/
def Link.uncEvent (k : Link) (rack osc : Nat) : Link :=
  { k with uncTimes := (k.uncTimes ++ [rack]).drop (k.uncTimes.length + 1 - 16), uncAt := osc }

/-- A lane under test on a link that has met an uncorrectable event rejoins at the next frame boundary, and the link's next test
waits a full period (R167). -/
def Link.endTest (k : Link) (now hold : Nat) : Link :=
  match k.test with
  | some x => { k with test := some { x with until_ := some (x.until_.getD (nextFrame now)) }, testHeldUntil := hold }
  | none => k

/-- What a receive side counts of a packet: codewords and symbols corrected; a packet dropped as uncorrectable or for its CRC
(R142, R159, R169). -/
def Link.heard (symbols : List Nat) (bad : Bool) (k : Link) : Link :=
  let k := (k.count 0 (correctedIn symbols).1).count 1 (correctedIn symbols).2
  if bad then (k.count (if uncorrectable symbols then 2 else 3) 1).count 4 1 else k

/-- The lane test of both directions of a link ends with an uncorrectable event. -/
def State.endTests (s : State) (l : LinkId) : State :=
  s.modSides l fun k => k.endTest s.osc (s.osc + s.rackSet 0x0301#16 * 1000000000)

/-- The slot of a lost packet is a slot miss of its owner; a NULL's is nobody's (R159). -/
def State.missOf (s : State) (k : NetPkt) (owner : Option PartId) : State :=
  match k.type, owner with
  | .null, _ => s
  | _, some o => s.slotMiss o
  | _, none => s

/-! ### Forwarding (R151, R152) -/

/-- Where a waiting packet goes next in the slot it leaves in: a tenant packet along its route; relayed traffic between an uplink
and a z link (R151 to R153). -/
def State.nextHop (s : State) (at_ : LinkId) (k : NetPkt) (slot : Nat) : Option LinkId :=
  match k.type with
  | .data =>
    (s.part k.dpart).bind fun v =>
      match v.shape.vchip at_.chip, v.shape.vchip k.dchip with
      | some b, some d => (v.shape.route b d).head?.map fun port => { chip := at_.chip, port := port }
      | _, _ => none
  | _ =>
    if 6 ≤ at_.port.val then some { chip := at_.chip, port := 4 }
    else some { chip := at_.chip, port := if (vaultDirect 1 ++ hostDirect 1).contains (slot % 64) then 6 else 7 }

/-- Does the slot of the next link belong to the packet's partition (R151)? Reserved slots carry the firmware's traffic. -/
def State.mayForward (s : State) (l : LinkId) (slot : Nat) (k : NetPkt) : Bool :=
  match k.type with
  | .data => (s.chip l.chip).cal.any fun e => e.1 = k.dpart && e.2.port = l.port && e.2.slot = slot
  | _ => reservedSlot l.port slot

/-- The packet of a forward stage leaves on its next link once its slot has come, or is dropped and counted as a slot miss of its
partition (R151, R163). -/
def State.leaveStage (s : State) (at_ : LinkId) : State :=
  match (s.link at_).stage with
  | none => s
  | some (k, slot) =>
    if slot ≤ absSlot s.osc then
      let s := s.modLink at_ fun x => { x with stage := none }
      match s.nextHop at_ k (slot % 256) with
      | some l =>
        if !s.mayForward l (slot % 256) k then
          (s.modPart k.dpart fun v => { v with fabric := bump32 v.fabric 3 1 }).slotMiss k.dpart
        else if s.carries l then s.emit (.fabric l slot (netWire k))
        else (s.modLink l fun x => x.count 4 1).slotMiss k.dpart
      | none => (s.modPart k.dpart fun v => { v with fabric := bump32 v.fabric 3 1 }).slotMiss k.dpart
    else s

/-- PACKET_FORWARD (R151): on its next link in slot s + 14. -/
def execPacketForward (t : Nat) (at_ : LinkId) (s : State) : Out3 := .next ((s.tick t).leaveStage at_)

/-- FABRIC_PACKET_RECEIVED (R148, R151, R159, R162): errors counted on the receiving link and charged to the slot's owner;
a good packet for another chip waits in the forward stage for the slot after the one it landed in. -/
def execFabricPacketReceived (t : Nat) (chip : ChipId) (port : PortId) (hdr : NetHdr) (payload : List Byte) (crc : BitVec 32)
    (symbols : List Nat) (s : State) : Out3 :=
  let s := s.tick t
  let at_ : LinkId := { chip := chip, port := port }
  let pkt : NetPkt := { toNetHdr := hdr, payload := payload }
  if s.chipUp at_.chip && (s.link at_).inService then
    let s := s.leaveStage at_
    let from_ := s.senderOf at_
    let owner := s.slotOwner from_.1 from_.2
    let bad := uncorrectable symbols || !crcGood pkt crc
    let s := s.modLink at_ fun k => k.heard symbols bad
    if bad then .next (((s.modLink at_ fun k => k.uncEvent s.rackNs s.osc).endTests at_).missOf pkt owner)
    else if s.netOff at_.chip then .next (s.missOf pkt owner)
    else
      match pkt.type with
      | .data =>
        if pkt.dchip ≠ at_.chip then .next (s.modLink at_ fun k => { k with stage := some (pkt, absSlot s.osc + 1) })
        else if pkt.fw then .next s
        else
          let r := s.ingress owner pkt
          .next (if r.2 then r.1.landing pkt.dpart pkt else r.1)
      | .vault | .host =>
        if pkt.dchip ≠ at_.chip then .next (s.modLink at_ fun k => { k with stage := some (pkt, absSlot s.osc + 1) }) else .next s
      | .null | .prio0 | .mgmt => .next s
  else .next s

/-- A packet out of a switch port in the slot after the one it landed in, a PRIO0 packet in the port's next management slot; at a
quarantined uplink it is dropped, counted there, and a slot miss (R152, R159, R163, R164). -/
def State.switchOut (s : State) (sw : SwId) (q : Fin 32) (k : NetPkt) (owner : Option PartId) : State :=
  if s.carries (switchPortLink sw q) then
    if k.type = .prio0 then
      let slot := mgmtFrom (max (absSlot s.osc + 1) (s.swPort sw q).prioNext)
      (s.modSwPort sw q fun x => { x with prioNext := slot + 1 }).emit (.switchOut sw q slot (netWire k))
    else s.emit (.switchOut sw q (absSlot s.osc + 1) (netWire k))
  else (s.modSwPort sw q fun x => x.count 4 1).missOf k owner

/-- SWITCH_FORWARD (R152, R155, R159): out of the destination's port, or of its relay's for firmware traffic; a tenant packet
to a chip that is not of its partition or has no uplink here is dropped as a ward violation of its sender, and a chip outside the
partition has no virtual number: VDEST reads 0xFFFF (DESIGN CHOICE, log 138). -/
def execSwitchForward (t : Nat) (sw : SwId) (port : Fin 32) (pkt : NetPkt) (crc : BitVec 32) (symbols : List Nat) (s : State) : Out3 :=
  let s := s.tick t
  if (s.swt sw).up then
    let from_ := switchPortLink sw port
    let owner := s.slotOwner from_ ((slotAt s.osc + 243) % 256)
    let bad := uncorrectable symbols || !crcGood pkt crc
    let s := s.modSwPort sw port fun k => k.heard symbols bad
    if bad then
      let s := (s.modSw sw fun x => { x with drops := sat32 x.drops 1 }).modSwPort sw port fun k => k.uncEvent s.rackNs s.osc
      .next ((s.endTests from_).missOf pkt owner)
    else
      match pkt.type with
      | .null | .mgmt => .next s
      | .data =>
        let o := owner.getD pkt.dpart
        let v := s.part o
        let vc := fun (n : ChipId) => (v.bind fun v => v.shape.vchip n)
        match (vc pkt.dchip).bind fun _ => portTo sw pkt.dchip with
        | some q => .next (s.switchOut sw q pkt owner)
        | none => .next (s.wardDrop o 4 ((vc pkt.schip).getD 0) ((vc pkt.dchip).getD 0xFFFF) pkt.raddr)
      | .vault | .host | .prio0 =>
        match (portTo sw pkt.dchip) <|> portTo sw (relayChip pkt.dchip) with
        | some q => .next (s.switchOut sw q pkt owner)
        | none => .next s
  else .next s

/-! ### Quarantine (R162, R163) -/

/-- The 16th most recent uncorrectable event lies within 1 s of the newest. -/
def Link.burst (k : Link) : Bool :=
  match k.uncTimes with
  | [] => false
  | a :: rest => decide (15 ≤ rest.length) && decide (rest.getLastD a - a ≤ 1000000000)

/-- A link leaves service in both directions, and its ends' map says so; three times within 24 h, until a level 4 of an end chip. -/
def State.quarantine (s : State) (l : LinkId) : State :=
  let now := s.rackNs
  let f := fun (k : Link) =>
    let recent := k.quarAt.filter fun x => decide (now ≤ x + 86400000000000)
    { (k.count 6 1) with quarantined := true, qualified := false, quarAt := recent ++ [now], stuck := k.stuck || decide (2 ≤ recent.length),
                         test := none }
  { (s.modSides l f).emit (.mgmt l (nextFrame s.osc / 2048) (.quarantined l)) with place := { s.place with due := true } }

/-- LINK_QUARANTINE (R162): at the first frame boundary after the newest event of a burst on either receive side. -/
def execLinkQuarantine (t : Nat) (l : LinkId) (s : State) : Out3 :=
  let s := s.tick t
  if !(s.link l).quarantined && [s.link l, s.farSide l].any fun k => k.burst && decide (nextFrame k.uncAt ≤ s.osc)
  then .next (s.quarantine l) else .next s

/-- QUARANTINE_TEST_DONE (R163): no uncorrectable codeword and a BER of at most 10^-6 on every lane for 60 s qualify the link
to rejoin at the next partition-map turn. -/
def execQuarantineTestDone (t : Nat) (l : LinkId) (unc : Bool) (bers : List Nat) (s : State) : Out3 :=
  let s := s.tick t
  let k := s.link l
  if k.quarantined ∧ (k.quarAt.getLastD 0) + 60000000000 ≤ s.rackNs then
    let good := !unc && decide (bers.length = 8) && bers.all fun b => decide (b ≤ 1000000)
    .next (s.modSides l fun k => { k with qualified := good && !k.stuck })
  else .next s

/-! ### Priority-0 messages (R164, R165) -/

/-- A link no path may take: quarantined, or out of service, as the links of a chip under reset are (ch. 17 Edges). -/
def Link.barred (k : Link) : Bool := k.quarantined || !k.inService

/-- A path has no quarantined link. -/
def State.clear (s : State) (ls : List LinkId) : Bool := ls.all fun l => !(s.link l).barred

/-- The links of a switch path through an uplink of the sender: out, down to the destination or its relay, and the relay's
z link (R152). -/
def switchPath (n dst : ChipId) (u : Nat) : List LinkId :=
  let sw := uplinkSwitch n u
  let up : LinkId := { chip := n, port := if u = 0 then 6 else 7 }
  let down := fun (d : ChipId) => if uplinkSwitch d 0 = sw then ({ chip := d, port := 6 } : LinkId) else { chip := d, port := 7 }
  if hasUplink dst sw then [up, down dst] else [up, down (relayChip dst), { chip := relayChip dst, port := 4 }]

/-- The torus path: the first axis order without a quarantined link. -/
def State.torusPath (s : State) (n dst : ChipId) : Option (List LinkId) :=
  (axisOrders.map fun o => routeLinks n (torusRoute o n dst)).find? s.clear

/-- The switch path: through uplink 0, or uplink 1 when uplink 0's path is quarantined. -/
def State.switchWay (s : State) (n dst : ChipId) : Option (List LinkId) := [switchPath n dst 0, switchPath n dst 1].find? s.clear

/-- The quarantined links that leave a message no path. -/
def State.blockers (s : State) (n dst : ChipId) : List LinkId :=
  ((axisOrders.flatMap fun o => routeLinks n (torusRoute o n dst)) ++ switchPath n dst 0 ++ switchPath n dst 1).dedup.filter
    fun l => (s.link l).barred

/-- A PRIO0 packet on a link in the next management slot no other PRIO0 packet has taken, before any MGMT packet; a forced one is
counted there (R164, R165, R169). -/
def State.sendPrio0 (s : State) (l : LinkId) (src dst : ChipId) (xseq : BitVec 32) (forced : Bool) (b : Prio0Body) : State :=
  let slot := mgmtFrom (max (absSlot s.osc + 1) (s.link l).prioNext)
  (s.modLink l fun k => { (k.count 5 (if forced then 1 else 0)) with prioNext := slot + 1 }).emit (.prio0 src dst l slot xseq forced b)

/-- PRIO0_SEND: the oldest message leaves on both paths, each in its next management slot, or once with FORCED on the xyz torus
route, with a black-box record of its XSEQ, destination and the quarantined links (R164, R165; log 30). -/
def execPrio0Send (t : Nat) (chip : ChipId) (s : State) : Out3 :=
  let s := s.tick t
  match (s.chip chip).prio0 with
  | [] => .next s
  | m :: rest =>
    let s := s.modChip chip fun c => { c with prio0 := rest }
    let send := fun (s : State) (ls : List LinkId) (forced : Bool) =>
      match ls with
      | l :: _ => s.sendPrio0 l chip m.dst m.xseq forced m.body
      | [] => s
    match s.torusPath chip m.dst, s.switchWay chip m.dst with
    | none, none =>
      let ls := routeLinks chip (torusRoute [0, 1, 2] chip m.dst)
      let s := s.bbox chip 0 5 (le 4 m.xseq.toNat ++ le 2 (unitChip m.dst).toNat ++
        (s.blockers chip m.dst).flatMap fun l => le 2 (unitChip l.chip).toNat ++ le 1 l.port.val)
      .next (send s ls true)
    | a, b => .next (send (send s (a.getD []) false) (b.getD []) false)

/-- PRIO0_RECEIVED: duplicates by XSEQ of the last 64 are discarded; a message for another chip is passed on in the next
management slot, a forced one counted there too (R169). What a delivered message brings about is its own row: an abort notice, a
reset, a leak. -/
def execPrio0Received (t : Nat) (chip : ChipId) (src : ChipId) (xseq : BitVec 32) (forced : Bool) (dst : ChipId) (b : Prio0Body)
    (s : State) : Out3 :=
  let s := s.tick t
  if dst ≠ chip then
    let ls := if forced then some (routeLinks chip (torusRoute [0, 1, 2] chip dst)) else s.torusPath chip dst
    match ls with
    | some (l :: _) => .next (s.sendPrio0 l src dst xseq forced b)
    | _ => .next s
  else if (s.chip chip).seen.contains (src, xseq) then .next s
  else
    .next (s.modChip chip fun c =>
      let mine := (c.seen.filter fun x => x.1 = src) ++ [(src, xseq)]
      { c with seen := c.seen.filter (fun x => x.1 ≠ src) ++ mine.drop (mine.length - 64) })

/-! ### Lane tests (R166, R167, R313) -/

/-- Both ends agree in the management slots of this frame on a lane that leaves from the next (R166). -/
def State.takeLaneOut (s : State) (l : LinkId) (lane : Fin 8) : State :=
  (s.modSides l fun k => { k with test := some { lane := lane, since := nextFrame s.osc, until_ := none } }).emit
    (.mgmt l (s.osc / 2048) (.laneOut lane))

/-- LANE_TEST_START: once in each period, on a link in service without a spared lane, in both directions. -/
def execLaneTestStart (t : Nat) (l : LinkId) (s : State) : Out3 :=
  let s := s.tick t
  let k := s.link l
  if s.carries l && k.spared = 0 && k.test.isNone && decide (k.testHeldUntil ≤ s.osc) then
    let next := s.osc + s.rackSet 0x0301#16 * 1000000000
    .next ((s.modSides l fun k => { k with testHeldUntil := next }).takeLaneOut l 0)
  else .next s

/-- 10^-5 in units of 10^-12 (R167). -/
def berSpare : Nat := 10000000

/-- A lane's reading beyond 100 times its baseline, while within R167, is logged (R313); `link` names its sending end. -/
def State.driftOf (s : State) (base : List Nat) (link : List Byte) (lane ber : Nat) : State :=
  if 100 * base.getD lane 0 < ber ∧ ber ≤ berSpare ∧ base ≠ [] then
    s.log Lg.laneDrift unitRmu (link ++ le 1 lane ++ le 8 ber ++ le 8 (base.getD lane 0))
  else s

/-- The sending end of what the far side of a link receives: the link's own (R367). -/
def ownField (l : LinkId) : List Byte := le 2 (unitChip l.chip).toNat ++ le 1 l.port.val

/-- The BERs of a lane recorded on both receive sides. -/
def State.recordBoth (s : State) (l : LinkId) (lane ber far : Nat) : State :=
  let s := (s.modLink l fun k => { k with bers := k.bers.set lane ber }).modFar l fun k => { k with bers := k.bers.set lane far }
  (s.driftOf (s.link l).baseline (linkField l) lane ber).driftOf (s.farSide l).baseline (ownField l) lane far

/-- The lane after the one tested, if any. -/
def nextLane (lane : Fin 8) : Option (Fin 8) := if h : lane.val + 1 < 8 then some ⟨lane.val + 1, h⟩ else none

/-- LANE_TEST_END (R166, R167): at the first frame boundary after the dwell the tested lane rejoins or is spared on the link, and the
next lane is announced; a test that an uncorrectable event ended gives no result. On a link with a spared lane, the BER of each
lane, and a second lane above 10^-5 quarantines the link; a spared lane that a level 4 has retrained rejoins once it passes. -/
def execLaneTestEnd (t : Nat) (l : LinkId) (bers : LaneBers) (s : State) : Out3 :=
  let s := s.tick t
  let k := s.link l
  if !s.carries l then .next s
  else if k.spared ≠ 0 then
    if k.testHeldUntil ≤ s.osc then
      let next := s.osc + s.rackSet 0x0301#16 * 1000000000
      let s := (List.range 8).foldl (fun s i => s.recordBoth l i (bers.near.getD i 0) (bers.far.getD i 0))
        (s.modSides l fun k => { k with testHeldUntil := next })
      let bad := (List.range 8).any fun i => !k.spared.getLsbD i && decide (berSpare < max (bers.near.getD i 0) (bers.far.getD i 0))
      let heals := k.retrained && (List.range 8).all fun i => !k.spared.getLsbD i || decide (max (bers.near.getD i 0) (bers.far.getD i 0) ≤ berSpare)
      .next (if bad then s.quarantine l
        else if heals then s.modSides l fun k => { k with spared := 0, retrained := false } else s)
    else .next s
  else
    match k.test with
    | none => .next s
    | some x =>
      let off := fun (s : State) => s.modSides l fun k => { k with test := none }
      match x.until_ with
      | some b => .next (if b ≤ s.osc then off s else s)
      | none =>
        if frameUp (x.since + s.rackSet 0x0302#16 * 1000000000) ≤ s.osc then
          let s := s.recordBoth l x.lane.val (bers.near.headD 0) (bers.far.headD 0)
          if berSpare < max (bers.near.headD 0) (bers.far.headD 0) then
            .next ((off s).modSides l fun k => { k with spared := k.spared ||| BitVec.ofNat 8 (2 ^ x.lane.val) })
          else
            match nextLane x.lane with
            | some n => .next (s.takeLaneOut l n)
            | none => .next (off s)
        else .next s

end Sys2Proof.Machine
end

