-- ==== Sys2Proof/Machine/Collective.lean ====
section
/-! DEFINITION. Collectives fused with compute: groups, launches, ring steps, timeouts and aborts (R170 to R185), with the CG_*
commands. -/

namespace Sys2Proof.Machine

/-! ### Groups (R171, R172) -/

/-- Strictly ascending. -/
def ascending : List Nat → Bool
  | a :: b :: rest => decide (a < b) && ascending (b :: rest)
  | _ => true

/-- The box a list of virtual chips forms: origin and extents. -/
def boxOf (sh : Shape) (ms : List Nat) : Option ((Nat × Nat × Nat) × (Nat × Nat × Nat)) :=
  let cs := ms.map sh.coords
  let lo := fun (f : Nat × Nat × Nat → Nat) => (cs.map f).foldl min 4
  let hi := fun (f : Nat × Nat × Nat → Nat) => (cs.map f).foldl max 0
  let x := fun (c : Nat × Nat × Nat) => c.1
  let y := fun (c : Nat × Nat × Nat) => c.2.1
  let z := fun (c : Nat × Nat × Nat) => c.2.2
  let e := (hi x + 1 - lo x, hi y + 1 - lo y, hi z + 1 - lo z)
  if ms ≠ [] ∧ e.1 * e.2.1 * e.2.2 = ms.length then some ((lo x, lo y, lo z), e) else none

/-- CG_CREATE (R171): the group's number is the machine's choice (log 5). -/
def opCgCreate (c : Ctx) (members : List (BitVec 16)) (timeout : BitVec 32) (s : State) : Res :=
  match c.part? s with
  | none => Res.fail s St.wardFault
  | some p =>
    match s.part p with
    | none => Res.fail s St.wardFault
    | some v =>
      let ms := members.map BitVec.toNat
      if ms.any fun m => decide (v.shape.nChips ≤ m) then Res.fail s St.wardFault
      else if !ascending ms || (timeout ≠ 0 && !(decide (100 ≤ timeout.toNat) && decide (timeout.toNat ≤ 10000000))) then
        Res.fail s St.badParameter
      else
        match boxOf v.shape ms with
        | none => Res.fail s St.badParameter
        | some (_, e) =>
          if 64 ≤ (v.groups.filter fun g => !g.dying).length then Res.fail s St.noResource
          else
            let n := s.pickId 1 (2 ^ 16) (v.groups.map Group.num)
            let g : Group := { num := n, members := ms, gx := e.1, gy := e.2.1, gz := e.2.2,
                               timeoutUs := if timeout = 0 then 5000 else timeout.toNat, memberSeq := ms.map fun _ => 0,
                               lastSeq := 0, lastStatus := 0, insts := [], dying := false }
            Res.ok ((s.setPart p (some { v with groups := v.groups ++ [g] })).useFresh 1) (be 2 n)

/-- A destroyed group goes once nothing of it is live. -/
def Part.reapGroups (v : Part) : Part := { v with groups := v.groups.filter fun g => !(g.dying && !g.live) }

/-- CG_DESTROY (R172, R182). -/
def opCgDestroy (c : Ctx) (group : BitVec 16) (s : State) : Res :=
  match c.part? s with
  | none => Res.fail s St.wardFault
  | some p =>
    match (s.part p).bind fun v => v.group? group.toNat with
    | none => Res.fail s St.notFound
    | some g =>
      if g.live && !c.h.force then Res.fail s St.busy
      else
        let s := (List.range g.members.length).foldl (fun s i => s.abortMemberAll p g i St.collAborted) s
        Res.ok (s.modPart p fun v => (v.modGroup g.num fun g => { g with dying := true }).reapGroups)

/-- CG_STATUS (R183): the sequence and status of the last instance; 0 before any. -/
def opCgStatus (c : Ctx) (group : BitVec 16) (s : State) : Res :=
  match ((c.part? s).bind s.part).bind fun v => v.group? group.toNat with
  | none => Res.fail s St.notFound
  | some g => Res.ok s (be 8 g.lastSeq ++ be 2 g.lastStatus)

/-! ### Aborts and their end (R181 to R185) -/

/-- The abort's message to the program: LEN 0, the instance's TAG, the status in IMM; with no queue bound the program stops
(R183). -/
def State.abortMessage (s : State) (p : PartId) (n : ChipId) (tag : BitVec 16) (status : Nat) : State :=
  match (s.cellsOn p n).findSome? fun e => (e.2.active.bind fun g => g.abortQ).map fun q => (e.1, q) with
  | some (x, q) => s.offer x q { kind := 0, tag := tag, imm := BitVec.ofNat 25 status, data := [], poisoned := false }
  | none => s.modPart p fun v =>
    match v.prog with
    | .running | .draining _ none => setProg v (.stopping status none)
    | .draining _ (some o) => setProg v (.stopping status (some o))
    | _ => v

/-- Bytes the abort leaves undefined (R183). -/
def State.undefine (s : State) (p : PartId) (a : Addr) (n : Nat) : State :=
  if s.rangeOk p a n then s.scramble (s.phys p a) n else s

/-- The receive region the configuration in force declares for a virtual chip (R178). -/
def Part.recvRegion (v : Part) (vchip : Nat) : Option (Addr × Nat) :=
  ((v.running.bind Configuration.prog).bind fun g => g.recv.find? fun e => e.1 = vchip).map Prod.snd

/-- Does a member's end report the instance: its chip does the partition's ingest, or no member's chip does (R183; log 141)? -/
def Part.reports (v : Part) (g : Group) (i : Nat) : Bool :=
  v.memberChip g i = some v.ingestChip || (v.memberOn g v.ingestChip).isNone

/-- An aborted instance is reported once: CG_ABORTED, and the end of the requests whose batch used it (R183, R185). -/
def State.reportAbort (s : State) (p : PartId) (group : Nat) (x : Instance) (status : Nat) : State :=
  if x.reported then s
  else
    let s := s.modPart p fun v => v.modGroup group fun g => g.modInst x.seq fun x => { x with reported := true }
    let s := s.raisePart p Ev.cgAborted (be 2 group ++ be 8 x.seq ++ be 2 status)
    x.reqs.foldl (fun s r => s.endRequest r.1 r.2 status) s

/-- A member finalises: its sends and what is on its way to it go, the status stands, the program is told, and its regions are
undefined (R183). -/
def State.finaliseMember (s : State) (p : PartId) (group seq i status : Nat) : State :=
  match s.member? p group seq i, s.part p with
  | some (g, x, m), some v =>
    match m.args with
    | none => s
    | some a =>
      let s := if v.reports g i then s.reportAbort p group x status else s
      let s := s.modPart p fun v => v.modGroup group fun g =>
        ((g.modInst seq fun x => x.modMember i (setSt (.finalised status))).ended seq status).reap
      let s := { s with landings := s.landings.filter fun (l : Landing) =>
        !(l.part = p && l.leg.any fun (c : CollLeg) => c.group = group && c.seq = seq && c.dst = i) }
      let s := s.undefine p (a.outputs.getD i 0) a.outLen
      let s := match (g.members[i]?).bind v.recvRegion with
        | some r => s.undefine p r.1 r.2
        | none => s
      let s := match v.memberChip g i with
        | some n => s.abortMessage p n a.tag status
        | none => s
      s.modPart p Part.reapGroups
  | _, _ => s

/-! ### Launch (R170, R179, R184) -/

/-- Bytes a launch reads of the tenant's memory: what lies outside what the partition may read is undefined (R48, R178; log 28). -/
def State.readInput (s : State) (p : PartId) (a : Addr) (n : Nat) : List Byte :=
  if s.rangeOk p a n then s.tread p a n else (List.range n).map fun i => Config.freeByte (s.fresh + i)

/-- The tensor or the A that a launch works on, and its B. -/
def State.operands (s : State) (p : PartId) (kind : Fused) (a : FusedArgs) : List Byte × List Byte :=
  let b := s.readInput p a.inputB (tensorBytes a.fmt a.n a.k)
  match kind with
  | .mmRs | .mmAr | .agMm => (s.readInput p a.input (tensorBytes a.fmt a.m a.k), b)
  | .ar => (s.readInput p a.input (tensorBytes a.fmt 1 a.len), [])
  | .ag => (s.readInput p a.input a.len, [])

def newInstance (g : Group) (seq : Nat) (kind : Fused) (cut : BitVec 32) : Instance :=
  { seq := seq, kind := kind, cut := cut, reported := false, reqs := [],
    members := (List.range g.members.length).map fun i =>
      { index := i, st := .waiting, args := none, bitmap := [], data := [], dataB := [], launch := none, got := [] } }

/-- The instance of a sequence, made at its first launch or notice. -/
def Group.ensure (g : Group) (seq : Nat) (kind : Fused) (cut : BitVec 32) : Group :=
  if (g.inst? seq).isSome then g else { g with insts := g.insts ++ [newInstance g seq kind cut] }

/-- Requests of the batch a launch serves (R185). -/
def State.launchReqs (s : State) (p : PartId) (decode : Bool) : List (KwId × BitVec 64) :=
  (s.batchRows p decode).map fun r => (r.kw, r.tag)

/-- A tile of 16 x 64 FP32 values of an m x n product, zeros beyond its edges (R82). -/
def tileBytes (m n i : Nat) (xs : List (BitVec 32)) : List Byte :=
  let across := (n + 63) / 64
  (List.range 16).flatMap fun r => (List.range 64).flatMap fun c =>
    let row := 16 * (i / across) + r
    let col := 64 * (i % across) + c
    le 4 (if row < m ∧ col < n then (xs.getD (row * n + col) 0).toNat else 0)

/-- A product passes the matrix engines of the blocks it runs on, a tile in the active bank of each in turn; the bank is then drained and
the other one computes (R82). -/
def State.runEngines (s : State) (chip : ChipId) (blocks : List (Fin 640)) (m n : Nat) (xs : List (BitVec 32)) : State :=
  if blocks.isEmpty ∨ m = 0 ∨ n = 0 then s
  else
    (List.range ((m + 15) / 16 * ((n + 63) / 64))).foldl (fun s i =>
      match blocks[i % blocks.length]? with
      | some b =>
        let e : Acc := Tab.get s.acc { mem := [], bank := false } (chip, b)
        let mem := Memory.write e.mem (if e.bank then 4096 else 0) (tileBytes m n i xs)
        { s with acc := Tab.set s.acc (chip, b) { mem := mem, bank := !e.bank } }
      | none => s) s

/-- What a launch computes on its member's engines: the products that it reduces (R170). -/
def State.compute (s : State) (p : PartId) (v : Part) (g : Group) (seq i : Nat) (a : FusedArgs) : State :=
  match s.member? p g.num seq i, v.memberChip g i with
  | some (_, x, m), some n =>
    match x.kind with
    | .mmRs | .mmAr => s.runEngines n a.blocks a.m a.n (m.terms x.kind x.cut)
    | _ => s
  | _, _ => s

/-- A launch of a fused operation on a group by one member (R170, R179); an instance whose abort notice the member holds ends there and
then (R184). -/
def State.launchFused (s : State) (kind : Fused) (p : PartId) (group i : Nat) (a : FusedArgs) : State :=
  match s.part p with
  | none => s
  | some v =>
    match v.group? group, v.running.bind Configuration.cut with
    | some g, some cut =>
      if v.gridRuns s.osc && decide (i < g.members.length) && formatOk a.fmt then
        let seq := g.memberSeq.getD i 0 + 1
        let io := s.operands p kind a
        let launch := s.openLaunch p v cut a.decode (io.1 ++ io.2)
        let reqs := s.launchReqs p a.decode
        let s := s.useFresh (io.1.length + io.2.length)
        let s := s.modPart p fun v => v.modGroup group fun g =>
          let g := { g with memberSeq := g.memberSeq.set i seq }
          (g.ensure seq kind cut).modInst seq fun x =>
            { x with kind := kind, cut := cut, reqs := (x.reqs ++ reqs).dedup }.modMember i fun m =>
              match m.st with
              | .aborting .. => { m with args := some a }
              | _ => { m with args := some a, data := io.1, dataB := io.2, launch := launch, st := .running s.osc 0 }
        match (s.member? p group seq i).map fun (e : Group × Instance × Member) => e.2.2.st with
        | some (MemberState.aborting _ st) => s.finaliseMember p group seq i st
        | _ => (s.compute p v g seq i a).settleMember p group seq i
      else s
    | _, _ => s

def execMmRs (t : Nat) (p : PartId) (group member : Nat) (a : FusedArgs) (s : State) : Out3 :=
  .next ((s.tick t).launchFused .mmRs p group member a)

def execMmAr (t : Nat) (p : PartId) (group member : Nat) (a : FusedArgs) (s : State) : Out3 :=
  .next ((s.tick t).launchFused .mmAr p group member a)

def execAgMm (t : Nat) (p : PartId) (group member : Nat) (a : FusedArgs) (s : State) : Out3 :=
  .next ((s.tick t).launchFused .agMm p group member a)

def execAr (t : Nat) (p : PartId) (group member : Nat) (a : FusedArgs) (s : State) : Out3 :=
  .next ((s.tick t).launchFused .ar p group member a)

def execAg (t : Nat) (p : PartId) (group member : Nat) (a : FusedArgs) (s : State) : Out3 :=
  .next ((s.tick t).launchFused .ag p group member a)

/-! ### Steps and completion (R174, R175, R178, R180) -/

/-- Where a leg lands: in the member's output tensor, or in the receive region that the configuration declares for its chip; a region
that does not hold it takes nothing (R178; log 142). -/
def Part.legAddr (v : Part) (g : Group) (a : FusedArgs) (leg : Leg) : Option Addr :=
  if leg.toOutput then (a.outputs[leg.dst]?).map fun x => x + BitVec.ofNat 48 leg.off
  else
    ((g.members[leg.dst]?).bind v.recvRegion).bind fun r =>
      if leg.off + leg.len ≤ r.2 then some (r.1 + BitVec.ofNat 48 leg.off) else none

/-- The transfers of a member's step, in the partition's own slots (R174). -/
def State.sendStep (s : State) (p : PartId) (v : Part) (g : Group) (x : Instance) (i k : Nat) (a : FusedArgs) : State :=
  match (g.steps x.kind x.cut)[k]?, v.memberChip g i with
  | some st, some n =>
    let ts : List Transfer := (g.legs x.kind x.cut a i st).zipIdx.filterMap fun e =>
      match v.legAddr g a e.1, g.members[e.1.dst]? with
      | some addr, some vd =>
        some { part := p, chip := n, vdst := vd, raddr := addr, fromHbm := false, saddr := 0, srcCell := ⟨n, 0, 0⟩, notify := false,
               length := e.1.len, tag := a.tag, imm := 0, wave := v.hinges, data := some (g.pieceBytes x i e.1.piece),
               via := e.1.via,
               leg := some { group := g.num, seq := x.seq, step := k, src := i, dst := e.1.dst, piece := e.2 } }
      | _, _ => none
    ({ s with sends := s.sends ++ ts } : State).flushSends n
  | _, _ => s

/-- RING_STEP: the member's next step begins once the data it sends have been received and added (R175). -/
def execRingStep (t : Nat) (p : PartId) (group seq member : Nat) (s : State) : Out3 :=
  let s := s.tick t
  match s.member? p group seq member, s.part p with
  | some (g, x, m), some v =>
    match m.st, m.args with
    | .running since k, some a =>
      if k < (g.steps x.kind x.cut).length ∧ g.received x member k = true ∧ v.gridRuns s.osc = true then
        let s := s.modMember p group seq member (setSt (.running since (k + 1)))
        .next ((s.sendStep p v g x member k a).settleMember p group seq member)
      else .next (s.settleMember p group seq member)
    | _, _ => .next s
  | _, _ => .next s

/-- DONE_MARK_RECEIVED (R180): the bitmap is merged, and goes on in the member's own marks; a mark names only members that are done. -/
def execDoneMarkReceived (t : Nat) (p : PartId) (group seq member : Nat) (bitmap : List Nat) (s : State) : Out3 :=
  let s := s.tick t
  match s.member? p group seq member with
  | some (_, x, m) =>
    let done := fun (j : Nat) => (x.members[j]?).any fun m => m.st = .done || m.st = .completed
    let new := bitmap.filter fun j => done j && !m.bitmap.contains j
    if new.isEmpty then .next s
    else
      let s := s.modMember p group seq member fun m => { m with bitmap := m.bitmap ++ new.dedup }
      .next ((s.sendMarks p group seq member).completeMember p group seq member)
  | none => .next s

/-! ### Timeout and abort (R181 to R185) -/

def execCollectiveTimeout (t : Nat) (p : PartId) (group seq member : Nat) (s : State) : Out3 :=
  let s := s.tick t
  match s.member? p group seq member with
  | some (g, _, m) =>
    match m.st with
    | .running since _ =>
      if since + g.timeoutUs * 1000 ≤ s.osc then .next (s.abortMember p g seq member St.collTimeout) else .next s
    | _ => .next s
  | none => .next s

/-- MEMBER_DEPARTURE: the Keeper learns that another member's chip has left service. -/
def execMemberDeparture (t : Nat) (p : PartId) (group member departed : Nat) (s : State) : Out3 :=
  let s := s.tick t
  match s.part p with
  | none => .next s
  | some v =>
    match s.group? p group with
    | none => .next s
    | some g =>
      match v.memberChip g departed with
      | some n => if s.chipUp n then .next s else .next (s.abortMemberAll p g member St.collAborted)
      | none => .next s

/-- ABORT_NOTICE_RECEIVED (R183, R184): it stops the member's sends; held for an instance not launched yet. -/
def execAbortNoticeReceived (t : Nat) (p : PartId) (group seq member : Nat) (status : BitVec 16) (s : State) : Out3 :=
  let s := s.tick t
  match s.group? p group with
  | none => .next s
  | some g =>
    if (status = 0x30#16 ∨ status = 0x31#16) ∧ ((g.inst? seq).isSome ∨ g.memberSeq.getD member 0 < seq) then
      .next (({ s with sends := s.sends.filter fun x => !x.ofMember p group seq member } : State).modPart p fun v =>
        v.modGroup group fun g =>
          (g.ensure seq .ag 0).modInst seq fun x => x.modMember member fun m =>
            { m with st := abortState s.osc status.toNat m.st })
    else .next s

/-- COLLECTIVE_FINALISE (R183): 10 us after its first abort. -/
def execCollectiveFinalise (t : Nat) (p : PartId) (group seq member : Nat) (s : State) : Out3 :=
  let s := s.tick t
  match s.member? p group seq member with
  | some (_, _, m) =>
    match m.st with
    | .aborting since status => if since + 10000 ≤ s.osc then .next (s.finaliseMember p group seq member status) else .next s
    | _ => .next s
  | none => .next s

end Sys2Proof.Machine
end

