-- ==== Sys2Proof/Machine/Tumbler.lean ====
section
/-! DEFINITION. The Tumbler: problem images and schedules, sweeps, exchange, windows, slices and the TMB_* commands (R228 to
R243, R247), and the firmware's shard-map and rotation problems (R244, R246). -/

namespace Sys2Proof.Machine

/-! ### Problem images (R229, R230) -/

/-- A signed 16-bit field of an image. -/
def fieldS16 (bs : List Byte) (i : Nat) : Int := toSigned16 (fieldLe bs i 2)

/-- An array lies inside the image. -/
def inside (bs : List Byte) (off n : Nat) : Bool := decide (off + n ≤ bs.length)

/-- N of an image. -/
def tmbN (bs : List Byte) : Nat := fieldLe bs 4 4

def tmbClasses (bs : List Byte) : Nat := fieldLe bs 12 1
def tmbState (bs : List Byte) : Addr := BitVec.ofNat 48 (fieldLe bs 56 6)

/-- Bytes of the state area of n spins (R231). -/
def stateLen (n : Nat) : Nat := 4 * n + (n + 1) / 2 + (n + 7) / 8 + 32

/-- The header's own checks: reserved bits, ranges, offsets and the CRC. -/
def tmbHeaderOk (bs : List Byte) : Bool :=
  let fl := fieldLe bs 3 1
  let n := tmbN bs
  let e := fieldLe bs 8 4
  let hasF := fl % 2 = 1
  let hasC := fl / 2 % 2 = 1
  decide (68 ≤ bs.length) && decide (fieldLe bs 0 2 = 0x544D) && decide (fieldLe bs 2 1 = 1) && decide (fl < 4) &&
    decide (1 ≤ n ∧ n ≤ 1048576) && decide (e ≤ 16777216 ∧ e % 2 = 0) &&
    decide (1 ≤ tmbClasses bs ∧ tmbClasses bs ≤ 16) && decide (fieldLe bs 13 3 = 0) && decide (fieldLe bs 62 2 = 0) &&
    (if hasF then inside bs (fieldLe bs 16 8) (2 * n) else decide (fieldLe bs 16 8 = 0)) &&
    inside bs (fieldLe bs 24 8) ((n + 1) / 2) &&
    (if hasC then inside bs (fieldLe bs 32 8) ((n + 7) / 8) else decide (fieldLe bs 32 8 = 0)) &&
    inside bs (fieldLe bs 40 8) (4 * (n + 1)) && inside bs (fieldLe bs 48 8) (6 * e) &&
    decide ((crc32c (bs.take (bs.length - 4))).toNat = fieldLe bs (bs.length - 4) 4)

/-- The start of row i. -/
def rowStart (bs : List Byte) (i : Nat) : Nat := fieldLe bs (fieldLe bs 40 8 + 4 * i) 4

/-- Entry j: the neighbour word and the weight. -/
def tmbEntry (bs : List Byte) (j : Nat) : Nat × Int :=
  (fieldLe bs (fieldLe bs 48 8 + 6 * j) 4, fieldS16 bs (fieldLe bs 48 8 + 6 * j + 4))

/-- Row i of the couplings. -/
def tmbRow (bs : List Byte) (i : Nat) : List (Nat × Int) :=
  (List.range (rowStart bs (i + 1) - rowStart bs i)).map fun j => tmbEntry bs (rowStart bs i + j)

/-- Row starts begin at 0, never fall, and end at ENTRIES. -/
def rowStartsOk (bs : List Byte) : Bool :=
  decide (rowStart bs 0 = 0) && decide (rowStart bs (tmbN bs) = fieldLe bs 8 4) &&
    (List.range (tmbN bs)).all fun i => decide (rowStart bs i ≤ rowStart bs (i + 1))

/-- A row: at most 64 neighbours below N, none of them the spin itself, none repeated, each coupling present both ways. -/
def rowOk (rows : List (List (Nat × Int))) (i : Nat) (row : List (Nat × Int)) : Bool :=
  decide (row.length ≤ 64) && decide ((row.map Prod.fst).Nodup) &&
    row.all fun e => decide (e.1 < rows.length) && decide (e.1 ≠ i) && (rows.getD e.1 []).contains (i, e.2)

/-- The supplied colour of spin i. -/
def tmbColour (bs : List Byte) (i : Nat) : Nat :=
  let b := fieldLe bs (fieldLe bs 24 8 + i / 2) 1
  if i % 2 = 0 then b % 16 else b / 16

def tmbClamp (bs : List Byte) (i : Nat) : Bool :=
  fieldLe bs 3 1 / 2 % 2 = 1 && fieldLe bs (fieldLe bs 32 8 + i / 8) 1 / 2 ^ (i % 8) % 2 = 1

def tmbField (bs : List Byte) (i : Nat) : Int :=
  if fieldLe bs 3 1 % 2 = 1 then fieldS16 bs (fieldLe bs 16 8 + 2 * i) else 0

/-- The image as a problem; none where R230 refuses it for anything but its addresses. -/
def parseProblem (bs : List Byte) (num : Nat) (p : PartId) (n : ChipId) (vc : Nat) : Option Problem :=
  if tmbHeaderOk bs && rowStartsOk bs then
    let rows := (List.range (tmbN bs)).map (tmbRow bs)
    let cols := (List.range (tmbN bs)).map (tmbColour bs)
    if (rows.zipIdx.all fun e => rowOk rows e.2 e.1) && cols.all fun c => decide (c < tmbClasses bs) then
      some { num := num, part := p, chip := n, vchip := vc, spins := tmbN bs, classes := tmbClasses bs,
             fields := (List.range (tmbN bs)).map (tmbField bs), clamp := (List.range (tmbN bs)).map (tmbClamp bs),
             rows := rows, colours := cols, stateAddr := tmbState bs }
    else none
  else none

/-! ### Colours (R233) -/

/-- Pairs coupled within one class. -/
def sameColour (rows : List (List (Nat × Int))) (cols : List Nat) : Nat :=
  (rows.zipIdx.map fun e => (e.1.filter fun x => decide (e.2 < x.1) && cols.getD x.1 0 = cols.getD e.2 0).length).sum

/-- How many of the neighbours coloured so far hold colour c. -/
def heldBy (row : List (Nat × Int)) (done : List Nat) (c : Nat) : Nat := (row.filter fun x => done[x.1]? = some c).length

/-- The colour a spin takes: the lowest that no lower-indexed neighbour holds, else the least held. -/
def greedyColour (classes : Nat) (row : List (Nat × Int)) (done : List Nat) : Nat :=
  let cs := List.range classes
  match cs.find? fun c => heldBy row done c = 0 with
  | some c => c
  | none => (cs.foldl (fun best c => if heldBy row done c < heldBy row done best then c else best) 0)

/-- Greedy recolour. -/
def recolour (classes : Nat) (rows : List (List (Nat × Int))) : List Nat :=
  rows.foldl (fun done row => done ++ [greedyColour classes row done]) []

/-- Bits packed eight to a byte, the first in bit 0. -/
def packBits (n : Nat) (bs : List Bool) : List Byte :=
  (List.range ((n + 7) / 8)).map fun i =>
    BitVec.ofNat 8 (((List.range 8).map fun j => if bs.getD (8 * i + j) false then 2 ^ j else 0).sum)

/-! ### The state area (R231) -/

def Problem.wordsAt (x : Problem) (i : Nat) : Addr := x.stateAddr + BitVec.ofNat 48 (4 * i)
def Problem.coloursAt (x : Problem) : Addr := x.stateAddr + BitVec.ofNat 48 (4 * x.spins)
def Problem.bestAddr (x : Problem) : Addr := x.coloursAt + BitVec.ofNat 48 ((x.spins + 1) / 2)
def Problem.footerAt (x : Problem) : Addr := x.bestAddr + BitVec.ofNat 48 ((x.spins + 7) / 8)

/-- Replica words read from the state area: words i to i + n - 1. -/
def State.tmbRead (s : State) (x : Problem) (i n : Nat) : List (BitVec 32) := termsOf (s.tread x.part (x.wordsAt i) (4 * n))

def State.tmbWrite (s : State) (x : Problem) (i : Nat) (ws : List (BitVec 32)) : State := s.twrite x.part (x.wordsAt i) (termBytes ws)

def Keyway.problem? (w : Keyway) (n : Nat) : Option Problem := w.problems.find? fun x => x.num = n

def State.tmbBump (s : State) (k : KwId) (i n : Nat) : State := s.modKw k fun w => { w with tmbCount := bump w.tmbCount i n }

/-! ### TMB_LOAD -/

def opTmbLoad (c : Ctx) (addr : Addr) (len : BitVec 64) (flags : BitVec 8) (s : State) : Res :=
  match c.kw?, c.part? s with
  | some k, some p =>
    match s.part p with
    | none => Res.fail s St.wardFault
    | some v =>
      let bs := s.tread p addr len.toNat
      let n := tmbN bs
      if 8 ≤ bs.length && decide (1 ≤ n ∧ n ≤ 1048576) && decide (62 ≤ bs.length) && !s.rangeOk p (tmbState bs) (stateLen n) then
        Res.fail s St.wardFault
      else
        let vc := v.shape.vqChip (addrVq addr)
        match v.chips[vc]? with
        | none => Res.fail s St.wardFault
        | some chip =>
          let num := s.pickId 1 65536 ((s.kw k).problems.map Problem.num)
          match parseProblem bs num p chip vc with
          | none => Res.fail s St.problemInvalid
          | some x =>
            if v.shape.vqChip (addrVq x.stateAddr) ≠ vc then Res.fail s St.problemInvalid
            else if (s.kw k).problems.length ≥ 16 then Res.fail s St.noResource
            else
              let x := if flags.getLsbD 0 then { x with colours := recolour x.classes x.rows } else x
              let same := sameColour x.rows x.colours
              let s := (s.useFresh 1).twrite p x.coloursAt (packNibbles x.colours)
              let s := s.modKw k fun w =>
                { w with problems := w.problems ++ [x], tmbCount := (bump w.tmbCount 0 1).set 6 same }
              Res.ok s (be 2 num ++ be 4 x.spins ++ be 4 same)
  | _, _ => Res.fail s St.wardFault

/-! ### TMB_RUN and schedules (R234, R242) -/

structure TmbSched where
  init : Nat
  wsweeps : Nat
  xevery : Nat
  betas : List (BitVec 32)

/-- BETA[r] of the default schedule, round(2^24 * 2^(-12 + 14 r / 31)) in Q8.24 (R234). -/
def defaultBeta (r : Nat) : BitVec 32 :=
  BitVec.ofNat 32 (([4096, 5602, 7661, 10476, 14327, 19593, 26795, 36644,
    50113, 68533, 93724, 128174, 175286, 239716, 327828, 448328,
    613119, 838481, 1146681, 1568164, 2144572, 2932848, 4010870, 5485139,
    7501302, 10258544, 14029259, 19185970, 26238125, 35882428, 49071672, 67108864].getD r 0 : Nat))

/-- The default column. -/
def defaultSched : TmbSched :=
  { init := 0, wsweeps := 64, xevery := 1, betas := (List.range 32).map defaultBeta }

/-- A schedule of 148 bytes; none where it is invalid. Its reserved bytes are ignored (R7). -/
def parseSched (bs : List Byte) : Option TmbSched :=
  let ws := fieldLe bs 4 4
  let xe := fieldLe bs 8 4
  if fieldLe bs 0 2 = 0x5453 ∧ fieldLe bs 2 1 = 1 ∧ fieldLe bs 3 1 ≤ 1 ∧ 1 ≤ ws ∧ ws ≤ 65536 ∧ xe ≤ 65536 ∧
      (crc32c (bs.take 144)).toNat = fieldLe bs 144 4 then
    some { init := fieldLe bs 3 1, wsweeps := ws, xevery := xe,
           betas := (List.range 32).map fun r => BitVec.ofNat 32 (fieldLe bs (16 + 4 * r) 4) }
  else none

/-- The chip and the run of a problem, queued or live. -/
def State.runOf (s : State) (k : KwId) (x : Problem) : Option TmbRun :=
  (s.chip x.chip).runs.find? fun r => r.kw = k && r.problem = x.num

def opTmbRun (c : Ctx) (problem : BitVec 16) (seed : BitVec 64) (sweeps : BitVec 32) (sched : Addr) (s : State) : Res :=
  match c.kw?, c.part? s with
  | some k, some p =>
    match (s.kw k).problem? problem.toNat with
    | none => Res.fail s St.notFound
    | some x =>
      if (s.runOf k x).isSome then Res.fail s St.busy
      else if sched ≠ 0 ∧ s.rangeOk p sched 148 = false then Res.fail s St.wardFault
      else
        match (if sched = 0 then some defaultSched else parseSched (s.tread p sched 148)) with
        | none => Res.fail s St.problemInvalid
        | some g =>
          let cut := ((s.session? c.ep c.session).map Session.cut).getD 0
          let id := s.nextOp
          let s := s.addOp c.ep c.session c.h.seq c.epoch (.tmbRun p x.chip x.num)
          let r : TmbRun :=
            { kw := k, op := id, problem := x.num, part := p, seed := seed, sweeps := sweeps.toNat, cut := cut,
              init := g.init, wsweeps := g.wsweeps, xevery := g.xevery, betas := g.betas, t := 0, replicas := [],
              bestE := none, bestAt := 0, best := [], done := false }
          Res.accepted (s.modChip x.chip fun c => { c with runs := c.runs ++ [r] })
  | _, _ => Res.fail s St.wardFault

/-! ### Energies and updates (R228, R235) -/

/-- Spin +1 is bit 1. -/
def spin (b : Bool) : Int := if b then 1 else -1

/-- f_i of a replica. -/
def localField (x : Problem) (ws : List (BitVec 32)) (i r : Nat) : Int :=
  x.fields.getD i 0 + ((x.rows.getD i []).map fun e => e.2 * spin ((ws.getD e.1 0).getLsbD r)).sum

/-- The energy E of a replica. -/
def energy (x : Problem) (ws : List (BitVec 32)) (r : Nat) : Int :=
  let sp := fun i => spin ((ws.getD i 0).getLsbD r)
  let pair := ((List.range x.spins).map fun i => ((x.rows.getD i []).map fun e => e.2 * sp e.1).sum * sp i).sum
  let self := ((List.range x.spins).map fun i => x.fields.getD i 0 * sp i).sum
  0 - pair / 2 - self

/-- Infinite beta. -/
def betaInf : BitVec 32 := 0xFFFFFFFF#32

/-- Does spin i flip in replica r at sweep t (R235)? -/
def flips (x : Problem) (run : TmbRun) (ws : List (BitVec 32)) (i r : Nat) : Bool :=
  let de := 2 * spin ((ws.getD i 0).getLsbD r) * localField x ws i r
  let beta := run.betas.getD r 0
  if de < 0 then true
  else if beta = betaInf then false
  else if de = 0 then true
  else decide ((philox run.seed run.t i r 0).toNat < Config.metropolis run.cut beta de)

/-- The word of spin i after its update in all replicas. -/
def updateWord (x : Problem) (run : TmbRun) (ws : List (BitVec 32)) (i : Nat) : BitVec 32 :=
  (List.range 32).foldl (fun w r => if flips x run ws i r then w ^^^ (1#32 <<< r) else w) (ws.getD i 0)

/-- One class: every spin of it in the window but the clamped ones, from the state at the class's start (R235, R236). -/
def updateClass (x : Problem) (run : TmbRun) (window : List Nat) (ws : List (BitVec 32)) (c : Nat) : List (BitVec 32) :=
  (window.filter fun i => x.colours.getD i 0 = c && !x.clamp.getD i false).foldl
    (fun acc i => acc.set i (updateWord x run ws i)) ws

/-! ### Exchange (R237) -/

/-- Replicas a and a + 1 trade states. -/
def swapBits (a : Nat) (w : BitVec 32) : BitVec 32 :=
  if w.getLsbD a = w.getLsbD (a + 1) then w else w ^^^ (1#32 <<< a) ^^^ (1#32 <<< (a + 1))

/-- Terms of a Taylor series behind a term, each rounded down: fuel, the next index, the term before it. -/
def expSeries (n : Nat) : Nat → Nat → Nat → Nat
  | 0, _, _ => 0
  | f + 1, i, t => let u := t * n / (2 ^ 24 * i); u + expSeries n f (i + 1) u

/-- floor(2^32 exp(-n / 2^24)): by the series of exp(n / 2^24) to 2^-320, and 0 from n / 2^24 = 23 on, where the value lies below 1
(R237; log 143). -/
def floorExp (n : Nat) : Nat :=
  if 23 * 2 ^ 24 ≤ n then 0 else 2 ^ 352 / (2 ^ 320 + expSeries n 200 1 (2 ^ 320))

/-- Does the pair (a, a + 1) swap? The sign of Delta is that of the beta difference times the energy difference. -/
def exchanges (run : TmbRun) (a : Nat) (ea eb : Int) : Bool :=
  let ba := run.betas.getD a 0
  let bb := run.betas.getD (a + 1) 0
  let x := ((ba.toNat : Int) - bb.toNat) * (ea - eb)
  if 0 ≤ x then true
  else if ba = betaInf ∨ bb = betaInf then false
  else decide ((philox run.seed run.t a 0 1).toNat < floorExp x.natAbs)

/-- Exchange round m: pairs from m mod 2 on. -/
def exchangeRound (run : TmbRun) (m : Nat) (es : List Int) (ws : List (BitVec 32)) : List Int × List (BitVec 32) :=
  ((List.range 31).filter fun a => a % 2 = m % 2).foldl (fun (acc : List Int × List (BitVec 32)) a =>
    let ea := acc.1.getD a 0
    let eb := acc.1.getD (a + 1) 0
    if exchanges run a ea eb then ((acc.1.set a eb).set (a + 1) ea, acc.2.map (swapBits a)) else acc) (es, ws)

/-! ### Windows (R240) -/

def windowSize (n : Nat) : Nat := min n 131072
def windowCount (n : Nat) : Nat := (n + windowSize n - 1) / windowSize n

/-- The spins of the window that sweep t works in. -/
def windowOf (n wsweeps t : Nat) : List Nat :=
  let wn := windowSize n
  let j := t / wsweeps
  let k := j / windowCount n
  let w := j % windowCount n
  (List.range (min wn (n - w * wn))).map fun i => (k * wn / 2 % n + w * wn + i) % n

/-- The spins outside a window. -/
def outsideOf (n : Nat) (win : List Nat) : List Nat := (List.range n).filter fun i => !win.contains i

/-- Is an exchange round due after a sweep (R237)? -/
def TmbRun.due (run : TmbRun) : Bool := run.xevery ≠ 0 && (run.t + 1) % run.xevery = 0

/-- The window's words written to the state area. -/
def State.writeWindow (s : State) (x : Problem) (win : List Nat) (ws : List (BitVec 32)) : State :=
  win.foldl (fun s i => s.tmbWrite x i [ws.getD i 0]) s

/-- The window's words read from the state area. -/
def State.readWindow (s : State) (x : Problem) (win : List Nat) (ws : List (BitVec 32)) : List (BitVec 32) :=
  win.foldl (fun acc i => acc.set i ((s.tmbRead x i 1).headD 0)) ws

/-! ### A sweep -/

/-- The replica words a run starts from: random bits, or those of the state area (R234, R238). -/
def State.initialWords (s : State) (x : Problem) (run : TmbRun) : List (BitVec 32) :=
  if run.init = 1 then s.tmbRead x 0 x.spins
  else (List.range x.spins).map fun i =>
    (List.range 32).foldl (fun w r => if (philox run.seed 0 i r 2).getLsbD 0 then w ||| (1#32 <<< r) else w) 0

/-- The lowest energy and the lowest replica that holds it. -/
def lowest (es : List Int) : Nat × Int :=
  (es.zipIdx.foldl (fun (b : Nat × Int) e => if e.1 < b.2 then (e.2, e.1) else b) (0, es.headD 0))

/-- A run after one sweep: classes in ascending order, any exchange round, the best state (R235 to R237). -/
def TmbRun.sweep (run : TmbRun) (x : Problem) : TmbRun :=
  let win := windowOf x.spins run.wsweeps run.t
  let ws := (List.range x.classes).foldl (updateClass x run win) run.replicas
  let es := (List.range 32).map (energy x ws)
  let r := if run.due then exchangeRound run ((run.t + 1) / run.xevery - 1) es ws else (es, ws)
  let low := lowest r.1
  let better := match run.bestE with
    | none => true
    | some e => decide (low.2 < e)
  let run := { run with replicas := r.2, t := run.t + 1, done := decide (run.sweeps ≤ run.t + 1) }
  if better then { run with bestE := some low.2, bestAt := run.t - 1, best := r.2.map fun w => w.getLsbD low.1 } else run

/-- The owner of the slice in progress: slice 1 + k belongs to the partition that holds quadrant k (R241). -/
def State.sliceOwner (s : State) (n : ChipId) : Option PartId :=
  if h : 1 ≤ (s.chip n).slice ∧ (s.chip n).slice ≤ 4 then s.quadOwner (quadOf n ⟨(s.chip n).slice - 1, by omega⟩) else none

/-- A partition's live run on a chip: the first to arrive (R242). A Tumbler stands still in SHUT (R95). -/
def State.liveRun (s : State) (n : ChipId) (p : PartId) : Option TmbRun :=
  match s.part p with
  | some _ => if s.chipUp n && s.unitsRun n then (s.chip n).runs.find? fun r => r.part = p else none
  | none => none

def State.setRun (s : State) (n : ChipId) (run : TmbRun) : State :=
  s.modChip n fun c => { c with runs := c.runs.map fun r => if r.op = run.op then run else r }

/-- A sweep of a run on its chip: at the first the run starts; an exchange trades the spins outside the window where they lie; at a
window's end its words go to the state area and the next window's are read (R237, R240). -/
def State.sweepRun (s : State) (n : ChipId) (run : TmbRun) (x : Problem) : State :=
  let first := run.replicas.isEmpty
  let run := if first then { run with replicas := s.initialWords x run } else run
  let s := if first then (s.tmbWrite x 0 run.replicas).tmbBump run.kw 1 1 else s
  let r := run.sweep x
  let s := s.tmbBump run.kw 3 1
  let win := windowOf x.spins run.wsweeps run.t
  let s := if run.due then s.writeWindow x (outsideOf x.spins win) r.replicas else s
  if r.t % r.wsweeps = 0 && !r.done then
    let s := (s.writeWindow x win r.replicas).tmbBump run.kw 4 1
    s.setRun n { r with replicas := s.readWindow x (windowOf x.spins r.wsweeps r.t) r.replicas }
  else s.setRun n r

/-- A slice lasts 100 us (R241). -/
def sliceNs : Nat := 100000

/-- TMB_SWEEP: one sweep of the run whose slice it is. -/
def execTmbSweep (t : Nat) (chip : ChipId) (s : State) : Out3 :=
  let s := s.tick t
  match s.sliceOwner chip with
  | none => .next s
  | some p =>
    match s.liveRun chip p with
    | none => .next s
    | some run =>
      match (s.kw run.kw).problem? run.problem with
      | some x =>
        if run.done ∨ (s.chip chip).sliceAt + sliceNs < s.osc then .next s else .next (s.sweepRun chip run x)
      | none => .next s

/-- The next slice begins where one ends, or with the row where that comes later than a slice after (R241; log 11). -/
def Chip.nextSlice (c : Chip) (now : Nat) : Chip :=
  { c with slice := (c.slice + 1) % 5, sliceAt := if now < c.sliceAt + 2 * sliceNs then c.sliceAt + sliceNs else now }

/-- TUMBLER_SLICE: after 100 us the slice ends and the next one's owner follows; a slice whose owner had a run counts as used (R241). -/
def execTumblerSlice (t : Nat) (chip : ChipId) (s : State) : Out3 :=
  let s := s.tick t
  if s.chipUp chip && decide ((s.chip chip).sliceAt + sliceNs ≤ s.osc) then
    let s := match (s.sliceOwner chip).bind (s.liveRun chip) with
      | some run => s.tmbBump run.kw 5 1
      | none => s
    .next (s.modChip chip fun c => c.nextSlice s.osc)
  else .next s

/-! ### The end of a run (R231, R239, R242) -/

/-- The run leaves its chip and TMB_DONE goes to its session, with the body of its status where that has one (R73). -/
def State.endRun (s : State) (n : ChipId) (run : TmbRun) (status : Nat) (tail : List Byte := []) : State :=
  let s := s.modChip n fun c => { c with runs := c.runs.filter fun r => r.op ≠ run.op }
  match s.op? run.op with
  | some o => (s.raiseS o.ep o.session Ev.tmbDone (be 2 run.problem ++ be 2 status ++ tail)).endOp o.id
  | none => s

/-- The footer: best energy, its sweep, sweeps run, reserved. -/
def tmbFooter (run : TmbRun) : List Byte :=
  leInt 8 (run.bestE.getD 0) ++ le 4 run.bestAt ++ le 4 run.t ++ List.replicate 16 0

/-- TMB_DONE: a run that has reached its sweep count leaves its words, best state and footer in the state area. -/
def execTmbDone (t : Nat) (chip : ChipId) (s : State) : Out3 :=
  let s := s.tick t
  match (s.chip chip).runs.find? TmbRun.done with
  | none => .next s
  | some run =>
    match (s.kw run.kw).problem? run.problem with
    | none => .next (s.endRun chip run St.cancelled)
    | some x =>
      let s := s.tmbWrite x 0 run.replicas
      let s := s.twrite x.part x.bestAddr (packBits x.spins run.best)
      let s := s.twrite x.part x.footerAt (tmbFooter run)
      .next ((s.tmbBump run.kw 2 1).endRun chip run St.ok)

/-! ### TMB_RESULT, TMB_FREE (R242, R243) -/

/-- The best state and the footer, as the state area holds them (log 34). -/
def opTmbResult (c : Ctx) (problem : BitVec 16) (dst : Addr) (s : State) : Res :=
  match c.kw?, c.part? s with
  | some k, some p =>
    match (s.kw k).problem? problem.toNat with
    | none => Res.fail s St.notFound
    | some x =>
      if (s.runOf k x).isSome then Res.fail s St.busy
      else if !s.rangeOk p dst ((x.spins + 7) / 8) then Res.fail s St.wardFault
      else
        let foot := s.tread p x.footerAt 12
        Res.ok (s.twrite p dst (s.tread p x.bestAddr ((x.spins + 7) / 8))) ((field foot 0 8).reverse ++ (field foot 8 4).reverse)
  | _, _ => Res.fail s St.wardFault

def Keyway.dropProblem (w : Keyway) (n : Nat) : Keyway := { w with problems := w.problems.filter fun x => x.num ≠ n }

def opTmbFree (c : Ctx) (problem : BitVec 16) (s : State) : Res :=
  match c.kw? with
  | none => Res.fail s St.wardFault
  | some k =>
    match (s.kw k).problem? problem.toNat with
    | none => Res.fail s St.notFound
    | some x =>
      match s.runOf k x with
      | some run =>
        if c.h.force then
          Res.ok ((s.endRun x.chip run St.cancelled).modKw k fun w => w.dropProblem x.num)
        else Res.fail s St.busy
      | none => Res.ok (s.modKw k fun w => w.dropProblem x.num)

/-- Every run of a partition ends with a status: on all its chips, or on one. -/
def State.endRuns (s : State) (p : PartId) (on : Option ChipId) (status : Nat) (tail : List Byte := []) : State :=
  (allChips.filter fun n => on.all (· = n)).foldl (fun s n =>
    ((s.chip n).runs.filter fun r => r.part = p).foldl (fun s r => s.endRun n r status tail) s) s

/-- Every problem of a partition freed: on all its chips, or on one (ch. 12 Edges). -/
def State.freeProblems (s : State) (p : PartId) (on : Option ChipId) : State :=
  { s with kws := s.kws.map fun (e : KwId × Keyway) =>
      (e.1, { e.2 with problems := e.2.problems.filter fun (x : Problem) => !(x.part = p && on.all (· = x.chip)) }) }

/-! ### The firmware's own problems (R244, R246; log 35) -/

/-- Results of more than one record, 48 bytes in each; the number is fuel. -/
def recordsOf : Nat → List Byte → List (List Byte)
  | 0, _ => []
  | f + 1, bs => if bs.isEmpty then [] else bs.take 48 :: recordsOf f (bs.drop 48)

/-- A firmware run in the black box of its chip: source 8; its seed and best energy, which the run draws and finds, most significant byte
first, the problem (1 placement, 2 shard map, 3 rotation plan), whether its result is taken, and the result taken (R88, R244; DESIGN
CHOICE, log 35). -/
def State.logTumbler (s : State) (n : ChipId) (problem : Nat) (result : Option (List Byte)) : State :=
  let seed := Config.freeReading s.fresh
  let best := Config.freeReading (s.fresh + 1)
  let bs := be 8 seed ++ be 8 best ++ [BitVec.ofNat 8 problem, if result.isSome then 1 else 0] ++ result.getD []
  (recordsOf bs.length bs).foldl (fun s r => s.bbox n 0 8 r) (s.useFresh 2)

/-- The lowest-numbered chip in service. -/
def State.lowestChip (s : State) : Option ChipId := allChips.find? s.chipUp

/-- The firmware's slice of a chip's Tumbler (R241). -/
def State.firmwareSlice (s : State) (n : ChipId) : Bool := (s.chip n).slice = 0

/-- The period of placement and shard-map runs (R244). -/
def firmwarePeriod : Nat := 600000000000

/-- SHARD_MAP_RUN: every 600 s, in the firmware's slice; a map of 256 entries is taken for later inserts (R194, R244). -/
def execShardMapRun (t : Nat) (map : List (Fin 4)) (s : State) : Out3 :=
  let s := s.tick t
  match s.lowestChip with
  | none => .next s
  | some n =>
    if !s.firmwareSlice n || decide (s.osc < s.place.shardAt + firmwarePeriod) then .next s
    else
      let s := { s with place := { s.place with shardAt := s.osc } }
      if map.length = 256 then
        let kr := { s.kr with shard := map.zipIdx.map fun (e : Fin 4 × Nat) => (BitVec.ofNat 8 e.2, e.1) }
        .next ({ s with kr := kr }.logTumbler n 2 (some (map.map fun (x : Fin 4) => BitVec.ofNat 8 x.val)))
      else .next (s.logTumbler n 2 none)

/-- The bytes of a rotation plan: logical and physical block of each move. -/
def planBytes (plan : List (Fin 640 × Fin 640)) : List Byte := plan.flatMap fun m => be 2 m.1.val ++ be 2 m.2.val

/-- ROTATION_PLAN: the chip's part of the partition's planned permutation, in the firmware's slice; one that is not complete leaves the
partition's plan incomplete at its hinge (R246). -/
def execRotationPlan (t : Nat) (chip : ChipId) (p : PartId) (plan : List (Fin 640 × Fin 640)) (complete : Bool) (s : State) :
    Out3 :=
  let s := s.tick t
  match s.part p with
  | none => .next s
  | some v =>
    let classes := ((v.latest.bind fun w => w.config.prog).map ProgramImage.classes).getD []
    let mine := plan.all fun m => v.shape.quads.contains (quadOf chip (blockK m.1))
    if s.rotates p && v.hasProgram && s.chipUp chip && s.firmwareSlice chip && v.chips.contains chip then
      if mine && rotationOk v.shape classes plan then
        let others := (v.rotPlan.getD []).filter fun e => e.1 ≠ chip
        let done := v.rotDone.filter fun n => n ≠ chip
        let new := if complete then plan.map fun m => (chip, m.1, m.2) else []
        let s := s.modPart p fun v =>
          { v with rotPlan := some (others ++ new), rotDone := if complete then done ++ [chip] else done }
        .next (s.logTumbler chip 3 (if complete then some (planBytes plan) else none))
      else .next (s.logTumbler chip 3 none)
    else .next s

end Sys2Proof.Machine
end

