-- ==== Sys2Proof/Machine/Service.lean ====
section
/-! DEFINITION. What units share when they leave service: the scopes of resets (R287, R318), detectors (R317), readings of log
records (R255, R281), black-box copies and dumps (R326, R328), overrides (R267), and the loss of a tray, a switch tray or the
whole rack (R276 to R279, R257, R325). -/

namespace Sys2Proof.Machine

/-! ### Scopes -/

def State.partQuads (s : State) (p : PartId) : List QuadId := ((s.part p).map fun v => v.shape.quads).getD []

/-- The quadrants a scope acts on (R318). -/
def State.scopeQuads (s : State) : Scope → List QuadId
  | .part p => s.partQuads p
  | .block p n b => if (s.part p).isSome then s.partQuads p else [quadOf n (blockK b)]
  | .chip n => chipQuads n
  | .tray t => (trayChips t).flatMap chipQuads
  | .rack => List.finRange 256

/-- The unit field of a record about a reset (R287). -/
def scopeUnit : Scope → BitVec 16
  | .part p => unitPart p
  | .block _ n _ => unitChip n
  | .chip n => unitChip n
  | .tray t => unitTray t
  | .rack => unitRack

/-- The chips of a scope of level 4 or 5. -/
def scopeChips : Scope → List ChipId
  | .chip n => [n]
  | .tray t => trayChips t
  | .rack => allChips
  | _ => []

/-- Partitions with a quadrant in a scope. -/
def State.scopeParts (s : State) (x : Scope) : List PartId :=
  s.partIds.filter fun p => (s.partQuads p).any fun q => (s.scopeQuads x).contains q

/-- The quadrants of the unit on which a detector fires: of a partition, those on the chip named (R317). -/
def State.unitQuads (s : State) (x : Scope) (chip : Option ChipId) : List QuadId :=
  (s.scopeQuads x).filter fun q => chip.all (· = quadChip q)

/-- Is a partition under a reset (R321)? -/
def State.resettingPart (s : State) (p : PartId) : Bool :=
  s.resets.any fun r => (s.scopeQuads r.scope).any fun q => (s.partQuads p).contains q

/-- A detector fires: its request waits for RESET_STARTED (R317). -/
def State.fire (s : State) (detector level : Nat) (x : Scope) (chip : Option ChipId) (detail : List Byte := [])
    (op : Option Nat := none) : State :=
  { s with resetReqs := s.resetReqs ++
      [{ level := level, scope := x, detector := detector, chip := chip, op := op, firedAt := s.osc, detail := detail }] }

/-! ### Readings (R287) -/

/-- The before half of a reading pair: SENSOR, KIND, FLAGS, VALUE; the after half is taken at the commit. -/
def readingBefore (sensor kind : Nat) (value : Int) : BitVec 128 :=
  BitVec.ofNat 128 (ofLe (le 2 sensor ++ le 1 kind ++ [0#8] ++ leInt 4 value))

/-- Free readings of sensors 0 to n - 1. -/
def State.freeReadings (s : State) (kinds : List Nat) : List (BitVec 128) :=
  kinds.zipIdx.map fun e => readingBefore e.2 e.1 ((Config.freeReading (s.fresh + e.2) % 2 ^ 31 : Nat) : Int)

/-- Kinds of a shelf's readings: the bus section's voltage, then current and output of every channel (R255). -/
def shelfKinds : List Nat := [0, 1, 0, 1, 0, 1, 0, 1, 0, 1, 0, 1, 0]

/-- A shelf's action: before 10 us, after 1 ms (R255). -/
def State.logShelf (s : State) (code : Nat) (unit : BitVec 16) (detail : List Byte) : State :=
  (s.logRec code unit detail (-10) 1000 (s.freeReadings shelfKinds)).useFresh 13

/-- The sensors of a tray as last sampled, in the order of R269, then its fans' speeds. -/
def State.trayReadings (s : State) (t : TrayId) : List (BitVec 128) :=
  let x := s.tray t
  [readingBefore 0 2 x.inlet, readingBefore 1 2 x.outlet, readingBefore 2 3 x.flow, readingBefore 3 2 x.airBefore,
   readingBefore 4 2 x.airAfter] ++
    (List.finRange 6).map fun i => readingBefore (5 + i.val) 4 ((if x.fansFailed.contains i then 0 else Tab.get x.fans 0 i : Nat) : Int)

/-- A tray's thermal or leak action: before 10 ms, after 1 s (R281). -/
def State.logTray (s : State) (code : Nat) (t : TrayId) (detail : List Byte) : State :=
  s.logRec code (unitTray t) detail (-10000) 1000000 (s.trayReadings t)

/-- The sensor hub's samples of a chip, sixteen junctions and eight stacks, a free reading where none has been taken (R85, R98). -/
def State.hubReadings (s : State) (n : ChipId) : List (BitVec 128) :=
  let c := s.chip n
  let known := (List.finRange 16).map (fun i => (c.junctions.find? fun e => e.1 = i).map Prod.snd) ++
    (List.finRange 8).map fun i => (c.stackTemps.find? fun e => e.1 = i).map Prod.snd
  known.zipIdx.map fun e => readingBefore e.2 2 (e.1.getD ((Config.freeReading (s.fresh + e.2) % 2 ^ 31 : Nat) : Int))

/-- A chip's: sixteen junction sensors and eight stacks (R85, R281). -/
def State.logChip (s : State) (code : Nat) (n : ChipId) (detail : List Byte) : State :=
  (s.logRec code (unitChip n) detail (-10000) 1000000 (s.hubReadings n)).useFresh 24

/-- Watts of quadrants now (R85). -/
def State.wattsOf (s : State) (qs : List QuadId) : Nat := (qs.map fun q => Config.quadWatts (s.osc / 1000000) q).sum

/-! ### The action log (R287, R288, R291) -/

/-- The record's 512 bytes (R287). -/
def LogRec.bytes (r : LogRec) : List Byte :=
  let body := le 8 r.lseq ++ le 8 r.rtime ++ le 1 r.qual ++ le 1 r.sev ++ le 2 r.code ++ le 2 r.unit.toNat ++
    le 1 r.readings.length ++ le 1 r.rflags ++ leInt 4 r.tBefore ++ leInt 4 r.tAfter ++ padTo 32 r.detail ++
    padTo 432 (r.readings.flatMap fun x => le 16 x.toNat) ++ List.replicate 12 0
  body ++ le 4 (crc32c body).toNat

/-- The after halves put into the readings; without them RFLAGS bit 1 is set. -/
def LogRec.close (r : LogRec) (after : Option (List (BitVec 128))) : LogRec :=
  match after with
  | some xs =>
    { r with readings := r.readings.zipIdx.map fun e => e.1 ||| ((xs.getD e.2 0) <<< 64) }
  | none => if r.readings.isEmpty then r else { r with rflags := r.rflags ||| 2 }

/-- Records of a 16 GiB ring. -/
def logRing : Nat := 33554432

/-- Syslog severity of SEV 0 to 3 (R291). -/
def syslogSeverity (sev : Nat) : Nat :=
  match sev with
  | 0 => 6
  | 1 => 4
  | 2 => 3
  | _ => 2

/-- A record at SYSLOG_LEVEL or above leaves as a syslog message when there is a destination (R291). -/
def State.syslog (s : State) (r : LogRec) : State :=
  if s.rackSet 0x0A13#16 ≤ r.sev ∧ s.setVal (0x0A11#16, .rack) ≠ List.replicate 18 0 then
    s.emit (.syslog (128 + syslogSeverity r.sev) r.rtime r.code r.lseq (decide (r.qual = 0 ∨ r.qual = 1)))
  else s

/-- Consoles print one line per record of CON_LEVEL or above: the record's unit, or the RMU's (R292). -/
def State.consoleLine (s : State) (r : LogRec) : State :=
  if s.rackSet 0x0A02#16 ≤ r.sev then s.emit (.console r.unit (toString r.code)) else s

/-- A record committed to flash under the next LSEQ; it goes to every operator session with EVENTS_ALL, and for an operator's
own turn to its session (R74, R288, R354). -/
def State.commitRec (s : State) (r : LogRec) : State :=
  let r := { r with lseq := s.rmu.lseq }
  let s := s.modRmu fun m => { m with lseq := m.lseq + 1, log := (m.log ++ [r]).drop (m.log.length + 1 - logRing) }
  ((s.syslog r).consoleLine r).raiseAlso .op r.forSession r.code r.bytes

/-- Every record that waits, committed from the hold-up without its after set (R257, R288, R328). -/
def State.commitAll (s : State) : State :=
  let rs := s.rmu.logWait
  let s := s.modRmu fun m => { m with logWait := [] }
  rs.foldl (fun s r => s.commitRec { (r.close none) with rflags := (r.close none).rflags ||| 4 }) s

/-! ### Black boxes and dumps (R326 to R328) -/

/-- Copies of 256 KiB that 8 GiB hold. -/
def bbRing : Nat := 32768

/-- A chip's black box with its header. -/
def State.boxImage (s : State) (n : ChipId) : BbImage :=
  let c := s.chip n
  { chip := n, firmware := c.bbFirmware, oldest := (c.bb.head?.map BbRec.bseq).getD c.bseq, newest := c.bseq, resetLevel := c.lastResetLevel,
    resetTime := c.lastResetTime, recs := c.bb }

/-- Black boxes copied to RMU flash. -/
def State.copyBoxes (s : State) (ns : List ChipId) : State :=
  s.modRmu fun m =>
    let cs := m.bbCopies ++ ns.map s.boxImage
    { m with bbCopies := cs.drop (cs.length - bbRing) }

def Dump.length (d : Dump) : Nat := 64 + d.body.length

/-- The oldest dumps overwritten until 40 GiB hold the rest; the number is fuel. -/
def trimDumps : Nat → List Dump → List Dump
  | 0, ds => ds
  | f + 1, ds => if 40 * 2 ^ 30 < (ds.map Dump.length).sum then trimDumps f ds.tail else ds

/-- A dump enters the ring and is logged. -/
def State.addDump (s : State) (d : Dump) : State :=
  let s := s.modRmu fun m => { m with dumps := trimDumps m.dumps.length (m.dumps ++ [d]), nextDump := m.nextDump + 1 }
  s.log Lg.dumpWritten unitRmu (le 2 d.rackNum ++ le 1 d.kind ++ le 8 d.length)

/-- A partition dump: header fields, at most 64 MiB; its body is the partition's state as R326 lists it, free in its bytes
(log 38). -/
def State.dumpPart (s : State) (p : PartId) (level detector : Nat) (chip : Option ChipId) (detail : List Byte) : State :=
  match s.part p with
  | none => s
  | some v =>
    let d : Dump :=
      { rackNum := s.rmu.nextDump, partNum := v.nextDump, part := some p, kind := 0, level := level, detector := detector,
        unit := BitVec.ofNat 16 ((chip.bind v.shape.vchip).getD 0), rtime := s.rackNs, epoch := v.epoch,
        cut := (v.running.bind Configuration.cut).getD 0, config := (v.running.map Configuration.num).getD 0xFFFF,
        detail := padTo 22 ([classesLost level] ++ detail), body := (Config.freeDump s.fresh).take (64 * 2 ^ 20 - 64),
        bound := s.boundKws p }
    let s := (s.useFresh 1).modPart p fun v =>
      { v with nextDump := v.nextDump + 1, recovery := bump v.recovery 5 1 }
    s.addDump d

/-- A chip dump: the black box, the Keeper's SRAM, sensors and ports. -/
def State.dumpChip (s : State) (n : ChipId) (level detector : Nat) (detail : List Byte) : State :=
  let d : Dump :=
    { rackNum := s.rmu.nextDump, partNum := 0, part := none, kind := 1, level := level, detector := detector,
      unit := BitVec.ofNat 16 n.val, rtime := s.rackNs, epoch := s.rackEpoch, cut := 0, config := 0xFFFF,
      detail := padTo 22 ([classesLost level] ++ detail), body := Config.freeDump s.fresh, bound := [] }
  (s.useFresh 1).addDump d

/-! ### Overrides (R267) -/

/-- A safety loop acts beyond a partition's policy: logged with both values, and the cause class to its keyways. -/
def State.override (s : State) (p : PartId) (cause policy imposed : Nat) : State :=
  let s := s.log Ev.policyOverridden (unitPart p) (le 1 cause ++ le 1 p.val ++ le 4 policy ++ le 4 imposed)
  s.raisePart p Ev.policyOverridden [BitVec.ofNat 8 cause]

/-! ### Links of a chip (R17, R323) -/

/-- A link's two directions in or out of service. -/
def State.setLink (s : State) (l : LinkId) (up : Bool) : State := s.modBoth l fun k => { k with inService := up }

/-- May a link carry traffic at all: its chips in service, its switch up? -/
def State.endsUp (s : State) (l : LinkId) : Bool :=
  s.chipUp l.chip && s.chipUp (reverseLink l).chip &&
    (if 6 ≤ l.port.val then (s.swt (uplinkSwitch l.chip (l.port.val - 6))).up else true)

/-- Link training sets the delay lines of both receive sides to their natural latencies (R144). -/
def State.train (s : State) (l : LinkId) (here far : Nat) : State :=
  (s.modLink l fun k => { k with natural := here, delay := linkNs - here }).modFar l fun k => { k with natural := far, delay := linkNs - far }

/-- May a link enter service: its ends up, both ends of its harness accepted, the check of training passed, and no natural latency
above 13 slots (R144, R307)? -/
def State.linkMay (s : State) (l : LinkId) : Bool :=
  s.endsUp l && !(s.link l).farBad && [s.link l, s.farSide l].all (fun k => decide (k.natural ≤ linkNs)) &&
    !(s.rejectedEnds.any fun e => (harnessOf l).any fun h => h.1 = e.1.val)

/-- All eight ports of a chip, both ends of a torus link, out of service, or in it where they may be. -/
def State.setPorts (s : State) (n : ChipId) (up : Bool) : State :=
  (List.finRange 8).foldl (fun s p => s.setLink { chip := n, port := p } (up && s.linkMay { chip := n, port := p })) s

/-! ### Units held out by their identity (R25) -/

/-- Is a unit held out: its identity did not match the factory record at power-up, or it was absent? -/
def State.heldOut (s : State) (u : BitVec 16) : Bool := s.mismatched.contains u

/-- A chip is held out by its own identity or its tray's. -/
def State.chipHeldOut (s : State) (n : ChipId) : Bool := s.heldOut (unitChip n) || s.heldOut (unitTray (trayOf n))

/-! ### Trays -/

/-- The core and auxiliary rails of a tray go off after its black boxes are copied (R249, R328): its chips are out; a locked-out one
stays LOCKED (R97, R323). -/
def State.trayOff (s : State) (t : TrayId) : State :=
  let s := { (s.copyBoxes (trayChips t)).modTray t fun x => { x with powered := false } with place := { s.place with due := true } }
  (trayChips t).foldl (fun s n =>
    (s.modChip n fun c => { c with power := if s.chipLocked n then .locked else .off }).setPorts n false) s

/-- A tray loses power: level 5 is requested (R317). -/
def State.trayLost (s : State) (t : TrayId) (detector : Nat) : State := (s.trayOff t).fire detector 5 (.tray t) none

/-- Is the reset held: its tray is without power, or its chip's tripped sensors are not yet cool (R253, R273, R276)? -/
def State.resetHeld (s : State) (r : ResetRun) : Bool :=
  match r.scope with
  | .tray t =>
    let x := s.tray t
    x.stopped || x.efuseOpen || (s.channel (trayChannel t)).st ≠ .on
  | .chip n => !(s.chip n).tripped.isEmpty
  | _ => false

/-- A reset that was held runs its course from now. -/
def State.releaseReset (s : State) (x : Scope) : State :=
  { s with resets := s.resets.map fun (r : ResetRun) => if r.scope = x then { r with startOsc := s.osc } else r }

/-! ### Switch trays (R194, R195, R325) -/

def allSwitches : List SwId := List.finRange 4

/-- A placement run is asked for (R325). -/
def State.askPlacement (s : State) : State := { s with place := { s.place with due := true } }

/-- A switch tray leaves service: its uplinks, host ports and vault content are lost, and a placement run is asked for. -/
def State.switchDown (s : State) (i : SwId) : State :=
  let s := ((s.modSw i fun x => { x with up := false }).loseVault i).askPlacement
  let s := ((List.finRange 8).filter fun h => hostPortSwitch h = i).foldl (fun s h =>
    s.modPort h fun p => { p with up := false, queue := [] }) s
  allChips.foldl (fun s n => [0, 1].foldl (fun s u =>
    if uplinkSwitch n u = i then
      s.modLink { chip := n, port := ⟨6 + u % 2, by omega⟩ } fun k => { k with inService := false }
    else s) s) s

def qualifiedParts : List String := ["FLG-Q4D-DR4", "FLG-Q4D-FR4", "FLG-Q4D-SR8", "FLG-Q4D-AEC3"]

/-- A CMIS module of revision 5.0 or later on the qualified list (R286, R302). -/
def moduleQualified (m : ModuleId) : Bool :=
  (m.identifier = 0x18 || m.identifier = 0x1E) && decide (0x50 ≤ m.cmisRev.toNat) && m.vendor = "FELGASAR" &&
    qualifiedParts.contains m.partNo

/-- A host port is up where its switch tray is and its module is qualified. -/
def State.portUp (s : State) (h : HostPortId) : State :=
  s.modPort h fun p => { p with up := p.module.any moduleQualified && (s.swt (hostPortSwitch h)).up }

/-- A switch tray powered again returns to service with its uplinks and host ports; a tray held out by its identity does not
(R25, R250). -/
def State.switchUp (s : State) (i : SwId) : State :=
  if (s.swt i).up || s.heldOut (unitSwitch i) then s
  else
    let s := s.modSw i fun x => { x with up := true }
    let s := ((List.finRange 8).filter fun h => hostPortSwitch h = i).foldl (fun s h => s.portUp h) s
    allChips.foldl (fun s n => [0, 1].foldl (fun s u =>
      if uplinkSwitch n u = i then
        let l : LinkId := { chip := n, port := ⟨6 + u % 2, by omega⟩ }
        s.setLink l (s.linkMay l)
      else s) s) s

/-! ### Endpoints (R76) -/

/-- A keyway's endpoint is lost with its ingest chip: sessions, reply caches, undelivered events, queue pairs, registrations,
handles and problems; the next command of each session is told the level. -/
def State.loseEndpoint (s : State) (k : KwId) (level : Nat) : State :=
  let nums := (s.kw k).sessions.map Session.num
  let s := (s.kw k).sessions.foldl (fun s q => s.endHandles k q.ref) s
  s.modKw k fun w =>
    { w with sessions := [], ended := nums.map (fun n => (n, level, s.rackNs)) ++ w.ended.filter (fun e => !nums.contains e.1),
             qps := [], regs := [], heldSources := [] }

/-! ### The whole rack (R257, R258, R318) -/

/-- The opened channels: no loss of power leaves LATCHED or FAULT (R250, R253). -/
def State.keptLatches (s : State) : Tab ChanId Channel := s.chan.filter fun e => e.2.st = .latched || e.2.st = .fault

/-- The rack loses power: what is not in RMU flash or MRAM is lost (R318). Power-up starts it again (R304). -/
def State.rackOff (s : State) : State :=
  let s := (s.copyBoxes allChips).commitAll
  let s := (List.finRange 64).foldl (fun s k => s.loseEndpoint k 6) s
  let s := allChips.foldl (fun s n => s.modChip n fun c =>
    { Chip.init with power := if s.chipLocked n then .locked else .off, bb := c.bb, bseq := c.bseq, xseq := c.xseq,
                     bbFirmware := c.bbFirmware, lastResetLevel := 6, lastResetTime := s.rackNs }) s
  { s with
    kws := s.kws.map fun (e : KwId × Keyway) =>
      (e.1, { e.2 with problems := [], handles := [], hist := [], evSeq := 0, lastNum := 0, heldSources := [] })
    opr := { Keyway.init with ended := s.opr.sessions.map fun q => (q.num, 6, s.rackNs) }
    ports := s.ports.map fun (e : HostPortId × HostPort) => (e.1, { HostPort.init with module := e.2.module })
    ops := [], lookups := [], reqs := [], hbm := [], bufs := [], sram := [], acc := [], poison := [], cells := [], mesh := [], waitIn := []
    deadbolts := [], sends := [], landings := [], accept := { phase := 0, since := 0 }, place := { due := false, fails := 0, ranAt := 0, shardAt := 0 }
    kr := { s.kr with dir := [] }
    sw := [], chan := s.keptLatches, parts := [], quads := []
    links := s.links.map fun (e : LinkId × Link) =>
      (e.1, { Link.init with baseline := e.2.baseline, quarAt := e.2.quarAt, accept := e.2.accept })
    trays := s.trays.map fun (e : TrayId × Tray) => (e.1, { e.2 with powered := false })
    rmu := { s.rmu with up := false, uartErrors := [], uartChars := [], level6 := some s.rackNs, commanded := false }
    leakContact := false
    resetReqs := [], resets := [], windows := [], retry5 := [], turn := none, partTurns := [], unplaced := [], ready := false
    pw := { Power.init with earlyArmed := s.pw.earlyArmed }
    clk := { s.clk with quality := .unset, ptpLocked := false, ppsLocked := false, theta := none, lossAt := none, rx := [] } }

end Sys2Proof.Machine
end

