-- ==== Sys2Proof/Machine/Power.lean ====
section
/-! DEFINITION. Shelves, channels, batteries, the budget, the ballast and dumps (R250 to R262, R265, R267), and power states of
partitions (R95, R96, R346). -/

namespace Sys2Proof.Machine

/-! ### Channels (R250 to R255) -/

def chanCode : ChanState → Nat
  | .off => 0 | .inrush => 1 | .on => 2 | .latched => 3 | .fault => 4

/-- A channel's soft start from zero. -/
def State.softStart (s : State) (c : ChanId) : State := s.modChan c fun x => { x with st := .inrush, since := s.osc }

/-- The building contact closes once every leak sensor reads dry and no channel is latched with cause leak (R280). -/
def State.closeContact (s : State) : State :=
  let dry := (List.finRange 16).all fun tr => (List.finRange 2).all fun i => Tab.get (s.tray tr).leak .dry i = .dry
  let latched := s.chan.any fun e => e.2.st = .latched && e.2.cause = some 2
  if dry && s.rackLeak = .dry && !latched && s.rmu.up then { s with leakContact := true } else s

/-- The unit on a channel loses power: detector 13 for a compute tray, service loss for a switch tray, the RMU for PS0.5, with
which the building contact opens (R280). -/
def State.unitLost (s : State) (c : ChanId) : State :=
  match channelTray c with
  | some t => s.trayLost t 13
  | none =>
    match channelSwitch c with
    | some i => s.switchDown i
    | none => if c = rmuChannel then { s.modRmu fun m => { m with up := false } with leakContact := false } else s

/-- Is a channel opened by a trip, a leak cut or too many retries (R250)? -/
def State.opened (s : State) (c : ChanId) : Bool := (s.channel c).st = .latched || (s.channel c).st = .fault

/-- The unit on a channel that reaches ON is powered again: a compute tray whose leak sensors are dry and that no thermal stop
holds closes its e-fuse, and its level 5 runs its course (R253, R276, R306); a switch tray returns to service. -/
def State.unitPowered (s : State) (c : ChanId) : State :=
  match channelTray c with
  | some t =>
    let x := s.tray t
    let wet := (List.finRange 2).any fun i => Tab.get x.leak .dry i = .wet
    if x.stopped || wet || s.lockedTrays.contains t || s.heldOut (unitTray t) then s
    else (s.modTray t fun x => { x with powered := true, efuseOpen := false }).releaseReset (.tray t)
  | none =>
    match channelSwitch c with
    | some i => s.switchUp i
    | none => if c = rmuChannel then (s.modRmu fun m => { m with up := true, bootAt := s.osc }).closeContact else s

/-- CHANNEL_POWER_ON: an OFF channel that feeds a unit enters INRUSH; a spare is always OFF (R21, R250), and so is the channel of a
shelf held out (R25; log 135). -/
def execChannelPowerOn (t : Nat) (c : ChanId) (s : State) : Out3 :=
  let s := s.tick t
  if (s.channel c).st = .off && !spareChannel c && (!s.heldOut (unitShelf c.shelf) || decide (c = rmuChannel)) then .next (s.softStart c) else .next s

/-- I_nom of a channel in mA (R248). -/
def nominalMa (c : ChanId) : Int :=
  if (channelTray c).isSome then 90000 else if (channelSwitch c).isSome then 50000 else 10000

/-- A channel trips: it opens, latches and is logged (R251). -/
def State.trip (s : State) (c : ChanId) (cause : Nat) (peakMa : Int) : State :=
  let s := s.modChan c fun x => { x with st := .latched, cause := some cause }
  s.logShelf Lg.channelTripped (unitChan c) (le 2 (unitChan c).toNat ++ le 1 cause ++ leInt 4 peakMa)

/-- SOFTSTART_END: 20 ms after its start the channel is ON at 90 % of 54 V or more, and latched below 10 % (R250, R251). -/
def execSoftstartEnd (t : Nat) (c : ChanId) (percent : Nat) (s : State) : Out3 :=
  let s := s.tick t
  if (s.channel c).st = .inrush ∧ (s.channel c).since + 20000000 ≤ s.osc then
    if 90 ≤ percent then
      .next ((s.modChan c fun x => { x with st := .on, retries := 0, cause := none }).unitPowered c)
    else if percent < 10 then .next ((s.trip c 1 0).unitLost c)
    else .next s
  else .next s

/-- CHANNEL_TRIPPED: more than 3 I_nom for 2 us, or low output once the 20 ms of its soft start are over (R251). -/
def execChannelTripped (t : Nat) (c : ChanId) (lowOutput : Bool) (peakMa : Int) (s : State) : Out3 :=
  let s := s.tick t
  let x := s.channel c
  let short := if lowOutput then decide (x.st = .on ∨ x.since + 20000000 ≤ s.osc) else decide (3 * nominalMa c < peakMa)
  if (x.st = .on ∨ x.st = .inrush) ∧ short = true then
    .next ((s.trip c (if lowOutput then 1 else 0) peakMa).unitLost c)
  else .next s

/-- SOFTSTART_RETRY: a sag below 48 V for more than 100 us restarts the soft start; with three retries it faults (R252). -/
def execSoftstartRetry (t : Nat) (c : ChanId) (sagUs : Nat) (lowestMv : Int) (s : State) : Out3 :=
  let s := s.tick t
  let x := s.channel c
  if x.st = .inrush ∧ 100 < sagUs ∧ lowestMv < 48000 then
    if 3 ≤ x.retries then
      let s := s.modChan c fun x => { x with st := .fault }
      .next ((s.logShelf Lg.channelFault (unitChan c) (le 2 (unitChan c).toNat ++ le 1 x.retries)).unitLost c)
    else
      let s := (s.modChan c fun x => { x with retries := x.retries + 1 }).softStart c
      .next (s.logShelf Lg.softstartRetry (unitChan c)
        (le 2 (unitChan c).toNat ++ le 1 (x.retries + 1) ++ le 4 sagUs ++ leInt 4 lowestMv))
  else .next s

/-- Does a leak hold a tray's channel cut: a wet sensor of the tray, or of the rack (R253, R279)? -/
def State.leakCut (s : State) (t : TrayId) : Bool :=
  s.rackLeak = .wet || (List.finRange 2).any fun i => Tab.get (s.tray t).leak .dry i = .wet

/-- CHANNEL_LEAK_CUT: the shelf opens the channel of a leaking tray and latches it with cause leak (R253, R278). -/
def execChannelLeakCut (t : Nat) (c : ChanId) (s : State) : Out3 :=
  let s := s.tick t
  match channelTray c with
  | some tr =>
    let st := (s.channel c).st
    if s.leakCut tr && st ≠ .latched && st ≠ .fault then
      let peak : Nat := Config.freeReading s.fresh % 2 ^ 31
      .next ((s.useFresh 1).trip c 2 (peak : Int))
    else .next s
  | none => .next s

/-! ### Energy, capacity and the budget (R256, R259, R262) -/

/-- A unit's energy in Wh: the lower estimate of its capacity (R259). -/
def Battery.energyWh (b : Battery) : Nat := min b.countPct b.voltPct * b.capacityWh / 100

def allUnits : List (Fin 16) := List.finRange 16

/-- Stored energy of the units but those of a list. -/
def State.storedWh (s : State) (but : List (Fin 16) := []) : Nat :=
  ((allUnits.filter fun i => !but.contains i).map fun i => (s.battery i).energyWh).sum

/-- Supply capacity in W (R256). -/
def State.capacityW (s : State) : Nat :=
  28000 * ((List.finRange 4).filter fun i => (s.shelfOf i).ac && (s.shelfOf i).conv).length

/-- The battery discharge rating in W. -/
def dischargeW : Nat := 8000 * allUnits.length

/-- The three terms of R262 in W. -/
def State.budgetTerms (s : State) : List Nat :=
  [s.rackSet 0x0602#16 * 1000,
   if s.capacityW = 0 then dischargeW else s.capacityW,
   (s.storedWh - 150) * 3600 / max 1 (s.rackSet 0x0603#16)]

/-- The least term and its number; the lowest number of equals. -/
def least (xs : List Nat) : Nat × Nat := xs.zipIdx.foldl (fun (b : Nat × Nat) e => if e.1 < b.1 then e else b) (xs.headD 0, 0)

/-- The watts a partition's policy grants: the lower of PART_POWER_CAP and PWR_PART_MAX, 0 for none (R263, R268). -/
def State.capOf (s : State) (p : PartId) : Nat :=
  let cap := s.partSet p 0x020A#16
  let most := s.partSet p 0x0605#16 * (s.partQuads p).length
  if cap = 0 then most else if most = 0 then cap else min cap most

/-- Shares of a budget in proportion to quadrants held; who draws less than its share leaves the rest to the others (R262). An entry is a
partition, its quadrants and its draw; the number is fuel. -/
def shareOut : Nat → Nat → List (PartId × Nat × Nat) → List (PartId × Nat)
  | 0, _, _ => []
  | f + 1, budget, xs =>
    let total := max 1 (xs.map fun x => x.2.1).sum
    let share := fun (x : PartId × Nat × Nat) => budget * x.2.1 / total
    let modest := xs.filter fun x => decide (x.2.2 < share x)
    if modest.isEmpty then xs.map fun x => (x.1, share x)
    else
      (modest.map fun x => (x.1, share x)) ++
        shareOut f (budget - (modest.map fun x => x.2.2).sum) (xs.filter fun x => decide (share x ≤ x.2.2))

/-- The partitions with quadrants among some, each with those and its draw there. -/
def State.drawers (s : State) (qs : List QuadId) : List (PartId × Nat × Nat) :=
  (s.partIds.map fun p =>
    let mine := (s.partQuads p).filter qs.contains
    (p, mine.length, s.wattsOf mine)).filter fun x => decide (0 < x.2.1)

/-- The allowance of each partition under the rack budget, where the draw exceeds it (R262). -/
def State.budgetShares (s : State) : List (PartId × Nat) :=
  if s.pw.budgetW < s.pw.drawW then
    let xs := s.drawers (List.finRange 256)
    shareOut (xs.length + 1) s.pw.budgetW xs
  else []

def trayQuads (t : TrayId) : List QuadId := (trayChips t).flatMap chipQuads

/-- The allowance of each partition on a tray, where the tray's own is derated (R275). -/
def State.trayShares (s : State) (t : TrayId) : List (PartId × Nat) :=
  if (s.tray t).factor < 1000 then
    let xs := s.drawers (trayQuads t)
    shareOut (xs.length + 1) (s.tray t).allowanceW xs
  else []

/-- The divider max of a chip: the largest that any of its partitions allows (R91). -/
def State.dividerMax (s : State) (n : ChipId) : Nat := ((s.partsOn n).map fun p => s.partSet p 0x0207#16).foldl max 4

/-- Does a partition draw more than its cap, its share of the budget, or its share of some tray grants? -/
def State.overDraws (s : State) (p : PartId) : Bool :=
  let past := fun (shares : List (PartId × Nat)) (qs : List QuadId) =>
    shares.any fun e => e.1 = p && decide (e.2 < s.wattsOf ((s.partQuads p).filter qs.contains))
  (s.capOf p ≠ 0 && decide (s.capOf p < s.wattsOf (s.partQuads p))) || past s.budgetShares (List.finRange 256) ||
    (List.finRange 16).any fun t => past (s.trayShares t) (trayQuads t)

/-- The divider that the power loops ask of a chip; a switch is recorded in its black box (R90, R263). -/
def State.askDivider (s : State) (n : ChipId) (d : Nat) : State :=
  let c := s.chip n
  let new := max (4 + c.thermSteps) d
  let s := s.modChip n fun c => { c.requestDivider new s.osc with powerDiv := d }
  if new = c.divider then s else s.bbox n 0 1 [BitVec.ofNat 8 c.divider, BitVec.ofNat 8 new]

/-- A partition held to its allowance: a box by the divider within its max and then by gating MTX, a smaller one by gating MTX of its
own quadrants; how far is for the machine to find (R263, R275; log 134). -/
def State.holdPart (s : State) (p : PartId) (v : Part) : State :=
  let gate := fun (s : State) => v.shape.quads.foldl (fun s q => s.modQuad q fun x => { x with powerGate := true }) s
  if v.shape.cls = 3 then
    let steps := Config.freeReading s.fresh
    let most := fun (n : ChipId) => s.dividerMax n
    let t := v.chips.foldl (fun s n => s.askDivider n (4 + steps % (most n - 3))) (s.useFresh 1)
    if s.partSet p 0x0207#16 ≤ 4 + steps % (s.partSet p 0x0207#16 - 3) then gate t else t
  else gate s

/-- A partition inside its allowance runs as its policy says. -/
def State.releasePart (s : State) (v : Part) : State :=
  let s := if v.shape.cls = 3 then v.chips.foldl (fun s n => s.askDivider n 4) s else s
  v.shape.quads.foldl (fun s q => s.modQuad q fun x => { x with powerGate := false }) s

/-- The power loops act on every partition (R262, R263, R275). -/
def State.regulate (s : State) : State :=
  s.partIds.foldl (fun s p =>
    match s.part p with
    | some v => if s.overDraws p then s.holdPart p v else s.releasePart v
    | none => s) s

/-- Overrides for the partitions that an allowance holds below what their policy grants (R267). -/
def State.overrideShares (s : State) (cause : Nat) (qs : List QuadId) (shares : List (PartId × Nat)) : State :=
  shares.foldl (fun t e =>
    let mine := (s.partQuads e.1).filter qs.contains
    let cap := s.capOf e.1 * mine.length / max 1 (s.partQuads e.1).length
    if e.2 < s.wattsOf mine ∧ (cap = 0 ∨ e.2 < cap) then t.override e.1 cause cap e.2 else t) s

/-- The budget acts on the partitions that draw more than their share of it (R262, R267). -/
def State.enforceBudget (s : State) (cause : Nat) : State :=
  (s.overrideShares cause (List.finRange 256) s.budgetShares).regulate

/-- The budget taken afresh: BUDGET_CHANGED where it moves, overrides where the draw exceeds it (R256, R262). -/
def State.rebudget (s : State) : State :=
  let b := least s.budgetTerms
  if b.1 = s.pw.budgetW then s
  else
    let s := { s with pw := { s.pw with budgetW := b.1, budgetTerm := b.2 } }
    let s := s.log Lg.budgetChanged unitRack (le 4 b.1 ++ le 1 b.2)
    s.enforceBudget (if b.2 = 2 then 5 else 4)

/-! ### Ride-through and dumps (R256 to R258) -/

/-- A dump: core rails off and chips in LOCKED, black boxes and records to flash, the channels open, PS0.5 last; the rack is
down until its power-up (R257, R258). -/
def State.startDump (s : State) (reason : Nat) : State :=
  let s := s.log Lg.dumpStarted unitRack (le 1 reason)
  let s := s.rackOff
  { s with pw := { s.pw with rideStart := none } }

/-- A running calibration is abandoned at an AC loss; the lower estimate stands (R261). -/
def State.abandonCalibrations (s : State) : State :=
  (allUnits.filter fun i => (s.battery i).calibrating).foldl (fun s i =>
    let s := s.modBatt i fun b => { b with calibrating := false }
    s.logShelf Lg.calibration (unitShelf ⟨i.val / 4, by omega⟩)
      (le 2 (unitShelf ⟨i.val / 4, by omega⟩).toNat ++ le 1 2 ++ le 4 (s.battery i).capacityWh)) s

/-- Capacity has reached 0: ride-through begins; with the early dump armed, black boxes and records are copied now (R260). -/
def State.beginRide (s : State) : State :=
  let s := s.abandonCalibrations
  let s := (s.log Lg.rideThrough unitRack (le 1 0 ++ le 4 s.storedWh))
  let s := { s with pw := { s.pw with rideStart := some s.osc } }
  if s.pw.earlyArmed && !s.pw.earlyDumped then
    let s := (s.log Lg.dumpStarted unitRack (le 1 2)).copyBoxes allChips
    { s.commitAll with pw := { s.pw with earlyDumped := true } }
  else s

/-- CONVERSION_LOST: AC loss or a converter fault of one shelf. -/
def execConversionLost (t : Nat) (sh : ShelfId) (converterFault : Bool) (s : State) : Out3 :=
  let s := s.tick t
  let had := (s.shelfOf sh).ac && (s.shelfOf sh).conv
  let s := s.modShelf sh fun x => if converterFault then { x with conv := false } else { x with ac := false }
  if had then
    let s := s.logShelf Lg.conversionLost (unitShelf sh) (le 2 (unitShelf sh).toNat ++ le 1 (if converterFault then 1 else 0))
    let s := if s.capacityW = 0 ∧ s.ready = true ∧ s.pw.rideStart = none then s.beginRide else s
    .next (if s.ready then s.rebudget else s)
  else .next s

/-- CONVERSION_RESTORED: the shelf carries load again, unless it is held out (R25); a ride-through in progress ends (R258). -/
def execConversionRestored (t : Nat) (sh : ShelfId) (s : State) : Out3 :=
  let s := s.tick t
  let had := (s.shelfOf sh).ac && (s.shelfOf sh).conv
  let s := s.modShelf sh fun x => { x with ac := true, conv := !s.heldOut (unitShelf sh) }
  if had || s.heldOut (unitShelf sh) then .next s
  else
    let s := s.logShelf Lg.conversionRestored (unitShelf sh) (le 2 (unitShelf sh).toNat)
    match s.pw.rideStart with
    | some _ =>
      let s := s.log Lg.rideThrough unitRack (le 1 1 ++ le 4 s.storedWh)
      .next ({ s with pw := { s.pw with rideStart := none, earlyDumped := false } }.rebudget)
    | none => .next (if s.ready then s.rebudget else s)

/-- RIDE_THROUGH_END: PWR_RIDE_THROUGH after capacity reached 0 a dump starts. -/
def execRideThroughEnd (t : Nat) (s : State) : Out3 :=
  let s := s.tick t
  match s.pw.rideStart with
  | some st => if st + s.rackSet 0x0603#16 * 1000000000 ≤ s.osc then .next (s.startDump 0) else .next s
  | none => .next s

/-- The estimates of battery units as they now stand (R259). -/
def State.readUnits (s : State) (units : List (Fin 16 × Nat × Nat)) : State :=
  units.foldl (fun s u => s.modBatt u.1 fun b => { b with countPct := min 100 u.2.1, voltPct := min 100 u.2.2 }) s

/-- ENERGY_FLOOR: in ride-through the stored energy, as the units' estimates give it, has fallen to 0.15 kWh (R257, R259). -/
def execEnergyFloor (t : Nat) (units : List (Fin 16 × Nat × Nat)) (s : State) : Out3 :=
  let s := (s.tick t).readUnits units
  if s.pw.rideStart.isSome ∧ s.storedWh ≤ 150 then .next (s.startDump 1) else .next s

/-! ### Battery state (R259 to R261) -/

/-- Is any unit disputed? The early dump is armed meanwhile (R260). -/
def State.rearm (s : State) : State :=
  { s with pw := { s.pw with earlyArmed := allUnits.any fun i => (s.battery i).disputed } }

/-- CHARGE_DISPUTED: the two estimates of a unit as they have stood for 60 s; a difference beyond 15 points begins a dispute. -/
def execChargeDisputed (t : Nat) (unit : Fin 16) (count volt : Nat) (s : State) : Out3 :=
  let s := s.tick t
  let old := (s.battery unit).disputed
  let s := s.readUnits [(unit, count, volt)]
  if 15 < stampGap (min 100 count) (min 100 volt) ∧ old = false then
    let sh := unitShelf ⟨unit.val / 4, by omega⟩
    let s := (s.modBatt unit fun b => { b with disputed := true }).rearm
    .next ((s.logShelf Lg.chargeDisputed sh (le 2 sh.toNat ++ le 1 (min 100 count) ++ le 1 (min 100 volt) ++ [1])).rebudget)
  else .next (if s.ready then s.rebudget else s)

/-- Inside PWR_CAL_WINDOW of the rack-time day (R268). -/
def State.inCalWindow (s : State) : Bool :=
  let v := s.setVal (0x0604#16, .rack)
  decide ((s.rackNs / 60000000000 + 1440 - fieldBe v 0 2) % 1440 < fieldBe v 2 2)

/-- CALIBRATION_START (R261). -/
def execCalibrationStart (t : Nat) (unit : Fin 16) (s : State) : Out3 :=
  let s := s.tick t
  let b := s.battery unit
  let needed := s.rackSet 0x0603#16 * s.rackSet 0x0602#16 * 1000 / 3600 + 150
  if b.disputed && s.inCalWindow && !(allUnits.any fun i => (s.battery i).calibrating) &&
      s.pw.rideStart.isNone && decide (needed ≤ s.storedWh [unit]) then
    let sh := unitShelf ⟨unit.val / 4, by omega⟩
    let s := s.modBatt unit fun b => { b with calibrating := true }
    .next (s.logShelf Lg.calibration sh (le 2 sh.toNat ++ le 1 0 ++ le 4 b.capacityWh))
  else .next s

/-- CALIBRATION_END: recharged to full, the count reset against the measured capacity, the dispute cleared (R260, R261). -/
def execCalibrationEnd (t : Nat) (unit : Fin 16) (capacityWh : Nat) (s : State) : Out3 :=
  let s := s.tick t
  let b := s.battery unit
  if b.calibrating then
    let sh := unitShelf ⟨unit.val / 4, by omega⟩
    let s := (s.modBatt unit fun b =>
      { b with calibrating := false, countPct := 100, voltPct := 100, capacityWh := capacityWh, disputed := false }).rearm
    let s := s.logShelf Lg.calibration sh (le 2 sh.toNat ++ le 1 1 ++ le 4 capacityWh)
    let s := if b.disputed then s.logShelf Lg.chargeDisputed sh (le 2 sh.toNat ++ [100, 100, 0]) else s
    .next (if s.ready then s.rebudget else s)
  else .next s

/-! ### Ramp limit and ballast (R264, R265) -/

/-- PWR_RAMP_LIMIT in W/s. -/
def State.rampW (s : State) : Nat := s.rackSet 0x0601#16 * 1000

/-- What the ballast can burn: four banks of 12 kW, and a quarter of it once it has burned more than that for 60 s (R248). -/
def State.ballastMax (s : State) : Nat :=
  if s.pw.burnSince.any fun a => decide (a + 60000000000 ≤ s.osc) then 12000 else 48000

/-- Ballast left available. -/
def State.ballastRoom (s : State) : Nat := s.ballastMax - s.pw.ballastW

/-- The ballast burning another power. -/
def State.burn (s : State) (w : Nat) : State :=
  { s with pw := { s.pw with ballastW := w, burnSince := if w ≤ 12000 then none else some (s.pw.burnSince.getD s.osc) } }

/-- What L lets rise now: its share of the last 100 ms less the rises of that time (R264). -/
def State.rampRoom (s : State) : Nat :=
  s.rampW / 10 - ((s.pw.rises.filter fun r => decide (s.osc < r.1 + 100000000)).map Prod.snd).sum

/-- A rise that reaches the facility. -/
def State.riseBy (s : State) (w : Nat) : State :=
  { s with pw := { s.pw with rises := s.pw.rises.filter (fun (r : Nat × Nat) => decide (s.osc < r.1 + 100000000)) ++
    if w = 0 then [] else [(s.osc, w)] } }

/-- The time since its last change runs on the ballast: it falls at L, and once it is 0 a rise held back is admitted at L (R264,
R265). -/
def State.settleBallast (s : State) : State :=
  let by_ := s.rampW * (s.osc - s.pw.ballastAt) / 1000000000
  let freed := min s.pw.heldRiseW (min (by_ - min by_ s.pw.ballastW) s.rampRoom)
  let at_ := if by_ ≤ s.pw.ballastW then s.pw.ballastAt + by_ * 1000000000 / max 1 s.rampW else s.osc
  let s := (s.burn (s.pw.ballastW - by_)).riseBy freed
  { s with pw := { s.pw with heldRiseW := s.pw.heldRiseW - freed, ballastAt := at_ } }

/-- LOAD_FALL: the ballast takes up the released power; what exceeds it the facility sees at once, but a voluntary fall goes only as
far as the ballast left (R265, R266, ch. 13 Edges). -/
def execLoadFall (t : Nat) (d : LoadDrop) (s : State) : Out3 :=
  let s := (s.tick t).settleBallast
  let avail := s.ballastRoom
  let drop := if d.voluntary then min d.watts avail else d.watts
  let s := s.burn (s.pw.ballastW + min drop avail)
  let s := { s with pw := { s.pw with drawW := s.pw.drawW - drop } }
  if avail < drop then .next (s.log Lg.rampExceeded unitRack (le 4 drop ++ le 4 avail)) else .next s

/-- BALLAST_DECAY. -/
def execBallastDecay (t : Nat) (s : State) : Out3 := .next (s.tick t).settleBallast

/-- LOAD_RISE: ballast is reduced first; of the rest, what L allows reaches the facility and the remainder is held back, beyond the
policy of every partition (R264, R265, R267). -/
def execLoadRise (t : Nat) (riseW : Nat) (s : State) : Out3 :=
  let s := (s.tick t).settleBallast
  let off := min riseW s.pw.ballastW
  let rest := riseW - off
  let now := min rest s.rampRoom
  let held := rest - now
  let s := (s.burn (s.pw.ballastW - off)).riseBy now
  let s := { s with pw := { s.pw with drawW := s.pw.drawW + riseW, heldRiseW := s.pw.heldRiseW + held } }
  let s := if 0 < held then s.partIds.foldl (fun s p => s.override p 3 (s.capOf p) (s.rampW / 10)) s else s
  .next (s.enforceBudget (if s.pw.budgetTerm = 2 then 5 else 4))

/-! ### Power states of partitions (R95, R96, R346) -/

def setPower (v : Part) (n : Nat) : Part := { v with power := n }

/-- The program's drain for a forced SHUT (R96, R355). -/
def State.drainProgram (s : State) (p : PartId) : State :=
  match (s.part p).map Part.prog with
  | some .running => s.modPart p fun v => setProg v (.draining s.osc none)
  | _ => s

/-- A drain attempt starts (R353): the next batch is held, and in a TAGGED partition a turn hinge reloads the current
configuration; a STATIC one waits for its program's own. -/
def State.startAttempt (s : State) (p : PartId) : State :=
  match s.part p with
  | none => s
  | some v =>
    if v.prog = .running ∧ v.drainStart = none then
      let s := s.modPart p fun v => { v with drainStart := some s.osc, drainHinge := v.hinges, drainRetry := none }
      match s.partSet p 0x0203#16, v.latest with
      | 1, some w => s.startWave p { w with op := none, carried := [] }
      | _, _ => s
    else s

/-- The Tumbler runs of a partition. -/
def State.partRuns (s : State) (p : PartId) : Bool := allChips.any fun n => (s.chip n).runs.any fun r => r.part = p

/-- PWR_STATE: refused BUSY for SHUT while a program or a Tumbler run is live, unless FORCE drains the one and cancels the
other. -/
def opPwrState (c : Ctx) (state retain : BitVec 8) (s : State) : Res :=
  match c.part? s with
  | none => Res.fail s St.wardFault
  | some p =>
    let busy := state = 2 && (((s.part p).map Part.hasProgram).getD false || s.partRuns p)
    if busy && !c.h.force then Res.fail s St.busy
    else
      let s := if busy then (s.drainProgram p).endRuns p none St.cancelled else s
      let was := ((s.part p).map Part.power).getD 0
      let s := if was < state.toNat ∧ busy = false then s.startAttempt p else s
      -- a fall that the ballast cannot take at once is made in steps, which the ramp limit delays (R266)
      let s := if was < state.toNat ∧ s.ballastRoom < s.wattsOf (s.partQuads p) then s.override p 3 state.toNat was else s
      Res.accepted (s.addOp c.ep c.session c.h.seq c.epoch (.pwrState p state.toNat (retain.getLsbD 0)))

/-- The oldest power move of a partition. -/
def State.powerOp (s : State) (p : PartId) : Option (Op × Nat × Bool) :=
  s.ops.findSome? fun o =>
    match o.kind with
    | .pwrState q n r => if q = p then some (o, n, r) else none
    | _ => none

/-- SHUT without retention: cell SRAM, block buffers and queues are lost, and with them the programs; HBM stays (R96, R343,
R346). -/
def State.loseGrid (s : State) (p : PartId) : State :=
  match s.part p with
  | none => s
  | some v =>
    let mine := fun (q : QuadId) => v.shape.quads.contains q
    let s := s.dropProgram p
    let s := s.modPart p fun v => { v with configs := [], staged := none }
    let s := { s with bufs := s.bufs.filter fun e => !mine (quadOf e.1.1 (blockK e.1.2)),
                      acc := s.acc.filter fun e => !mine (quadOf e.1.1 (blockK e.1.2)),
                      sram := s.sram.filter fun e => !mine (cellQuad e.1) }
    let s := s.log Lg.classesLost (unitPart p) (le 2 (unitPart p).toNat ++ [0x10])
    v.chips.foldl (fun s n => s.bbox n Lg.classesLost 1 (le 2 (unitPart p).toNat ++ [0x10])) s

/-- The CELL clock of the partition's quadrants is gated: how far each chip's count had come (R95). -/
def State.gate (s : State) (p : PartId) : State :=
  s.modPart p fun v => { v with gated := v.chips.map fun n => (n, s.cycleOn n) }

/-- The cells run on where they stopped, the cycles in between not counted; a STATIC partition resumes at its next frame (R96). -/
def State.ungate (s : State) (p : PartId) : State :=
  match s.part p with
  | none => s
  | some v =>
    let lost := fun (n : ChipId) => ((v.gated.find? fun e => e.1 = n).map fun e => s.cycleOn n - e.2).getD 0
    let later := fun (x : CellId) (c : CellState) =>
      if v.holdsCell x then { c with since := c.since + lost x.chip, blockedAt := c.blockedAt + lost x.chip } else c
    let s := { s with cells := s.cells.map fun (e : CellId × CellState) => (e.1, later e.1 e.2) }
    s.setPart p (some { v with gated := [],
                               runsFrom := if s.partSet p 0x0203#16 = 0 then (s.osc / 2048 + 1) * 2048 else s.osc })

/-- The grid's clock follows a change of the power state. -/
def State.gateFor (s : State) (p : PartId) (was now : Nat) : State :=
  if was = 0 ∧ now ≠ 0 then s.gate p else if was ≠ 0 ∧ now = 0 then s.ungate p else s

/-- POWER_STATE_CHANGED: every quadrant has reached the state; a fall has waited for a quiesce point (R95). -/
def execPowerStateChanged (t : Nat) (p : PartId) (s : State) : Out3 :=
  let s := s.tick t
  match s.part p, s.powerOp p with
  | some v, some (o, n, r) =>
    let ready := decide (n ≤ v.power) || !v.hasProgram || (v.quiesced && decide (n < 2))
    if ready then
      let s := if n = 2 ∧ r = false ∧ v.power ≠ 2 then s.loseGrid p else s
      let s := (s.gateFor p v.power n).modPart p fun v => { setPower v n with quiesced := v.heldByTurn && v.quiesced }
      .next ((s.raiseS o.ep o.session Ev.powerStateChanged [BitVec.ofNat 8 n]).endOp o.id)
    else .next s
  | _, _ => .next s

end Sys2Proof.Machine
end

