-- ==== Sys2Proof/Machine/Cooling.lean ====
section
/-! DEFINITION. Chip and tray cooling: throttles and recovery, trips, sensors, allowances, thermal stops and leaks (R86, R269 to
R281). -/

namespace Sys2Proof.Machine

/-! ### Chip loop (R270 to R272) -/

/-- A threshold setting in m°C. -/
def State.milli (s : State) (id : BitVec 16) : Int := ((s.rackSet id * 1000 : Nat) : Int)

/-- MTX duty in percent. -/
def duty (gate : Bool) : Nat := if gate then 50 else 100

/-- A divider beyond the chip's bound, or a gated MTX, crosses the policy of every partition on the chip (R91, R267). -/
def State.overrideChip (s : State) (n : ChipId) : State :=
  let c := s.chip n
  let most := s.dividerMax n
  (s.partsOn n).foldl (fun s p =>
    if most < c.divider then s.override p 1 most c.divider
    else if c.mtxGate then s.override p 1 100 50 else s) s

/-! ### Chip sensors (R85, R86, R98) -/

def setSensor {α β : Type} [DecidableEq α] (f : List β) (b : β) [DecidableEq β] (m : Tab α Int) (i : α) (v : Int) : Tab α Int :=
  if f.contains b then m else Tab.set m i v

/-- A sample of a chip sensor into the hub; a failed sensor keeps reading its trip value. The core-rail current is sampled with it. -/
def Chip.sampled (c : Chip) (x : SensorId) (v : Int) (rail : Nat) : Chip :=
  match x with
  | .junction _ i => { c with junctions := setSensor c.failed x c.junctions i v, railMa := rail }
  | .stack _ i => { c with stackTemps := setSensor c.failed x c.stackTemps i v, railMa := rail }
  | _ => c

def State.sample (s : State) (n : ChipId) (x : SensorId) (v : Int) : State :=
  (s.modChip n fun c => c.sampled x v (Config.freeReading s.fresh)).useFresh 1

/-- The highest of some readings, where there is one. -/
def highest (xs : List Int) : Option Int :=
  match xs with
  | [] => none
  | x :: xs => some (xs.foldl max x)

/-- The junction temperature that governs a chip: the highest of its sixteen sensors (R85). -/
def Chip.governing (c : Chip) : Option Int := highest (c.junctions.map Prod.snd)

/-- The HBM temperature that governs quadrant k: the higher of its two stacks. -/
def Chip.governingHbm (c : Chip) (k : Nat) : Option Int := highest ((c.stackTemps.filter fun e => e.1.val / 2 = k).map Prod.snd)

/-- Has a governing temperature reached a value? -/
def reaches (g : Option Int) (v : Int) : Bool := g.any fun x => decide (v ≤ x)

/-- The governing temperature has been read at v: no sensor that works reads more. -/
def Chip.cooledTo (c : Chip) (n : ChipId) (quad : Option (Fin 4)) (v : Int) : Chip :=
  match quad with
  | none => { c with junctions := c.junctions.map fun e => if c.failed.contains (.junction n e.1) then e else (e.1, min e.2 v) }
  | some k =>
    { c with stackTemps := c.stackTemps.map fun e =>
        if c.failed.contains (.stack n e.1) || e.1.val / 2 ≠ k.val then e else (e.1, min e.2 v) }

/-- One throttle step: the divider rises, or at /6 MTX is gated at 50 % duty. -/
def State.throttle (s : State) (n : ChipId) (sensor : Fin 16) (temp : Int) : State :=
  let c := s.chip n
  let d := min 6 (max c.divider c.powerDiv + 1)
  let g := c.mtxGate || c.divider = 6
  let detail := le 2 (unitChip n).toNat ++ le 2 sensor.val ++ leInt 4 temp ++ le 1 c.divider ++ le 1 (duty c.mtxGate) ++
    le 1 d ++ le 1 (duty g)
  let s := s.modChip n fun c =>
    { c.requestDivider d s.osc with mtxGate := g, thermSteps := d - 4, lastStep := s.osc }
  ((s.logChip Lg.thermalThrottle n detail).bbox n Lg.thermalThrottle 6 detail).overrideChip n

/-- The governing junction temperature is not below the threshold less the hysteresis: recovery waits anew (R271). -/
def State.stillHot (s : State) (n : ChipId) : State :=
  if reaches (s.chip n).governing (s.milli 0x0701#16 - s.milli 0x0703#16) then s.modChip n fun c => { c with hotAt := s.osc } else s

/-- The same of a quadrant's HBM. -/
def State.stillHotHbm (s : State) (n : ChipId) (k : Fin 4) : State :=
  if reaches ((s.chip n).governingHbm k.val) (s.milli 0x0702#16 - s.milli 0x0703#16) then
    s.modQuad (quadOf n k) fun q => { q with hotAt := s.osc }
  else s

/-- THERMAL_THROTTLE: the governing junction temperature reaches the threshold. -/
def execThermalThrottle (t : Nat) (chip : ChipId) (sensor : Fin 16) (temp : Int) (s : State) : Out3 :=
  let s := ((s.tick t).sample chip (.junction chip sensor) temp).stillHot chip
  let c := s.chip chip
  if s.chipUp chip && reaches c.governing (s.milli 0x0701#16) && c.thermSteps = 0 && !c.mtxGate then
    .next (s.throttle chip sensor temp)
  else .next s

/-- THROTTLE_STEP: each further 10 ms at or above it. -/
def execThrottleStep (t : Nat) (chip : ChipId) (sensor : Fin 16) (temp : Int) (s : State) : Out3 :=
  let s := ((s.tick t).sample chip (.junction chip sensor) temp).stillHot chip
  let c := s.chip chip
  if s.chipUp chip && reaches c.governing (s.milli 0x0701#16) && decide (0 < c.thermSteps) && !c.mtxGate &&
      decide (c.lastStep + 10000000 ≤ s.osc) then
    .next (s.throttle chip sensor temp)
  else .next s

/-- One step undone: MTX gating first, then a divider step, never below what the power loops ask for (R271). -/
def State.unthrottle (s : State) (n : ChipId) : State :=
  let c := s.chip n
  let detail := le 2 (unitChip n).toNat ++ le 1 (if c.mtxGate then 0 else 1)
  let s := s.modChip n fun c =>
    if c.mtxGate then { c with mtxGate := false, lastStep := s.osc }
    else
      let left := if c.thermSteps - 1 + 4 ≤ c.powerDiv then 0 else c.thermSteps - 1
      { c.requestDivider (max (4 + left) c.powerDiv) s.osc with thermSteps := left, lastStep := s.osc }
  (s.logChip Lg.thermalRecover n detail).bbox n Lg.thermalRecover 6 detail

/-- The record of an HBM throttle set or cleared. -/
def State.logHbm (s : State) (n : ChipId) (stack : Nat) (temp : Int) (isSet : Bool) : State :=
  let q := 4 * n.val + stack / 2
  let detail := le 2 q ++ le 1 stack ++ leInt 4 temp ++ le 1 (if isSet then 1 else 0)
  (s.logChip Lg.hbmThrottle n detail).bbox n Lg.hbmThrottle 6 detail

/-- THERMAL_RECOVER: 100 ms below the threshold less the hysteresis undo one step of the chip, or a quadrant's HBM throttle. -/
def execThermalRecover (t : Nat) (chip : ChipId) (quad : Option (Fin 4)) (temp : Int) (s : State) : Out3 :=
  let s := (s.tick t).modChip chip fun c => c.cooledTo chip quad temp
  let hyst := s.milli 0x0703#16
  match quad with
  | none =>
    let s := s.stillHot chip
    let c := s.chip chip
    if (c.mtxGate || decide (0 < c.thermSteps)) && decide (temp < s.milli 0x0701#16 - hyst) && c.governing.all (fun g => decide (g ≤ temp)) &&
        decide (max c.lastStep c.hotAt + 100000000 ≤ s.osc) then
      .next (s.unthrottle chip)
    else .next s
  | some k =>
    let s := s.stillHotHbm chip k
    let q := s.quad (quadOf chip k)
    if q.hbmThrottled && decide (temp < s.milli 0x0702#16 - hyst) &&
        ((s.chip chip).governingHbm k.val).all (fun g => decide (g ≤ temp)) && decide (max q.hbmStep q.hotAt + 100000000 ≤ s.osc) then
      let s := s.modQuad (quadOf chip k) fun q => { q with hbmThrottled := false, hbmStep := s.osc }
      .next (s.logHbm chip (2 * k.val) temp false)
    else .next s

/-- HBM_THROTTLE: doubled refresh, spaced requests and gated MTX of one quadrant; a quadrant in SHUT has no MTX to gate (ch. 14
Edges). -/
def execHbmThrottle (t : Nat) (chip : ChipId) (stack : Fin 8) (temp : Int) (s : State) : Out3 :=
  let k : Fin 4 := ⟨stack.val / 2, by omega⟩
  let s := ((s.tick t).sample chip (.stack chip stack) temp).stillHotHbm chip k
  let q := quadOf chip k
  if s.chipUp chip && reaches ((s.chip chip).governingHbm k.val) (s.milli 0x0702#16) && !(s.quad q).hbmThrottled then
    let s := s.modQuad q fun x => { x with hbmThrottled := true, hbmStep := s.osc }
    let s := s.logHbm chip stack.val temp true
    match s.quadOwner q with
    | some p => .next (if s.quadShut q then s else s.override p 1 100 50)
    | none => .next s
  else .next s

/-! ### Trips (R273) -/

/-- The index of a sensor within its unit. -/
def sensorIx : SensorId → Nat
  | .junction _ i => i.val
  | .stack _ i => 16 + i.val
  | .inlet _ => 0 | .outlet _ => 1 | .flow _ => 2
  | .air _ i => 3 + i.val
  | .fan _ i => 5 + i.val

/-- The trip value in m°C. -/
def tripValue : SensorId → Int
  | .stack .. => 95000
  | _ => 105000

def sensorChip : SensorId → Option ChipId
  | .junction n _ => some n
  | .stack n _ => some n
  | _ => none

/-- The governing temperature of a sensor's kind: of its chip, or of its quadrant's stacks. -/
def Chip.governingOf (c : Chip) : SensorId → Option Int
  | .stack _ i => c.governingHbm (i.val / 2)
  | _ => c.governing

/-- THERMAL_TRIP: a governing temperature at its trip value, of a failed sensor too, is logged, the core rail removed, level 4
requested; a chip whose tray has lost power is not reset apart from it (ch. 14 Edges). -/
def execThermalTrip (t : Nat) (x : SensorId) (temp : Int) (s : State) : Out3 :=
  let s := s.tick t
  match sensorChip x with
  | none => .next s
  | some n =>
    let s := s.sample n x temp
    let hot := reaches ((s.chip n).governingOf x) (tripValue x)
    if hot ∧ (s.chip n).power = .up then
      let detail := le 2 (unitChip n).toNat ++ le 2 (sensorIx x) ++ leInt 4 temp
      let s := (s.bbox n Lg.thermalTrip 6 detail).logChip Lg.thermalTrip n detail
      let s := s.modChip n fun c => { c with tripped := c.tripped ++ [x], power := .locked }
      .next (s.fire 7 4 (.chip n) (some n) (dumpDetail 0 0 0 0 temp))
    else if hot then
      let detail := le 2 (unitChip n).toNat ++ le 2 (sensorIx x) ++ leInt 4 temp
      let s := s.modChip n fun c =>
        { c with tripped := if c.tripped.isEmpty || c.tripped.contains x then c.tripped else c.tripped ++ [x] }
      .next ((s.bbox n Lg.thermalTrip 6 detail).logChip Lg.thermalTrip n detail)
    else .next s

/-- The sensor of a chip with an index. -/
def chipSensor (n : ChipId) (i : Nat) : Option SensorId :=
  if h : i < 16 then some (.junction n ⟨i, h⟩) else if h : i - 16 < 8 then some (.stack n ⟨i - 16, h⟩) else none

/-- The chip reset has retrained its sensors: what a failed one read is no reading. -/
def Chip.retrained (c : Chip) : Chip :=
  { c with tripped := [], failed := [],
           junctions := c.junctions.filter fun e => !(c.failed.any fun x => sensorIx x = e.1.val),
           stackTemps := c.stackTemps.filter fun e => !(c.failed.any fun x => sensorIx x = 16 + e.1.val) }

/-- THERMAL_TRIP_RESTART: the tray controller reads the hub; every sensor that tripped reads 25 °C below its trip value, or has
failed and is retrained; the chip's
reset runs its course. -/
def execThermalTripRestart (t : Nat) (chip : ChipId) (readings : List (Nat × Int)) (s : State) : Out3 :=
  let s := readings.foldl (fun s r =>
    match chipSensor chip r.1 with
    | some x => s.sample chip x r.2
    | none => s) (s.tick t)
  let c := s.chip chip
  let cool := fun (x : SensorId) => c.failed.contains x || readings.any fun r => r.1 = sensorIx x && r.2 ≤ tripValue x - 25000
  if !c.tripped.isEmpty && c.tripped.all cool && !s.chipLocked chip then
    let s := s.modChip chip fun c => c.retrained
    .next (s.releaseReset (.chip chip))
  else .next s

/-! ### Tray sensors (R269) -/

/-- Reads of failed sensors: inlet 45 °C, outlet 80 °C, flow 0, air 100 °C. -/
def Tray.failRead (x : Tray) : SensorId → Tray
  | .inlet _ => { x with inlet := 45000 }
  | .outlet _ => { x with outlet := 80000 }
  | .flow _ => { x with flow := 0 }
  | .air _ i => if i = 0 then { x with airBefore := 100000 } else { x with airAfter := 100000 }
  | .fan _ i => { x with fansFailed := if x.fansFailed.contains i then x.fansFailed else x.fansFailed ++ [i] }
  | _ => x

/-! ### The allowance (R274, R275) -/

/-- F_flow, F_water, F_fan in thousandths. -/
def flowFactor (flow : Nat) : Nat := min 1000 (flow * 1000 / 12000)
def waterFactor (inlet : Int) : Nat :=
  if inlet ≤ 35000 then 1000 else if inlet ≤ 45000 then (1000 - (inlet - 35000) * 400 / 10000).toNat else 600
def fanFactor (failed : Nat) : Nat := if failed ≤ 1 then 1000 else 600

/-- The least factor as the readings give it. -/
def Tray.reads (x : Tray) : Nat := min (flowFactor x.flow) (min (waterFactor x.inlet) (fanFactor x.fansFailed.length))

/-- The governing factor: 0 none, 1 flow, 2 water, 3 fan. -/
def Tray.governing (x : Tray) : Nat :=
  let g := least [x.flowF.inForce, x.waterF.inForce, x.fanF.inForce]
  if g.1 = 1000 then 0 else g.2 + 1

/-- A factor as it is read now; on another side of the one in force its hold begins anew. -/
def Factor.read (f : Factor) (v now : Nat) : Factor :=
  { f with reads := v, since := if compare v f.inForce = compare f.reads f.inForce then f.since else now }

/-- A lower factor has held 5 s, or a higher one 30 s. -/
def Factor.due (f : Factor) (now : Nat) : Bool :=
  f.reads ≠ f.inForce && decide (f.since + (if f.reads < f.inForce then 5000000000 else 30000000000) ≤ now)

/-- A factor that has held comes into force. -/
def Factor.settle (f : Factor) (now : Nat) : Factor := if f.due now then { f with inForce := f.reads, since := now } else f

/-- The factors follow the readings, and the stop conditions' instants with them (R274, R276). -/
def Tray.retarget (x : Tray) (now : Nat) : Tray :=
  let since := fun (o : Option Nat) (c : Bool) => if c then some (o.getD now) else none
  let low := decide (x.flow < 3000)
  let hot := decide (45000 < x.inlet)
  let normal := !low && !hot && decide (x.fansFailed.length < 4)
  { x with flowF := x.flowF.read (flowFactor x.flow) now, waterF := x.waterF.read (waterFactor x.inlet) now,
           fanF := x.fanF.read (fanFactor x.fansFailed.length) now, lowFlowSince := since x.lowFlowSince low, hotSince := since x.hotSince hot,
           normalSince := since x.normalSince normal }

/-- Water outside its range: flow below 12 L/min, inlet above 35 °C or below 18 °C (ch. 14 figures). -/
def Tray.waterBad (x : Tray) : Bool := decide (x.flow < 12000) || decide (35000 < x.inlet) || decide (x.inlet < 18000)

/-- WATER_OUT_OF_RANGE on entering the range's outside. -/
def State.waterCheck (s : State) (t : TrayId) : State :=
  let x := s.tray t
  let bad := x.waterBad
  let s := s.modTray t fun x => { x with outOfRange := bad }
  if bad && !x.outOfRange then
    s.logTray Lg.waterOutOfRange t (le 2 (unitTray t).toNat ++ leInt 4 x.inlet ++ leInt 4 x.outlet ++ le 2 x.reads)
  else s

/-- SENSOR_FAILED: the sensor reads its table's value, a chip's sensor its trip value (R86, R269). -/
def execSensorFailed (t : Nat) (x : SensorId) (s : State) : Out3 :=
  let s := s.tick t
  let ofTray := fun (tr : TrayId) =>
    let s := s.modTray tr fun y => ({ (y.failRead x) with failed := if y.failed.contains x then y.failed else y.failed ++ [x] }).retarget s.osc
    (s.logTray Lg.sensorFailed tr (le 2 (unitTray tr).toNat ++ le 2 (sensorIx x))).waterCheck tr
  let ofChip := fun (n : ChipId) =>
    let detail := le 2 (unitChip n).toNat ++ le 2 (sensorIx x)
    let s := (s.sample n x (tripValue x)).modChip n fun c => { c with failed := if c.failed.contains x then c.failed else c.failed ++ [x] }
    (s.bbox n Lg.sensorFailed 6 detail).logChip Lg.sensorFailed n detail
  match x with
  | .junction n _ => .next (ofChip n)
  | .stack n _ => .next (ofChip n)
  | .inlet tr => .next (ofTray tr)
  | .outlet tr => .next (ofTray tr)
  | .flow tr => .next (ofTray tr)
  | .air tr _ => .next (ofTray tr)
  | .fan tr _ => .next (ofTray tr)

/-- A reading replaces the last one where it lies in the sensor's range; a valid reading ends a failure. -/
def takeReading {α : Type} (ok : α → Bool) (old : α) : Option α → α × Bool
  | some v => if ok v then (v, true) else (old, false)
  | none => (old, false)

/-- A cooling sample taken into a tray (R269). -/
def Tray.sample (x : Tray) (tr : TrayId) (c : CoolingSample) : Tray :=
  let i := takeReading (fun v => decide (0 ≤ v ∧ v ≤ 80000)) x.inlet c.inlet
  let o := takeReading (fun v => decide (0 ≤ v ∧ v ≤ 80000)) x.outlet c.outlet
  let f := takeReading (fun v => decide (v ≤ 40000)) x.flow c.flow
  let b := takeReading (fun v => decide (0 ≤ v ∧ v ≤ 100000)) x.airBefore c.airBefore
  let a := takeReading (fun v => decide (0 ≤ v ∧ v ≤ 100000)) x.airAfter c.airAfter
  let fans := (List.finRange 6).filterMap fun (j : Fin 6) => ((c.fans.getD j.val none).filter fun v => decide (v ≤ 20000)).map fun v => (j, v)
  let fanBack := fun (j : Fin 6) => x.failed.contains (.fan tr j) && fans.any fun e => e.1 = j
  let back := fun (y : SensorId) => ((List.finRange 6).any fun j => fanBack j && y = .fan tr j) ||
    (i.2 && y = .inlet tr) || (o.2 && y = .outlet tr) || (f.2 && y = .flow tr) ||
    (b.2 && y = .air tr 0) || (a.2 && y = .air tr 1)
  { x with inlet := i.1, outlet := o.1, flow := f.1, airBefore := b.1, airAfter := a.1,
           fans := fans.foldl (fun m e => Tab.set m e.1 e.2) x.fans,
           fansFailed := x.fansFailed.filter fun j => !fanBack j,
           failed := x.failed.filter fun y => !back y }

/-- TRAY_COOLING_SAMPLE. -/
def execTrayCoolingSample (t : Nat) (tray : TrayId) (c : CoolingSample) (s : State) : Out3 :=
  let s := s.tick t
  .next ((s.modTray tray fun x => (x.sample tray c).retarget s.osc).waterCheck tray)

/-- FAN_FAULT. -/
def execFanFault (t : Nat) (tray : TrayId) (fan : Fin 6) (rpm : Nat) (s : State) : Out3 :=
  let s := s.tick t
  if (s.tray tray).fansFailed.contains fan then .next s
  else
    let s := s.modTray tray fun x => ({ x with fansFailed := x.fansFailed ++ [fan] }).retarget s.osc
    .next (s.logTray Lg.fanFault tray (le 2 (unitTray tray).toNat ++ le 1 fan.val ++ le 4 rpm))

/-- The tray's allowance shared among the partitions on it; a share below what policy allows a partition that draws more crosses the
bound (R267, R275). -/
def State.shareTray (s : State) (t : TrayId) : State := (s.overrideShares 1 (trayQuads t) (s.trayShares t)).regulate

/-- The factors that have held come into force. -/
def Tray.settle (x : Tray) (now : Nat) : Tray :=
  { x with flowF := x.flowF.settle now, waterF := x.waterF.settle now, fanF := x.fanF.settle now }

/-- ALLOWANCE_CHANGED: each factor that has been lower for 5 s, or higher for 30 s, comes into force; the allowance follows. -/
def execAllowanceChanged (t : Nat) (tray : TrayId) (s : State) : Out3 :=
  let s := s.tick t
  let was := (s.tray tray).factor
  let s := s.modTray tray fun x => x.settle s.osc
  let x := s.tray tray
  if x.factor = was then .next s
  else
    let s := s.logTray Lg.allowanceChanged tray (le 2 (unitTray tray).toNat ++ le 4 x.allowanceW ++ le 1 x.governing)
    .next (if x.factor < was then s.shareTray tray else s.regulate)

/-! ### Tray stop and restart (R276) -/

/-- The condition that stops a tray now: 0 flow, 1 inlet, 2 fans. -/
def Tray.stopCause (x : Tray) (now : Nat) : Option Nat :=
  let held := fun (o : Option Nat) => match o with
    | some a => decide (a + 10000000000 ≤ now)
    | none => false
  if held x.lowFlowSince then some 0
  else if held x.hotSince then some 1
  else if 4 ≤ x.fansFailed.length then some 2
  else none

/-- TRAY_THERMAL_STOP: black boxes copied, rails off, e-fuse open; the channel stays ON; level 5 is requested. -/
def execTrayThermalStop (t : Nat) (tray : TrayId) (s : State) : Out3 :=
  let s := s.tick t
  match (s.tray tray).stopCause s.osc with
  | some c =>
    if (s.tray tray).stopped || !(s.tray tray).powered then .next s
    else
      let s := s.logTray Lg.trayThermalStop tray (le 2 (unitTray tray).toNat ++ le 1 c)
      .next ((s.modTray tray fun x => { x with stopped := true, efuseOpen := true }).trayLost tray 9)
  | none => .next s

/-- Has a level 5 of the tray been requested or started? -/
def State.level5Due (s : State) (t : TrayId) : Bool :=
  (s.resets.any fun r => r.scope = .tray t) || (s.resetReqs.any fun r => r.scope = .tray t) || s.retry5.any fun r => r.1 = t

/-- TRAY_RESTART: after 60 s of normal conditions the stopped tray restarts as the level-5 cycle its stop requested. -/
def execTrayRestart (t : Nat) (tray : TrayId) (s : State) : Out3 :=
  let s := s.tick t
  let x := s.tray tray
  match x.normalSince with
  | some a =>
    if x.stopped && decide (a + 60000000000 ≤ s.osc) && !s.leakCut tray && !s.lockedTrays.contains tray && !s.heldOut (unitTray tray) then
      let s := s.modTray tray fun x => { x with stopped := false, efuseOpen := false, powered := true }
      .next (if s.level5Due tray then s.releaseReset (.tray tray) else s.fire 9 5 (.tray tray) none)
    else .next s
  | none => .next s

/-! ### Leaks (R277 to R280) -/

/-- Each Keeper of the tray tells every chip of each partition it carries (R278). -/
def State.leakNotice (s : State) (t : TrayId) (b : Prio0Body) : State :=
  ((trayChips t).filter s.chipUp).foldl (fun s n =>
    (s.partsOn n).foldl (fun s p =>
      (((s.part p).map Part.chips).getD []).foldl (fun s d => if d = n then s else s.queuePrio0 n d b) s) s) s

/-- A tray is cut: notices, e-fuse, level 5, and the cause class to its partitions (R267, R278). -/
def State.cutTray (s : State) (t : TrayId) (b : Prio0Body) : State :=
  if (s.tray t).powered then
    let ps := s.scopeParts (.tray t)
    let s := (s.leakNotice t b).modTray t fun x => { x with efuseOpen := true }
    ps.foldl (fun s p => s.override p 2 (s.capOf p) 0) (s.trayLost t 11)
  else s.modTray t fun x => { x with efuseOpen := true }

def setLeak (i : Fin 2) (l : LeakState) (x : Tray) : Tray := { x with leak := Tab.set x.leak i l }

/-- LEAK_DETECTED. -/
def execLeakDetected (t : Nat) (tray : TrayId) (sensor : Fin 2) (s : State) : Out3 :=
  let s := s.tick t
  let s := { (s.modTray tray (setLeak sensor .wet)) with leakContact := false }
  .next ((s.logTray Lg.leakDetected tray (le 2 (unitTray tray).toNat ++ le 2 sensor.val)).cutTray tray (.leak (some tray)))

/-- RACK_LEAK: every compute tray at once. -/
def execRackLeak (t : Nat) (s : State) : Out3 :=
  let s := s.tick t
  let s := { s with rackLeak := .wet, leakContact := false }
  let s := s.log Lg.leakDetected unitRack (le 2 0 ++ le 2 0)
  .next ((List.finRange 16).foldl (fun s tr => s.cutTray tr (.leak none)) s)

/-- LEAK_SENSOR_FAULT: an open reading is logged, without power action (R277). -/
def execLeakSensorFault (t : Nat) (tray : TrayId) (sensor : Fin 2) (s : State) : Out3 :=
  let s := s.tick t
  .next ((s.modTray tray (setLeak sensor .open_)).logTray Lg.leakSensorFault tray (le 2 (unitTray tray).toNat ++ le 2 sensor.val))

/-- LEAK_SENSOR_DRY: a tray's sensor, or the rack's where no tray is named. -/
def execLeakSensorDry (t : Nat) (tray : Option TrayId) (sensor : Fin 2) (s : State) : Out3 :=
  let s := s.tick t
  let s := match tray with
    | some tr => s.modTray tr (setLeak sensor .dry)
    | none => { s with rackLeak := .dry }
  .next s.closeContact

end Sys2Proof.Machine
end

