-- ==== Sys2Proof/Machine/Settings.lean ====
section
/-! DEFINITION. Settings: addressing (R331), rights and ranges (R45, R333, R369), reading (R47, R332) and storing (R335 to
R339). -/

namespace Sys2Proof.Machine

/-! ### Addressing (R331) -/

/-- The scope index a command addresses; a status where R331 refuses it. -/
def State.address (s : State) (c : Ctx) (id : BitVec 16) (i : SetInfo) : Except Nat ScopeIx :=
  let bad := match c.ep with
    | .op => St.badParameter
    | .kw _ => St.wardFault
  match c.ep, c.kw?, i.scope with
  | .op, some _, .rack => .error St.badParameter
  | _, _, .rack => .ok .rack
  | _, none, _ => .error St.badParameter
  | _, some k, .keyway => .ok (.kw k)
  | _, some k, .part =>
    match (s.binding k).1 with
    | some p => if (s.part p).isSome || id = 0x0201#16 then .ok (.part p) else .error bad
    | none => .error bad

/-! ### Stored values (R334, R335) -/

def ImageCopy.gen (x : ImageCopy) : Nat := x.img.gen

/-- The active copy of an MRAM: the valid one with the higher GEN (R335). -/
def Mram.active (m : Mram) : Option Image :=
  if m.a.valid && m.b.valid then (if m.b.gen ≤ m.a.gen then some m.a.img else some m.b.img)
  else if m.a.valid then some m.a.img
  else if m.b.valid then some m.b.img
  else none

/-- The committed image. -/
def State.image (s : State) : Image :=
  (if s.cfg.rmuActiveB then s.cfg.rmu.b.img else s.cfg.rmu.a.img)

/-- The stored value of a setting. -/
def State.storedVal (s : State) (key : SetKey) : List Byte := Tab.get s.image.records (setDefault key.1) key

/-- Does the running value differ from the stored one? PART_SHAPE is compared in the request it stores, its class and extents;
slot 0 is kept as the machine writes it (log 40). -/
def State.unstored (s : State) (key : SetKey) (i : SetInfo) : Bool :=
  if i.cls ≠ .stored ∨ key.1 = 0x0110#16 then false
  else if key.1 = 0x0201#16 then decide ((s.setVal key).take 4 ≠ (s.storedVal key).take 4)
  else decide (s.setVal key ≠ s.storedVal key)

/-! ### SET_GET (R47, R332) -/

/-- The value as its reader sees it: a keyway reads KW_BINDING and PART_SHAPE in virtual terms (R47). -/
def State.shownValue (s : State) (c : Ctx) (key : SetKey) : List Byte :=
  let v := s.setVal key
  match c.ep with
  | .op => v
  | .kw _ =>
    if key.1 = 0x0101#16 then [0, (v.getD 1 0)]
    else if key.1 = 0x0201#16 then
      let cls := fieldBe v 0 1
      v.take 4 ++ [0, 0, 0, 0, if cls = 0 then 0 else if cls = 1 then 0x1 else if cls = 2 then 0x3 else 0xF]
    else v

/-- May a sender read a setting (R45)? -/
def State.mayRead (s : State) (e : Ep) (id : BitVec 16) (i : SetInfo) : Bool :=
  match e with
  | .op => true
  | .kw k => roleReads (s.kwRole k) id i || (id = 0x0201#16 && (s.kwPart k).isNone && ((s.binding k).1).isSome)

/-- May a sender write a setting (R45)? -/
def State.mayWrite (s : State) (e : Ep) (i : SetInfo) : Bool :=
  match e with
  | .op => true
  | .kw k => roleWrites (s.kwRole k) i

def opSetGet (c : Ctx) (id : BitVec 16) (s : State) : Res :=
  match setInfo id with
  | none => Res.fail s St.notFound
  | some i =>
    if !s.mayRead c.ep id i then Res.fail s St.wardFault
    else
      match s.address c id i with
      | .error st => Res.fail s st
      | .ok ix =>
        let latched := ((s.session? c.ep c.session).map fun q => q.latches.any fun l => l.key = (id, ix)).getD false
        let v := s.shownValue c (id, ix)
        Res.ok s ([classByte i.cls.code (s.unstored (id, ix) i) latched] ++ be 2 v.length ++ v ++ be 4 (s.hdrEpoch c.h).toNat)

/-! ### Checks of a value (R44, R203, R263, R310, R316, R333, R369) -/

/-- KW_BINDING as it is kept: with role NONE the partition reads 0. -/
def bindingValue (v : List Byte) : List Byte := if v.getD 1 0 = 0 then [0, 0] else v

/-- Would the binding be a second OWNER or an eighth USER? -/
def State.bindingOk (s : State) (k : KwId) (v : List Byte) : Bool :=
  let p := fieldBe v 0 1
  let role := fieldBe v 1 1
  let others := (List.finRange 64).filter fun j => j ≠ k && ((s.binding j).1.map Fin.val) = some p && (s.binding j).2 = role
  if role = 1 then others.isEmpty else if role = 2 then decide (others.length < 7) else true

/-- A share slot's value (R369). -/
def State.slotOk (s : State) (n : Nat) (v : List Byte) : Bool :=
  let ref := BitVec.ofNat 32 (fieldBe v 0 4)
  let rights := fieldBe v 4 1
  n ≠ 0 && (if rights = 0 then ref = 0 else
    match s.liveRef ref with
    | some i => decide (64 ≤ i.val)
    | none => false)

/-- The operator's quotas together, with one of them as written (R203). -/
def State.quotaSum (s : State) (id : BitVec 16) (v : List Byte) : Nat :=
  ((List.finRange 128).map fun (i : Fin 128) =>
    if id.toNat = 0x0480 + i.val then fieldBe v 0 4 else s.krQuota i).sum

/-- The conditions of R316 for acceptance. -/
def State.acceptable (s : State) : Bool :=
  s.rackSet 0x0304#16 = 2 &&
    (allChips.all fun n => (List.finRange 8).all fun p => (s.link { chip := n, port := p }).inService) && s.rejectedEnds.isEmpty &&
    s.mismatched.isEmpty && ((List.finRange 4).all fun i => (s.shelfOf i).ac) &&
    ((List.finRange 16).all fun t => decide (12000 ≤ (s.tray t).flow) &&
      (List.finRange 2).all fun i => Tab.get (s.tray t).leak .dry i = .dry) &&
    s.rackLeak = .dry && s.clk.quality ≠ .unset

/-- The value's own check in the state, beyond length and range. -/
def State.valueOk (s : State) (key : SetKey) (v : List Byte) : Bool :=
  match key.2 with
  | .kw k =>
    if key.1 = 0x0101#16 then s.bindingOk k v
    else if key.1 = 0x0105#16 then
      let cls := fieldBe v 0 1
      (cls = 1 || cls = 2 || cls = 3) && fieldBe v 1 3 ≠ 0 && fieldBe v 1 3 ≠ 0xFFFFFF
    else
      match shareSlotOf key.1 with
      | some n => s.slotOk n v
      | none => true
  | .part _ => true
  | .rack =>
    if 0x0480 ≤ key.1.toNat ∧ key.1.toNat ≤ 0x04FF then decide (s.quotaSum key.1 v ≤ 12160)
    else if key.1 = 0x0304#16 then s.rackSet 0x0A20#16 = 0
    else if key.1 = 0x0A20#16 then fieldBe v 0 1 = 0 || s.acceptable
    else true

/-- A value outside the operator's bound: a power cap above PWR_PART_MAX (R73, R263). -/
def State.boundOk (s : State) (key : SetKey) (v : List Byte) : Bool :=
  match key.2 with
  | .part p =>
    if key.1 = 0x020A#16 then
      let most := s.partSet p 0x0605#16 * (s.partQuads p).length
      most = 0 || decide (ofBe v ≤ most)
    else true
  | _ => true

/-- A KW_CUT value is a cut of the running firmware (R140). -/
def cutHeld (id : BitVec 16) (v : List Byte) : Bool := id ≠ 0x0105#16 || Config.cuts.contains (BitVec.ofNat 32 (ofBe v))

/-- A write checked in the order of R333: the ID, FACTORY and slot 0 (R369), rights, addressing, length, range, bounds. -/
def State.checkWrite (s : State) (c : Ctx) (id : BitVec 16) (v : List Byte) : Except Nat SetKey :=
  match setInfo id with
  | none => .error St.notFound
  | some i =>
    if i.cls = .factory ∨ id = 0x0110#16 then .error St.badParameter
    else
      if !s.mayWrite c.ep i then .error St.wardFault
      else
        match s.address c id i with
        | .error st => .error st
        | .ok ix =>
          if v.length ≠ i.len then .error St.badLength
          else if !i.ok v || !s.valueOk (id, ix) v then .error St.badParameter
          else if !cutHeld id v then .error St.cutUnknown
          else if !s.boundOk (id, ix) v then .error St.policyBound
          else .ok (id, ix)

/-! ### SET_LATCH, SET_DISCARD (R351) -/

def Session.latch (q : Session) (l : Latch) : Session :=
  { q with latches := q.latches.filter (fun x => x.key ≠ l.key) ++ [l] }

def opSetLatch (c : Ctx) (id : BitVec 16) (v : List Byte) (s : State) : Res :=
  match s.checkWrite c id v with
  | .error st => Res.fail s st
  | .ok key =>
    match s.session? c.ep c.session with
    | none => Res.fail s St.noSession
    | some q =>
      if 64 ≤ (q.latches.filter fun l => l.key ≠ key).length then Res.fail s St.noResource
      else Res.ok (s.modSession c.ep c.session fun q => q.latch { key := key, value := v })

def opSetDiscard (c : Ctx) (s : State) : Res :=
  Res.ok (s.modSession c.ep c.session fun q => { q with latches := [] })

/-! ### SET_STORE (R336 to R338) -/

/-- An image written into the inactive copy of an MRAM, and made active. -/
def Mram.write (m : Mram) (activeB : Bool) (img : Image) : Mram :=
  if activeB then { m with a := { valid := true, img := img } } else { m with b := { valid := true, img := img } }

/-- Is copy B the active one? -/
def Mram.activeB (m : Mram) : Bool := m.b.valid && (!m.a.valid || decide (m.a.gen < m.b.gen))

/-- A record of the image in bytes, and the length of an image (R335). -/
def Image.length (g : Image) : Nat := 20 + (g.records.map fun e => 6 + e.2.length).sum

/-- The STORE of the running values of some settings: the RMU's inactive copy, then every chip in service; a commit above 112
KiB does not verify (R336). -/
def State.store (s : State) (keys : List SetKey) : Res :=
  let g := s.image
  let gen := max g.gen s.cfg.genFlash + 1
  let img : Image := { gen := gen, records := keys.foldl (fun r k => Tab.set r k (s.setVal k)) g.records }
  if 112 * 1024 < img.length then
    Res.fail (s.log Lg.storeFailed unitRmu (le 8 gen ++ [0])) St.internalError
  else
    let up := allChips.filter s.chipUp
    let mrams := up.foldl (fun (m : Tab ChipId Mram) n =>
      let x := Tab.get m Mram.init n
      Tab.set m n (x.write x.activeB img)) s.cfg.chipMram
    let s := { s with cfg := { s.cfg with rmu := s.cfg.rmu.write s.cfg.rmuActiveB img, rmuActiveB := !s.cfg.rmuActiveB,
                                          chipMram := mrams, genFlash := gen } }
    let late := ((allChips.filter fun n => !up.contains n).map fun n => 2 ^ n.val).sum
    Res.ok (s.log Lg.storeCommitted unitRmu (le 8 gen ++ le 4 keys.length ++ le 8 late))

/-- Every scope index of a setting. -/
def State.indices (s : State) (i : SetInfo) : List ScopeIx :=
  match i.scope with
  | .rack => [.rack]
  | .keyway => (List.finRange 64).map .kw
  | .part => s.partIds.map .part

/-- The settings a SET_STORE of 0x0000 names: every unstored STORED setting the sender may write; a keyway writes its own and its
partition's (R336). -/
def State.storable (s : State) (c : Ctx) : List SetKey :=
  let ids := singleIds ++ (List.range 16).map (0x0110 + ·) ++ (List.range 128).map (0x0480 + ·)
  ids.flatMap fun n =>
    let id := BitVec.ofNat 16 n
    match setInfo id with
    | some i =>
      if i.cls ≠ .stored then []
      else
        let ixs := match c.ep with
          | .op => s.indices i
          | .kw k =>
            if !roleWrites (s.kwRole k) i then []
            else match i.scope with
              | .keyway => [.kw k]
              | .part => ((s.kwPart k).map ScopeIx.part).toList
              | .rack => []
        (ixs.map fun ix => (id, ix)).filter fun key => s.unstored key i
    | none => []

def opSetStore (c : Ctx) (id : BitVec 16) (s : State) : Res :=
  if id = 0 then
    let keys := s.storable c
    if keys.isEmpty then Res.ok s else s.store keys
  else
    match setInfo id with
    | none => Res.fail s St.notFound
    | some i =>
      if i.cls ≠ .stored then Res.fail s St.badParameter
      else
        if !s.mayWrite c.ep i then Res.fail s St.wardFault
        else
          match s.address c id i with
          | .error st => Res.fail s st
          | .ok ix => if s.unstored (id, ix) i then s.store [(id, ix)] else Res.ok s

/-! ### Losses (R340 to R344) -/

/-- Values of a class lost for some scope indices: RUNNING values return to their defaults. -/
def State.loseClass (s : State) (cls : SetClass) (at_ : ScopeIx → Bool) : State :=
  s.dropRun fun key => at_ key.2 &&
    (match setInfo key.1 with
     | some i => i.cls = cls
     | none => false)

/-- Latches that name settings of some scope indices discarded, in every session (R342). -/
def State.dropLatches (s : State) (at_ : ScopeIx → Bool) : State :=
  let f := fun (w : Keyway) =>
    { w with sessions := w.sessions.map fun (q : Session) => { q with latches := q.latches.filter fun l => !at_ l.key.2 } }
  { s with kws := s.kws.map fun (e : KwId × Keyway) => (e.1, f e.2), opr := f s.opr }

/-- The scope indices of a partition and of the keyways bound to it. -/
def State.isOf (s : State) (p : PartId) (ix : ScopeIx) : Bool :=
  match ix with
  | .part q => q = p
  | .kw k => (s.boundKws p).contains k
  | .rack => false

/-- The SESSION values and latches that a reset of level 3 or higher, or a partition change, takes (R341, R342, R344). -/
def State.loseSessionClass (s : State) (p : PartId) : State :=
  let mine := fun ix => s.isOf p ix
  let kwOnly := fun ix => match ix with
    | .kw k => (s.boundKws p).contains k
    | _ => false
  (s.loseClass .session kwOnly).dropLatches mine

/-! ### OP_KEYWAY_RESET (R76, R343) -/

/-- A keyway reset: its requests end CANCELLED, its sessions, queue pairs and registrations are lost, the partition is untouched. The
NO_SESSION a lost session's number then draws carries level 0, for no level was run, and the rack time of this reset: a DESIGN CHOICE
(log 152). -/
def State.keywayReset (s : State) (k : KwId) : State :=
  let s := s.loseEndpoint k 0
  let s := s.endRequests (s.reqs.filter fun r => r.kw = k && r.isOpen) St.cancelled
  let s := { s with reqs := s.reqs.filter fun r => r.kw ≠ k }
  let s := s.failXfers (s.ops.filter fun o => o.ep = .kw k &&
    (match o.kind with
     | .xferOut .. => true
     | .xferIn .. => true
     | _ => false))
  let s := (s.dropSessionSettings k).stepIfClosed
  s.log Lg.classesLost (unitKw k) (le 2 (unitKw k).toNat ++ [0x09])

end Sys2Proof.Machine
end

