-- ==== Sys2Proof/Machine/Place.lean ====
section
/-! DEFINITION. The partition map: placements and their checks (R39 to R41, R245), and what creating, deleting, reshaping and
moving a partition does to its state (R40, R325, R344, R358). -/

namespace Sys2Proof.Machine

/-! ### Placements (R39, R245) -/

/-- Is a placement of a shape allowed at all (R39)? -/
def Shape.allowed (sh : Shape) : Bool :=
  let k := sh.kmask
  if sh.cls = 1 then k = 1 || k = 2 || k = 4 || k = 8
  else if sh.cls = 2 then k = 3 || k = 12 || k = 5 || k = 10
  else if sh.cls = 3 then
    (sh.ex ≠ 4 || chipX sh.chip = 0) && (sh.ey ≠ 4 || chipY sh.chip = 0) && (sh.ez ≠ 4 || chipZ sh.chip = 0)
  else false

/-- The links inside a box: those of every axis longer than one, wrap links only where the extent is 4 (R150). -/
def Shape.innerLinks (sh : Shape) : List LinkId :=
  if sh.cls ≠ 3 then []
  else
    (List.range sh.nChips).flatMap fun v =>
      match sh.chips[v]? with
      | none => []
      | some n => ((List.finRange 6).filter fun (p : Fin 6) =>
          !leavesBox sh v ⟨p.val, by omega⟩).map fun p => { chip := n, port := ⟨p.val, by omega⟩ }

/-- Quadrants in service, and for a box its rings free of quarantined links (R245). -/
def State.placeable (s : State) (sh : Shape) : Bool :=
  sh.allowed && sh.chips.all s.chipUp && sh.innerLinks.all fun l => !(s.link l).quarantined

/-- Does a placement hold a quadrant of a locked-out unit? -/
def State.holdsLocked (s : State) (sh : Shape) : Bool := sh.chips.any s.chipLocked

/-- No quadrant in two placements. -/
def disjointShapes (shs : List Shape) : Bool := decide ((shs.flatMap Shape.quads).Nodup)

/-! ### A new partition -/

/-- A partition as it is created: OPEN, no program, every counter 0 (R40; log 7). -/
def Part.fresh (sh : Shape) (ingest : ChipId) : Part :=
  { shape := sh, epoch := 1, epochHigh := 1, configs := [], running := none, prog := .idle, waves := [], starter := none,
    staged := none, hinges := 0, spills := 0, rot := [], power := 0, groups := [], former := [], prepared := [], taken := none,
    runsFrom := 0, gated := [],
    nextBatch := 0, alarmArmed := true, tables := [], hot := [], cells := List.replicate 7 0, fabric := List.replicate 4 0,
    ingest := List.replicate 9 0, recovery := List.replicate 6 0, perStart := 0, perEnd := 0, perLen := 0, perNew := none,
    perDue := false, perGap := false, perHinge := false, perMisses := 0,
    perDropSeen := false, perSpills := 0, waiting := false, nextDump := 1, rotPlan := none, rotDone := [], movedAt := none, heldByTurn := false,
    quiesced := false, drainStart := none, drainHinge := 0, drainRetry := none, ingestChip := ingest }

/-- The reporting period that holds an instant: from whole multiple to whole multiple of its length (R376). -/
def Part.startPeriod (v : Part) (now len : Nat) : Part :=
  { v with perStart := now / len * len, perEnd := (now / len + 1) * len, perLen := len, perNew := none, perGap := false }

/-- A length turned at an instant: it takes effect at its first boundary after that, and until then the old boundaries stand (R376). -/
def Part.changePeriod (v : Part) (now len : Nat) : Part :=
  if len = v.perLen then { v with perNew := none, perEnd := (now / len + 1) * len }
  else { v with perNew := some (len, (now / len + 1) * len),
                perEnd := min ((now / v.perLen + 1) * v.perLen) ((now / len + 1) * len) }

/-- The lowest-numbered chip in service of a placement (R28). -/
def State.ingestOf (s : State) (sh : Shape) : ChipId :=
  let ns := allChips.filter sh.chips.contains
  (ns.find? s.chipUp).getD (ns.headD sh.chip)

/-- An image without the records of a partition number. -/
def ImageCopy.without (p : PartId) (c : ImageCopy) : ImageCopy :=
  { c with img := { c.img with records := c.img.records.filter fun e => e.1.2 ≠ .part p } }

def Mram.without (p : PartId) (m : Mram) : Mram := { a := m.a.without p, b := m.b.without p }

/-- Partition-scope values of a number removed, the stored ones in every copy of the image (R344, R345; log 43). -/
def State.dropPartSettings (s : State) (p : PartId) : State :=
  let s := s.dropRun fun key => key.2 = .part p
  { s with cfg := { s.cfg with rmu := s.cfg.rmu.without p,
                               chipMram := s.cfg.chipMram.map fun (e : ChipId × Mram) => (e.1, e.2.without p) } }

/-- The instances still live end with their partition: CG_ABORTED goes out at once (R172, R183; log 79). -/
def State.dropGroups (s : State) (p : PartId) : State :=
  match s.part p with
  | none => s
  | some v =>
    v.groups.foldl (fun s g => (g.insts.filter Instance.live).foldl (fun s x => s.reportAbort p g.num x St.collAborted) s) (s.abortPart p)

/-- Fills, copies and transfers of a partition end: their ranges are the tenant's no longer (R48, R49). -/
def State.endXfers (s : State) (p : PartId) : State :=
  s.ops.foldl (fun s o =>
    match o.kind with
    | .fill q _ _ _ | .copy q _ _ _ | .xferOut q _ | .xferIn q _ => if q = p then s.xferEnd o St.wardFault else s
    | _ => s) s

/-- Everything of the partition that its quadrants, programs and engines held ends with it: what deletion and reshape share. -/
def State.endPart (s : State) (p : PartId) : State :=
  match s.part p with
  | none => s
  | some v =>
    let s := s.endRequests (s.openReqs p) St.cancelled
    let s := ((s.endRuns p none St.cancelled).freeProblems p none).dropGroups p
    let s := (s.endXfers p).dropProgram p
    let s := { s with kws := s.kws.map fun (e : KwId × Keyway) =>
      if (s.boundKws p).contains e.1 then
        (e.1, { e.2 with sessions := e.2.sessions.map fun (q : Session) => { q with base := none } })
      else e }
    s.zeroQuads v.shape.quads

def State.logClasses (s : State) (p : PartId) (b : Byte) : State :=
  s.log Lg.classesLost (unitPart p) (le 2 (unitPart p).toNat ++ [b])

/-- A partition placed for the first time: its quadrants zeroed. -/
def State.placePart (s : State) (p : PartId) (sh : Shape) : State :=
  let s := s.zeroQuads sh.quads
  s.setPart p (some ((Part.fresh sh (s.ingestOf sh)).startPeriod s.rackNs (s.periodNs p)))

/-- A partition created on its placement (R40, R344); one of the settings image keeps its settings (R304). -/
def State.createPart (s : State) (p : PartId) (sh : Shape) : State :=
  if s.unplaced.any fun e => e.1 = p then
    { s.placePart p sh with unplaced := s.unplaced.filter fun (e : PartId × Nat × Nat × Nat × Nat) => e.1 ≠ p }
  else ((s.dropPartSettings p).placePart p sh).logClasses p 0x32

/-- A partition deleted: its settings removed, SESSION values and latches of its keyways lost (R344). -/
def State.deletePart (s : State) (p : PartId) : State :=
  let s := (s.endPart p).loseSessionClass p
  ((s.dropPartSettings p).setPart p none).logClasses p 0x3B

/-- A partition started afresh on a shape, its epoch and counters kept (R40, R219). -/
def Part.anew (v : Part) (sh : Shape) (ingest : ChipId) : Part :=
  { Part.fresh sh ingest with
    epoch := v.epoch, epochHigh := v.epochHigh, hinges := v.hinges, spills := v.spills, cells := v.cells, fabric := v.fabric,
    ingest := v.ingest, recovery := v.recovery, nextDump := v.nextDump, nextBatch := v.nextBatch, movedAt := v.movedAt,
    perStart := v.perStart, perEnd := v.perEnd, perLen := v.perLen, perNew := v.perNew, perDue := v.perDue, perGap := v.perGap,
    perHinge := v.perHinge, perMisses := v.perMisses, perDropSeen := v.perDropSeen, perSpills := v.perSpills }

/-- An ended partition takes its new shape: memory zeroed, RUNNING values, latches and SESSION values lost, STORED values kept; its
ingest state starts afresh and its counters stay (R40, R211, R219, R344). -/
def State.reseatPart (s : State) (p : PartId) (sh : Shape) : State :=
  match s.part p with
  | none => s
  | some v =>
    let s := (s.loseSessionClass p).zeroQuads sh.quads
    let s := s.loseClass .running fun ix => ix = .part p
    let s := s.setPart p (some ((v.anew sh (s.ingestOf sh)).changePeriod s.rackNs (s.periodNs p)))
    s.logClasses p 0x1B

/-- A creation, reshape or deletion turned back: the partition as it was, its program stopped and its memory zeroed (R355,
R357). -/
def State.unshape (s : State) (p : PartId) (before : Option Part) : State :=
  let cur := s.part p
  let s := s.endPart p
  match before with
  | none => (s.dropPartSettings p).setPart p none
  | some v =>
    let s := s.zeroQuads v.shape.quads
    s.setPart p (some ((cur.getD v).anew v.shape (s.ingestOf v.shape)))

/-! ### Moves (R325, R358) -/

/-- The quadrant that takes a quadrant's content. -/
def mapQuad (old new : Shape) (q : QuadId) : QuadId :=
  ((old.quads.findIdx? (· = q)).bind fun i => new.quads[i]?).getD q

def mapChip (old new : Shape) (n : ChipId) : ChipId := ((old.vchip n).bind fun v => new.chips[v]?).getD n

/-- A cell's place in another quadrant: the same column and row within it. -/
def moveCell (old new : Shape) (x : CellId) : CellId :=
  let q := mapQuad old new (cellQuad x)
  let k := (quadK q).val
  { chip := quadChip q, c := ⟨x.c.val % 40 + 40 * (k % 2), by omega⟩, r := ⟨x.r.val % 32 + 32 * (k / 2 % 2), by omega⟩ }

/-- A block's place in another quadrant. -/
def moveBlock (old new : Shape) (n : ChipId) (b : Fin 640) : ChipId × Fin 640 :=
  let q := mapQuad old new (quadOf n (blockK b))
  let k := (quadK q).val
  (quadChip q, ⟨(b.val % 10 + 10 * (k % 2)) + 20 * (b.val / 20 % 16 + 16 * (k / 2 % 2)), by omega⟩)

/-- Bindings of a moved cell. -/
def moveCfg (old new : Shape) (n : ChipId) (g : CellCfg) : CellCfg :=
  let m := fun (c : Fin 80) (r : Fin 64) => moveCell old new { chip := n, c := c, r := r }
  { g with outs := g.outs.map fun o =>
             match o.2 with
             | .cell c r q => (o.1, .cell (m c r).c (m c r).r q)
             | .fabric => o,
           ins := g.ins.map fun i => (i.1, i.2.map fun x => ((m x.1 x.2).c, (m x.1 x.2).r)) }

/-- A partition on its way: its number, itself and its new placement. -/
structure Move where
  part : PartId
  v : Part
  new : Shape

/-- The move that takes a quadrant along. -/
def moveOf (ms : List Move) (q : QuadId) : Option Move := ms.find? fun m => m.v.shape.quads.contains q

/-- Where the content of a quadrant, a cell, a block goes in a map turn. -/
def newQuad (ms : List Move) (q : QuadId) : QuadId := ((moveOf ms q).map fun m => mapQuad m.v.shape m.new q).getD q
def newCell (ms : List Move) (x : CellId) : CellId :=
  ((moveOf ms (cellQuad x)).map fun m => moveCell m.v.shape m.new x).getD x
def newBlock (ms : List Move) (e : ChipId × Fin 640) : ChipId × Fin 640 :=
  ((moveOf ms (quadOf e.1 (blockK e.2))).map fun m => moveBlock m.v.shape m.new e.1 e.2).getD e

/-- The quadrants that moves leave, and those they reach. -/
def leftQuads (ms : List Move) : List QuadId := ms.flatMap fun m => m.v.shape.quads
def newQuads (ms : List Move) : List QuadId := ms.flatMap fun m => m.new.quads

/-- HBM of moved quadrants: every old quadrant's bytes at its new place, what it left zeroed. -/
def moveHbm (m : Memory) (ms : List Move) : Memory :=
  let parts := (leftQuads ms).map fun q => (newQuad ms q, Memory.slice m (hbmAddr q 0) (2 ^ 36))
  let cleared := (leftQuads ms ++ newQuads ms).foldl (fun m q => Memory.clear m (hbmAddr q 0) (2 ^ 36)) m
  parts.foldl (fun m e => Memory.paste m (hbmAddr e.1 0) (2 ^ 36) e.2) cleared

/-- Poisoned words move with their quadrant. -/
def movePoison (ws : List Nat) (ms : List Move) : List Nat :=
  ws.map fun w =>
    let q : QuadId := ⟨w / 2 ^ 31 % 256, by omega⟩
    (newQuad ms q).val * 2 ^ 31 + w % 2 ^ 31

/-- A moved cell's bindings move along. -/
def CellState.carry (ms : List Move) (x : CellId) (c : CellState) : CellState :=
  match moveOf ms (cellQuad x) with
  | some m =>
    let f := fun (g : CellCfg) => moveCfg m.v.shape m.new x.chip g
    { c with active := c.active.map f, shadow := c.shadow.map fun o => o.map f }
  | none => c

/-- A cell's CELL cycles as its new chip counts them. -/
def State.recount (s : State) (old new : ChipId) (c : CellState) : CellState :=
  { c with since := c.since + s.cycleOn new - s.cycleOn old, blockedAt := c.blockedAt + s.cycleOn new - s.cycleOn old }

/-- What a moved partition has on chips and in tables under its own name: calendars, runs, deadlock samples, transfers, landings
and problems. -/
def State.carryOwn (s : State) (m : Move) : State :=
  let p := m.part
  let dest := fun (n : ChipId) => mapChip m.v.shape m.new n
  let cellOf := fun (x : CellId) => if m.v.shape.quads.contains (cellQuad x) then moveCell m.v.shape m.new x else x
  let cal := (allChips.flatMap fun n => ((s.chip n).cal.filter fun e => e.1 = p).map fun e => (n, e))
  let wav := (allChips.flatMap fun n => ((s.chip n).calWave.filter fun e => e.1 = p).map fun e => (n, e))
  let nxt := (allChips.flatMap fun n => ((s.chip n).calNext.filter fun e => e.part = p).map fun e => (n, e))
  let runs := (allChips.flatMap fun n => ((s.chip n).runs.filter fun r => r.part = p).map fun r => (n, r))
  let s := allChips.foldl (fun s n => s.modChip n fun c =>
    { c with cal := c.cal.filter (fun e => e.1 ≠ p) ++ ((cal.filter fun e => dest e.1 = n).map Prod.snd),
             calWave := c.calWave.filter (fun e => e.1 ≠ p) ++ ((wav.filter fun e => dest e.1 = n).map Prod.snd),
             calNext := c.calNext.filter (fun e => e.part ≠ p) ++ ((nxt.filter fun e => dest e.1 = n).map Prod.snd),
             runs := c.runs.filter (fun r => r.part ≠ p) ++ ((runs.filter fun e => dest e.1 = n).map Prod.snd) }) s
  { s with
    deadbolts := s.deadbolts.map fun d =>
      if d.part = p then
        { d with chip := dest d.chip,
                 edges := d.edges.map fun e => { e with src := cellOf e.src, dst := cellOf e.dst },
                 reports := d.reports.map fun r => r.map cellOf, rounds := d.rounds.map fun r => (r.1.map cellOf, r.2) }
      else d
    sends := s.sends.map fun x => if x.part = p then { x with chip := dest x.chip, srcCell := cellOf x.srcCell } else x
    landings := s.landings.map fun x => if x.part = p then { x with src := dest x.src, dst := dest x.dst } else x
    kws := s.kws.map fun (e : KwId × Keyway) =>
      (e.1, { e.2 with problems := e.2.problems.map fun (x : Problem) =>
        if x.part = p then { x with chip := dest x.chip } else x }) }

/-- Everything moved partitions carry, all at once: a quadrant that one leaves another may take. -/
def State.carry (s : State) (ms : List Move) : State :=
  let s := s.zeroQuads ((newQuads ms).filter fun q => !(leftQuads ms).contains q)
  let s := ms.foldl State.carryOwn s
  { s with
    hbm := moveHbm s.hbm ms, poison := movePoison s.poison ms
    bufs := s.bufs.map fun e => (newBlock ms e.1, e.2), acc := s.acc.map fun e => (newBlock ms e.1, e.2)
    sram := s.sram.map fun e => (newCell ms e.1, e.2)
    cells := s.cells.map fun e => (newCell ms e.1, s.recount e.1.chip (newCell ms e.1).chip (e.2.carry ms e.1))
    mesh := s.mesh.map fun m =>
      { m with src := newCell ms m.src, dst := newCell ms m.dst,
               sentAt := m.sentAt + s.cycleOn (newCell ms m.src).chip - s.cycleOn m.src.chip }
    waitIn := s.waitIn.map fun e => (newCell ms e.1, e.2) }

/-- A partition's record on its new quadrants. -/
def Move.seated (m : Move) (ingest : ChipId) (now : Nat) : Part :=
  let v := m.v
  let mb := fun (e : ChipId × Fin 640 × Fin 640) =>
    ((moveBlock v.shape m.new e.1 e.2.1).1, (moveBlock v.shape m.new e.1 e.2.1).2, (moveBlock v.shape m.new e.1 e.2.2).2)
  { v with
    shape := m.new, ingestChip := ingest, waiting := false, movedAt := some now, rot := v.rot.map mb, rotPlan := none, rotDone := [],
    waves := v.waves.map fun w => { w with rot := w.rot.map mb, carried := w.carried.map (mapChip v.shape m.new) },
    gated := [],
    tables := v.tables.map fun t => { t with chips := t.chips.map (mapChip v.shape m.new) } }

/-- A table with one copy gets a second one, on the lowest chip in service that has none (R211). -/
def State.respare (s : State) (p : PartId) : State :=
  s.modPart p fun v => { v with tables := v.tables.map fun (t : TokTable) =>
    { t with chips := (t.chips ++ (s.serviceChips v).filter fun n => !t.chips.contains n).take (max 2 t.chips.length) } }

/-- A moved partition takes its new quadrants, with a second copy of each table at the same turn; its keyways learn of the move, and
of a broken pin (R41, R211, R325). -/
def State.seatMoved (s : State) (m : Move) : State :=
  let s := (s.setPart m.part (some (m.seated (s.ingestOf m.new) s.rackNs))).respare m.part
  let s := s.raisePart m.part Ev.partitionMoved (be 4 m.v.epoch.toNat)
  if s.partSet m.part 0x0202#16 = 1 then s.raisePart m.part Ev.pinBroken (be 4 m.v.epoch.toNat) else s

/-- Partitions moved by the firmware together: carried to their new quadrants, or, off a locked-out unit, started on zeroed ones
(R40, R325, R358). -/
def State.moveParts (s : State) (shs : List (PartId × Shape)) : State :=
  let ms : List Move := shs.filterMap fun e => (s.part e.1).map fun v => { part := e.1, v := v, new := e.2 }
  let lost := ms.filter fun m => s.holdsLocked m.v.shape
  let kept := ms.filter fun m => !s.holdsLocked m.v.shape
  let s := (s.zeroQuads (leftQuads lost)).carry kept
  ms.foldl State.seatMoved (s.zeroQuads (newQuads lost))

end Sys2Proof.Machine
end

