-- ==== Sys2Proof/Machine/Turns.lean ====
section
/-! DEFINITION. Turns: classes and units (R352, R356), keyway and partition turns, quiesce points and drains (R353, R355),
rack-wide turns, their misses and rollbacks (R356 to R359), placement runs (R244, R245), and the SET_SET family of commands. -/

namespace Sys2Proof.Machine

/-! ### Changes -/

def Change.turnClass : Change → TurnClass
  | .val key _ =>
    match setInfo key.1 with
    | some i => i.turn
    | none => .rack
  | _ => .rack

def Change.key? : Change → Option SetKey
  | .val key _ => some key
  | _ => none

/-- The widest class among changes (R351). -/
def widest (cs : List Change) : TurnClass :=
  cs.foldl (fun b c => if b.rank < c.turnClass.rank then c.turnClass else b) .keyway

/-- Partitions a keyway-scope change bears on: that bound before, and for a binding that bound after. -/
def State.kwParts (s : State) (k : KwId) : Change → List PartId
  | .val key v =>
    let after : List PartId :=
      if key.1 = 0x0101#16 then
        if h : fieldBe v 0 1 < 64 ∧ v.getD 1 0 ≠ 0 then [⟨fieldBe v 0 1, h.1⟩] else []
      else []
    ((s.kwPart k).toList ++ after).filter fun p => (s.part p).isSome
  | _ => []

/-- Keyways of which a share slot names a share-key index in its current generation. -/
def State.holders (s : State) (i : Fin 128) : List KwId :=
  (List.finRange 64).filter fun k =>
    decide (k.val = i.val) || (List.range 15).any fun n => (s.slotKey k (n + 1)).any fun x => x.1 = i

/-- Partitions whose epoch a change advances (R349). -/
def State.epochParts (s : State) (c : Change) : List PartId :=
  match c with
  | .val key _ =>
    match key.2 with
    | .part p => if (s.part p).isSome then [p] else []
    | .kw k => s.kwParts k c
    | .rack => s.partIds
  | .keyCreate .. => []
  | .keyDelete i => (s.holders i).filterMap s.kwPart

def State.changedParts (s : State) (cs : List Change) : List PartId := (cs.flatMap s.epochParts).dedup

/-! ### Taking values into force -/

/-- The memory between the old and the new tenant limit zeroed in every quadrant of the partition (R206). -/
def State.zeroBetween (s : State) (p : PartId) (old new : Nat) : State :=
  let lo := min old new
  (s.partQuads p).foldl (fun s q => s.hbmPaste (hbmAddr q lo) (max old new - lo) []) s

/-- Hot blocks beyond the hot tier's size leave it, the least recently used unpinned first; the number is fuel (R205). -/
def State.fitHot (s : State) (p : PartId) : Nat → State
  | 0 => s
  | f + 1 =>
    match s.part p with
    | none => s
    | some v =>
      if s.hotFits p (v.hot.map HotBlock.kvb) then s
      else
        match lruHot (v.hot.filter fun b => !s.pinned b.idx b.key) with
        | some b => (s.modPart p fun v => v.dropHot b.idx b.key).fitHot p f
        | none => s

/-- A private key at its next generation, its value drawn anew (R188, R190). -/
def State.drawKey (s : State) (i : Fin 128) (label : BitVec 128) : State :=
  let k := s.shareKey i
  let n : ShareKey := { gen := k.gen + 1, live := true, label := label, value := Config.freeKey s.kr.keysDrawn }
  { s with kr := { s.kr with keys := Tab.set s.kr.keys i n, keysDrawn := s.kr.keysDrawn + 1 } }

/-- One change in force. -/
def State.applyChange (s : State) : Change → State
  | .keyCreate i label => s.drawKey i label
  | .keyDelete i =>
    let k := s.shareKey i
    let s := { s with kr := { s.kr with keys := Tab.set s.kr.keys i { k with live := false } } }
    (if i.val < 64 then s.drawKey i k.label else s).krSweep
  | .val key v =>
    match key.2 with
    | .part p =>
      let old := s.tenantLimit p
      let s := s.writeRun key v
      if key.1 = 0x0204#16 ∨ key.1 = 0x0401#16 then
        (s.zeroBetween p old (s.tenantLimit p)).fitHot p (((s.part p).map fun x => x.hot.length).getD 0)
      else if key.1 = 0x0209#16 then s.modPart p fun x => x.changePeriod s.rackNs (s.periodNs p)
      else if key.1 = 0x0207#16 ∨ key.1 = 0x020A#16 ∨ key.1 = 0x0605#16 then s.regulate
      else s
    | .kw k =>
      if key.1 = 0x0101#16 then
        (s.writeRun key (bindingValue v)).loseClass .session fun ix => ix = .kw k
      else s.writeRun key v
    | .rack =>
      let s := s.writeRun key v
      if 0x0480 ≤ key.1.toNat ∧ key.1.toNat ≤ 0x04FF then
        if h : key.1.toNat - 0x0480 < 128 then s.fitQuota ⟨key.1.toNat - 0x0480, h⟩ else s
      else if key.1 = 0x0304#16 then
        if s.accept.phase = 0 then { s with accept := { phase := 1, since := s.osc } } else s
      else if key.1 = 0x0A20#16 then s.log Lg.rackAccepted unitRack v
      else if key.1.toNat / 256 = 0x06 ∧ s.ready = true then s.rebudget
      else s

def State.applyChanges (s : State) (cs : List Change) : State := cs.foldl State.applyChange s

/-- Changes checked one after the other as they would turn (R203, R44, R354). -/
def State.changesOk (s : State) : List Change → Bool
  | [] => true
  | c :: cs =>
    match c with
    | .val key v => s.valueOk key v && (s.writeRun key v).changesOk cs
    | _ => s.changesOk cs

/-! ### Epochs of a turn (R349, R350, R354) -/

/-- Live epochs of a partition's open requests. -/
def State.liveEpochs (s : State) (p : PartId) : List (BitVec 32) := ((s.openReqs p).map Request.epoch).dedup

/-- Requests of the oldest live epoch end CANCELLED where a 17th would become live (R350). -/
def State.makeEpochRoom (s : State) (ps : List PartId) : State :=
  ps.foldl (fun s p =>
    match s.openReqs p with
    | r :: _ =>
      if 16 ≤ (s.liveEpochs p).length then
        s.endRequests ((s.openReqs p).filter fun x => x.epoch = r.epoch) St.cancelled
      else s
    | [] => s) s

/-- EPOCH_TURNED to every keyway bound to a partition (R354); a session further named receives it too. -/
def State.epochTurned (s : State) (p : PartId) (scope : Nat) (also : Option (KwId × SessRef)) : State :=
  match s.part p with
  | none => s
  | some v =>
    (s.boundKws p).foldl (fun s k =>
      let n := also.bind fun a => if a.1 = k then some a.2 else none
      s.raiseAlso (.kw k) n Ev.epochTurned (be 4 v.epoch.toNat ++ be 1 scope)) s

/-- The epochs of partitions advance and their keyways are told. -/
def State.turnEpochs (s : State) (ps : List PartId) (scope : Nat) (also : Option (KwId × SessRef)) : State :=
  ps.foldl (fun s p => (s.advanceEpoch p).epochTurned p scope also) s

/-- BINDING_CHANGED to each keyway a turn binds anew: its role, and its epoch after the turn (R44). -/
def State.tellBindings (s : State) (cs : List Change) : State :=
  cs.foldl (fun s c =>
    match c with
    | .val (id, .kw k) v =>
      if id = 0x0101#16 then s.raiseK k Ev.bindingChanged ([(bindingValue v).getD 1 0] ++ be 4 (s.kwEpoch k).toNat) else s
    | _ => s) s

/-- The issuing keyway session of a turn. -/
def issuer (e : Ep) (n : SessRef) : Option (KwId × SessRef) :=
  match e with
  | .kw k => some (k, n)
  | .op => none

/-- The operator session a record is for. -/
def operatorOf (e : Ep) (n : SessRef) : Option SessRef :=
  match e with
  | .op => some n
  | .kw _ => none

/-- Whether a turn that ends now ends with an event to its session: one that was answered ACCEPTED does (R354). -/
def onlyIf {α : Type} (accepted : Bool) (x : Option α) : Option α := if accepted then x else none

/-- TURN_STARTED: operator session, latches, units (R360). -/
def State.logStarted (s : State) (e : Ep) (n : SessRef) (latches units : Nat) : State :=
  s.log Lg.turnStarted unitRack (le 2 (((operatorOf e n).map SessRef.num).getD 0) ++ le 4 latches ++ le 4 units)

/-- Microseconds since an oscillator instant. -/
def State.usSince (s : State) (at_ : Nat) : Nat := (s.osc - at_) / 1000

/-- TURN_COMPLETED: rack epoch, units turned, duration; for the operator session of a turn answered ACCEPTED too (R354). -/
def State.logCompleted (s : State) (forSession : Option SessRef) (units startOsc : Nat) : State :=
  s.logRec Lg.turnCompleted unitRack (le 4 s.rackEpoch.toNat ++ le 4 units ++ le 4 (s.usSince startOsc)) 0 0 [] forSession

/-! ### Keyway and partition turns (R352 to R355) -/

/-- The rack-wide turn in progress still has a unit of the partition to turn (R359). -/
def State.unitOf (s : State) (p : PartId) : List TurnUnit :=
  match s.part p with
  | some v => if v.shape.cls = 3 then [.part p] else [.chip v.shape.chip]
  | none => []

def State.turnPending (s : State) (p : PartId) : Bool :=
  match s.turn with
  | some t => !t.turnedParts.contains p && (s.unitOf p).any fun u => t.units.contains u && !t.turned.contains u
  | none => false

/-- The partition is at a quiesce point: no program, or every chip held at one (R353). -/
def Part.atQuiesce (v : Part) : Bool := !v.hasProgram || v.quiesced

def State.quiet (s : State) (p : PartId) : Bool := ((s.part p).map Part.atQuiesce).getD true
def State.stopped (s : State) (p : PartId) : Bool := ((s.part p).map fun v => !v.hasProgram).getD true

/-- May a waiting turn land now? -/
def State.turnReady (s : State) (t : PartTurn) : Bool :=
  t.parts.all fun p => !s.turnPending p && (!t.needQuiesce || s.quiet p) && (!t.needDrain || s.stopped p) && !s.resettingPart p

/-- The turn lands: values in force, epochs advanced, the keyways told; a rack-wide turn in progress notes it (R357). -/
def State.landTurn (s : State) (e : Ep) (n : SessRef) (cs : List Change) (scope : Nat) (accepted : Bool) (startOsc : Nat) : State :=
  let ps := s.changedParts cs
  let s := s.applyChanges cs
  let ps := ps.filter fun p => (s.part p).isSome
  let s := (s.turnEpochs ps scope (onlyIf accepted (issuer e n))).tellBindings cs
  let s := match s.turn with
    | some t => { s with turn := some { t with laterTurn := t.laterTurn ++ ps, laterKeys := t.laterKeys ++ cs.filterMap Change.key? } }
    | none => s
  if e = .op then s.logCompleted (onlyIf accepted (operatorOf e n)) ps.length startOsc else s

/-- Does something still need the partition at its quiesce point? -/
def State.quiesceWanted (s : State) (p : PartId) : Bool :=
  (s.partTurns.any fun t => t.needQuiesce && t.parts.contains p) ||
  ((s.powerOp p).any fun o => decide (((s.part p).map Part.power).getD 0 < o.2.1)) ||
  (match s.turn with
   | some t => !t.turnedParts.contains p && t.shapes.any fun e => e.1 = p && e.2.isSome
   | none => false)

/-- A partition no longer wanted at its quiesce point runs on. -/
def State.resumeIfFree (s : State) (p : PartId) : State :=
  match s.part p with
  | some v =>
    if v.quiesced && !v.heldByTurn && !s.quiesceWanted p then s.setPart p (some { v with quiesced := false }) else s
  | none => s

/-- Waiting turns that can land do, in their order; the number is fuel. -/
def State.landWaiting (s : State) : Nat → State
  | 0 => s
  | f + 1 =>
    match s.partTurns.find? s.turnReady with
    | none => s
    | some t =>
      let s := { s with partTurns := s.partTurns.filter fun x => x.op ≠ t.op }
      let s := s.landTurn t.ep t.session t.changes t.scopeByte true t.startOsc
      let s := t.parts.foldl State.resumeIfFree (s.endOp t.op)
      s.landWaiting f

def State.settleTurns (s : State) : State := s.landWaiting s.partTurns.length

/-- A turn that ended within its command: OK with the new epoch; of a command that waited, its session had the ending event
where one went out (R354, R377). -/
def State.turnEnd (s : State) (c : Ctx) (ps : List PartId) : Res :=
  let told := match c.ep with
    | .op => true
    | .kw k => (s.kwPart k).any ps.contains
  if c.late && told then Res.accepted s else Res.ok s (be 4 (s.hdrEpoch c.h).toNat)

/-- A keyway- or partition-class turn of a command. -/
def State.narrowTurn (s : State) (c : Ctx) (cs : List Change) (cls : TurnClass) : Res :=
  let ps := s.changedParts cs
  let drains := cls = .drain
  let running := ps.filter fun p => !s.stopped p && cs.any fun x => x.turnClass = .drain && (s.epochParts x).contains p
  let full := ps.any fun p => decide (16 ≤ (s.liveEpochs p).length)
  if (drains && !running.isEmpty && !c.h.force) || (full && !c.h.force) then Res.fail s St.busy
  else
    let s := s.makeEpochRoom ps
    let s := running.foldl State.drainProgram s
    let scope := if cls = .keyway then 0 else 1
    let t : PartTurn :=
      { parts := ps, ep := c.ep, session := c.session, op := s.nextOp, changes := cs, scopeByte := scope,
        needQuiesce := cs.any fun x => x.turnClass = .quiesce, needDrain := cs.any fun x => x.turnClass = .drain,
        startOsc := s.osc }
    let s := if c.ep = .op then s.logStarted c.ep c.session cs.length ps.length else s
    if s.turnReady t then
      let s := s.landTurn c.ep c.session cs scope c.late s.osc
      s.turnEnd c ps
    else
      let s := (s.addOp c.ep c.session c.h.seq c.epoch .turn)
      let s := { s with partTurns := s.partTurns ++ [t] }
      Res.accepted (if t.needQuiesce then ps.foldl (fun s p => if s.quiet p then s else s.startAttempt p) s else s)

/-! ### Rack-wide turns (R356 to R358) -/

/-- The placement a turn brings a partition. -/
def Turn.target (t : Turn) (p : PartId) : Option Shape := ((t.shapes.find? fun e => e.1 = p).map Prod.snd).join

/-- The chips of a unit (R356). -/
def State.unitChips (s : State) (t : Turn) : TurnUnit → List ChipId
  | .part p =>
    (((s.part p).map Part.chips).getD [] ++ ((t.target p).map Shape.chips).getD []).dedup.filter fun n => !s.chipLocked n
  | .chip n => [n]
  | _ => []

/-- The partitions a unit carries. -/
def State.unitParts (s : State) (t : Turn) : TurnUnit → List PartId
  | .part p => [p]
  | .chip n =>
    (List.finRange 64).filter fun p =>
      ((s.part p).any fun v => v.shape.cls ≠ 3 && v.shape.chip = n) ||
        ((s.part p).isNone && (t.target p).any fun sh => sh.cls ≠ 3 && sh.chip = n)
  | _ => []

/-- Every unit of a rack-wide turn: the RMU, the switch trays in service, each box partition, each other chip; locked-out units
are none (R356). -/
def State.unitsFor (s : State) (t : Turn) : List TurnUnit :=
  let boxes := (List.finRange 64).filter fun p =>
    ((s.part p).any fun v => v.shape.cls = 3) || (t.target p).any fun sh => sh.cls = 3
  let inBox := boxes.flatMap fun p => s.unitChips t (.part p)
  [.rmu] ++ ((allSwitches.filter fun i => (s.swt i).up).map .switch) ++ boxes.map .part ++
    ((allChips.filter fun n => !s.chipLocked n && !inBox.contains n && (s.chip n).power ≠ .off).map .chip)

/-- The resets that reach a unit. -/
def State.unitResets (s : State) (t : Turn) (u : TurnUnit) : List ResetRun :=
  let qs := (s.unitChips t u).flatMap chipQuads
  s.resets.filter fun r => (s.scopeQuads r.scope).any qs.contains

/-- A unit under a reset of level 4 or 5 misses at once (R357). -/
def State.unitMisses (s : State) (t : Turn) (u : TurnUnit) : Bool := (s.unitResets t u).any fun r => 4 ≤ r.level

/-- Is a partition's change a reshape or a deletion, which drains, rather than a move (R355)? -/
def State.reshapes (s : State) (t : Turn) (p : PartId) : Bool :=
  (t.shapes.any fun e => e.1 = p) &&
    (match s.part p, t.target p with
     | some v, some sh => !(v.shape.cls = sh.cls && v.shape.ex = sh.ex && v.shape.ey = sh.ey && v.shape.ez = sh.ez)
     | some _, none => true
     | none, _ => false)

def State.moves (s : State) (t : Turn) (p : PartId) : Bool :=
  (t.shapes.any fun e => e.1 = p) && (s.part p).isSome && !s.reshapes t p

/-- Does the unit's own condition hold (R356)? -/
def State.unitReady (s : State) (t : Turn) (u : TurnUnit) : Bool :=
  (s.unitResets t u).isEmpty &&
    (s.unitParts t u).all fun p =>
      let drain := s.reshapes t p || t.changes.any fun x => x.turnClass = .drain && (s.epochParts x).contains p
      let quiesce := s.moves t p || t.changes.any fun x => x.turnClass = .quiesce && (s.epochParts x).contains p
      (!drain || s.stopped p) && (!quiesce || s.quiet p)

/-- Does the turn advance a partition's epoch (R349)? -/
def State.turnAdvances (s : State) (t : Turn) (p : PartId) : Bool :=
  (s.part p).isSome && ((s.changedParts t.changes).contains p || (t.shapes.any fun e => e.1 = p && e.2.isSome))

/-- The session a turn's own EPOCH_TURNED goes to: that of a turn answered ACCEPTED on a keyway (R354). -/
def Turn.toSession (t : Turn) : Option (KwId × SessRef) := t.op.bind fun _ => issuer t.ep t.session

/-- The operator session a turn's own ending goes to (R354). -/
def Turn.toOperator (t : Turn) : Option SessRef := t.op.bind fun _ => operatorOf t.ep t.session

/-- The placement of an existing partition that a map change gives another shape, or moves. -/
def State.reshapeOf (s : State) (e : PartId × Option Shape) : Option (PartId × Shape) :=
  match s.part e.1, e.2 with
  | some v, some sh =>
    if v.shape.cls = sh.cls ∧ v.shape.ex = sh.ex ∧ v.shape.ey = sh.ey ∧ v.shape.ez = sh.ez then none else some (e.1, sh)
  | _, _ => none

def State.moveTo (s : State) (e : PartId × Option Shape) : Option (PartId × Shape) :=
  match s.part e.1, e.2 with
  | some v, some sh => if (s.reshapeOf e).isNone ∧ v.shape ≠ sh then some (e.1, sh) else none
  | _, _ => none

/-- The map changes in force: deletions, moves, reshapes, then creations, whose keyways learn of the new epoch. A reshaped partition
gives its quadrants up before any other takes them (R40, R325, R349, R354, R358). -/
def State.applyShapes (s : State) (shs : List (PartId × Option Shape)) (also : Option (KwId × SessRef)) : State :=
  let s := shs.foldl (fun s e => if e.2.isNone ∧ (s.part e.1).isSome then s.deletePart e.1 else s) s
  let moving := shs.filterMap s.moveTo
  let reshaping := shs.filterMap s.reshapeOf
  let s := (reshaping.foldl (fun s e => s.endPart e.1) s).moveParts moving
  let s := reshaping.foldl (fun s e => s.reseatPart e.1 e.2) s
  shs.foldl (fun s e =>
    match s.part e.1, e.2 with
    | none, some sh => (s.createPart e.1 sh).epochTurned e.1 2 also
    | _, _ => s) s

/-- Placements of other partitions. -/
def State.otherShapes (s : State) (p : PartId) : List Shape :=
  (s.partIds.filter fun q => q ≠ p).filterMap fun q => (s.part q).map Part.shape

/-- A placement whose quadrants another partition still holds: a move frees them only when the whole turn completes (R358). -/
def State.heldUp (s : State) (e : PartId × Option Shape) : Bool :=
  e.2.any fun sh => (s.otherShapes e.1).any fun o => o.quads.any sh.quads.contains

/-- A switch tray's unit. -/
def isSwitchUnit : TurnUnit → Bool
  | .switch _ => true
  | _ => false

/-- The settings of quotas, which turn with the switch trays (R203). -/
def isQuota (id : BitVec 16) : Bool := decide (0x0480 ≤ id.toNat) && decide (id.toNat ≤ 0x04FF)

/-- The unit a quota turns at: the last of the switch trays' (R203; log 148); with no switch tray in service, the RMU. -/
def Turn.quotaUnit (t : Turn) : Option TurnUnit :=
  if !t.units.any isSwitchUnit then some .rmu
  else
    match t.units.filter fun u => isSwitchUnit u && !t.turned.contains u with
    | [u] => some u
    | _ => none

/-- The unit a change turns at: that of its partition, or of the partition of its keyway, of the switch trays for a quota; else the
RMU (R203, R356). -/
def State.changeUnit (s : State) (t : Turn) (c : Change) : Option TurnUnit :=
  match c with
  | .val (id, .rack) _ => if isQuota id then t.quotaUnit else some .rmu
  | .val (_, .part p) _ =>
    some ((t.units.find? fun u => !t.turned.contains u && (s.unitParts t u).contains p).getD .rmu)
  | .val (_, .kw _) _ =>
    some (((s.epochParts c).head?.bind fun p => t.units.find? fun u => !t.turned.contains u && (s.unitParts t u).contains p).getD .rmu)
  | _ => some .rmu

/-- A partition created, reshaped or deleted at its unit's turn; a move, and what needs quadrants not yet free, waits for the whole
turn (R355, R357, R358). -/
def State.shapeAt (a : State × Turn) (e : PartId × Option Shape) : State × Turn :=
  let s := a.1
  if s.heldUp e then a
  else
    let r := s.applyShapes [e] a.2.toSession
    let gone := s.cfg.running.filter fun x => !(r.cfg.running.any fun y => y.1 = x.1)
    (r, { a.2 with partsBefore := a.2.partsBefore ++ [(e.1, s.part e.1)], lost := a.2.lost ++ gone })

/-- A change of a partition that is gone does nothing. -/
def State.stillHas (s : State) : Change → Bool
  | .val (_, .part p) _ => (s.part p).isSome
  | _ => true

/-- Is a change one of a partition of the list? -/
def changesOf (ps : List PartId) : Change → Bool
  | .val (_, .part p) _ => ps.contains p
  | _ => false

/-- A unit turns: shapes, values and keys, and the epochs of the partitions whose epoch the turn advances (R349, R356). -/
def State.turnUnit (s : State) (t : Turn) (u : TurnUnit) : State × Turn :=
  let parts := (s.unitParts t u).filter fun p => !t.turnedParts.contains p
  let moved := parts.filter (s.moves t)
  let ps := parts.filter fun p => t.epochsBefore.any fun e => e.1 = p
  let own := t.shapes.filter fun e => parts.contains e.1 && !moved.contains e.1
  let shaped := own.foldl State.shapeAt (s, t)
  let late := (own.filter fun e => !(shaped.2.partsBefore.any fun x => x.1 = e.1)).map Prod.fst
  let mine := t.todo.filter fun c => s.changeUnit t c = some u && !changesOf late c
  let s := shaped.1.applyChanges (mine.filter shaped.1.stillHas)
  let s := (s.turnEpochs ps 2 t.toSession).tellBindings mine
  let s := moved.foldl (fun s p => s.modPart p fun v => { v with heldByTurn := true }) s
  (s, { shaped.2 with turned := t.turned ++ [u], turnedParts := t.turnedParts ++ parts,
                      todo := t.todo.filter fun c => !mine.contains c })

/-- Partitions held by the turn run on. -/
def State.releaseHeld (s : State) : State :=
  s.partIds.foldl (fun s p =>
    s.modPart p fun v => if v.heldByTurn then { v with heldByTurn := false, quiesced := false } else v) s

/-- Keyways bound to no partition learn of the rack epoch (R354). -/
def State.tellUnbound (s : State) : State :=
  ((List.finRange 64).filter fun k => (s.kwPart k).isNone).foldl (fun s k =>
    s.raiseK k Ev.epochTurned (be 4 s.rackEpoch.toNat ++ be 1 2)) s

/-- A partition-map turn: the links that have qualified since their quarantine rejoin (R163). -/
def State.rejoinLinks (s : State) (t : Turn) : State :=
  if t.shapes.isEmpty then s
  else { s with links := s.links.map fun (e : LinkId × Link) =>
           if e.2.qualified then (e.1, { e.2 with quarantined := false, qualified := false }) else e }

/-- The turn completes on every unit: moved partitions are on their new quadrants, the rack epoch advances, and waiting turns
follow (R349, R354, R359). -/
def State.completeTurn (s : State) (t : Turn) : State :=
  let moved := (t.shapes.filter fun e => s.moves t e.1 && e.2 ≠ (s.part e.1).map Part.shape).length
  let s := s.applyShapes t.shapes t.toSession
  let s := ((s.applyChanges (t.todo.filter s.stillHas)).releaseHeld).rejoinLinks t
  let s := { s with turn := none }
  let s := (s.advanceRackEpoch).tellUnbound
  let s := s.logCompleted t.toOperator t.units.length t.startOsc
  let s := if moved = 0 then s else s.log Lg.replacement unitRack (le 4 s.rackEpoch.toNat ++ le 4 moved)
  let s := match t.op with
    | some o => s.endOp o
    | none => s
  s.settleTurns

/-- The unit codes of a unit, one per chip of a chip unit (R357). -/
def State.unitCodes (s : State) (t : Turn) : TurnUnit → List (BitVec 16)
  | .rmu => [unitRmu]
  | .switch i => [unitSwitch i]
  | u => (s.unitChips t u).map unitChip

/-- Values a turn changed, as they were before. -/
def State.beforeOf (s : State) (cs : List Change) : Tab SetKey (List Byte) :=
  cs.filterMap fun c => (c.key?).map fun k => (k, s.setVal k)

/-- The latches go back to their session (R354). -/
def State.restoreLatches (s : State) (e : Ep) (n : SessRef) (ls : List Latch) : State :=
  s.modSession e n fun q => ls.foldl Session.latch q

/-- A value as it was before a turn; an acceptance test that was started runs on, no acceptance is logged anew, and of a quota the
value alone comes back (R203). -/
def State.restoreVal (s : State) (key : SetKey) (v : List Byte) : State :=
  if key.1 = 0x0304#16 ∨ key.1 = 0x0A20#16 ∨ isQuota key.1 = true then s.writeRun key v else (s.applyChange (.val key v)).tellBindings [.val key v]

/-- Every unit that has turned turns back: partitions as they were, values and keys as before, epochs restored, or taken anew where a later turn has
landed (R357). -/
def State.turnBack (s : State) (t : Turn) : State :=
  let s := if t.turned.contains .rmu then
      { s with kr := { s.kr with keys := t.keysBefore.foldl (fun m e => Tab.set m e.1 e.2) s.kr.keys } }
    else s
  let s := t.partsBefore.foldl (fun s e => s.unshape e.1 e.2) s
  let undone := t.before.filter fun e => !t.laterKeys.contains e.1 && !(t.todo.any fun c => c.key? = some e.1)
  let s := (t.lost.filter fun e => !t.laterKeys.contains e.1).foldl (fun s e => s.writeRun e.1 e.2) s
  let s := undone.foldl (fun s e => s.restoreVal e.1 e.2) s
  let ps := t.turnedParts.filter fun p => (t.epochsBefore.any fun e => e.1 = p)
  let s := ps.foldl (fun s p =>
    let s := if t.laterTurn.contains p then s.advanceEpoch p
      else s.modPart p fun v => { v with epoch := (Tab.get t.epochsBefore v.epoch p) }
    s.epochTurned p 3 none) s
  s.releaseHeld

/-- A turn with missed units is rolled back (R357). -/
def State.rollBack (s : State) (t : Turn) (missed : List TurnUnit) : State :=
  let codes := missed.flatMap (s.unitCodes t)
  let s := s.turnBack t
  let s := { s with turn := none }
  let s := s.restoreLatches t.ep t.session t.latches
  let s := s.logRec Lg.turnRolledBack unitRack
    (le 4 codes.length ++ padTo 24 ((codes.take 12).flatMap fun u => le 2 u.toNat) ++ le 4 (s.usSince t.startOsc)) 0 0 []
    t.toOperator
  let s := match t.op with
    | some o => s.endOp o
    | none => s
  s.settleTurns

/-- Every unit whose condition holds turns now. -/
def State.turnReadyUnits (s : State) (t : Turn) : State × Turn :=
  t.units.foldl (fun (a : State × Turn) u =>
    if !a.2.turned.contains u && a.1.unitReady a.2 u then a.1.turnUnit a.2 u else a) (s, t)

/-- Attempts to reach quiesce points start for the partitions a turn moves. -/
def State.startMoves (s : State) (t : Turn) : State :=
  (t.shapes.map Prod.fst).foldl (fun s p => if s.moves t p && !s.quiet p then s.startAttempt p else s) s

/-- A planned rack-wide turn starts: units that can turn do; complete, or in progress. -/
def State.runTurn (s : State) (t : Turn) : State :=
  let t := { t with units := s.unitsFor t }
  let s := s.startMoves t
  let r := s.turnReadyUnits t
  if r.2.turned.length = r.2.units.length then r.1.completeTurn r.2 else { r.1 with turn := some r.2 }

/-- The epochs partitions hold before a turn, for those it advances. -/
def State.epochsOf (s : State) (t : Turn) : List (PartId × BitVec 32) :=
  s.partIds.filterMap fun p => if s.turnAdvances t p then (s.part p).map fun v => (p, v.epoch) else none

/-- A request of PART_SHAPE among changes: the partition, its class and extents. -/
def shapeAsk : Change → Option (PartId × Nat × Nat × Nat × Nat)
  | .val key v =>
    match key.2 with
    | .part p => if key.1 = 0x0201#16 then some (p, fieldBe v 0 1, fieldBe v 1 1, fieldBe v 2 1, fieldBe v 3 1) else none
    | _ => none
  | _ => none

/-- Does a request change the map at all (R40)? -/
def State.asksChange (s : State) (a : PartId × Nat × Nat × Nat × Nat) : Bool :=
  match s.part a.1 with
  | none => a.2.1 ≠ 0
  | some v => !(a.2.1 = v.shape.cls && (a.2.1 = 0 || (a.2.2.1 = v.shape.ex && a.2.2.2.1 = v.shape.ey && a.2.2.2.2 = v.shape.ez)))

/-- The single candidate of a pinned partition's reshape: the same origin chip, 0 on an axis of extent 4; below a chip the lowest
quadrants it allows (R41; log 41). -/
def pinnedPlace (old : Shape) (cls ex ey ez : Nat) : Shape :=
  let x := if ex = 4 then 0 else chipX old.chip
  let y := if ey = 4 then 0 else chipY old.chip
  let z := if ez = 4 then 0 else chipZ old.chip
  { cls := cls, ex := ex, ey := ey, ez := ez, chip := chipAt x y z,
    kmask := if cls = 3 then 15 else if cls = 2 then 3 else 1 }

/-- What a shape request brings at once: a deletion, a pinned reshape, nothing yet for one to be planned, or no room. -/
inductive ShapeStep where
  | now (sh : Option Shape)
  | plan
  | noRoom

/-- Every candidate placement of a class and extents (R39). -/
def candidates (cls ex ey ez : Nat) : List Shape :=
  (allChips.flatMap fun n => ((List.range 16).map fun k =>
    ({ cls := cls, ex := ex, ey := ey, ez := ez, chip := n, kmask := BitVec.ofNat 4 k } : Shape))).filter fun sh =>
      sh.allowed && (cls ≠ 3 || sh.kmask = 15)

def State.shapeStep (s : State) (a : PartId × Nat × Nat × Nat × Nat) : ShapeStep :=
  if a.2.1 = 0 then .now none
  else
    match s.part a.1 with
    | some v =>
      if s.partSet a.1 0x0202#16 = 1 then
        let sh := pinnedPlace v.shape a.2.1 a.2.2.1 a.2.2.2.1 a.2.2.2.2
        if s.placeable sh && disjointShapes (sh :: s.otherShapes a.1) then .now (some sh) else .noRoom
      else if (candidates a.2.1 a.2.2.1 a.2.2.2.1 a.2.2.2.2).any s.placeable then .plan else .noRoom
    | none => if (candidates a.2.1 a.2.2.1 a.2.2.2.1 a.2.2.2.2).any s.placeable then .plan else .noRoom

/-- Can each list give one placement, none overlapping another or those taken? -/
def packs : List (List Shape) → List Shape → Bool
  | [], _ => true
  | cs :: rest, taken => cs.any fun sh => disjointShapes (sh :: taken) && packs rest (sh :: taken)

/-- Does some placement of every partition fit the partitions that a turn creates or reshapes (R245, R354)? Pinned partitions
stay; the others may move. -/
def State.roomFor (s : State) (placing : List (PartId × Nat × Nat × Nat × Nat)) (fixed : List (PartId × Option Shape)) : Bool :=
  let rest := s.partIds.filter fun p => !(placing.any fun a => a.1 = p) && !fixed.any fun e => e.1 = p
  let stays := rest.filter fun p => s.partSet p 0x0202#16 = 1 && !((s.part p).any fun v => s.holdsLocked v.shape)
  let taken := (stays.filterMap fun p => (s.part p).map Part.shape) ++ fixed.filterMap Prod.snd
  let asked := placing.map fun a => (candidates a.2.1 a.2.2.1 a.2.2.2.1 a.2.2.2.2).filter s.placeable
  let others := (rest.filter fun p => !stays.contains p).filterMap fun p => (s.part p).map fun v =>
    (v.shape :: candidates v.shape.cls v.shape.ex v.shape.ey v.shape.ez).filter s.placeable
  let lists := asked ++ others
  let size := fun (cs : List Shape) => ((cs.head?).map fun sh => sh.quads.length).getD 0
  decide ((taken.map fun sh => sh.quads.length).sum + (lists.map size).sum ≤ 4 * (allChips.filter s.chipUp).length) &&
    disjointShapes taken && packs lists taken

def ShapeStep.noRoom? : ShapeStep → Bool
  | .noRoom => true
  | _ => false

/-- A rack-wide turn of a command (R355 to R359). -/
def State.rackTurn (s : State) (c : Ctx) (cs : List Change) (latches : List Latch) : Res :=
    let asks := (cs.filterMap shapeAsk).filter s.asksChange
    let vals := cs.filter fun x => (shapeAsk x).isNone
    if asks.isEmpty ∧ vals.isEmpty then Res.ok s (be 4 (s.hdrEpoch c.h).toNat)
    else if s.turn.isSome then Res.fail s St.busy
    else if asks.any fun a => (s.shapeStep a).noRoom? then Res.fail s St.noResource
    else
      let steps := asks.map fun a => (a, s.shapeStep a)
      let shapes := steps.filterMap fun e => match e.2 with
        | .now sh => some (e.1.1, sh)
        | _ => none
      let placing := steps.filterMap fun e => match e.2 with
        | .plan => some e.1
        | _ => none
      if !disjointShapes (shapes.filterMap Prod.snd) || (!placing.isEmpty && !s.roomFor placing shapes) then Res.fail s St.noResource
      else
      let ps := s.changedParts vals ++ (asks.map Prod.fst).filter fun p => (s.part p).isSome
      let running := ps.filter fun p => !s.stopped p &&
        ((asks.any fun a => a.1 = p) || vals.any fun x => x.turnClass = .drain && (s.epochParts x).contains p)
      let full := ps.any fun p => decide (16 ≤ (s.liveEpochs p).length)
      if (!running.isEmpty || full) && !c.h.force then Res.fail s St.busy
      else
        let t : Turn :=
          { ep := c.ep, session := c.session, op := none, changes := vals, before := s.beforeOf vals, keysBefore := [],
            shapes := shapes, epochsBefore := [], laterTurn := [], laterKeys := [], units := [], turned := [], todo := vals,
            turnedParts := [], partsBefore := [], lost := [], startOsc := s.osc, placing := placing, latches := latches }
        let t := { t with epochsBefore := s.epochsOf t, units := s.unitsFor t,
                          keysBefore := vals.filterMap fun x => match x with
                            | .keyCreate i _ => some (i, s.shareKey i)
                            | .keyDelete i => some (i, s.shareKey i)
                            | _ => none }
        let missing := t.units.filter (s.unitMisses t)
        if !missing.isEmpty then
          let codes := missing.flatMap (s.unitCodes t)
          let s := s.restoreLatches c.ep c.session latches
          let s := s.logStarted c.ep c.session cs.length t.units.length
          let s := s.logRec Lg.turnRolledBack unitRack
            (le 4 codes.length ++ padTo 24 ((codes.take 12).flatMap fun u => le 2 u.toNat) ++ le 4 0) 0 0 []
            (onlyIf c.late (operatorOf c.ep c.session))
          if c.late = true ∧ c.ep = .op then Res.accepted s
          else Res.fail s St.rolledBack (codes.flatMap fun u => be 2 u.toNat)
        else
          let s := s.makeEpochRoom ps
          let s := running.foldl State.drainProgram s
          let s := s.logStarted c.ep c.session cs.length t.units.length
          if placing.isEmpty ∧ c.late = false ∧ (s.unitsFor t).all (s.unitReady t) = true then
            let r := s.runTurn t
            Res.ok r (be 4 (r.hdrEpoch c.h).toNat)
          else
            let s := s.addOp c.ep c.session c.h.seq c.epoch .turn
            let t := { t with op := some (s.nextOp - 1) }
            if placing.isEmpty then Res.accepted (s.runTurn t) else Res.accepted { s with turn := some t }

/-- A turn of a command's changes, by its class (R351, R352). -/
def State.turnOf (s : State) (c : Ctx) (cs : List Change) (latches : List Latch) : Res :=
  if !s.changesOk cs then Res.fail s St.badParameter
  else
    let cls := widest cs
    let closing := cs.any fun x => match x with
      | .val key v => key.1 = 0x0A20#16 && fieldBe v 0 1 = 0
      | _ => false
    let open_ := (List.finRange 64).filter fun k => s.kwOpen k
    if closing && !open_.isEmpty && !c.h.force then Res.fail s St.busy
    else
      let r := match cls with
        | .rack => (if closing && s.turn.isNone then open_.foldl State.keywayReset s else s).rackTurn c cs latches
        | _ => s.narrowTurn c cs cls
      if r.status = St.ok ∨ r.status = St.accepted then r
      else if r.status = St.rolledBack then r
      else { r with s := s }

/-! ### SET_SET, SET_TURN and the commands that act as SET_SET (R351, R352) -/

def opSetSet (c : Ctx) (id : BitVec 16) (v : List Byte) (s : State) : Res :=
  match s.checkWrite c id v with
  | .error st => Res.fail s st
  | .ok key => s.turnOf c [.val key v] []

/-- May the sender still write a latched setting: its rights are those of the role it has now (R45, R351)? -/
def State.mayTurn (s : State) (e : Ep) (key : SetKey) : Bool :=
  match setInfo key.1 with
  | none => false
  | some i =>
    s.mayWrite e i &&
      (match e, key.2 with
       | .kw k, .part p => s.kwPart k = some p
       | .kw k, .kw j => k = j
       | _, _ => true)

/-- SET_TURN turns every latch of the session together; refused before any unit turns, it leaves the latches (R45, R354). -/
def opSetTurn (c : Ctx) (s : State) : Res :=
  match s.session? c.ep c.session with
  | none => Res.fail s St.noSession
  | some q =>
    if q.latches.isEmpty then Res.fail s St.nothingLatched
    else if !q.latches.all fun l => s.mayTurn c.ep l.key then Res.fail s St.wardFault
    else
      let s' := s.modSession c.ep c.session fun q => { q with latches := [] }
      let r := s'.turnOf c (q.latches.map fun l => .val l.key l.value) q.latches
      if r.status = St.ok ∨ r.status = St.accepted ∨ r.status = St.rolledBack then r else { r with s := s }

/-- PWR_CAP: watts reduced to PWR_PART_MAX and raised to 150 W per quadrant; 0 asks for PWR_PART_MAX (R263). -/
def opPwrCap (c : Ctx) (watts : BitVec 32) (s : State) : Res :=
  match c.part? s with
  | none => Res.fail s St.wardFault
  | some p =>
    let q := (s.partQuads p).length
    let most := s.partSet p 0x0605#16 * q
    let granted := if watts = 0 then most else max (150 * q) (if most = 0 then watts.toNat else min watts.toNat most)
    let r := s.turnOf c [.val (0x020A#16, .part p) (be 4 granted)] []
    if r.status = St.ok then { r with body := be 4 granted } else r

/-- POLICY_SET writes PART_DIVIDER_MAX, PART_ROTATION and PART_ROTATION_PERIOD in one turn (R91, R348). -/
def opPolicySet (c : Ctx) (dividerMax rotation : BitVec 8) (period : BitVec 16) (s : State) : Res :=
  match c.part? s with
  | none => Res.fail s St.wardFault
  | some p =>
    if !(4 ≤ dividerMax.toNat && dividerMax.toNat ≤ 6 && rotation.toNat ≤ 1 && 10 ≤ period.toNat && period.toNat ≤ 1000) then
      Res.fail s St.badParameter
    else
      let r := s.turnOf c
        [.val (0x0207#16, .part p) (be 1 dividerMax.toNat), .val (0x0208#16, .part p) (be 1 rotation.toNat),
         .val (0x0209#16, .part p) (be 2 period.toNat)] []
      if r.status = St.ok then { r with body := [] } else r

/-! ### Event rows -/

/-- DRAIN_ATTEMPT: an attempt of 5 ms ends without a quiesce point and releases the held batch; 5 ms later the next one starts
(R353). -/
def execDrainAttempt (t : Nat) (p : PartId) (s : State) : Out3 :=
  let s := s.tick t
  match s.part p with
  | none => .next s
  | some v =>
    match v.drainStart, v.drainRetry with
    | some a, _ =>
      if a + 5000000 ≤ s.osc then
        .next (s.setPart p (some { v with drainStart := none, drainRetry := some (s.osc + 5000000) }))
      else .next s
    | none, some r => if r ≤ s.osc ∧ s.quiesceWanted p = true then .next (s.startAttempt p) else .next s
    | none, none => .next s

/-- QUIESCE_POINT: every cell has swapped at one hinge wave since the attempt began and no transfer of the partition is in
flight; what waits for it turns (R353). -/
def execQuiescePoint (t : Nat) (p : PartId) (s : State) : Out3 :=
  let s := s.tick t
  match s.part p with
  | none => .next s
  | some v =>
    let swept := v.drainStart.isSome && decide (v.drainHinge < v.hinges) && !(s.sends.any fun x => x.part = p)
    if !v.hasProgram || swept then
      let s := s.setPart p (some { v with drainStart := none, drainRetry := none, quiesced := v.hasProgram })
      .next (s.settleTurns.resumeIfFree p)
    else .next s

/-- PROG_STOPPED: the program stops (R71, R103, R355). -/
def execProgStopped (t : Nat) (p : PartId) (s : State) : Out3 :=
  let s := s.tick t
  match (s.part p).map Part.prog with
  | some (.stopping _ _) => .next (s.finishStop p).settleTurns
  | _ => .next s

/-- DRAIN_STOP: after at most 5 ms of drain the program stops, and what waited for it turns (R355). -/
def execDrainStop (t : Nat) (p : PartId) (s : State) : Out3 :=
  let s := s.tick t
  match (s.part p).map Part.prog with
  | some (.draining _ _) => .next (s.finishStop p).settleTurns
  | _ => .next s

/-- UNIT_TURN: a unit whose condition holds turns; the last one completes the turn (R356). -/
def execUnitTurn (t : Nat) (u : TurnUnit) (s : State) : Out3 :=
  let s := s.tick t
  match s.turn with
  | none => .next s
  | some tr =>
    if tr.placing.isEmpty && tr.units.contains u && !tr.turned.contains u && s.unitReady tr u then
      let r := s.turnUnit tr u
      if r.2.turned.length = r.2.units.length then .next (r.1.completeTurn r.2)
      else .next ({ r.1 with turn := some r.2 }).settleTurns
    else .next s

/-- TURN_DEADLINE: a unit not turned by REC_TURN_DEADLINE misses (R357). -/
def execTurnDeadline (t : Nat) (s : State) : Out3 :=
  let s := s.tick t
  match s.turn with
  | none => .next s
  | some tr =>
    if tr.startOsc + s.rackSet 0x0903#16 * 1000000 ≤ s.osc then
      .next (s.rollBack tr (tr.units.filter fun u => !tr.turned.contains u))
    else .next s

/-- Units of a turn in progress that a reset of level 4 or 5 reaches miss it at once (R357). -/
def State.missByReset (s : State) : State :=
  match s.turn with
  | none => s
  | some t =>
    let missed := t.units.filter fun u => !t.turned.contains u && s.unitMisses t u
    if missed.isEmpty then s else s.rollBack t missed

/-! ### Placement runs (R244, R245, R310) -/

/-- The class and extents a partition is to have: those asked for by the turn that waits, else its own, or those of the settings
image. -/
def State.wanted (s : State) (p : PartId) : Option (Nat × Nat × Nat × Nat) :=
  match (s.turn.map Turn.placing).getD [] |>.find? fun a => a.1 = p with
  | some a => some a.2
  | none =>
    match s.part p with
    | some v => some (v.shape.cls, v.shape.ex, v.shape.ey, v.shape.ez)
    | none => (s.unplaced.find? fun e => e.1 = p).map Prod.snd

/-- Partitions of the new map: the existing ones but those deleted, and those to be created. -/
def State.mapParts (s : State) : List PartId :=
  let gone := ((s.turn.map Turn.shapes).getD []).filter fun e => e.2.isNone
  (List.finRange 64).filter fun p => (s.wanted p).isSome && !gone.any fun e => e.1 = p

/-- The placement a plan gives a partition: one fixed by the turn already, that of the plan, or the one in force. -/
def State.planShape (s : State) (plan : List (PartId × Place)) (p : PartId) : Option Shape :=
  match ((s.turn.map Turn.shapes).getD []).find? fun e => e.1 = p with
  | some e => e.2
  | none =>
    match s.wanted p, plan.find? fun e => e.1 = p with
    | some w, some e =>
      some { cls := w.1, ex := w.2.1, ey := w.2.2.1, ez := w.2.2.2, chip := e.2.chip,
             kmask := if w.1 = 3 then 15 else e.2.kmask }
    | some _, none => (s.part p).map Part.shape
    | none, _ => none

/-- Is a partition pinned where it stands (R41, R245)? -/
def State.pinnedThere (s : State) (p : PartId) (sh : Shape) : Bool := s.partSet p 0x0202#16 = 1 && !s.holdsLocked sh

/-- May a partition stay where it is: a pinned one does, another only on units not locked out and on a ring free of quarantined links
(R245). -/
def State.mayStay (s : State) (p : PartId) (sh : Shape) : Bool :=
  s.pinnedThere p sh || (!s.holdsLocked sh && sh.innerLinks.all fun l => !(s.link l).quarantined)

/-- A plan is taken when every partition has one placement on quadrants in service, none overlap, and pinned partitions stay
(R245). -/
def State.planOk (s : State) (plan : List (PartId × Place)) : Bool :=
  let shs := s.mapParts.map fun p => (p, s.planShape plan p)
  (shs.all fun e =>
    match e.2 with
    | none => false
    | some sh =>
      match s.part e.1 with
      | some v =>
        if v.shape = sh then s.mayStay e.1 sh
        else s.placeable sh && (s.partSet e.1 0x0202#16 = 0 || s.holdsLocked v.shape ||
          ((s.turn.map Turn.shapes).getD []).any fun x => x.1 = e.1)
      | none => s.placeable sh) &&
    disjointShapes (shs.filterMap Prod.snd)

/-- The placements a plan changes. -/
def State.planChanges (s : State) (plan : List (PartId × Place)) : List (PartId × Option Shape) :=
  s.mapParts.filterMap fun p =>
    match s.planShape plan p with
    | some sh => if (s.part p).map Part.shape = some sh then none else some (p, some sh)
    | none => none

/-- Partitions that need new quadrants. -/
def State.needsPlace (s : State) : List PartId :=
  (List.finRange 64).filter fun p =>
    ((s.part p).map fun v => s.holdsLocked v.shape).getD (s.unplaced.any fun e => e.1 = p)

/-- Partitions that may not stay where they are. -/
def State.mustMove (s : State) : List PartId :=
  (List.finRange 64).filter fun p =>
    ((s.part p).map fun v => !s.mayStay p v.shape).getD (s.unplaced.any fun e => e.1 = p)

/-- Has a partition moved within 600 s (R245)? -/
def State.movedLately (s : State) (p : PartId) : Bool :=
  match (s.part p).bind Part.movedAt with
  | some a => decide (s.rackNs < a + firmwarePeriod)
  | none => false

/-- Does a turn wait for its placement? -/
def State.turnPlacing (s : State) : Bool := s.turn.any fun t => !t.placing.isEmpty

/-- May a placement problem run: a turn, a lockout, a quarantine or a tray's leaving asks for it, a run is to be repeated, or its 600 s
have passed (R244, R245, R325)? -/
def State.placementDue (s : State) : Bool :=
  s.turnPlacing || s.place.due || decide (0 < s.place.fails) || decide (s.place.ranAt + firmwarePeriod ≤ s.osc)

/-- A run that gives no map is repeated with a new seed, up to three times (R245). -/
def State.placementFailed (s : State) : State :=
  if s.place.fails < 3 then { s with place := { s.place with fails := s.place.fails + 1 } }
  else
    let s := { s with place := { s.place with fails := 0, due := false, ranAt := s.osc } }
    match s.turn with
    | some tr => if tr.placing.isEmpty then s else s.rollBack tr []
    | none => s.needsPlace.foldl (fun s p => s.modPart p fun v => { v with waiting := true }) s

/-- A periodic run moves a partition that may stay only for a cost at least 5 % lower, and none twice within 600 s (R245). -/
def State.periodicOk (s : State) (changes : List (PartId × Option Shape)) (gain : Nat) : Bool :=
  s.place.due || (changes.all fun e => s.mustMove.contains e.1 || (decide (5 ≤ gain) && !s.movedLately e.1))

/-- The bytes of a plan: partition, chip and quadrants. -/
def placeBytes (plan : List (PartId × Place)) : List Byte :=
  plan.flatMap fun e => be 1 e.1.val ++ be 1 e.2.chip.val ++ be 1 e.2.kmask.toNat

/-- The rack-wide partition-map turn of a plan that no command asked for. -/
def State.planTurn (s : State) (changes : List (PartId × Option Shape)) : State :=
  let tr : Turn :=
    { ep := .op, session := SessRef.none, op := none, changes := [], before := [], keysBefore := [], shapes := changes,
      epochsBefore := [], laterTurn := [], laterKeys := [], units := [], turned := [], todo := [], turnedParts := [],
      partsBefore := [], lost := [], startOsc := s.osc, placing := [], latches := [] }
  let tr := { tr with epochsBefore := s.epochsOf tr, units := s.unitsFor tr }
  let s := s.logStarted .op SessRef.none 0 tr.units.length
  if tr.units.any (s.unitMisses tr) then s.rollBack tr (tr.units.filter (s.unitMisses tr)) else s.runTurn tr

/-- PLACEMENT_RUN, in the firmware's slice of the lowest chip: a valid plan turns as a rack-wide map change; with none after three more
runs the current map stays and the partitions that need quadrants wait (R245). No placement takes place while the acceptance test runs
(R310), nor while another turn does. -/
def execPlacementRun (t : Nat) (plan : List (PartId × Place)) (costGainPercent : Nat) (s : State) : Out3 :=
  let s := s.tick t
  match s.lowestChip with
  | none => .next s
  | some n =>
    if s.accept.phase ≠ 0 || !s.firmwareSlice n || !s.placementDue || (s.turn.isSome && !s.turnPlacing) then .next s
    else
      let changes := s.planChanges plan
      let took := s.planOk plan && (s.turnPlacing || s.periodicOk changes costGainPercent)
      let s := s.logTumbler n 1 (if took then some (placeBytes plan) else none)
      if !s.planOk plan then .next s.placementFailed
      else
        let s := { s with place := { s.place with fails := 0, due := false, ranAt := s.osc } }
        match s.turn with
        | some tr =>
          let gone := tr.shapes.filter fun e => e.2.isNone
          let all := gone ++ changes ++ (tr.shapes.filter fun e => e.2.isSome && !(changes.any fun x => x.1 = e.1))
          let tr := { tr with shapes := all, placing := [] }
          .next (s.runTurn { tr with epochsBefore := s.epochsOf tr })
        | none => if took && !changes.isEmpty then .next (s.planTurn changes) else .next s

end Sys2Proof.Machine
end

