-- ==== Sys2Proof/Machine/Recovery.lean ====
section
/-! DEFINITION. Detectors, the reset ladder, escalation, counts, lockout and service due (R76, R97, R317 to R325). -/

namespace Sys2Proof.Machine

/-! ### Detectors (R84, R317) -/

/-- PROGRESS_WATCHDOG: detector 2, level 1, while a taken batch makes no progress on a chip. -/
def execProgressWatchdog (t : Nat) (p : PartId) (chip : ChipId) (s : State) : Out3 :=
  let s := s.tick t
  match s.part p with
  | some v =>
    if v.taken.isSome ∧ chip ∈ v.chips then .next (s.fire 2 1 (.part p) (some chip)) else .next s
  | none => .next s

/-- ENGINE_WATCHDOG: detector 3, level 2 of the block. -/
def execEngineWatchdog (t : Nat) (p : PartId) (chip : ChipId) (block : Fin 640) (s : State) : Out3 :=
  let s := s.tick t
  if (s.partQuads p).contains (quadOf chip (blockK block)) then
    .next (s.fire 3 2 (.block p chip block) (some chip) (dumpDetail block.val 0 0 0 0))
  else .next s

/-- An uncorrectable word: the stack counts it, and it stays poisoned until it is written again (R84, R317). -/
def State.poisonWord (s : State) (q : QuadId) (a : Nat) : State :=
  let i := stackOf (quadK q) (a % 2 ^ 36)
  let s := s.modChip (quadChip q) fun c =>
    { c with ecc := Tab.set c.ecc i ((Tab.get c.ecc (0, 0) i).1, sat64 (Tab.get c.ecc (0, 0) i).2 1) }
  if s.poison.contains (a / 32) then s else { s with poison := s.poison ++ [a / 32] }

/-- POISON_CONSUMED: a cell or engine has read an uncorrectable word: the live instances of its chip abort (R182), and detector 4
requests level 1. -/
def execPoisonConsumed (t : Nat) (p : PartId) (addr : Addr) (s : State) : Out3 :=
  let s := s.tick t
  match (s.part p).bind fun v => v.shape.quad? (addrVq addr) with
  | some q =>
    let s := s.poisonWord q (s.phys p addr)
    .next ((s.abortChip p (quadChip q)).fire 4 1 (.part p) (some (quadChip q)) (dumpDetail 0 0 0 addr.toNat 0))
  | none => .next s

/-- A chip detector fires on a chip in service. -/
def State.fireChip (s : State) (detector : Nat) (n : ChipId) : State :=
  if s.chipUp n then s.fire detector 4 (.chip n) (some n) else s

/-- KEEPER_WATCHDOG: detector 5. -/
def execKeeperWatchdog (t : Nat) (chip : ChipId) (s : State) : Out3 := .next ((s.tick t).fireChip 5 chip)

/-- CHIP_POLL_TIMEOUT: detector 6. -/
def execChipPollTimeout (t : Nat) (chip : ChipId) (s : State) : Out3 := .next ((s.tick t).fireChip 6 chip)

/-- HBM_ERROR_RATE: detector 8; the stack has returned 64 uncorrectable words, and goes into the dump as its block. -/
def execHbmErrorRate (t : Nat) (chip : ChipId) (stack : Fin 8) (s : State) : Out3 :=
  let s := s.tick t
  if s.chipUp chip then
    let s := s.modChip chip fun c =>
      { c with ecc := Tab.set c.ecc stack ((Tab.get c.ecc (0, 0) stack).1, max 64 (Tab.get c.ecc (0, 0) stack).2) }
    .next (s.fire 8 4 (.chip chip) (some chip) (dumpDetail stack.val 0 0 0 0))
  else .next s

/-! ### What each level clears (R76, R318) -/

/-- Level 1: queues, backlogs, cell registers, unsent transfers and the batch in flight go; requests with a chunk in the batch
end with it, live instances abort, and the active configuration restarts at its entry. -/
def State.resetContext (s : State) (level : Nat) (p : PartId) : State :=
  match s.part p with
  | none => s
  | some v0 =>
    let s := s.endRequests ((s.openReqs p).filter fun r => (v0.takenChunk r.kw r.tag).isSome) St.resetAborted (some level)
    let s := s.abortPart p
    match s.part p with
    | none => s
    | some v =>
      let ids := v.waves.filterMap Wave.op
      let run := (v.runningWave.map v.cellsOf).getD []
      let s := s.clearCells v
      let s := { s with
        cells := s.cells ++ run.map fun (e : CellId × CellCfg) =>
          (e.1, { CellState.init with active := some e.2, swapped := v.hinges })
        sends := s.sends.filter fun x => x.part ≠ p, landings := s.landings.filter fun x => x.part ≠ p
        deadbolts := s.deadbolts.filter fun d => d.part ≠ p
        ops := s.ops.filter fun (o : Op) => !ids.contains o.id }
      let s := v.chips.foldl (fun s n => s.modChip n fun c =>
        let c := { c with calNext := c.calNext.filter fun e => e.part ≠ p || decide (e.wave ≤ v.hinges) }
        if v.hinges < Tab.get c.calWave 0 p then
          c.takeCal { at_ := s.osc, wave := v.hinges, part := p, entries := (v.runningWave.map fun w => v.calFor w n).getD [] }
        else c) s
      s.setPart p (some { v with taken := none, waves := [], quiesced := false, drainStart := none,
                                 drainRetry := if v.drainStart.isSome then some s.osc else v.drainRetry,
                                 prog := if v.running.isNone && v.prog = .running then .idle else v.prog })

/-- Level 2 clears the block's accumulators and buffer besides. -/
def State.zeroBlock (s : State) (n : ChipId) (b : Fin 640) : State :=
  { s with bufs := s.bufs.filter fun e => e.1 ≠ (n, b), acc := s.acc.filter fun e => e.1 ≠ (n, b) }

/-- An accepted operation on a partition ends RESET_ABORTED, whose body is the level (R73, R76). A waiting turn stays: it turns
after the reset (R357). -/
def State.abortOp (s : State) (p : PartId) (level : Nat) (o : Op) : State :=
  match o.kind with
  | .fill q _ _ _ => if q = p then s.xferEnd o St.resetAborted (be 1 level) else s
  | .copy q _ _ _ => if q = p then s.xferEnd o St.resetAborted (be 1 level) else s
  | .xferOut q _ => if q = p then s.xferEnd o St.resetAborted (be 1 level) else s
  | .xferIn q _ => if q = p then s.xferEnd o St.resetAborted (be 1 level) else s
  | .fetch q h _ _ re _ =>
    if q = p then
      let s := (s.raiseS o.ep o.session Ev.krFetchDone (be 4 h ++ be 2 St.resetAborted ++ be 2 re.length ++ be 1 level)).endOp
        o.id
      match o.ep with
      | .kw k => if (s.kw k).handles.any fun x => x.num = h && x.ended then s.endHandle k h else s
      | .op => s
    else s
  | .progStop q =>
    if q = p then
      let v := (s.part p).bind Part.latest
      (s.raiseS o.ep o.session Ev.progStopped (be 2 ((v.map fun w => w.config.num).getD 0xFFFF) ++ be 2 St.resetAborted ++
        be 1 level)).endOp o.id
    else s
  | .progStart q _ => if q = p then s.endOp o.id else s
  | .pwrState q _ _ => if q = p then s.endOp o.id else s
  | .tmbRun .. => s
  | .reset _ => s
  | .turn => s
  | .request _ => s
  | .lookup => s

/-- A partition's groups are destroyed: their live instances abort, settle and finalise as ever (R172, R182, R183). -/
def State.loseGroups (s : State) (p : PartId) : State :=
  (s.abortPart p).modPart p fun v => ({ v with groups := v.groups.map fun g => { g with dying := true } } : Part).reapGroups

/-- Queue pairs of the keyways bound to a partition enter error (R76). -/
def State.failQps (s : State) (p : PartId) : State :=
  (s.boundKws p).foldl (fun s k =>
    ((s.kw k).qps.filter fun q => !q.error).foldl (fun s q => s.failQp k q.qpn 0) s) s

/-- Handles of a partition's keyways end, and lookups whose reply waits answer a miss (R198). -/
def State.losePins (s : State) (p : PartId) : State :=
  let s := (s.boundKws p).foldl (fun s k => (s.kw k).handles.foldl (fun s h => s.endHandle k h.num) s) s
  { s with lookups := s.lookups.map fun (l : Lookup) => if l.part = some p then { l with found := [] } else l }

/-- Delta bases of a partition's keyways are lost (R219). -/
def State.loseBases (s : State) (p : PartId) : State :=
  (s.boundKws p).foldl (fun s k => s.modKw k fun w => { w with sessions := w.sessions.map dropBase }) s

/-- Level 3: the partition's memory zeroed; programs, calendars, groups, hot tier, handles, delta bases, Tumbler problems and
uncommitted claims lost; requests and operations end RESET_ABORTED (R76, R318). Runs on chips being locked out end UNIT_LOCKED_OUT. -/
def State.resetPartition (s : State) (p : PartId) (level : Nat) (locked : List ChipId) : State :=
  let s := s.endRequests (s.openReqs p) St.resetAborted (some level)
  let s := locked.foldl (fun s n => s.endRuns p (some n) St.lockedOut) s
  let s := (s.endRuns p none St.resetAborted (be 1 level)).freeProblems p none
  let s := s.ops.foldl (fun s o => s.abortOp p level o) s
  let s := (((s.loseGroups p).dropProgram p).loseBases p).losePins p
  let s := s.modPart p fun v => { v with configs := [], staged := none, former := [], prepared := [], hot := [],
                                         alarmArmed := true, quiesced := false }
  let s := { s with kr := { s.kr with dir := s.kr.dir.filter fun b => b.committed || b.by_ ≠ p } }
  let s := ((s.failQps p).loseSessionClass p).stepIfClosed
  s.zeroQuads (s.partQuads p)

/-- RUNNING values of a partition and of its keyways lost at level 4 and above (R340). -/
def State.loseRunning (s : State) (p : PartId) : State :=
  let s := s.loseClass .running fun ix => s.isOf p ix
  s.modPart p fun v => v.changePeriod s.rackNs (s.periodNs p)

/-- The ingest chip of a partition is lost: its keyways' endpoints go (R76). Their requests and operations still end with the
level that follows, and their events stay in the histories. -/
def State.loseIngest (s : State) (p : PartId) (ns : List ChipId) (level : Nat) : State :=
  match s.part p with
  | none => s
  | some v => if ns.contains v.ingestChip then (s.boundKws p).foldl (fun s k => s.loseEndpoint k level) s else s

/-- The partition's lowest-numbered chip in service does its ingest, from a level 4 or 5 of a chip on and from its return on
(R28; 17 Edges). Where it changes, each table gets a second copy (R211). -/
def State.settleIngest (s : State) (p : PartId) : State :=
  match s.part p with
  | none => s
  | some v =>
    let n := s.ingestOf v.shape
    if n = v.ingestChip then s else (s.setPart p (some { v with ingestChip := n })).respare p

/-- Table copies on chips that are cleared go; a table without a copy is lost (R211). -/
def State.loseTables (s : State) (p : PartId) (ns : List ChipId) : State :=
  s.modPart p fun v =>
    let keep := fun (t : TokTable) => t.chips.filter fun n => !ns.contains n
    { v with tables := (v.tables.filter fun t => !(keep t).isEmpty).map fun t => { t with chips := keep t } }

/-- The final values of a chip's port counters in its black box (R161). -/
def State.boxCounters (s : State) (n : ChipId) : State :=
  (List.finRange 8).foldl (fun s p =>
    s.bbox n 0 5 (le 1 p.val ++ (s.link { chip := n, port := p }).counts.flatMap fun c => le 4 c)) s

/-- A chip's own part of level 4 or 5: it passes through LOCKED, or its rails are off; counters of its ports cleared after their
final values are recorded; its throttles end (R97, R161, R318). -/
def State.resetChip (s : State) (n : ChipId) (level : Nat) : State :=
  let s := (s.boxCounters n).setPorts n false
  let s := (List.finRange 8).foldl (fun s p => s.modLink { chip := n, port := p } fun k =>
    { k with counts := List.replicate 7 0, uncTimes := [], stage := none, test := none }) s
  let s := (chipQuads n).foldl (fun s q => s.modQuad q fun x => { x with hbmThrottled := false, powerGate := false }) s
  s.modChip n fun c =>
    { c.requestDivider 4 s.osc with
             power := if level = 5 && !s.chipLocked n then .off else .locked, thermSteps := 0, mtxGate := false, powerDiv := 4,
             failed := if c.tripped.isEmpty then [] else c.failed,
             junctions := if c.tripped.isEmpty then c.retrained.junctions else c.junctions,
             stackTemps := if c.tripped.isEmpty then c.retrained.stackTemps else c.stackTemps,
             cal := [], calWave := [], calNext := [], slice := 0, sliceAt := s.osc, seen := [], prio0 := [],
             lastResetLevel := level, lastResetTime := s.rackNs }

/-- Levels 4 and 5 on chips: level 3 for every partition with a quadrant there, then the chips themselves. -/
def State.resetChips (s : State) (ns : List ChipId) (level : Nat) (locked : List ChipId) (ps : List PartId) : State :=
  let s := ps.foldl (fun s p => (((s.resetPartition p level locked).loseTables p ns).loseRunning p)) s
  ns.foldl (fun s n => s.resetChip n level) s

/-! ### Counts and lockout (R322 to R324) -/

def dayNs : Nat := 86400000000000

/-- Instants of a sliding window that ends now. -/
def inWindow (now span : Nat) (xs : List Nat) : List Nat := xs.filter fun x => decide (now < x + span)

/-- A counted level: chips in 24 h, trays in 7 days; commanded resets are not counted. The number in the window, 0 where the
reset is none. -/
def State.countReset (s : State) (q : ResetReq) : State × Nat :=
  if q.detector = 0 then (s, 0)
  else
    match q.level, q.scope with
    | 4, .chip n =>
      let xs := inWindow s.rackNs dayNs (Tab.get s.rmu.chipCounts [] n) ++ [s.rackNs]
      (s.modRmu fun m => { m with chipCounts := Tab.set m.chipCounts n xs }, xs.length)
    | 5, .tray t =>
      let xs := inWindow s.rackNs (7 * dayNs) (Tab.get s.rmu.trayCounts [] t) ++ [s.rackNs]
      (s.modRmu fun m => { m with trayCounts := Tab.set m.trayCounts t xs }, xs.length)
    | _, _ => (s, 0)

/-- A superseded reset is not counted. -/
def State.uncount (s : State) (r : ResetRun) : State :=
  if r.detector = 0 then s
  else
    match r.level, r.scope with
    | 4, .chip n => s.modRmu fun m => { m with chipCounts := Tab.set m.chipCounts n ((Tab.get m.chipCounts [] n).erase r.startRack) }
    | 5, .tray t => s.modRmu fun m => { m with trayCounts := Tab.set m.trayCounts t ((Tab.get m.trayCounts [] t).erase r.startRack) }
    | _, _ => s

/-- Does the count lock the unit out: a chip's third, a tray's fifth (R323)? -/
def locksOut (level count : Nat) : Bool := (level = 4 && decide (3 ≤ count)) || (level = 5 && decide (5 ≤ count))

/-- Service due: four locked-out chips, or a locked-out tray. It never clears (R324). -/
def State.checkService (s : State) : State :=
  if !s.serviceDue && (decide (4 ≤ (allChips.filter s.chipLocked).length) || !s.lockedTrays.isEmpty) then
    (List.finRange 64).foldl (fun s k => s.raiseK k Ev.serviceDue [1]) { s with serviceDue := true }
  else s

/-- A lockout: for the life of the rack (R323). Partitions on the unit wait for their re-placement (R245, R325). -/
def State.lockOut (s : State) (x : Scope) (count : Nat) : State :=
  let s := match x with
    | .chip n => { s with lockedChips := if s.lockedChips.contains n then s.lockedChips else s.lockedChips ++ [n] }
    | .tray t => { s with lockedTrays := if s.lockedTrays.contains t then s.lockedTrays else s.lockedTrays ++ [t] }
    | _ => s
  let ns := scopeChips x
  let s := ns.foldl (fun s n => (s.modChip n fun c => { c with power := .locked }).setPorts n false) s
  let s := match x with
    | .chip n => s.copyBoxes [n]
    | .tray t => s.modTray t fun y => { y with efuseOpen := true, powered := false }
    | _ => s
  let s := (s.log Lg.unitLockout (scopeUnit x) (le 2 (scopeUnit x).toNat ++ le 4 count)).askPlacement
  let s := (s.scopeParts x).foldl (fun s p => s.modPart p fun v => { v with waiting := true }) s
  s.checkService

/-! ### Starting (R318, R319, R321, R326) -/

/-- RESET to every keyway bound to an affected partition: level, classes lost, the start. -/
def State.raiseReset (s : State) (ps : List PartId) (level : Nat) : State :=
  ps.foldl (fun s p => s.raisePart p Ev.reset ([BitVec.ofNat 8 level, classesLost level] ++ be 8 s.rackNs)) s

/-- The starting Keeper tells the partition's other chips (R318). -/
def State.escalationNotice (s : State) (p : PartId) (n : ChipId) (level : Nat) : State :=
  (((s.part p).map Part.chips).getD []).foldl (fun s d => if d = n then s else s.queuePrio0 n d (.escalation p level)) s

/-- The counter of R330 of a level. -/
def levelCounter (level : Nat) : Nat := if level ≤ 4 then level - 1 else 3

def State.dropOp (s : State) (o : Option Nat) : State :=
  match o with
  | some i => s.endOp i
  | none => s

/-- The block number a program gives a block of its chip (R42, R100). -/
def Part.logicalBlock (v : Part) (n : ChipId) (b : Fin 640) : Nat :=
  ((List.range 640).find? fun l => physBlock v.rot n (v.shape.homeBlock l) = b).getD b.val

/-- The DETAIL of a partition's dump, in the partition's own terms (R36, R326): a block by its logical number, and nothing of a chip's
stacks. -/
def State.partDetail (s : State) (p : PartId) (q : ResetReq) : List Byte :=
  match q.scope with
  | .part _ => q.detail
  | .block o n b =>
    match s.part p with
    | some v => if o = p then dumpDetail (v.logicalBlock n b) 0 0 0 0 else []
    | none => []
  | _ => if q.detail = [] then [] else le 2 0 ++ q.detail.drop 2

/-- A level acts on its whole scope. -/
def State.startReset (s : State) (q : ResetReq) : State :=
  let s := s.log Lg.resetStarted (scopeUnit q.scope) (le 2 (scopeUnit q.scope).toNat ++ le 1 q.level ++ le 1 q.detector)
  if q.level = 6 then s.rackOff.modRmu fun m => { m with commanded := true }
  else
    let ps := s.scopeParts q.scope
    let ns := scopeChips q.scope
    let c := s.countReset q
    let s := c.1
    let locked := if locksOut q.level c.2 then ns else []
    let run : ResetRun := { level := q.level, scope := q.scope, detector := q.detector, chip := q.chip, startOsc := s.osc,
                            startRack := s.rackNs, op := q.op }
    let s := { s with resets := s.resets ++ [run] }
    let s := if 4 ≤ q.level then s.missByReset else s
    let s := match q.scope with
      | .tray t => if (s.tray t).powered then s.trayOff t else s
      | _ => s
    let s := ps.foldl (fun s p => s.dumpPart p q.level q.detector q.chip (s.partDetail p q)) s
    let s := ns.foldl (fun s n => s.dumpChip n q.level q.detector q.detail) s
    let s := ps.foldl (fun s p => s.modPart p fun v => { v with recovery := bump v.recovery (levelCounter q.level) 1 }) s
    let s := match q.level, ps, q.chip with
      | 1, p :: _, some n | 2, p :: _, some n | 3, p :: _, some n => s.escalationNotice p n q.level
      | _, _, _ => s
    let s := if 4 ≤ q.level then ps.foldl (fun s p => s.loseIngest p ns q.level) s else s
    let s := s.raiseReset ps q.level
    let s := match q.level, q.scope with
      | 1, _ => ps.foldl (State.resetContext · 1) s
      | 2, .block _ n b => (ps.foldl (State.resetContext · 2) s).zeroBlock n b
      | 2, _ => ps.foldl (State.resetContext · 2) s
      | 3, _ => ps.foldl (fun s p => s.resetPartition p 3 []) s
      | _, _ => s.resetChips ns q.level locked ps
    let s := if 4 ≤ q.level ∧ locked = [] then ps.foldl State.settleIngest s else s
    if locksOut q.level c.2 then
      ({ s with resets := s.resets.filter fun r => r.scope ≠ q.scope }.lockOut q.scope c.2).dropOp q.op
    else s

/-! ### Absorbing, superseding, waiting (R321) -/

/-- Does a running reset cover a request? A level 2 covers another only on its own block. -/
def State.covers (s : State) (r : ResetRun) (q : ResetReq) : Bool :=
  decide (q.level ≤ r.level) && (s.scopeQuads q.scope).all (s.scopeQuads r.scope).contains &&
    (q.level ≠ 2 || r.level ≠ 2 || r.scope = q.scope)

/-- Does a request supersede a running reset it meets: a higher level, or the same level on a scope that contains it? -/
def State.supersedes (s : State) (q : ResetReq) (r : ResetRun) : Bool :=
  decide (r.level < q.level) ||
    (q.level = r.level && q.level ≠ 2 && (s.scopeQuads r.scope).all (s.scopeQuads q.scope).contains)

/-- The resets that share a quadrant with a request. -/
def State.met (s : State) (q : ResetReq) : List ResetRun :=
  s.resets.filter fun r => (s.scopeQuads r.scope).any (s.scopeQuads q.scope).contains

/-- The unit of a request is locked out, or off with its tray, or gone: nothing is left to reset. -/
def State.moot (s : State) (q : ResetReq) : Bool :=
  match q.scope with
  | .chip n => s.chipLocked n || (s.chip n).power = .off
  | .tray t => s.lockedTrays.contains t
  | .part p => (s.part p).isNone
  | .block p _ _ => (s.part p).isNone
  | .rack => false

/-- May a request be taken now? -/
def State.takeable (s : State) (q : ResetReq) : Bool :=
  s.moot q || s.resets.any (fun r => s.covers r q) || (s.met q).all (s.supersedes q)

/-- RESET_ABSORBED: unit, level absorbed or superseded, level in force. -/
def State.logAbsorbed (s : State) (x : Scope) (level inForce : Nat) : State :=
  s.log Lg.resetAbsorbed (scopeUnit x) (le 2 (scopeUnit x).toNat ++ le 1 level ++ le 1 inForce)

/-- A request absorbed, or started over those it supersedes; one that cannot start waits. -/
def State.takeRequest (s : State) (q : ResetReq) : State :=
  match s.resets.find? fun r => s.covers r q with
  | some r => (s.logAbsorbed q.scope q.level r.level).dropOp q.op
  | none =>
    let met := s.met q
    if s.moot q then s.dropOp q.op
    else if met.all (s.supersedes q) then
      let s := met.foldl (fun s r => ((s.uncount r).logAbsorbed r.scope r.level q.level).dropOp r.op) s
      ({ s with resets := s.resets.filter fun r => !met.contains r }).startReset q
    else { s with resetReqs := s.resetReqs ++ [q] }

/-! ### Escalation (R320) -/

/-- The lowest-numbered chip of a scope. -/
def State.lowestOf (s : State) (x : Scope) : ChipId := ((s.scopeQuads x).map quadChip).foldl min ((s.scopeQuads x).headD 0 |> quadChip)

/-- The level that follows a failed one: its level and scope; none after level 5, which is retried (R320). `named` is the block a
detector has named. -/
def State.nextLevel (s : State) (level : Nat) (x : Scope) (chip : Option ChipId) (named : Option Scope) : Option (Nat × Scope) :=
  match level, x with
  | 1, .part p =>
    match named with
    | some (.block q n b) => if q = p then some (2, .block p n b) else some (3, .part p)
    | _ => some (3, .part p)
  | 2, .block p _ _ => some (3, .part p)
  | 3, .part p => some (4, .chip (chip.getD (s.lowestOf (.part p))))
  | 4, .chip n => some (5, .tray (trayOf n))
  | _, _ => none

/-- A level has failed (cause 0 deadline, 1 recurrence, 2 self-test): counted and logged, and the next one follows at once; a
level 5 is retried after 60 s. -/
def State.failLevel (s : State) (level cause : Nat) (x : Scope) (chip : Option ChipId) (named : Option Scope) : State :=
  let s := s.log Lg.resetFailed (scopeUnit x) (le 2 (scopeUnit x).toNat ++ le 1 level ++ le 1 cause)
  let s := (s.scopeParts x).foldl (fun s p => s.modPart p fun v => { v with recovery := bump v.recovery 4 1 }) s
  match s.nextLevel level x chip named with
  | some (l, y) =>
    s.takeRequest { level := l, scope := y, detector := 10, chip := chip, op := none, firedAt := s.osc, detail := [] }
  | none =>
    match x with
    | .tray t => { s with retry5 := s.retry5.filter (fun e => e.1 ≠ t) ++ [(t, s.osc)] }
    | _ => s

/-- A detector, and not a command, an escalation or a dump. -/
def isDetector (d : Nat) : Bool := d ≠ 0 && d ≠ 10 && d ≠ 12

/-- The completed level that a detector's request shows to have failed: it fired on a unit inside its scope within the
window. -/
def State.recurs (s : State) (q : ResetReq) : Option Window :=
  if isDetector q.detector then
    s.windows.find? fun w => decide (q.firedAt ≤ w.endOsc) &&
      (s.unitQuads q.scope q.chip).any (s.scopeQuads w.scope).contains
  else none

/-- The lowest-numbered chip on which detectors in the queue have fired inside a scope. -/
def State.detecting (s : State) (x : Scope) (q : ResetReq) : Option ChipId :=
  let ns := (q :: s.resetReqs).filterMap fun r =>
    if isDetector r.detector && (s.unitQuads r.scope r.chip).any (s.scopeQuads x).contains then r.chip else none
  match ns with
  | n :: rest => some (rest.foldl min n)
  | [] => none

/-- RESET_STARTED: the first request that can be taken is. -/
def execResetStarted (t : Nat) (s : State) : Out3 :=
  let s := s.tick t
  match s.resetReqs.find? s.takeable with
  | none => .next s
  | some q =>
    let s := { s with resetReqs := s.resetReqs.erase q }
    match s.recurs q with
    | none => .next (s.takeRequest q)
    | some w =>
      let chip := s.detecting w.scope q
      let next := s.nextLevel w.level w.scope chip (some q.scope)
      let s := { s with windows := s.windows.erase w }
      let s := s.failLevel w.level 1 w.scope chip (some q.scope)
      match next with
      | some (l, _) => .next (if l < q.level then s.takeRequest q else s)
      | none => .next s

/-! ### Completion (R319, R320) -/

/-- Deadlines of levels 1 to 5 in ns. -/
def resetDeadlineNs (level : Nat) : Nat :=
  if level ≤ 1 then 200000 else if level = 2 then 2000000 else if level = 3 then 500000000
  else if level = 4 then 30000000000 else 120000000000

/-- Links retrained by a level 4 or 5: a spared lane may be tested again, at once, and rejoins when it passes (R167); a link held for
its three quarantines is free (R163). -/
def State.retrain (s : State) (n : ChipId) : State :=
  (List.finRange 8).foldl (fun s p => s.modSides { chip := n, port := p } fun k =>
    { k with retrained := k.spared ≠ 0, testHeldUntil := if k.spared ≠ 0 then s.osc else k.testHeldUntil,
             quarantined := k.quarantined && !k.stuck, stuck := false }) s

/-- Every unit of the scope back in service. -/
def State.backInService (s : State) (r : ResetRun) : State :=
  let s := match r.scope with
    | .tray t => if s.heldOut (unitTray t) then s else s.modTray t fun x => { x with powered := true, efuseOpen := false }
    | _ => s
  let ns := (scopeChips r.scope).filter fun n => !s.chipLocked n && !s.chipHeldOut n
  let s := ns.foldl (fun s n => s.modChip n fun c => { c with power := .up }) s
  let s := ns.foldl (fun s n => (s.setPorts n true).retrain n) s
  if ns = [] then s else (s.scopeParts r.scope).foldl (fun s p => if (s.part p).any Part.waiting then s else s.settleIngest p) s

/-- A running reset fails. -/
def State.failRun (s : State) (r : ResetRun) (cause : Nat) : State :=
  let s := { s with resets := s.resets.filter fun x => x.scope ≠ r.scope }
  (s.dropOp r.op).failLevel r.level cause r.scope r.chip none

/-- RESET_DONE: complete within its deadline and with its self-tests passed; the window of R320 opens. An OP_RESET completes here, and
a fence that waits for it with it: a DESIGN CHOICE (log 153). -/
def execResetDone (t : Nat) (scope : Scope) (selfTestOk : Bool) (s : State) : Out3 :=
  let s := s.tick t
  match s.resets.find? fun r => r.scope = scope with
  | none => .next s
  | some r =>
    if s.resetHeld r then .next s
    else if r.startOsc + resetDeadlineNs r.level < s.osc then .next (s.failRun r 0)
    else if !selfTestOk then .next (s.failRun r 2)
    else
      let s := { s with resets := s.resets.filter fun x => x.scope ≠ scope }
      let s := s.backInService r
      let s := s.log Lg.resetDone (scopeUnit scope)
        (le 2 (scopeUnit scope).toNat ++ le 1 r.level ++ le 4 ((s.osc - r.startOsc) / 1000))
      let w : Window := { level := r.level, scope := scope, chip := r.chip, endOsc := s.osc + s.rackSet 0x0902#16 * 1000000 }
      let s := { s with windows := s.windows.filter (fun (x : Window) => x.scope ≠ scope) ++ [w] }
      .next (s.dropOp r.op).settleTurns

/-- RESET_DEADLINE: a level not complete by its deadline fails. -/
def execResetDeadline (t : Nat) (scope : Scope) (s : State) : Out3 :=
  let s := s.tick t
  match s.resets.find? fun r => r.scope = scope with
  | none => .next s
  | some r =>
    if !s.resetHeld r && decide (r.startOsc + resetDeadlineNs r.level ≤ s.osc) then .next (s.failRun r 0) else .next s

/-- LEVEL5_RETRY: 60 s after a failed level 5. -/
def execLevel5Retry (t : Nat) (tray : TrayId) (s : State) : Out3 :=
  let s := s.tick t
  match s.retry5.find? fun e => e.1 = tray with
  | none => .next s
  | some e =>
    if e.2 + 60000000000 ≤ s.osc then
      let s := { s with retry5 := s.retry5.filter fun x => x.1 ≠ tray }
      .next (s.takeRequest { level := 5, scope := .tray tray, detector := 10, chip := none, op := none, firedAt := s.osc,
                             detail := [] })
    else .next s

/-- ESCALATE_WINDOW_EXPIRY: the window has passed and no request that fired inside it waits: the level has succeeded. -/
def execEscalateWindowExpiry (t : Nat) (scope : Scope) (s : State) : Out3 :=
  let s := s.tick t
  let past := fun (w : Window) => w.scope = scope && decide (w.endOsc < s.osc) &&
    !(s.resetReqs.any fun q => s.recurs q = some w)
  .next { s with windows := s.windows.filter fun w => !past w }

/-! ### Switch trays (R325) -/

/-- SWITCH_TRAY_FAILURE: the tray leaves service with its uplinks, host ports and vault content. -/
def execSwitchTrayFailure (t : Nat) (sw : SwId) (s : State) : Out3 :=
  let s := s.tick t
  if (s.swt sw).up then .next (s.switchDown sw) else .next s

end Sys2Proof.Machine
end

