-- ==== Sys2Proof/Machine/Diag.lean ====
section
/-! DEFINITION. Diagnostics: counter classes (R84, R124, R169, R207, R227, R247, R330, R370), event histories (R375), DIAG_ECHO and
dumps (R326, R327). -/

namespace Sys2Proof.Machine

/-! ### Counters (R370) -/

def classPart : List Nat := [0x0006, 0x0007, 0x000A, 0x000C]
def classKw : List Nat := [0x0009, 0x000B]

/-- ECC counts of a stack: corrected, uncorrectable (R84). -/
def State.eccOf (s : State) (n : ChipId) (i : Fin 8) : List Nat :=
  let e := Tab.get (s.chip n).ecc (0, 0) i
  [e.1, e.2]

/-- The words a stack has corrected since its counts were read last: no command reports them, so a free number each time (R84; log
133). -/
def State.corrected (s : State) (n : ChipId) (i : Fin 8) : State :=
  (s.modChip n fun c =>
    let e := Tab.get c.ecc (0, 0) i
    { c with ecc := Tab.set c.ecc i (sat64 e.1 (Config.freeReading s.fresh), e.2) }).useFresh 1

/-- The stacks of quadrants, in order, each quadrant's two. -/
def stacksOf (qs : List QuadId) : List (ChipId × Fin 8) :=
  qs.flatMap fun q => [(quadChip q, stackOf (quadK q) 0), (quadChip q, stackOf (quadK q) 256)]

def State.correctedAll (s : State) (xs : List (ChipId × Fin 8)) : State := xs.foldl (fun s x => s.corrected x.1 x.2) s

/-- Each virtual quadrant in order, and within it its two stacks. -/
def State.partEcc (s : State) (v : Part) : List Nat :=
  (stacksOf v.shape.quads).flatMap fun x => s.eccOf x.1 x.2

/-- One link direction: seven counters, the spared-lane mask, the BER of each lane (R169). -/
def Link.values (k : Link) : List Nat := k.counts ++ [k.spared.toNat] ++ k.bers

def State.linkValues (s : State) (n : ChipId) : List Nat :=
  (List.finRange 8).flatMap fun p => (s.link { chip := n, port := p }).values

/-- The counters of a partition class. -/
def Part.counters (v : Part) (cls : Nat) : List Nat :=
  if cls = 0x0006 then v.cells else if cls = 0x0007 then v.fabric else if cls = 0x000A then v.ingest else v.recovery

/-- The counters of a keyway class. -/
def Keyway.counters (w : Keyway) (cls : Nat) : List Nat := if cls = 0x0009 then w.krCount else w.tmbCount

/-- The reply: count 2, values 8 each. -/
def counterBody (xs : List Nat) : List Byte := be 2 xs.length ++ xs.flatMap fun x => be 8 x

/-- Is a chip under a reset? -/
def State.resettingChip (s : State) (n : ChipId) : Bool := s.resets.any fun r => (scopeChips r.scope).contains n

/-- A chip class on the operator channel. -/
def State.chipCounters (s : State) (cls unit : Nat) : Res :=
  if h : unit < 64 then
    let n : ChipId := ⟨unit, h⟩
    if s.chipLocked n then Res.fail s St.lockedOut
    else if s.resettingChip n then Res.fail s St.resetting
    else if cls = 8 then Res.ok s (counterBody (s.linkValues n))
    else
      let s := s.correctedAll (stacksOf (chipQuads n))
      Res.ok s (counterBody ((List.finRange 8).flatMap (s.eccOf n)))
  else Res.fail s St.badParameter

def opDiagCounters (c : Ctx) (cls unit : BitVec 16) (s : State) : Res :=
  let n := cls.toNat
  let known := n = 5 || n = 8 || classPart.contains n || classKw.contains n
  let chipClass := c.ep = .op && (n = 5 || n = 8)
  if !known then Res.fail s St.badParameter
  else if chipClass then
    if c.h.keyway = 0xFF#8 then s.chipCounters n unit.toNat else Res.fail s St.badParameter
  else if unit ≠ 0 ∨ n = 8 then Res.fail s St.badParameter
  else
    match c.kw? with
    | none => Res.fail s St.badParameter
    | some k =>
      if classKw.contains n then Res.ok s (counterBody ((s.kw k).counters n))
      else
        match (s.kwPart k).bind s.part with
        | none => Res.fail s (if c.ep = .op then St.badParameter else St.wardFault)
        | some v =>
          if n = 5 then
            let s := s.correctedAll (stacksOf v.shape.quads)
            Res.ok s (counterBody (s.partEcc v))
          else Res.ok s (counterBody (v.counters n))

/-! ### Event histories (R375) -/

/-- An event as DIAG_EVENTS_READ returns it: its header of R56 as first sent, then its body. -/
def Event.bytes (e : Event) (keyway : Nat) : List Byte :=
  be 2 0x4B54 ++ [1, 2] ++ be 1 keyway ++ be 1 e.qual ++ be 2 e.code ++ be 4 e.seq.toNat ++ be 4 e.epoch.toNat ++
    be 2 e.session ++ be 2 0 ++ be 2 e.body.length ++ be 2 0 ++ be 8 e.rtime ++ e.body

/-- As many whole entries as fit in n bytes. -/
def takeFitting : Nat → List (List Byte) → List Byte
  | _, [] => []
  | n, b :: bs => if b.length ≤ n then b ++ takeFitting (n - b.length) bs else []

/-- The held events from a SEQ on. -/
def Keyway.eventsFrom (w : Keyway) (from_ : BitVec 32) : List Event :=
  let ahead := (from_ - w.evSeq).toNat
  if 1 ≤ ahead ∧ ahead ≤ 2 ^ 31 then [] else w.hist.filter fun e => seqLe from_ e.seq

def opDiagEventsRead (c : Ctx) (from_ : BitVec 32) (count : BitVec 16) (s : State) : Res :=
  if count = 0 then Res.fail s St.badParameter
  else
    let e : Ep := match c.kw? with
      | some k => .kw k
      | none => .op
    let evs := ((s.endp e).eventsFrom from_).take count.toNat
    Res.ok s (takeFitting 8192 (evs.map fun x => x.bytes (epKeyway e)))

def opDiagEcho (_ : Ctx) (body : List Byte) (s : State) : Res := Res.ok s body

/-! ### Dumps (R326, R327) -/

/-- A dump's bytes: its header with its CRC, then its body. -/
def Dump.bytes (d : Dump) : List Byte :=
  let head := le 2 0x4450 ++ [1] ++ le 1 d.kind ++ le 1 d.level ++ le 1 d.detector ++ le 2 d.unit.toNat ++ le 8 d.rtime ++
    le 8 d.length ++ le 2 (if d.kind = 0 then d.partNum else d.rackNum) ++ [0, 0] ++ le 4 d.epoch.toNat ++ le 4 d.cut.toNat ++
    le 2 d.config ++ padTo 22 d.detail
  head ++ le 4 (crc32c head).toNat ++ d.body

/-- The dumps a keyway may read: those of its partition taken while it was bound. -/
def State.dumpsOf (s : State) (k : KwId) : List Dump :=
  match (s.binding k).1 with
  | some p => s.rmu.dumps.filter fun d => d.part = some p && d.bound.contains k
  | none => []

/-- The dump named: a keyway's by its partition's number, 0 the most recent; the rack's by its own. -/
def State.dump? (s : State) (c : Ctx) (n : Nat) : Option Dump :=
  match c.kw? with
  | some k => if n = 0 then (s.dumpsOf k).getLast? else (s.dumpsOf k).find? fun d => d.partNum = n
  | none => s.rmu.dumps.find? fun d => d.rackNum = n

def opDiagDumpRead (c : Ctx) (dump : BitVec 16) (offset : BitVec 64) (len : BitVec 32) (s : State) : Res :=
  match s.dump? c dump.toNat with
  | none => Res.fail s St.notFound
  | some d =>
    if d.length ≤ offset.toNat then Res.fail s St.badParameter
    else Res.ok s (field d.bytes offset.toNat (min len.toNat (d.length - offset.toNat)))

end Sys2Proof.Machine
end

