-- ==== Sys2Proof/Machine/Operator.lean ====
section
/-! DEFINITION. The operator's own commands (R76, R188 to R190, R254, R288, R299, R324, R329) and PWR_READ (R53). -/

namespace Sys2Proof.Machine

/-- OP_KEYWAY_RESET: KEYWAY names the target. -/
def opOpKeywayReset (c : Ctx) (s : State) : Res :=
  match c.kw? with
  | some k => Res.ok (s.keywayReset k)
  | none => Res.fail s St.badParameter

/-- The target of an OP_RESET, or the status that refuses it (R329). -/
def State.resetTarget (s : State) (c : Ctx) (unit : BitVec 16) (level : Nat) : Except Nat Scope :=
  let type := unit.toNat / 4096
  let ix := unit.toNat % 4096
  match level with
  | 1 | 3 =>
    match c.part? s with
    | some p => .ok (.part p)
    | none => .error St.badParameter
  | 4 =>
    if h : type = 2 ∧ ix < 64 then
      if s.chipLocked ⟨ix, h.2⟩ then .error St.lockedOut else .ok (.chip ⟨ix, h.2⟩)
    else .error St.badParameter
  | 5 =>
    if h : type = 1 ∧ ix < 16 then
      if s.lockedTrays.contains ⟨ix, h.2⟩ then .error St.lockedOut else .ok (.tray ⟨ix, h.2⟩)
    else .error St.badParameter
  | 6 => if unit = unitRack ∧ c.h.keyway = 0xFF#8 then .ok .rack else .error St.badParameter
  | _ => .error St.badParameter

def opOpReset (c : Ctx) (unit : BitVec 16) (level : BitVec 8) (s : State) : Res :=
  match s.resetTarget c unit level.toNat with
  | .error st => Res.fail s st
  | .ok x =>
    let id := s.nextOp
    let s := s.addOp c.ep c.session c.h.seq c.epoch (.reset level.toNat)
    Res.accepted (s.fire 0 level.toNat x none [] (some id))

/-- OP_CHANNEL_CLEAR: a LATCHED or FAULT channel goes to OFF and starts its soft start; the building contact may close (R254,
R280). -/
def opOpChannelClear (_ : Ctx) (shelf ch : BitVec 8) (s : State) : Res :=
  if h : shelf.toNat < 4 ∧ ch.toNat < 6 then
    let c : ChanId := { shelf := ⟨shelf.toNat, h.1⟩, ch := ⟨ch.toNat, h.2⟩ }
    if spareChannel c then Res.fail s St.badParameter
    else
      let st := (s.channel c).st
      if st = .latched ∨ st = .fault then
        let s := s.modChan c fun x => { x with st := .off, cause := none }
        let s := s.logShelf Lg.channelCleared (unitChan c) (le 2 (unitChan c).toNat ++ le 1 (chanCode st))
        Res.ok (s.softStart c).closeContact
      else Res.ok s
  else Res.fail s St.badParameter

/-- A team index is free: no key of it lives, and no block of its last one is left (R189, R190). -/
def State.freeIndex (s : State) (i : Fin 128) : Bool :=
  decide (64 ≤ i.val) && !(s.shareKey i).live && !(s.kr.dir.any fun b => b.idx = i) &&
    !(s.partIds.any fun p => (s.part p).any fun v => v.hot.any fun b => b.idx = i)

/-- OP_SHARE_KEY_CREATE: the lowest free team index at its next generation; it turns as a rack-wide change (R188, R189, R352). -/
def opOpShareKeyCreate (c : Ctx) (label : BitVec 128) (s : State) : Res :=
  match (List.finRange 128).find? s.freeIndex with
  | none => Res.fail s St.noResource
  | some i =>
    let ref := shareRef i ((s.shareKey i).gen + 1)
    let r := s.turnOf c [.keyCreate i label] []
    if r.status = St.ok then { r with body := be 4 ref.toNat } else r

/-- OP_SHARE_KEY_DELETE (R190, R352). -/
def opOpShareKeyDelete (c : Ctx) (ref : BitVec 32) (s : State) : Res :=
  match s.liveRef ref with
  | none => Res.fail s St.badParameter
  | some i =>
    let r := s.turnOf c [.keyDelete i] []
    if r.status = St.ok then { r with body := [] } else r

/-- OP_TIME_STEP: the remaining offset applied at once; a negative step first resets every open keyway, with FORCE (R299). -/
def opOpTimeStep (c : Ctx) (s : State) : Res :=
  let theta := s.thetaNs
  if theta.natAbs ≤ 1000 then Res.ok s (beInt 8 0)
  else if theta < 0 ∧ s.anyOpen = true ∧ c.h.force = false then Res.fail s St.busy
  else
    let s := if theta < 0 then ((List.finRange 64).filter fun k => s.kwOpen k).foldl State.keywayReset s else s
    Res.ok (if s.clk.theta.isSome then s.stepTime s.thetaNs 1 else s) (beInt 8 theta)

/-- OP_LOG_READ: 1 to 16 records in LSEQ order (R288). -/
def opOpLogRead (_ : Ctx) (from_ : BitVec 64) (count : BitVec 16) (s : State) : Res :=
  if 1 ≤ count.toNat ∧ count.toNat ≤ 16 then
    Res.ok s (((s.rmu.log.filter fun r => decide (from_.toNat ≤ r.lseq)).take count.toNat).flatMap LogRec.bytes)
  else Res.fail s St.badParameter

/-- A mask of numbers. -/
def maskOf (xs : List Nat) : Nat := (xs.map fun i => 2 ^ i).sum

/-- OP_SERVICE_STATUS: service due, locked chips, locked trays (R323, R324). -/
def opOpServiceStatus (_ : Ctx) (s : State) : Res :=
  Res.ok s (be 1 (if s.serviceDue then 1 else 0) ++ be 8 (maskOf ((allChips.filter s.chipLocked).map Fin.val)) ++
    be 2 (maskOf (((List.finRange 16).filter s.lockedTrays.contains).map Fin.val)))

/-- PWR_READ: the partition's watts (R85), and the rack figures of R53: input power in units of 0.5 kW, rounded down, and utilisation,
both of the last whole second, and the service-due state (log 39). -/
def opPwrRead (c : Ctx) (s : State) : Res :=
  match c.part? s with
  | none => Res.fail s St.wardFault
  | some p =>
    Res.ok s (be 4 (s.wattsOf (s.partQuads p)) ++ be 2 (s.meter.watts / 500) ++
      be 1 (Config.utilisation s.meter.sec % 101) ++ be 1 (if s.serviceDue then 1 else 0))

end Sys2Proof.Machine
end

