-- ==== Sys2Proof/Machine/Rmu.lean ====
section
/-! DEFINITION. Supervision, identity memories and modules, the log's commits, consoles, the management processor and Redfish
(R283 to R293, R302, R307, R334). -/

namespace Sys2Proof.Machine

/-! ### Supervision (R283, R284) -/

/-- UNIT_SILENT: logged with the last poll answered; the unit runs on. -/
def execUnitSilent (t : Nat) (unit : BitVec 16) (lastPoll : Nat) (s : State) : Out3 :=
  .next ((s.tick t).log Lg.unitSilent unit (le 2 unit.toNat ++ le 8 lastPoll))

/-- CONTROLLER_RESTART: logged; no power, no channel and no latch changes. -/
def execControllerRestart (t : Nat) (unit : BitVec 16) (cause : Byte) (s : State) : Out3 :=
  .next ((s.tick t).log Lg.controllerRestart unit (le 2 unit.toNat ++ [cause]))

/-! ### Harness ends (R285, R307) -/

/-- The tray whose sockets a harness end's four links use, the port code there; for the switch end of an uplink harness the
tray's own links. -/
def harnessEnd (h : Fin 64) (endA : Bool) : TrayId × PortId :=
  let n := h.val
  if n < 16 then
    if endA then (⟨n % 16, by omega⟩, 2) else (⟨4 * (n / 4 % 4) + (n + 1) % 4, by omega⟩, 3)
  else if n < 32 then
    if endA then (⟨((n - 16) / 4 + 4 * (n % 4)) % 16, by omega⟩, 4)
    else (⟨((n - 16) / 4 + 4 * ((n + 1) % 4)) % 16, by omega⟩, 5)
  else if n < 48 then (⟨(n - 32) % 16, by omega⟩, 6)
  else (⟨(n - 48) % 16, by omega⟩, 7)

/-- The links of a harness end. -/
def harnessLinks (h : Fin 64) (endA : Bool) : List LinkId :=
  let e := harnessEnd h endA
  (trayChips e.1).map fun n => { chip := n, port := e.2 }

/-- The socket an end is plugged into: unit and port. -/
def harnessSocket (h : Fin 64) (endA : Bool) : BitVec 16 × Nat :=
  let x := harnessExpect h.val
  if endA then (x.2.1, x.2.2.1) else (x.2.2.2.1, x.2.2.2.2)

/-- The first check of R285 that an identity memory fails, as a byte offset; 0xFE unreadable. The CRC is checked first, then the
fields in their order. -/
def cableFault (h : Fin 64) (endA : Bool) (c : CableId) : Option Nat :=
  let x := harnessExpect h.val
  if !c.readable then some 0xFE
  else if !c.crcOk then some 252
  else if c.kind.toNat ≠ x.1 then some 3
  else if c.end_.toNat ≠ (if endA then 0 else 1) then some 4
  else if c.harness.toNat ≠ h.val then some 5
  else if c.aUnit ≠ x.2.1 then some 6
  else if c.aPort.toNat ≠ x.2.2.1 then some 8
  else if c.bUnit ≠ x.2.2.2.1 then some 9
  else if c.bPort.toNat ≠ x.2.2.2.2 then some 11
  else if !c.serialOk then some 14
  else if !c.rackOk then some 30
  else none

/-- What a link's far end has to name, seen from an end of its harness (R15, R17). -/
def farExpect (h : Fin 64) (endA : Bool) (l : LinkId) : BitVec 16 × Nat :=
  if h.val < 32 then (unitChip (reverseLink l).chip, (reverseLink l).port.val)
  else
    let u := l.port.val - 6
    if endA then (unitSwitch (uplinkSwitch l.chip u), uplinkPort l.chip u) else (unitChip l.chip, l.port.val)

/-- IDENTITY_MISMATCH: unit, socket, failing field. -/
def State.logMismatch (s : State) (h : Fin 64) (endA : Bool) (field : Nat) : State :=
  let k := harnessSocket h endA
  s.log Lg.identityMismatch (unitHarness h.val)
    (le 2 (unitHarness h.val).toNat ++ le 2 k.1.toNat ++ le 1 k.2 ++ le 1 field)

/-- PRESENCE_CHANGE: the end's memory is read again and the far-end check repeated; the end's links enter or leave service. -/
def execPresenceChange (t : Nat) (harness : Fin 64) (endA : Bool) (id : CableId) (far : List (BitVec 16 × Nat × Nat)) (s : State) :
    Out3 :=
  let s := s.tick t
  let ls := harnessLinks harness endA
  match cableFault harness endA id with
  | some f =>
    let s := { s with rejectedEnds := s.rejectedEnds.filter (fun e => e ≠ (harness, endA)) ++ [(harness, endA)] }
    .next ((ls.foldl (fun s l => s.setLink l false) s).logMismatch harness endA f)
  | none =>
    let s := { s with rejectedEnds := s.rejectedEnds.filter fun e => e ≠ (harness, endA) }
    .next ((ls.zipIdx).foldl (fun s e =>
      let x := far[e.2]?
      let ok := id.laneOrderOk && x.map (fun y => (y.1, y.2.1)) = some (farExpect harness endA e.1)
      let ns := (x.map fun y => y.2.2).getD 0
      let s := (s.modSides e.1 fun k => { k with farBad := !ok }).train e.1 ns ns
      let s := s.setLink e.1 (s.linkMay e.1)
      if ok then s else s.logMismatch harness endA 0xFF) s)

/-! ### Host-port modules (R286, R302) -/

/-- MODULE_INSERTED: read, reported, and up only where it is qualified. -/
def execModuleInserted (t : Nat) (p : HostPortId) (m : ModuleId) (s : State) : Out3 :=
  let s := s.tick t
  let s := (s.modPort p fun x => { x with module := some m }).portUp p
  .next (s.log Lg.moduleInserted (unitHostPort p)
    (le 2 (unitHostPort p).toNat ++ [m.identifier] ++ le 1 (if moduleQualified m then 1 else 0)))

/-- MODULE_REMOVED. -/
def execModuleRemoved (t : Nat) (p : HostPortId) (s : State) : Out3 :=
  let s := s.tick t
  let s := s.modPort p fun x => { x with module := none, up := false, queue := [] }
  .next (s.log Lg.moduleRemoved (unitHostPort p) (le 2 (unitHostPort p).toNat))

/-! ### Commits (R288) -/

/-- The instant of a record's after set, in ns of rack time. -/
def LogRec.due (r : LogRec) : Int := (r.rtime : Int) + r.tAfter * 1000

/-- The record whose after set is taken first; of equals, the oldest. -/
def firstDue : List LogRec → Option LogRec
  | [] => none
  | r :: rs =>
    match firstDue rs with
    | none => some r
    | some x => if r.due ≤ x.due then some r else some x

/-- LOG_RECORD_COMMIT: the record whose after instant has come is committed under the next LSEQ, with its after set or without it;
while the RMU is absent its controllers keep it. -/
def execLogRecordCommit (t : Nat) (after : Option (List (BitVec 128))) (s : State) : Out3 :=
  let s := s.tick t
  match firstDue s.rmu.logWait with
  | none => .next s
  | some r =>
    if r.due ≤ (s.rackNs : Int) ∧ s.rmu.up = true ∧ s.rmu.absentUntil ≤ s.osc then
      .next ((s.modRmu fun m => { m with logWait := m.logWait.erase r }).commitRec (r.close after))
    else .next s

/-! ### Consoles (R292, R293) -/

/-- The other firmware copy runs (R314). -/
def State.switchFirmware (s : State) : State :=
  let old := Config.firmware s.rmu.fwB
  let new := Config.firmware (!s.rmu.fwB)
  (s.modRmu fun m => { m with fwB := !m.fwB }).log Lg.firmwareActivated unitRmu (le 8 old.toNat ++ le 8 new.toNat)

/-- UART_CHARACTER_RECEIVED: a line low at samples 7 and 8, or earlier, is a framing error; "r" in the first 3 s of the RMU's boot
selects the previous firmware copy, and every other character is ignored. -/
def execUartCharacterReceived (t : Nat) (unit : BitVec 16) (ch : Byte) (firstLow : Option (Fin 16)) (s : State) : Out3 :=
  let s := s.tick t
  let framing := match firstLow with
    | some i => decide (i.val + 1 ≤ 8)
    | none => false
  if framing then
    .next (s.modRmu fun m => { m with uartErrors := Tab.set m.uartErrors unit (Tab.get m.uartErrors 0 unit + 1) })
  else
    let s := s.modRmu fun m => { m with uartChars := Tab.set m.uartChars unit (Tab.get m.uartChars [] unit ++ [ch]) }
    if unit = unitRmu ∧ ch = 0x72#8 ∧ s.rmu.up = true ∧ s.osc ≤ s.rmu.bootAt + 3000000000 ∧ s.rmu.recoverySelected = false then
      .next (s.switchFirmware.modRmu fun m => { m with recoverySelected := true })
    else .next s

/-! ### The management processor (R334, ch. 15 Edges) -/

/-- RMU_PROCESSOR_RESTART: Redfish and the operator channel are absent for up to 30 s; the mirror is rebuilt with the same running
values. -/
def execRmuProcessorRestart (t : Nat) (s : State) : Out3 :=
  let s := s.tick t
  .next ((s.modRmu fun m => { m with absentUntil := s.osc + Config.freeReading s.fresh % 30000000001 }).useFresh 1)

/-- Is the management side of the RMU there? -/
def State.managed (s : State) : Bool := s.ready && s.rmu.up && decide (s.rmu.absentUntil ≤ s.osc)

/-! ### Redfish (R290) -/

def redfishUnits : List String :=
  ["T00", "T01", "T02", "T03", "T04", "T05", "T06", "T07", "T08", "T09", "T10", "T11", "T12", "T13", "T14", "T15",
   "SW0", "SW1", "SW2", "SW3", "PS0", "PS1", "PS2", "PS3"]

/-- The resources of the table. -/
def redfishKnown (r : String) : Bool :=
  ["ServiceRoot", "SessionService", "AccountService", "Chassis/KT64", "Chassis/KT64/Assembly", "Managers/RMU",
   "Managers/RMU/LogServices/ActionLog", "EventService", "UpdateService/FirmwareInventory"].contains r ||
    redfishUnits.any fun u => r = "Chassis/" ++ u || r = "Chassis/" ++ u ++ "/Assembly"

/-- The account of a request. -/
def State.account? (s : State) (a : RedfishAuth) : Option Account :=
  s.rmu.accounts.find? fun x => x.name = a.user && x.password = a.password

/-- The factory password still stands. -/
def State.factoryStands (s : State) : Bool :=
  s.rmu.accounts.any fun x => x.name = "admin" && x.password = Config.factoryPassword

/-- The context of a change through the Manager's Oem object: a rack-wide turn that belongs to no session. -/
def redfishCtx (s : State) : Ctx :=
  { ep := .op, session := SessRef.none, epoch := s.rackEpoch, arrived := s.rackNs,
    h := { via := .mgmt 0, src := 0, udp := 7432, keyway := 0xFF, session := 0, seq := 0, epoch := 0, retry := false,
           fence := false, force := false, len := 0 } }

/-- A setting written through Redfish, at its turn (R300). -/
def State.redfishSet (s : State) (id : BitVec 16) (v : List Byte) : State × Nat :=
  let r := opSetSet (redfishCtx s) id v s
  (r.s, if r.status = St.ok then 200 else if r.status = St.accepted then 202 else if r.status = St.busy then 409 else 400)

/-- Accounts with one written. -/
def putAccount (xs : List Account) (x : Account) : List Account := xs.filter (fun y => y.name ≠ x.name) ++ [x]

/-- A request with an account's rights: the state and the HTTP status. -/
def State.redfish (s : State) (admin : Bool) : Redfish → State × Nat
  | .read r => (s, if redfishKnown r then 200 else 404)
  | .setAccount name ad pw =>
    if !admin then (s, 403)
    else
      let xs := putAccount s.rmu.accounts { name := name, admin := ad, password := pw }
      if 16 < xs.length then (s, 400) else (s.modRmu fun m => { m with accounts := xs }, 200)
  | .deleteAccount name =>
    if !admin then (s, 403)
    else if s.rmu.accounts.any fun x => x.name = name then
      (s.modRmu fun m => { m with accounts := m.accounts.filter fun x => x.name ≠ name }, 200)
    else (s, 404)
  | .setCertificate der => if admin then (s.modRmu fun m => { m with certificate := der }, 200) else (s, 403)
  | .setOpSources v => if !admin || s.factoryStands then (s, 403) else s.redfishSet 0x0A10#16 v
  | .setSyslog id v =>
    if !admin then (s, 403)
    else if id = 0x0A11#16 ∨ id = 0x0A12#16 ∨ id = 0x0A13#16 then s.redfishSet id v
    else (s, 405)
  | .other _ r => (s, if redfishKnown r then 405 else 404)

def redfishResource : Redfish → String
  | .read r => r
  | .setAccount .. => "AccountService"
  | .deleteAccount .. => "AccountService"
  | .setCertificate .. => "Managers/RMU"
  | .setOpSources .. => "Managers/RMU"
  | .setSyslog .. => "Managers/RMU"
  | .other _ r => r

/-- REDFISH_REQUEST. -/
def execRedfishRequest (t : Nat) (a : RedfishAuth) (r : Redfish) (s : State) : Out3 :=
  let s := s.tick t
  if s.managed then
    match s.account? a with
    | none => .next (s.emit (.http 401 (redfishResource r)))
    | some x =>
      let o := s.redfish x.admin r
      .next (o.1.emit (.http o.2 (redfishResource r)))
  else .next s

end Sys2Proof.Machine
end

