-- ==== Sys2Proof/Machine/Install.lean ====
section
/-! DEFINITION. The start from AC (R304 to R309, R338, R339, R375), firmware copies (R314) and the acceptance test (R310 to
R313). -/

namespace Sys2Proof.Machine

/-! ### Settings at the RMU's start (R338, R339) -/

/-- Every copy of an MRAM that the reading does not name as surviving is invalid. -/
def Mram.keepIf (m : Mram) (a b : Bool) : Mram :=
  { a := { m.a with valid := m.a.valid && a }, b := { m.b with valid := m.b.valid && b } }

/-- The image of highest GEN among the chips' active copies. -/
def State.chipImage (s : State) : Option Image :=
  (allChips.filterMap fun n => (Tab.get s.cfg.chipMram Mram.init n).active).foldl (fun (b : Option Image) g =>
    match b with
    | none => some g
    | some x => if x.gen < g.gen then some g else some x) none

/-- The committed image: the RMU's active copy, else the chips' best; none when all are lost. -/
def State.committed (s : State) (chipsOk : Bool) : Option Image :=
  match s.cfg.rmu.active with
  | some g => some g
  | none => if chipsOk then s.chipImage else none

/-- The running values that an image gives; a running acceptance test has ended without a result (ch. 16 Edges). -/
def imageValues (g : Image) : Tab SetKey (List Byte) :=
  g.records.filter fun e => !(e.1 = (0x0304#16, ScopeIx.rack) && e.2 = [1])

/-- Chips whose active copy differs from the committed image receive it. -/
def State.refreshChips (s : State) (g : Image) : State :=
  (allChips.filter fun n => (Tab.get s.cfg.chipMram Mram.init n).active ≠ some g).foldl (fun s n =>
    let m := Tab.get s.cfg.chipMram Mram.init n
    let s := { s with cfg := { s.cfg with chipMram := Tab.set s.cfg.chipMram n (m.write m.activeB g) } }
    s.log Lg.imageRefreshed (unitChip n) (le 2 (unitChip n).toNat ++ le 8 g.gen)) s

/-- The settings taken from the committed image, or every one at its default with IMAGE_LOST. -/
def State.loadSettings (s : State) (r : PowerUpReadings) : State × Bool :=
  let s := { s with cfg := { s.cfg with rmu := s.cfg.rmu.keepIf r.rmuAok r.rmuBok } }
  match s.committed r.chipsOk with
  | some g =>
    let rmu := if s.cfg.rmu.active = none then s.cfg.rmu.write false g else s.cfg.rmu
    let s := { s with cfg := { s.cfg with running := imageValues g, rmu := rmu, rmuActiveB := rmu.activeB } }
    (s.refreshChips g, false)
  | none =>
    let g : Image := { gen := s.cfg.genFlash, records := [] }
    let s := { s with cfg := { s.cfg with running := [], rmu := { a := { valid := true, img := g }, b := { valid := false, img := g } },
                                          rmuActiveB := false } }
    (s.log Lg.imageLost unitRmu (le 4 130), true)

/-! ### Units (R21, R25, R304, R306) -/

/-- Every channel that feeds a unit. -/
def fedChannels : List ChanId :=
  ((List.finRange 4).flatMap fun (i : Fin 4) => (List.finRange 6).map fun (c : Fin 6) => ({ shelf := i, ch := c } : ChanId)).filter
    fun c => !spareChannel c

/-- Every unit that does not match the factory record, or is absent, is held out and reported (R25). -/
def State.holdUnits (s : State) (r : PowerUpReadings) : State :=
  r.mismatched.foldl (fun s e => s.log Lg.identityMismatch e.1 (le 2 e.1.toNat ++ le 2 e.1.toNat ++ le 1 0 ++ le 1 e.2))
    { s with mismatched := r.mismatched.map Prod.fst }

/-- A shelf held out converts nothing, and its channels stay OFF but for the RMU's, which makes the comparison (R25; log 135). -/
def State.channelHeld (s : State) (c : ChanId) : Bool := s.heldOut (unitShelf c.shelf) && c ≠ rmuChannel

/-- A record torn by the loss of power is discarded, and its LSEQ logged as lost (R328). -/
def State.discardTorn (s : State) (torn : Option Nat) : State :=
  match torn with
  | none => s
  | some n => (s.modRmu fun m => { m with log := m.log.filter fun r => r.lseq ≠ n }).log Lg.recordLost unitRmu (le 8 n)

/-- The sensors of a tray as its controller reads them, with its fans. -/
def State.readTray (s : State) (r : PowerUpReadings) (t : TrayId) : State :=
  let wet := r.wet.getD t.val false
  let opens := r.open_.getD t.val 0
  let leak : Tab (Fin 2) LeakState :=
    [(0, if wet then .wet else if 1 ≤ opens then .open_ else .dry), (1, if 2 ≤ opens then .open_ else .dry)]
  let s := s.modTray t fun x => ({ x with leak := leak, flow := r.flow.getD t.val 0, failed := [],
                                          fansFailed := (List.finRange 6).take (r.fansFailed.getD t.val 0) }).retarget s.osc
  if 1 ≤ opens then s.logTray Lg.leakSensorFault t (le 2 (unitTray t).toNat ++ le 2 0) else s

/-- The pre-checks of R306: a wet tray's channel is latched and its level 5 requested, another failing tray is held. A tray
whose channel was opened before the start has no power, and its level 5 waits for the channel (R250, R317). -/
def State.startTray (s : State) (r : PowerUpReadings) (t : TrayId) : State :=
  let s := s.readTray r t
  let x := s.tray t
  if s.lockedTrays.contains t then s
  else if s.leakCut t then
    let s := s.modTray t fun x => { x with efuseOpen := true }
    (if s.opened (trayChannel t) then s else s.trip (trayChannel t) 2 0).fire 11 5 (.tray t) none
  else if s.opened (trayChannel t) then s.fire 13 5 (.tray t) none
  else if x.flow < 3000 ∨ 4 ≤ x.fansFailed.length then s.modTray t fun x => { x with stopped := true, efuseOpen := true }
  else if s.heldOut (unitTray t) || (s.channel (trayChannel t)).st ≠ .on then s
  else
    let s := s.modTray t fun x => { x with powered := true, efuseOpen := false, stopped := false }
    ((trayChips t).filter fun n => !s.lockedChips.contains n && !s.chipHeldOut n).foldl (fun s n =>
      s.modChip n fun c => { c with power := .up, bbFirmware := Config.firmware s.rmu.fwB }) s

/-- Links by their + end, and uplinks: one name for each of the 320. -/
def allLinks : List LinkId :=
  allChips.flatMap fun n => [0, 2, 4, 6, 7].map fun p => ({ chip := n, port := p } : LinkId)

/-- The natural latency of a receive side, in ns; one not named is exactly 13 slots. -/
def latencyOf (r : PowerUpReadings) (l : LinkId) : Nat := ((r.latency.find? fun e => e.1 = l).map Prod.snd).getD linkNs

def badLink (r : PowerUpReadings) (l : LinkId) : Bool := r.badLinks.contains l || r.badLinks.contains (reverseLink l)

/-- Links enter service where both ends, both harness ends and the far-end check allow (R307). -/
def State.startLinks (s : State) (r : PowerUpReadings) : State :=
  let s := { s with rejectedEnds := r.rejectedEnds.map fun e => (e.1, e.2.1) }
  let s := allLinks.foldl (fun s l =>
    let s := (s.modSides l fun k => { k with farBad := badLink r l }).train l (latencyOf r l) (latencyOf r (reverseLink l))
    s.setLink l (s.linkMay l)) s
  let s := r.rejectedEnds.foldl (fun s e => s.logMismatch e.1 e.2.1 e.2.2) s
  (r.badLinks.filterMap harnessOf).foldl (fun s e => if h : e.1 < 64 then s.logMismatch ⟨e.1, h⟩ e.2 0xFF else s) s

/-- MAP_CHECK: links in service, out of service, ends rejected (R308). -/
def State.mapCheck (s : State) : State :=
  let up := (allLinks.filter fun l => (s.link l).inService).length
  s.log Lg.mapCheck unitRack (le 4 up ++ le 4 (allLinks.length - up) ++ le 4 s.rejectedEnds.length)

/-- Switch trays, and host ports with a qualified module (R286). -/
def State.startSwitches (s : State) : State :=
  let s := allSwitches.foldl (fun s i => s.modSw i fun _ =>
    { SwTray.init with up := !s.heldOut (unitSwitch i) && decide ((s.channel (switchChannel i)).st = .on) }) s
  (List.finRange 8).foldl (fun s h => s.portUp h) s

/-- Skew trims: a path whose trim has changed by more than 1 ns is logged, and the new trim used (R309). -/
def State.setTrims (s : State) (r : PowerUpReadings) : State :=
  r.trims.foldl (fun s e =>
    let old := (s.clk.trims.find? fun x => x.1 = e.1).elim e.2 Prod.snd
    let s := { s with clk := { s.clk with trims := Tab.set s.clk.trims e.1 e.2 } }
    if 1000 < (e.2 - old).natAbs then s.log 0 e.1 (le 2 e.1.toNat ++ leInt 4 e.2) else s) s

/-! ### Partitions of the image (R40, R244, R245) -/

/-- The partitions that the stored PART_SHAPE values ask for. -/
def State.storedShapes (s : State) : List (PartId × Nat × Nat × Nat × Nat) :=
  (List.finRange 64).filterMap fun p =>
    let v := Tab.get s.cfg.running (setDefault 0x0201#16) (0x0201#16, .part p)
    if fieldBe v 0 1 = 0 then none else some (p, fieldBe v 0 1, fieldBe v 1 1, fieldBe v 2 1, fieldBe v 3 1)

/-- The placement run of the start: its result taken where it is one (R245), else the partitions wait. -/
def State.placeStored (s : State) (plan : List (PartId × Place)) : State :=
  let s := { s with unplaced := s.storedShapes }
  if s.planOk plan then
    (s.planChanges plan).foldl (fun s e =>
      match e.2 with
      | some sh => s.createPart e.1 sh
      | none => s) s
  else s

/-! ### The level 6 seen by the keyways (R339, R375) -/

/-- Each keyway's new history begins with the RESET of the level 6; the loss of the image is sent to its first session. -/
def State.enterReset6 (s : State) (lost : Bool) : State :=
  match s.rmu.level6 with
  | none => s
  | some at_ =>
    let body : List Byte := [6, if lost then 0x3F else classesLost 6] ++ be 8 (if lost then s.rackNs else at_)
    let s := (List.finRange 64).foldl (fun s k =>
      (s.enterEvent (.kw k) (s.eventOf (.kw k) Ev.reset 0 body)).modKw k fun w => { w with resetOwed := lost }) s
    s.modRmu fun m => { m with level6 := none }

/-! ### POWER_UP -/

/-- The clock at the RMU's start: STARTING from the real-time clock, or UNSET (R294). -/
def State.startClock (s : State) (rtc : Option Nat) : State :=
  let c := s.clk
  match rtc with
  | some ns =>
    { s with clk := { c with rackQ := ns * 2 ^ 40, rate := 0, quality := .starting, rtcValid := true, theta := none, lossAt := none } }
  | none =>
    { s with fresh := s.fresh + 1,
             clk := { c with rackQ := Config.freeReading s.fresh * 2 ^ 40, rate := 0, quality := .unset, rtcValid := false,
                             theta := none, lossAt := none } }

/-- Idle draw of the machine in W (R305). -/
def idleW : Nat := 34000

/-- The whole sequence of R304. -/
def State.start (s : State) (r : PowerUpReadings) : State :=
  let s := { s with mismatched := r.mismatched.map Prod.fst }
  let s := (List.finRange 4).foldl (fun s (i : Fin 4) =>
    s.modShelf i fun _ => { ac := r.ac.getD i.val false, conv := r.ac.getD i.val false && !s.heldOut (unitShelf i) }) s
  let s := s.modRmu fun m => { m with up := true, bootAt := s.osc, recoverySelected := false, absentUntil := 0 }
  let s := if s.rmu.commanded && r.fwOk then s.switchFirmware else s
  let s := (((s.modRmu fun m => { m with commanded := false }).startClock r.rtc).discardTorn r.torn).holdUnits r
  let cfg := s.loadSettings r
  let s := cfg.1
  let s := (fedChannels.filter fun c => !s.opened c && !s.channelHeld c).foldl (fun s c => s.modChan c fun _ => { Channel.init with st := .on }) s
  let s := (s.setTrims r).startSwitches
  let s := (List.finRange 16).foldl (fun s t => s.startTray r t) s
  let s := (s.startLinks r).mapCheck
  let s := { s with kr := { s.kr with dir := [] }, pw := { s.pw with drawW := idleW } }
  let s := (s.placeStored r.plan).enterReset6 cfg.2
  ({ s with ready := true }.rebudget).closeContact

/-- POWER_UP: a rack that is not running starts as soon as one shelf has AC, unless PS0.5, which feeds the RMU, has opened. -/
def execPowerUp (t : Nat) (r : PowerUpReadings) (s : State) : Out3 :=
  let s := s.tick t
  if s.ready = false ∧ r.ac.any id = true ∧ s.opened rmuChannel = false then .next (s.start r) else .next s

/-! ### The acceptance test (R310 to R313) -/

/-- A lane phase BER above 10^-7, in units of 10^-12. -/
def laneFails (ber : Nat) : Bool := decide (100000 < ber)

/-- Has a link passed, with or without a spared lane? -/
def Link.passed (k : Link) : Bool := k.accept = 1 || k.accept = 2

/-- The lane phase's result for a link: its BERs, kept as the baseline too. -/
def Link.laneResult (bers : List Nat) (k : Link) : Link :=
  { k with bers := padNat bers, baseline := padNat bers,
           laneFailed := (List.range 8).filter fun i => laneFails (bers.getD i 0) }
where
  padNat (xs : List Nat) : List Nat := (List.range 8).map fun i => xs.getD i 0

/-- The codeword phase's result: 1 passed, 2 passed with one lane spared, 3 failed (R311). -/
def Link.verdict (k : Link) (unc crc : Nat) : Nat :=
  if unc ≠ 0 ∨ crc ≠ 0 then 3
  else
    match k.laneFailed with
    | [] => 1
    | [_] => 2
    | _ => 3

def Link.codeResult (unc crc : Nat) (k : Link) : Link :=
  let v := k.verdict unc crc
  { k with accept := v, counts := bump32 (bump32 k.counts 2 unc) 3 crc,
           spared := if v = 2 then k.laneFailed.foldl (fun (m : BitVec 8) i => m ||| (1#8 <<< i)) k.spared else k.spared }

/-- ACCEPT_TEST: link, result, worst lane BER (0 passed, 1 passed with a lane spared, 2 failed). -/
def State.logAccept (s : State) (l : LinkId) : State :=
  let k := s.link l
  s.log Lg.acceptTest (unitChip l.chip)
    (le 2 (unitChip l.chip).toNat ++ le 1 l.port.val ++ le 1 (k.accept - 1) ++ le 8 (k.bers.foldl max 0))

/-- ACCEPT_TEST_PHASE_END: after 60 s the lane phase gives way to the codeword phase, and that to the result; a link without a
result fails. -/
def execAcceptTestPhaseEnd (t : Nat) (results : List (LinkId × List Nat)) (s : State) : Out3 :=
  let s := s.tick t
  if s.accept.since + 60000000000 ≤ s.osc then
    let todo := allLinks.filter fun l => !(s.link l).passed
    let of := fun (l : LinkId) => (results.find? fun e => e.1 = l).map Prod.snd
    match s.accept.phase with
    | 1 =>
      let s := todo.foldl (fun s l => s.modSides l (Link.laneResult ((of l).getD (List.replicate 8 1000000000000)))) s
      .next { s with accept := { phase := 2, since := s.osc } }
    | 2 =>
      let s := todo.foldl (fun s l =>
        let x := (of l).getD [1, 1]
        (s.modSides l (Link.codeResult (x.getD 0 0) (x.getD 1 0))).logAccept l) s
      let v : Byte := if allLinks.all fun l => (s.link l).passed then 2 else 3
      .next { (s.writeRun (0x0304#16, .rack) [v]) with accept := { phase := 0, since := s.osc } }
    | _ => .next s
  else .next s

end Sys2Proof.Machine
end

