-- ==== Sys2Proof/Machine/Receive.lean ====
section
/-! DEFINITION. A command packet from its arrival to its reply: admission (R46, R289), sequence and reply cache (R58 to R61, R65),
fences (R63, R377), rights, lengths and ranges (R45, R49, R71), and the epoch a command runs under (R64). -/

namespace Sys2Proof.Machine

/-! ### Admission (R46, R55, R70, R289, R298, R316) -/

/-- The owner a packet is admitted for; a packet that fails admission is counted and discarded, one that no part of the machine
takes is lost. -/
def State.letIn (s : State) (h : Hdr) : State × Option Ep :=
  match h.via with
  | .host p =>
    if !s.portLive p || h.udp.toNat ≠ s.rackSet 0x0104#16 then (s, none)
    else if hk : h.keyway.toNat < 64 then
      if s.admits && s.speaksFor p h.src ⟨h.keyway.toNat, hk⟩ then (s, some (.kw ⟨h.keyway.toNat, hk⟩))
      else (s.countAdmission p, none)
    else (s.countAdmission p, none)
  | .mgmt _ =>
    if !s.managed || h.udp.toNat ≠ 7432 then (s, none)
    else if sourceListed h.src (s.setVal (0x0A10#16, .rack)) then (s, some .op)
    else ({ s with mgmtDrops := sat64 s.mgmtDrops 1 }, none)

/-- An opcode that is assigned and permitted on its channel (R45, R65, R70). -/
def opcodeKnown (e : Ep) (b : Body) : Bool :=
  isAssigned b &&
    (match e with
     | .kw _ => opcodeOf b / 256 ≠ 15
     | .op => operatorMay (opcodeOf b))

/-- Header fields that hold no reserved value: KEYWAY on the operator channel, and SESSION (R8, R56). -/
def headerOk (e : Ep) (h : Hdr) : Bool :=
  decide (h.session.toNat ≤ 1024) && (e ≠ .op || decide (h.keyway.toNat < 64) || h.keyway = 0xFF#8)

/-! ### What a command is checked for on arrival (R377) -/

/-- A BF16 temperature from 0 to 16, and a BF16 top-p above 0 and at most 1 (R139). -/
def samplingOk (temperature topP : BitVec 16) : Bool :=
  decide (temperature.toNat ≤ 0x4180) && decide (1 ≤ topP.toNat) && decide (topP.toNat ≤ 0x3F80)

/-- The most text a source holds: 4 MiB (R212). -/
def sourceMax : Nat := 4 * 2 ^ 20

def textOk : SrcText → Bool
  | .text bs => decide (bs.length ≤ sourceMax)
  | .ref _ len => decide (len.toNat ≤ sourceMax)

/-- Reserved and out-of-range values of a body (R8, R71, R139, R209, R212, R373). Settings judge their values themselves. -/
def paramsOk : Body → Bool
  | .qpCreate a => a.mtu = 5 && decide (a.retry.toNat ≤ 7) && decide (a.timeout.toNat ≤ 31)
  | .xferOut a | .xferIn a => decide (a.len.toNat ≤ 2 ^ 31)
  | .progLoad config .. | .calLoad config .. => config ≠ 0xFFFF#16
  | .progStop drain => decide (drain.toNat ≤ 1)
  | .krLookup _ blocks _ => decide (1 ≤ blocks.toNat) && decide (blocks.toNat ≤ 1024)
  | .krInsert _ _ _ _ slot => decide (slot.toNat ≤ 15)
  | .krUsage slot => decide (slot.toNat ≤ 15)
  | .tokLoad _ _ len => decide (len.toNat ≤ tokImageMax)
  | .reqSubmit a =>
    decide (1 ≤ a.sources.toNat) && decide (a.sources.toNat ≤ 4) && decide (a.insertSlot.toNat ≤ 15) &&
      samplingOk a.temperature a.topP && textOk a.text
  | .reqSource a => decide (1 ≤ a.index.toNat) && decide (a.index.toNat ≤ 3) && textOk a.text
  | .reqTokens _ _ count => decide (1 ≤ count.toNat) && decide (count.toNat ≤ 2000)
  | .cgCreate m timeout =>
    !m.isEmpty && ascending (m.map BitVec.toNat) &&
      (timeout = 0 || (decide (100 ≤ timeout.toNat) && decide (timeout.toNat ≤ 10000000)))
  | .tmbRun _ _ sweeps _ => sweeps ≠ 0
  | .pwrState state _ => decide (state.toNat ≤ 2)
  | .policySet d r p =>
    decide (4 ≤ d.toNat) && decide (d.toNat ≤ 6) && decide (r.toNat ≤ 1) && decide (10 ≤ p.toNat) && decide (p.toNat ≤ 1000)
  | .diagEventsRead _ count => count ≠ 0
  | .diagDumpRead _ _ len => decide (len.toNat ≤ 8000)
  | .opLogRead _ count => decide (1 ≤ count.toNat) && decide (count.toNat ≤ 16)
  | .opChannelClear shelf ch =>
    if h : shelf.toNat < 4 ∧ ch.toNat < 6 then !spareChannel { shelf := ⟨shelf.toNat, h.1⟩, ch := ⟨ch.toNat, h.2⟩ } else false
  | _ => true

/-- The counter class and unit of a DIAG_COUNTERS on its channel (R370): a chip class of the operator names a chip and no
keyway; every other class names no unit, and a keyway. -/
def countersOk (c : Ctx) (cls unit : BitVec 16) : Bool :=
  let n := cls.toNat
  if c.ep = .op && (n = 5 || n = 8) && c.kw?.isNone then decide (unit.toNat < 64)
  else (n = 5 || classPart.contains n || classKw.contains n) && unit = 0 && c.kw?.isSome && !(c.ep = .op && n = 5)

/-- The level of an OP_RESET, and the unit that it names for that level (R329). -/
def resetUnitOk (c : Ctx) (unit : BitVec 16) (level : Nat) : Bool :=
  let type := unit.toNat / 4096
  let ix := unit.toNat % 4096
  match level with
  | 1 | 3 => c.kw?.isSome
  | 4 => type = 2 && decide (ix < 64)
  | 5 => type = 1 && decide (ix < 16)
  | 6 => unit = unitRack && c.h.keyway = 0xFF#8
  | _ => false

/-- Values that are reserved or out of range for the command's channel or its KEYWAY field (R8, R70, R329, R370). -/
def channelOk (c : Ctx) : Body → Bool
  | .diagCounters cls unit => countersOk c cls unit
  | .opReset unit level => resetUnitOk c unit level.toNat
  | .opKeywayReset => c.kw?.isSome
  | _ => true

def State.textRange (s : State) (p : PartId) : SrcText → Bool
  | .text _ => true
  | .ref a len => s.rangeOk p a len.toNat

/-- The ward's whole-range checks on the addresses a body carries (R48, R49). -/
def State.rangesOk (s : State) (p : PartId) : Body → Bool
  | .memRegister a len _ => s.rangeOk p a len.toNat
  | .memFill a len _ => s.rangeOk p a len.toNat
  | .memCopy src dst len => s.rangeOk p src len.toNat && s.rangeOk p dst len.toNat
  | .xferOut a | .xferIn a => s.rangeOk p a.addr a.len.toNat
  | .progLoad _ a len _ => s.rangeOk p a len.toNat
  | .calLoad _ a len => s.rangeOk p a len.toNat
  | .krLookup a blocks _ => s.rangeOk p a (1024 * blocks.toNat)
  | .krInsert a _ first blocks _ => s.rangeOk p a (1024 * (first.toNat + blocks.toNat))
  | .tokLoad _ a len => len = 0 || s.rangeOk p a len.toNat
  | .reqSubmit a => s.textRange p a.text
  | .reqSource a => s.textRange p a.text
  | .tmbLoad a len _ => s.rangeOk p a len.toNat
  | .tmbRun _ _ _ sched => sched = 0 || s.rangeOk p sched 148
  | _ => true

/-- What a setting's write is checked for before its addressing: FACTORY and slot 0, rights, length, range (R333, R369). -/
def State.settingEarly (s : State) (e : Ep) (id : BitVec 16) (v : List Byte) : Option Nat :=
  match setInfo id with
  | none => none
  | some i =>
    if i.cls = .factory ∨ id = 0x0110#16 then some St.badParameter
    else if !s.mayWrite e i then some St.wardFault
    else if v.length ≠ i.len then some St.badLength
    else if !i.ok v then some St.badParameter
    else none

/-- Rights to the setting a SET_GET or a SET_STORE names, where the machine has it (R45, R336). -/
def State.settingRights (s : State) (e : Ep) : Body → Bool
  | .setGet id => (setInfo id).all fun i => s.mayRead e id i
  | .setStore id => id = 0 || (setInfo id).all fun i => i.cls ≠ .stored || s.mayWrite e i
  | _ => true

/-- Rights on the owner's channel (R45, R70). -/
def State.mayRun (s : State) (e : Ep) (b : Body) : Bool :=
  match e with
  | .kw k => roleMay (s.kwRole k) (opcodeOf b)
  | .op => true

/-- The first check a command fails on arrival: opcode, rights, length, values, ranges; none when it passes. -/
def State.early (s : State) (c : Ctx) (b : Body) : Option Nat :=
  if !opcodeKnown c.ep b then some St.unknownOpcode
  else if !s.mayRun c.ep b then some St.wardFault
  else if c.h.len ≠ bodyLength b then some St.badLength
  else if !paramsOk b || !channelOk c b then some St.badParameter
  else if !s.settingRights c.ep b then some St.wardFault
  else
    match b with
    | .setSet id v => s.settingEarly c.ep id v
    | .setLatch id v => s.settingEarly c.ep id v
    | _ =>
      match c.part? s with
      | some p => if s.rangesOk p b then none else some St.wardFault
      | none => none

/-! ### Running a command -/

/-- Does a command use the partition's own units? Session, settings, diagnostics and operator groups, and the figures of R53,
do not (R321, R322). -/
def usesPart (b : Body) : Bool :=
  let g := opcodeOf b / 256
  !(g = 0 || g = 6 || g = 9 || g = 15 || opcodeOf b = 0x0703)

/-- Refused while a reset of its partition runs, and while the partition waits for a place (R73, R321, R322). -/
def State.unavailable (s : State) (c : Ctx) (b : Body) : Option Nat :=
  match c.part? s with
  | some p =>
    if !usesPart b then none
    else if s.resettingPart p then some St.resetting
    else if ((s.part p).map Part.waiting).getD false then some St.lockedOut
    else none
  | none => none

/-- The handler of each opcode. -/
def runOp (c : Ctx) (b : Body) (s : State) : Res :=
  match b with
  | .hello => opHello c s
  | .sessionOpen a => opSessionOpen c a s
  | .sessionClose => opSessionClose c s
  | .eventAck q => opEventAck c q s
  | .ping => opPing c s
  | .memRegister a len x => opMemRegister c a len x s
  | .memDeregister r => opMemDeregister c r s
  | .qpCreate a => opQpCreate c a s
  | .qpDestroy q => opQpDestroy c q s
  | .memFill a len x => opMemFill c a len x s
  | .memCopy a d len => opMemCopy c a d len s
  | .xferOut a => opXferOut c a s
  | .xferIn a => opXferIn c a s
  | .progLoad g _ _ img => opProgLoad c g img s
  | .calLoad g a len => opCalLoad c g a len s
  | .progStart g => opProgStart c g s
  | .progStop d => opProgStop c d s
  | .progStatus => opProgStatus c s
  | .krLookup a n m => opKrLookup c a n m s
  | .krInsert t k f n x => opKrInsert c t k f n x s
  | .krFetch x d => opKrFetch c x d s
  | .krRelease x => opKrRelease c x s
  | .krUsage x => opKrUsage c x s
  | .tokLoad m a len => opTokLoad c m a len s
  | .reqSubmit a => opReqSubmit c a s
  | .reqSource a => opReqSource c a s
  | .reqCancel t => opReqCancel c t s
  | .reqStatus t => opReqStatus c t s
  | .reqTokens t f n => opReqTokens c t f n s
  | .deltaForget => opDeltaForget c s
  | .cgCreate m t => opCgCreate c m t s
  | .cgDestroy g => opCgDestroy c g s
  | .cgStatus g => opCgStatus c g s
  | .setGet i => opSetGet c i s
  | .setSet i v => opSetSet c i v s
  | .setLatch i v => opSetLatch c i v s
  | .setTurn => opSetTurn c s
  | .setStore i => opSetStore c i s
  | .setDiscard => opSetDiscard c s
  | .pwrState x r => opPwrState c x r s
  | .pwrCap w => opPwrCap c w s
  | .pwrRead => opPwrRead c s
  | .policySet d r p => opPolicySet c d r p s
  | .tmbLoad a len f => opTmbLoad c a len f s
  | .tmbRun n x w a => opTmbRun c n x w a s
  | .tmbResult n d => opTmbResult c n d s
  | .tmbFree n => opTmbFree c n s
  | .diagCounters x u => opDiagCounters c x u s
  | .diagEventsRead f n => opDiagEventsRead c f n s
  | .diagEcho x => opDiagEcho c x s
  | .diagDumpRead d o len => opDiagDumpRead c d o len s
  | .opKeywayReset => opOpKeywayReset c s
  | .opReset u l => opOpReset c u l s
  | .opChannelClear x y => opOpChannelClear c x y s
  | .opShareKeyCreate l => opOpShareKeyCreate c l s
  | .opShareKeyDelete r => opOpShareKeyDelete c r s
  | .opTimeStep => opOpTimeStep c s
  | .opLogRead f n => opOpLogRead c f n s
  | .opServiceStatus => opOpServiceStatus c s
  | .unassigned _ => Res.fail s St.unknownOpcode

/-- A KR_LOOKUP's refusal leaves at the end of its interval too, but for NO_RESOURCE (R197, R198). -/
def equalise (c : Ctx) (b : Body) (r : Res) : Res :=
  match b with
  | .krLookup _ blocks _ =>
    if r.later || r.status = St.noResource || !paramsOk b then r
    else
      match c.kw? with
      | some k =>
        { r with
          s := r.s.addLookup { kw := k, part := c.part? r.s, session := c.session, hdr := c.h, arrived := c.arrived, epoch := c.epoch,
                               due := r.s.osc + lookupNs blocks.toNat, blocks := blocks.toNat, found := [], status := r.status,
                               reached := true, lateOp := none }
          later := true }
      | none => r
  | _ => r

/-- A firmware fault is logged with a chip dump (R73, R326), of the lowest chip. -/
def dumpFault (r : Res) : Res := if r.status = St.internalError then { r with s := r.s.dumpChip 0 0 0 [] } else r

/-- A command starts: its checks, then its epoch (R64), the availability of its partition, and its handler. -/
def runBody (c : Ctx) (b : Body) (s : State) : Res :=
  equalise c b (dumpFault (
    match s.early c b with
    | some st => Res.fail s st
    | none =>
      if c.h.epoch ≠ 0 ∧ c.h.epoch ≠ c.epoch then Res.fail s St.epochChanged (be 4 c.epoch.toNat)
      else
        match s.unavailable c b with
        | some st => Res.fail s st
        | none => runOp c b s))

/-! ### Replies and the cache (R59, R60, R61) -/

/-- The cached reply of a SEQ filled in. -/
def State.cacheReply (s : State) (e : Ep) (n : SessRef) (seq : BitVec 32) (op status : Nat) (epoch : BitVec 32) (body : List Byte) :
    State :=
  s.modSession e n fun q =>
    { q with replies := q.replies.map fun (r : CachedReply) =>
        if r.seq = seq then
          { r with status := some status, op := op, qual := s.clk.quality.code, epoch := epoch, body := body }
        else r }

/-- The one reply of a command that was taken in its sequence. -/
def State.answer (s : State) (c : Ctx) (op status : Nat) (epoch : BitVec 32) (body : List Byte) : State :=
  (s.reply c.h op status epoch body).cacheReply c.ep c.session c.h.seq op status epoch body

/-- What a command runs with; `arrived` is the rack time at which its packet arrived. -/
def ctxOf (s : State) (e : Ep) (n : SessRef) (h : Hdr) (arrived : Nat) : Ctx :=
  { ep := e, h := h, session := n, epoch := s.hdrEpoch h, arrived := arrived }

/-- A command runs and is answered; a lookup's reply leaves with KR_LOOKUP_REPLY. -/
def State.runAnswer (s : State) (e : Ep) (n : SessRef) (h : Hdr) (b : Body) (arrived : Nat) : State :=
  let c := ctxOf s e n h arrived
  let r := runBody c b s
  if r.later then r.s else r.s.answer c (opcodeOf b) r.status c.epoch r.body

/-- A command that has to wait for earlier operations: checked on arrival, answered ACCEPTED, and queued (R63, R377). -/
def State.waitAnswer (s : State) (e : Ep) (n : SessRef) (h : Hdr) (b : Body) (arrived : Nat) : State :=
  let c := ctxOf s e n h arrived
  match s.early c b with
  | some st => s.answer c (opcodeOf b) st c.epoch []
  | none =>
    (s.modSession e n fun q => { q with waiting := q.waiting ++ [{ hdr := h, body := b, since := s.osc, arrived := arrived }] }).answer
      c (opcodeOf b) St.accepted c.epoch []

/-- Does a command have to wait: behind a fence, or as a fence with operations open (R58, R63)? -/
def State.mustWait (s : State) (e : Ep) (q : Session) (h : Hdr) : Bool :=
  !q.waiting.isEmpty || (h.fence && !(s.opsOf e q.ref).isEmpty)

/-- A session has heard a command: its idle time starts anew, and its events go to the port the command came by (R66, R67). -/
def State.heard (s : State) (e : Ep) (n : SessRef) (h : Hdr) : State :=
  s.modSession e n fun q => { q with lastCmd := s.osc, lastVia := h.via }

/-- E advances past a command, whose reply is pending in the cache of 256 (R58, R60). -/
def State.taking (s : State) (e : Ep) (n : SessRef) (h : Hdr) (b : Body) : State :=
  let p : CachedReply := { seq := h.seq, status := none, epoch := 0, op := opcodeOf b, qual := 0, body := [] }
  s.modSession e n fun q =>
    { q with next := q.next + 1, replies := (q.replies ++ [p]).drop (q.replies.length + 1 - 256) }

/-- A command whose SEQ is E is taken, and runs or waits (R58, R60). -/
def State.take (s : State) (e : Ep) (n : SessRef) (h : Hdr) (b : Body) (arrived : Nat) : State :=
  let s := s.taking e n h b
  match s.session? e n with
  | none => s
  | some q => if s.mustWait e q h then s.waitAnswer e n h b arrived else s.runAnswer e n h b arrived

/-- Held commands follow in SEQ order once the gap closes (R59); the number is fuel. -/
def State.takeHeld (s : State) (e : Ep) (n : SessRef) : Nat → State
  | 0 => s
  | f + 1 =>
    match s.session? e n with
    | none => s
    | some q =>
      match q.held.find? fun x => x.hdr.seq = q.next with
      | none => s
      | some x =>
        ((s.modSession e n fun q => { q with held := q.held.filter fun y => y.hdr.seq ≠ x.hdr.seq }).take e n x.hdr
          x.body x.arrived).takeHeld e n f

/-- A cached reply resent, with RETRY set and RTIME renewed, on the port its duplicate arrived on (R47, R60). -/
def State.resend (s : State) (h : Hdr) (r : CachedReply) (status : Nat) : State :=
  s.emit (.packet h.via h.src h.udp h.keyway.toNat false true r.op h.seq r.epoch h.session.toNat status r.qual s.rackNs r.body)

/-- A command of a session in its sequence (R58 to R60). -/
def State.sequence (s : State) (e : Ep) (q : Session) (h : Hdr) (b : Body) : State :=
  let d := (h.seq - q.next).toNat
  let refuse := fun (st : Nat) (body : List Byte) => s.reply h (opcodeOf b) st (s.hdrEpoch h) body
  if d = 0 then
    let s := s.take e q.ref h b s.rackNs
    s.takeHeld e q.ref q.held.length
  else if d ≤ 63 then
    if q.held.any fun x => x.hdr.seq = h.seq then s
    else s.modSession e q.ref fun q => { q with held := q.held ++ [{ hdr := h, body := b, since := s.osc, arrived := s.rackNs }] }
  else if d < 2 ^ 31 then refuse St.seqGap (be 4 q.next.toNat)
  else if d < 2 ^ 32 - 256 then refuse St.staleSeq []
  else
    match q.replies.find? fun r => r.seq = h.seq with
    | none => refuse St.staleSeq []
    | some r =>
      match r.status with
      | none => s
      | some st => s.resend h r st

/-- A command on session 0: no sequence, no cache, and only the opcodes marked S (R65). -/
def State.sessionless (s : State) (e : Ep) (h : Hdr) (b : Body) : State :=
  if opcodeKnown e b && !isSessionless b then
    s.reply h (opcodeOf b) St.noSession (s.hdrEpoch h) (noSessionBody 0 0)
  else
    let c := ctxOf s e SessRef.none h s.rackNs
    let r := runBody c b s
    r.s.reply h (opcodeOf b) r.status c.epoch r.body

/-- An admitted command: reserved header values, then its session, and its place in the sequence (R56, R58, R65, R73). -/
def State.handle (s : State) (e : Ep) (h : Hdr) (b : Body) : State :=
  if !headerOk e h then s.reply h (opcodeOf b) St.badParameter (s.hdrEpoch h) []
  else if h.session = 0 then s.sessionless e h b
  else
    match s.bearing? e h.session.toNat with
    | some q =>
      (s.heard e q.ref h).sequence e { q with lastCmd := s.osc, lastVia := h.via } h b
    | none =>
      if !opcodeKnown e b then s.reply h (opcodeOf b) St.unknownOpcode (s.hdrEpoch h) []
      else
        let x := (((s.endp e).ended.find? fun x => x.1 = h.session.toNat).map Prod.snd).getD (0, 0)
        s.reply h (opcodeOf b) St.noSession (s.hdrEpoch h) (noSessionBody x.1 x.2)

/-- A command packet arrives. -/
def receive (t : Nat) (h : Hdr) (b : Body) (s : State) : Out3 :=
  let r := (s.tick t).letIn h
  match r.2 with
  | none => .next r.1
  | some e => .next (r.1.handle e h b)

/-! ### Packets that carry no command (R55, R57) -/

def State.countProto (s : State) (via : Via) : State :=
  match via with
  | .host p => s.modPort p fun q => { q with proto := sat64 q.proto 1 }
  | .mgmt _ => s

/-- PROTOCOL_ERROR: after admission a packet of wrong form is counted and discarded without reply, one of an unknown version
receives BAD_VERSION with the versions supported, one of an unassigned opcode UNKNOWN_OPCODE in its session's sequence (R55,
R57, R65). -/
def protocolFault (t : Nat) (h : Hdr) (f : FrameFault) (s : State) : Out3 :=
  match f with
  | .ipv4 => .next (s.tick t)
  | .fragment => .next (s.tick t)
  | .unknownOpcode op => receive t h (.unassigned op) s
  | .badVersion _ op =>
    let r := (s.tick t).letIn h
    match r.2 with
    | none => .next r.1
    | some _ => .next (r.1.reply h op.toNat St.badVersion (r.1.hdrEpoch h) [1])
  | _ =>
    let r := (s.tick t).letIn h
    match r.2 with
    | none => .next r.1
    | some _ => .next (r.1.countProto h.via)

/-! ### Fenced commands that waited (R63, R377) -/

/-- The completion record of a request that was refused as its command started: only RX, at the packet's arrival (R35, R75). -/
def neverRan (arrived : Nat) : List Byte := List.replicate 28 0 ++ (List.range 8).flatMap fun _ => be 8 arrived

/-- The final status of a command that waited and did not end with its turn (R354): its opcode's own event where that event carries a status (XFER_DONE,
KR_FETCH_DONE, PROG_STOPPED, TMB_DONE, REQ_COMPLETE), else FENCE_DONE with its reply body. -/
def State.lateEnd (s : State) (e : Ep) (n : SessRef) (x : HeldCmd) (status : Nat) (body : List Byte) : State :=
  let h := x.hdr
  let seq := be 4 h.seq.toNat
  let xfer := s.raiseS e n Ev.xferDone (be 2 n.num ++ seq ++ be 2 status)
  match x.body with
  | .memFill .. => xfer
  | .memCopy .. => xfer
  | .xferOut _ => xfer
  | .xferIn _ => xfer
  | .krFetch y _ => s.raiseS e n Ev.krFetchDone (be 4 y.toNat ++ be 2 status ++ be 2 0)
  | .progStop _ => s.raiseS e n Ev.progStopped (be 2 0xFFFF ++ be 2 status)
  | .tmbRun p .. => s.raiseS e n Ev.tmbDone (be 2 p.toNat ++ be 2 status)
  | .reqSubmit a => s.raiseS e n Ev.reqComplete (be 8 a.tag.toNat ++ be 2 status ++ be 2 0 ++ neverRan x.arrived) false
  | _ => s.raiseS e n Ev.fenceDone (seq ++ be 2 (opcodeOf x.body) ++ be 2 status ++ body)

/-- A waiting command starts. Its lookup's FENCE_DONE leaves at the interval's end, and until then it is an open operation. -/
def State.startWaiting (s : State) (e : Ep) (n : SessRef) (x : HeldCmd) : State :=
  let c := { ctxOf s e n x.hdr x.arrived with late := true }
  let r := runBody c x.body s
  if r.later then
    let id := r.s.nextOp
    let late := fun (l : Lookup) => { l with lateOp := some id }
    let last := r.s.lookups.length - 1
    ({ r.s with lookups := r.s.lookups.take last ++ (r.s.lookups.drop last).map late }).addOp e n x.hdr.seq c.epoch .lookup
  else if r.status = St.accepted then r.s
  else r.s.lateEnd e n x r.status r.body

/-- Waiting commands start in SEQ order until a fence has to wait again; the number is fuel. -/
def State.startAll (s : State) (e : Ep) (n : SessRef) : Nat → State
  | 0 => s
  | f + 1 =>
    match s.session? e n with
    | none => s
    | some q =>
      match q.waiting with
      | [] => s
      | x :: xs =>
        if x.hdr.fence && !(s.opsOf e n).isEmpty then s
        else ((s.modSession e n fun q => { q with waiting := xs }).startWaiting e n x).startAll e n f

end Sys2Proof.Machine
end

