-- ==== Sys2Proof/Machine/Commands.lean ====
section
/-! DEFINITION. The opcode rows: each command packet as it arrives (R71), the writes of named settings, the packets of R57, and the
events that complete what a packet began. -/

namespace Sys2Proof.Machine

def execHello (t : Nat) (h : Hdr) (s : State) : Out3 := receive t h (.hello) s

def execSessionOpen (t : Nat) (h : Hdr) (a : OpenArgs) (s : State) : Out3 := receive t h (.sessionOpen a) s

def execSessionClose (t : Nat) (h : Hdr) (s : State) : Out3 := receive t h (.sessionClose) s

def execEventAck (t : Nat) (h : Hdr) (evSeq : BitVec 32) (s : State) : Out3 := receive t h (.eventAck evSeq) s

def execPing (t : Nat) (h : Hdr) (s : State) : Out3 := receive t h (.ping) s

def execMemRegister (t : Nat) (h : Hdr) (addr : Addr) (len : BitVec 64) (access : BitVec 8) (s : State) : Out3 :=
  receive t h (.memRegister addr len access) s

def execMemDeregister (t : Nat) (h : Hdr) (rkey : BitVec 32) (s : State) : Out3 := receive t h (.memDeregister rkey) s

def execQpCreate (t : Nat) (h : Hdr) (a : QpArgs) (s : State) : Out3 := receive t h (.qpCreate a) s

def execQpDestroy (t : Nat) (h : Hdr) (qpn : BitVec 24) (s : State) : Out3 := receive t h (.qpDestroy qpn) s

def execMemFill (t : Nat) (h : Hdr) (addr : Addr) (len pattern : BitVec 64) (s : State) : Out3 :=
  receive t h (.memFill addr len pattern) s

def execMemCopy (t : Nat) (h : Hdr) (src dst : Addr) (len : BitVec 64) (s : State) : Out3 :=
  receive t h (.memCopy src dst len) s

def execXferOut (t : Nat) (h : Hdr) (a : XferArgs) (s : State) : Out3 := receive t h (.xferOut a) s

def execXferIn (t : Nat) (h : Hdr) (a : XferArgs) (s : State) : Out3 := receive t h (.xferIn a) s

def execProgLoad (t : Nat) (h : Hdr) (config : BitVec 16) (addr : Addr) (len : BitVec 64) (img : ProgramImage)
    (s : State) : Out3 :=
  receive t h (.progLoad config addr len img) s

def execCalLoad (t : Nat) (h : Hdr) (config : BitVec 16) (addr : Addr) (len : BitVec 64) (s : State) : Out3 :=
  receive t h (.calLoad config addr len) s

def execProgStart (t : Nat) (h : Hdr) (config : BitVec 16) (s : State) : Out3 := receive t h (.progStart config) s

def execProgStop (t : Nat) (h : Hdr) (drain : BitVec 8) (s : State) : Out3 := receive t h (.progStop drain) s

def execProgStatus (t : Nat) (h : Hdr) (s : State) : Out3 := receive t h (.progStatus) s

/-- The reply leaves with KR_LOOKUP_REPLY (R197). -/
def execKrLookup (t : Nat) (h : Hdr) (addr : Addr) (blocks mask : BitVec 16) (s : State) : Out3 :=
  receive t h (.krLookup addr blocks mask) s

def execKrInsert (t : Nat) (h : Hdr) (tokAddr kvAddr : Addr) (first blocks : BitVec 16) (slot : BitVec 8) (s : State) : Out3 :=
  receive t h (.krInsert tokAddr kvAddr first blocks slot) s

def execKrFetch (t : Nat) (h : Hdr) (handle : BitVec 32) (dst : Addr) (s : State) : Out3 := receive t h (.krFetch handle dst) s

def execKrRelease (t : Nat) (h : Hdr) (handle : BitVec 32) (s : State) : Out3 := receive t h (.krRelease handle) s

def execKrUsage (t : Nat) (h : Hdr) (slot : BitVec 8) (s : State) : Out3 := receive t h (.krUsage slot) s

def execTokLoad (t : Nat) (h : Hdr) (model : BitVec 32) (addr : Addr) (len : BitVec 64) (s : State) : Out3 :=
  receive t h (.tokLoad model addr len) s

def execReqSubmit (t : Nat) (h : Hdr) (a : ReqArgs) (s : State) : Out3 := receive t h (.reqSubmit a) s

def execReqSource (t : Nat) (h : Hdr) (a : SourceArgs) (s : State) : Out3 := receive t h (.reqSource a) s

def execReqCancel (t : Nat) (h : Hdr) (tag : BitVec 64) (s : State) : Out3 := receive t h (.reqCancel tag) s

def execReqStatus (t : Nat) (h : Hdr) (tag : BitVec 64) (s : State) : Out3 := receive t h (.reqStatus tag) s

def execReqTokens (t : Nat) (h : Hdr) (tag : BitVec 64) (first : BitVec 32) (count : BitVec 16) (s : State) : Out3 :=
  receive t h (.reqTokens tag first count) s

def execDeltaForget (t : Nat) (h : Hdr) (s : State) : Out3 := receive t h (.deltaForget) s

def execCgCreate (t : Nat) (h : Hdr) (members : List (BitVec 16)) (timeout : BitVec 32) (s : State) : Out3 :=
  receive t h (.cgCreate members timeout) s

def execCgDestroy (t : Nat) (h : Hdr) (group : BitVec 16) (s : State) : Out3 := receive t h (.cgDestroy group) s

def execCgStatus (t : Nat) (h : Hdr) (group : BitVec 16) (s : State) : Out3 := receive t h (.cgStatus group) s

def execSetGet (t : Nat) (h : Hdr) (id : BitVec 16) (s : State) : Out3 := receive t h (.setGet id) s

def execSetSet (t : Nat) (h : Hdr) (id : BitVec 16) (value : List Byte) (s : State) : Out3 := receive t h (.setSet id value) s

def execSetLatch (t : Nat) (h : Hdr) (id : BitVec 16) (value : List Byte) (s : State) : Out3 :=
  receive t h (.setLatch id value) s

def execSetTurn (t : Nat) (h : Hdr) (s : State) : Out3 := receive t h (.setTurn) s

def execSetStore (t : Nat) (h : Hdr) (id : BitVec 16) (s : State) : Out3 := receive t h (.setStore id) s

def execSetDiscard (t : Nat) (h : Hdr) (s : State) : Out3 := receive t h (.setDiscard) s

/-- PART_SHAPE_WRITE: a SET_SET of PART_SHAPE (R40, R41). -/
def execPartShapeWrite (t : Nat) (h : Hdr) (value : List Byte) (s : State) : Out3 := receive t h (.setSet 0x0201#16 value) s

/-- KW_SHARE_SLOT_WRITE: a SET_SET of a share slot (R369). -/
def execKwShareSlotWrite (t : Nat) (h : Hdr) (slot : Fin 16) (value : List Byte) (s : State) : Out3 :=
  receive t h (.setSet (BitVec.ofNat 16 (0x0110 + slot.val)) value) s

/-- KW_BINDING_WRITE: a SET_SET of KW_BINDING (R44). -/
def execKwBindingWrite (t : Nat) (h : Hdr) (value : List Byte) (s : State) : Out3 := receive t h (.setSet 0x0101#16 value) s

/-- FAB_ACCEPT_TEST_WRITE: a SET_SET of FAB_ACCEPT_TEST (R310). -/
def execFabAcceptTestWrite (t : Nat) (h : Hdr) (value : List Byte) (s : State) : Out3 := receive t h (.setSet 0x0304#16 value) s

/-- RACK_ACCEPTED_WRITE: a SET_SET of RACK_ACCEPTED (R316). -/
def execRackAcceptedWrite (t : Nat) (h : Hdr) (value : List Byte) (s : State) : Out3 := receive t h (.setSet 0x0A20#16 value) s

def execPwrState (t : Nat) (h : Hdr) (state retain : BitVec 8) (s : State) : Out3 := receive t h (.pwrState state retain) s

def execPwrCap (t : Nat) (h : Hdr) (watts : BitVec 32) (s : State) : Out3 := receive t h (.pwrCap watts) s

def execPwrRead (t : Nat) (h : Hdr) (s : State) : Out3 := receive t h (.pwrRead) s

def execPolicySet (t : Nat) (h : Hdr) (dividerMax rotation : BitVec 8) (period : BitVec 16) (s : State) : Out3 :=
  receive t h (.policySet dividerMax rotation period) s

def execTmbLoad (t : Nat) (h : Hdr) (addr : Addr) (len : BitVec 64) (flags : BitVec 8) (s : State) : Out3 :=
  receive t h (.tmbLoad addr len flags) s

def execTmbRun (t : Nat) (h : Hdr) (problem : BitVec 16) (seed : BitVec 64) (sweeps : BitVec 32) (sched : Addr)
    (s : State) : Out3 :=
  receive t h (.tmbRun problem seed sweeps sched) s

def execTmbResult (t : Nat) (h : Hdr) (problem : BitVec 16) (dst : Addr) (s : State) : Out3 :=
  receive t h (.tmbResult problem dst) s

def execTmbFree (t : Nat) (h : Hdr) (problem : BitVec 16) (s : State) : Out3 := receive t h (.tmbFree problem) s

def execDiagCounters (t : Nat) (h : Hdr) (cls unit : BitVec 16) (s : State) : Out3 := receive t h (.diagCounters cls unit) s

def execDiagEventsRead (t : Nat) (h : Hdr) (from_ : BitVec 32) (count : BitVec 16) (s : State) : Out3 :=
  receive t h (.diagEventsRead from_ count) s

def execDiagEcho (t : Nat) (h : Hdr) (body : List Byte) (s : State) : Out3 := receive t h (.diagEcho body) s

def execDiagDumpRead (t : Nat) (h : Hdr) (dump : BitVec 16) (offset : BitVec 64) (len : BitVec 32) (s : State) : Out3 :=
  receive t h (.diagDumpRead dump offset len) s

def execOpKeywayReset (t : Nat) (h : Hdr) (s : State) : Out3 := receive t h (.opKeywayReset) s

def execOpReset (t : Nat) (h : Hdr) (unit : BitVec 16) (level : BitVec 8) (s : State) : Out3 :=
  receive t h (.opReset unit level) s

def execOpChannelClear (t : Nat) (h : Hdr) (shelf ch : BitVec 8) (s : State) : Out3 := receive t h (.opChannelClear shelf ch) s

def execOpShareKeyCreate (t : Nat) (h : Hdr) (label : BitVec 128) (s : State) : Out3 := receive t h (.opShareKeyCreate label) s

def execOpShareKeyDelete (t : Nat) (h : Hdr) (ref : BitVec 32) (s : State) : Out3 := receive t h (.opShareKeyDelete ref) s

def execOpTimeStep (t : Nat) (h : Hdr) (s : State) : Out3 := receive t h (.opTimeStep) s

def execOpLogRead (t : Nat) (h : Hdr) (from_ : BitVec 64) (count : BitVec 16) (s : State) : Out3 :=
  receive t h (.opLogRead from_ count) s

def execOpServiceStatus (t : Nat) (h : Hdr) (s : State) : Out3 := receive t h (.opServiceStatus) s

/-- PROTOCOL_ERROR. -/
def execProtocolError (t : Nat) (h : Hdr) (f : FrameFault) (s : State) : Out3 := protocolFault t h f s

/-- FENCED_COMMAND_START: the waiting commands of a session start once the operations before them have completed (R63, R377). -/
def execFencedCommandStart (t : Nat) (e : Ep) (session : BitVec 16) (s : State) : Out3 :=
  let s := s.tick t
  match s.bearing? e session.toNat with
  | none => .next s
  | some q => .next (s.startAll e q.ref q.waiting.length)

/-- The reply of a lookup, or the FENCE_DONE of one that had waited (R197, R377). -/
def State.endLookup (s : State) (l : Lookup) (status : Nat) (body : List Byte) : State :=
  match l.lateOp with
  | none => s.answer { ep := .kw l.kw, h := l.hdr, session := l.session, epoch := l.epoch, arrived := l.arrived }
      0x0301 status l.epoch body
  | some id =>
    (s.endOp id).raiseS (.kw l.kw) l.session Ev.fenceDone (be 4 l.hdr.seq.toNat ++ be 2 0x0301 ++ be 2 status ++ body)

/-- A lookup that was not refused ends: found blocks are pinned under a handle, and counted (R196, R198, R207). A search that has
not finished is a miss at block 0. -/
def State.finishLookup (s : State) (l : Lookup) (finished : Bool) : State :=
  let found := if finished then l.found else []
  let n := found.length
  let warm := (found.filter fun f => f.2.2).length
  let handle := if n = 0 then 0 else s.pickId 1 (2 ^ 32) ((s.kw l.kw).handles.map Handle.num)
  let x : Handle := { num := handle, session := l.session, blocks := found.map fun f => (f.1, f.2.1),
                      expires := s.osc + s.rackSet 0x0402#16 * 1000000000, ended := false }
  let kept := n ≠ 0 && (s.session? (.kw l.kw) l.session).isSome
  let s := if kept then s.modKw l.kw fun w => { w with handles := w.handles ++ [x] } else s
  let s := (((s.krBump l.kw 0 1).krBump l.kw 1 (n - warm)).krBump l.kw 2 warm).krBump l.kw 6 (if finished then 0 else 1)
  (if n = 0 then s else s.useFresh 1).endLookup l St.ok (be 2 n ++ be 4 handle ++ warmBitmap l.blocks found)

/-- The waiting lookup whose interval ends first; of those due together the one that came first. -/
def nextDue : List Lookup → Option Lookup
  | [] => none
  | l :: ls =>
    match nextDue ls with
    | some m => if m.due < l.due then some m else some l
    | none => some l

/-- KR_LOOKUP_REPLY: the reply whose interval ends first leaves at its end, within 0.5 us, whatever other lookups wait (R197). -/
def execKrLookupReply (t : Nat) (finished : Bool) (s : State) : Out3 :=
  let s := s.tick t
  match nextDue s.lookups with
  | none => .next s
  | some l =>
    if l.due ≤ s.osc + 500 then
      let s := { s with lookups := s.lookups.erase l }
      if l.status = St.ok then .next ((s.finishLookup l (finished && l.reached)).krSweep)
      else .next (s.endLookup l l.status (if l.status = St.epochChanged then be 4 l.epoch.toNat else []))
    else .next s

end Sys2Proof.Machine
end

