-- ==== Sys2Proof/Machine/Dispatch.lean ====
section
/-! DEFINITION. The dispatch: one arm per command, one direct call of its meaning. -/

namespace Sys2Proof.Machine

def exec (i : Instr) (s : State) : Host.Outcome State Fault Refusal :=
  match i with
  | .hello t h => Sys2Proof.Machine.execHello t h s
  | .sessionOpen t h a => Sys2Proof.Machine.execSessionOpen t h a s
  | .sessionClose t h => Sys2Proof.Machine.execSessionClose t h s
  | .eventAck t h evSeq => Sys2Proof.Machine.execEventAck t h evSeq s
  | .ping t h => Sys2Proof.Machine.execPing t h s
  | .memRegister t h addr len access => Sys2Proof.Machine.execMemRegister t h addr len access s
  | .memDeregister t h rkey => Sys2Proof.Machine.execMemDeregister t h rkey s
  | .qpCreate t h a => Sys2Proof.Machine.execQpCreate t h a s
  | .qpDestroy t h qpn => Sys2Proof.Machine.execQpDestroy t h qpn s
  | .memFill t h addr len pattern => Sys2Proof.Machine.execMemFill t h addr len pattern s
  | .memCopy t h src dst len => Sys2Proof.Machine.execMemCopy t h src dst len s
  | .xferOut t h a => Sys2Proof.Machine.execXferOut t h a s
  | .xferIn t h a => Sys2Proof.Machine.execXferIn t h a s
  | .xferDone t op r => Sys2Proof.Machine.execXferDone t op r s
  | .progLoad t h config addr len img => Sys2Proof.Machine.execProgLoad t h config addr len img s
  | .calLoad t h config addr len => Sys2Proof.Machine.execCalLoad t h config addr len s
  | .progStart t h config => Sys2Proof.Machine.execProgStart t h config s
  | .progStop t h drain => Sys2Proof.Machine.execProgStop t h drain s
  | .progStopped t p => Sys2Proof.Machine.execProgStopped t p s
  | .progStatus t h => Sys2Proof.Machine.execProgStatus t h s
  | .krLookup t h addr blocks mask => Sys2Proof.Machine.execKrLookup t h addr blocks mask s
  | .krLookupReply t finished => Sys2Proof.Machine.execKrLookupReply t finished s
  | .krInsert t h tokAddr kvAddr first blocks slot => Sys2Proof.Machine.execKrInsert t h tokAddr kvAddr first blocks slot s
  | .krInsertCommit t idx key => Sys2Proof.Machine.execKrInsertCommit t idx key s
  | .krFetch t h handle dst => Sys2Proof.Machine.execKrFetch t h handle dst s
  | .krFetchDone t op => Sys2Proof.Machine.execKrFetchDone t op s
  | .vaultRefetch t op g ok => Sys2Proof.Machine.execVaultRefetch t op g ok s
  | .krRelease t h handle => Sys2Proof.Machine.execKrRelease t h handle s
  | .krHandleTtlExpiry t k handle => Sys2Proof.Machine.execKrHandleTtlExpiry t k handle s
  | .krUsage t h slot => Sys2Proof.Machine.execKrUsage t h slot s
  | .tokLoad t h model addr len => Sys2Proof.Machine.execTokLoad t h model addr len s
  | .reqSubmit t h a => Sys2Proof.Machine.execReqSubmit t h a s
  | .reqSource t h a => Sys2Proof.Machine.execReqSource t h a s
  | .heldSourceExpiry t k tag => Sys2Proof.Machine.execHeldSourceExpiry t k tag s
  | .alignDeadline t k tag => Sys2Proof.Machine.execAlignDeadline t k tag s
  | .asm t k tag => Sys2Proof.Machine.execAsm t k tag s
  | .tok t k tag => Sys2Proof.Machine.execTok t k tag s
  | .dlt t k tag => Sys2Proof.Machine.execDlt t k tag s
  | .lkp t k tag finished => Sys2Proof.Machine.execLkp t k tag finished s
  | .res t k tag refetched recomputed => Sys2Proof.Machine.execRes t k tag refetched recomputed s
  | .batchWaitExpiry t p batch => Sys2Proof.Machine.execBatchWaitExpiry t p batch s
  | .batchTaken t p => Sys2Proof.Machine.execBatchTaken t p s
  | .prefillChunkDone t k tag => Sys2Proof.Machine.execPrefillChunkDone t k tag s
  | .prefillComplete t k tag => Sys2Proof.Machine.execPrefillComplete t k tag s
  | .decodeStep t k tag => Sys2Proof.Machine.execDecodeStep t k tag s
  | .reqCancel t h tag => Sys2Proof.Machine.execReqCancel t h tag s
  | .reqStatus t h tag => Sys2Proof.Machine.execReqStatus t h tag s
  | .reqTokens t h tag first count => Sys2Proof.Machine.execReqTokens t h tag first count s
  | .reqRecordExpiry t k tag => Sys2Proof.Machine.execReqRecordExpiry t k tag s
  | .deltaForget t h => Sys2Proof.Machine.execDeltaForget t h s
  | .cgCreate t h members timeout => Sys2Proof.Machine.execCgCreate t h members timeout s
  | .cgDestroy t h group => Sys2Proof.Machine.execCgDestroy t h group s
  | .cgStatus t h group => Sys2Proof.Machine.execCgStatus t h group s
  | .setGet t h id => Sys2Proof.Machine.execSetGet t h id s
  | .setSet t h id value => Sys2Proof.Machine.execSetSet t h id value s
  | .setLatch t h id value => Sys2Proof.Machine.execSetLatch t h id value s
  | .setTurn t h => Sys2Proof.Machine.execSetTurn t h s
  | .setStore t h id => Sys2Proof.Machine.execSetStore t h id s
  | .setDiscard t h => Sys2Proof.Machine.execSetDiscard t h s
  | .partShapeWrite t h value => Sys2Proof.Machine.execPartShapeWrite t h value s
  | .kwShareSlotWrite t h slot value => Sys2Proof.Machine.execKwShareSlotWrite t h slot value s
  | .kwBindingWrite t h value => Sys2Proof.Machine.execKwBindingWrite t h value s
  | .fabAcceptTestWrite t h value => Sys2Proof.Machine.execFabAcceptTestWrite t h value s
  | .rackAcceptedWrite t h value => Sys2Proof.Machine.execRackAcceptedWrite t h value s
  | .pwrState t h state retain => Sys2Proof.Machine.execPwrState t h state retain s
  | .powerStateChanged t p => Sys2Proof.Machine.execPowerStateChanged t p s
  | .pwrCap t h watts => Sys2Proof.Machine.execPwrCap t h watts s
  | .pwrRead t h => Sys2Proof.Machine.execPwrRead t h s
  | .policySet t h dividerMax rotation period => Sys2Proof.Machine.execPolicySet t h dividerMax rotation period s
  | .tmbLoad t h addr len flags => Sys2Proof.Machine.execTmbLoad t h addr len flags s
  | .tmbRun t h problem seed sweeps sched => Sys2Proof.Machine.execTmbRun t h problem seed sweeps sched s
  | .tmbSweep t chip => Sys2Proof.Machine.execTmbSweep t chip s
  | .tumblerSlice t chip => Sys2Proof.Machine.execTumblerSlice t chip s
  | .tmbDone t chip => Sys2Proof.Machine.execTmbDone t chip s
  | .tmbResult t h problem dst => Sys2Proof.Machine.execTmbResult t h problem dst s
  | .tmbFree t h problem => Sys2Proof.Machine.execTmbFree t h problem s
  | .diagCounters t h cls unit => Sys2Proof.Machine.execDiagCounters t h cls unit s
  | .diagEventsRead t h from_ count => Sys2Proof.Machine.execDiagEventsRead t h from_ count s
  | .diagEcho t h body => Sys2Proof.Machine.execDiagEcho t h body s
  | .diagDumpRead t h dump offset len => Sys2Proof.Machine.execDiagDumpRead t h dump offset len s
  | .opKeywayReset t h => Sys2Proof.Machine.execOpKeywayReset t h s
  | .opReset t h unit level => Sys2Proof.Machine.execOpReset t h unit level s
  | .opChannelClear t h shelf ch => Sys2Proof.Machine.execOpChannelClear t h shelf ch s
  | .opShareKeyCreate t h label => Sys2Proof.Machine.execOpShareKeyCreate t h label s
  | .opShareKeyDelete t h ref => Sys2Proof.Machine.execOpShareKeyDelete t h ref s
  | .opTimeStep t h => Sys2Proof.Machine.execOpTimeStep t h s
  | .opLogRead t h from_ count => Sys2Proof.Machine.execOpLogRead t h from_ count s
  | .opServiceStatus t h => Sys2Proof.Machine.execOpServiceStatus t h s
  | .seqGapHoldExpiry t e session => Sys2Proof.Machine.execSeqGapHoldExpiry t e session s
  | .fencedCommandStart t e session => Sys2Proof.Machine.execFencedCommandStart t e session s
  | .sessionExpired t e session => Sys2Proof.Machine.execSessionExpired t e session s
  | .eventResend t e session evSeq => Sys2Proof.Machine.execEventResend t e session evSeq s
  | .rdmaWrite t r data => Sys2Proof.Machine.execRdmaWrite t r data s
  | .rdmaWriteImmediate t r data imm => Sys2Proof.Machine.execRdmaWriteImmediate t r data imm s
  | .rdmaRead t r => Sys2Proof.Machine.execRdmaRead t r s
  | .rdmaRefusedOperation t port src qpn => Sys2Proof.Machine.execRdmaRefusedOperation t port src qpn s
  | .hostNakReceived t port src qpn syndrome => Sys2Proof.Machine.execHostNakReceived t port src qpn syndrome s
  | .qpAckTimeout t k qpn => Sys2Proof.Machine.execQpAckTimeout t k qpn s
  | .cnpReceived t port src qpn => Sys2Proof.Machine.execCnpReceived t port src qpn s
  | .hostFrameIngress t port f => Sys2Proof.Machine.execHostFrameIngress t port f s
  | .cellSend t c q m => Sys2Proof.Machine.execCellSend t c q m s
  | .cellReceive t c q => Sys2Proof.Machine.execCellReceive t c q s
  | .blockedInstructionComplete t c => Sys2Proof.Machine.execBlockedInstructionComplete t c s
  | .messageArrival t src q => Sys2Proof.Machine.execMessageArrival t src q s
  | .scheduleEntryIssue t c lost => Sys2Proof.Machine.execScheduleEntryIssue t c lost s
  | .taggedFire t c => Sys2Proof.Machine.execTaggedFire t c s
  | .fabricSend t c q m => Sys2Proof.Machine.execFabricSend t c q m s
  | .cellSwap t c => Sys2Proof.Machine.execCellSwap t c s
  | .calendarSwitch t chip => Sys2Proof.Machine.execCalendarSwitch t chip s
  | .deadboltSample t chip p => Sys2Proof.Machine.execDeadboltSample t chip p s
  | .deadboltSpill t chip p => Sys2Proof.Machine.execDeadboltSpill t chip p s
  | .queueRefill t c q => Sys2Proof.Machine.execQueueRefill t c q s
  | .rotationHinge t p => Sys2Proof.Machine.execRotationHinge t p s
  | .reportingPeriodEnd t p => Sys2Proof.Machine.execReportingPeriodEnd t p s
  | .fabricPacketReceived t chip port hdr payload crc symbols => Sys2Proof.Machine.execFabricPacketReceived t chip port hdr payload crc symbols s
  | .packetForward t at_ => Sys2Proof.Machine.execPacketForward t at_ s
  | .switchForward t sw port pkt crc symbols => Sys2Proof.Machine.execSwitchForward t sw port pkt crc symbols s
  | .linkQuarantine t l => Sys2Proof.Machine.execLinkQuarantine t l s
  | .quarantineTestDone t l unc bers => Sys2Proof.Machine.execQuarantineTestDone t l unc bers s
  | .prio0Send t chip => Sys2Proof.Machine.execPrio0Send t chip s
  | .prio0Received t chip src xseq forced dst b => Sys2Proof.Machine.execPrio0Received t chip src xseq forced dst b s
  | .laneTestStart t l => Sys2Proof.Machine.execLaneTestStart t l s
  | .laneTestEnd t l bers => Sys2Proof.Machine.execLaneTestEnd t l bers s
  | .mmRs t p group member a => Sys2Proof.Machine.execMmRs t p group member a s
  | .mmAr t p group member a => Sys2Proof.Machine.execMmAr t p group member a s
  | .agMm t p group member a => Sys2Proof.Machine.execAgMm t p group member a s
  | .ar t p group member a => Sys2Proof.Machine.execAr t p group member a s
  | .ag t p group member a => Sys2Proof.Machine.execAg t p group member a s
  | .ringStep t p group seq member => Sys2Proof.Machine.execRingStep t p group seq member s
  | .doneMarkReceived t p group seq member bitmap => Sys2Proof.Machine.execDoneMarkReceived t p group seq member bitmap s
  | .collectiveTimeout t p group seq member => Sys2Proof.Machine.execCollectiveTimeout t p group seq member s
  | .memberDeparture t p group member departed => Sys2Proof.Machine.execMemberDeparture t p group member departed s
  | .abortNoticeReceived t p group seq member status => Sys2Proof.Machine.execAbortNoticeReceived t p group seq member status s
  | .collectiveFinalise t p group seq member => Sys2Proof.Machine.execCollectiveFinalise t p group seq member s
  | .placementRun t plan costGainPercent => Sys2Proof.Machine.execPlacementRun t plan costGainPercent s
  | .shardMapRun t map => Sys2Proof.Machine.execShardMapRun t map s
  | .rotationPlan t chip p plan complete => Sys2Proof.Machine.execRotationPlan t chip p plan complete s
  | .channelPowerOn t c => Sys2Proof.Machine.execChannelPowerOn t c s
  | .softstartEnd t c percent => Sys2Proof.Machine.execSoftstartEnd t c percent s
  | .channelTripped t c lowOutput peakMa => Sys2Proof.Machine.execChannelTripped t c lowOutput peakMa s
  | .softstartRetry t c sagUs lowestMv => Sys2Proof.Machine.execSoftstartRetry t c sagUs lowestMv s
  | .channelLeakCut t c => Sys2Proof.Machine.execChannelLeakCut t c s
  | .conversionLost t x converterFault => Sys2Proof.Machine.execConversionLost t x converterFault s
  | .conversionRestored t x => Sys2Proof.Machine.execConversionRestored t x s
  | .rideThroughEnd t => Sys2Proof.Machine.execRideThroughEnd t s
  | .energyFloor t units => Sys2Proof.Machine.execEnergyFloor t units s
  | .chargeDisputed t unit count volt => Sys2Proof.Machine.execChargeDisputed t unit count volt s
  | .calibrationStart t unit => Sys2Proof.Machine.execCalibrationStart t unit s
  | .calibrationEnd t unit capacityWh => Sys2Proof.Machine.execCalibrationEnd t unit capacityWh s
  | .loadFall t d => Sys2Proof.Machine.execLoadFall t d s
  | .ballastDecay t => Sys2Proof.Machine.execBallastDecay t s
  | .thermalThrottle t chip sensor temp => Sys2Proof.Machine.execThermalThrottle t chip sensor temp s
  | .throttleStep t chip sensor temp => Sys2Proof.Machine.execThrottleStep t chip sensor temp s
  | .thermalRecover t chip quad temp => Sys2Proof.Machine.execThermalRecover t chip quad temp s
  | .hbmThrottle t chip stack temp => Sys2Proof.Machine.execHbmThrottle t chip stack temp s
  | .thermalTrip t x temp => Sys2Proof.Machine.execThermalTrip t x temp s
  | .sensorFailed t x => Sys2Proof.Machine.execSensorFailed t x s
  | .fanFault t tray fan rpm => Sys2Proof.Machine.execFanFault t tray fan rpm s
  | .allowanceChanged t tray => Sys2Proof.Machine.execAllowanceChanged t tray s
  | .trayThermalStop t tray => Sys2Proof.Machine.execTrayThermalStop t tray s
  | .trayRestart t tray => Sys2Proof.Machine.execTrayRestart t tray s
  | .leakDetected t tray sensor => Sys2Proof.Machine.execLeakDetected t tray sensor s
  | .rackLeak t => Sys2Proof.Machine.execRackLeak t s
  | .leakSensorFault t tray sensor => Sys2Proof.Machine.execLeakSensorFault t tray sensor s
  | .unitSilent t unit lastPoll => Sys2Proof.Machine.execUnitSilent t unit lastPoll s
  | .controllerRestart t unit cause => Sys2Proof.Machine.execControllerRestart t unit cause s
  | .presenceChange t harness endA id far => Sys2Proof.Machine.execPresenceChange t harness endA id far s
  | .moduleInserted t p m => Sys2Proof.Machine.execModuleInserted t p m s
  | .moduleRemoved t p => Sys2Proof.Machine.execModuleRemoved t p s
  | .logRecordCommit t after => Sys2Proof.Machine.execLogRecordCommit t after s
  | .uartCharacterReceived t unit ch firstLow => Sys2Proof.Machine.execUartCharacterReceived t unit ch firstLow s
  | .timeOfDayMessage t unit head seq tNext tail => Sys2Proof.Machine.execTimeOfDayMessage t unit head seq tNext tail s
  | .timeMessageMissed t unit => Sys2Proof.Machine.execTimeMessageMissed t unit s
  | .ppsPulse t deviationNs => Sys2Proof.Machine.execPpsPulse t deviationNs s
  | .timeSourceLost t pps uLockNs => Sys2Proof.Machine.execTimeSourceLost t pps uLockNs s
  | .timeQualityDecay t => Sys2Proof.Machine.execTimeQualityDecay t s
  | .timeSourceLocked t pps thetaNs seconds => Sys2Proof.Machine.execTimeSourceLocked t pps thetaNs seconds s
  | .timeSlewEnd t thetaNs rate => Sys2Proof.Machine.execTimeSlewEnd t thetaNs rate s
  | .powerUp t r => Sys2Proof.Machine.execPowerUp t r s
  | .acceptTestPhaseEnd t results => Sys2Proof.Machine.execAcceptTestPhaseEnd t results s
  | .progressWatchdog t p chip => Sys2Proof.Machine.execProgressWatchdog t p chip s
  | .engineWatchdog t p chip block => Sys2Proof.Machine.execEngineWatchdog t p chip block s
  | .poisonConsumed t p addr => Sys2Proof.Machine.execPoisonConsumed t p addr s
  | .keeperWatchdog t chip => Sys2Proof.Machine.execKeeperWatchdog t chip s
  | .chipPollTimeout t chip => Sys2Proof.Machine.execChipPollTimeout t chip s
  | .hbmErrorRate t chip stack => Sys2Proof.Machine.execHbmErrorRate t chip stack s
  | .resetStarted t => Sys2Proof.Machine.execResetStarted t s
  | .resetDone t scope selfTestOk => Sys2Proof.Machine.execResetDone t scope selfTestOk s
  | .resetDeadline t scope => Sys2Proof.Machine.execResetDeadline t scope s
  | .level5Retry t tray => Sys2Proof.Machine.execLevel5Retry t tray s
  | .drainAttempt t p => Sys2Proof.Machine.execDrainAttempt t p s
  | .quiescePoint t p => Sys2Proof.Machine.execQuiescePoint t p s
  | .drainStop t p => Sys2Proof.Machine.execDrainStop t p s
  | .unitTurn t u => Sys2Proof.Machine.execUnitTurn t u s
  | .turnDeadline t => Sys2Proof.Machine.execTurnDeadline t s
  | .protocolError t h f => Sys2Proof.Machine.execProtocolError t h f s
  | .loadRise t riseW => Sys2Proof.Machine.execLoadRise t riseW s
  | .leakSensorDry t tray sensor => Sys2Proof.Machine.execLeakSensorDry t tray sensor s
  | .thermalTripRestart t chip readings => Sys2Proof.Machine.execThermalTripRestart t chip readings s
  | .escalateWindowExpiry t scope => Sys2Proof.Machine.execEscalateWindowExpiry t scope s
  | .switchTrayFailure t x => Sys2Proof.Machine.execSwitchTrayFailure t x s
  | .rmuProcessorRestart t => Sys2Proof.Machine.execRmuProcessorRestart t s
  | .redfishRequest t a r => Sys2Proof.Machine.execRedfishRequest t a r s
  | .trayCoolingSample t tray x => Sys2Proof.Machine.execTrayCoolingSample t tray x s

end Sys2Proof.Machine
end

