-- ==== Sys2Proof/Safety.lean ====
section
/-! DEFINITION. The terms claims are made in: a command that arrives in its turn and passes its checks, its answer, and what a state
keeps whatever is commanded. -/

namespace Sys2Proof.Safety

open Sys2Proof.Machine

/-- The command of an opcode row: its instant, its packet's header and its body. Event rows have none. -/
def packetOf : Instr → Option (Nat × Hdr × Body)
  | .hello t h => some (t, h, .hello)
  | .sessionOpen t h a => some (t, h, .sessionOpen a)
  | .sessionClose t h => some (t, h, .sessionClose)
  | .eventAck t h q => some (t, h, .eventAck q)
  | .ping t h => some (t, h, .ping)
  | .memRegister t h a n x => some (t, h, .memRegister a n x)
  | .memDeregister t h r => some (t, h, .memDeregister r)
  | .qpCreate t h a => some (t, h, .qpCreate a)
  | .qpDestroy t h q => some (t, h, .qpDestroy q)
  | .memFill t h a n x => some (t, h, .memFill a n x)
  | .memCopy t h a d n => some (t, h, .memCopy a d n)
  | .xferOut t h a => some (t, h, .xferOut a)
  | .xferIn t h a => some (t, h, .xferIn a)
  | .progLoad t h g a n img => some (t, h, .progLoad g a n img)
  | .calLoad t h g a n => some (t, h, .calLoad g a n)
  | .progStart t h g => some (t, h, .progStart g)
  | .progStop t h d => some (t, h, .progStop d)
  | .progStatus t h => some (t, h, .progStatus)
  | .krLookup t h a n m => some (t, h, .krLookup a n m)
  | .krInsert t h a k f n x => some (t, h, .krInsert a k f n x)
  | .krFetch t h x d => some (t, h, .krFetch x d)
  | .krRelease t h x => some (t, h, .krRelease x)
  | .krUsage t h x => some (t, h, .krUsage x)
  | .tokLoad t h m a n => some (t, h, .tokLoad m a n)
  | .reqSubmit t h a => some (t, h, .reqSubmit a)
  | .reqSource t h a => some (t, h, .reqSource a)
  | .reqCancel t h g => some (t, h, .reqCancel g)
  | .reqStatus t h g => some (t, h, .reqStatus g)
  | .reqTokens t h g f n => some (t, h, .reqTokens g f n)
  | .deltaForget t h => some (t, h, .deltaForget)
  | .cgCreate t h m x => some (t, h, .cgCreate m x)
  | .cgDestroy t h g => some (t, h, .cgDestroy g)
  | .cgStatus t h g => some (t, h, .cgStatus g)
  | .setGet t h i => some (t, h, .setGet i)
  | .setSet t h i v => some (t, h, .setSet i v)
  | .setLatch t h i v => some (t, h, .setLatch i v)
  | .setTurn t h => some (t, h, .setTurn)
  | .setStore t h i => some (t, h, .setStore i)
  | .setDiscard t h => some (t, h, .setDiscard)
  | .partShapeWrite t h v => some (t, h, .setSet 0x0201#16 v)
  | .kwShareSlotWrite t h n v => some (t, h, .setSet (BitVec.ofNat 16 (0x0110 + n.val)) v)
  | .kwBindingWrite t h v => some (t, h, .setSet 0x0101#16 v)
  | .fabAcceptTestWrite t h v => some (t, h, .setSet 0x0304#16 v)
  | .rackAcceptedWrite t h v => some (t, h, .setSet 0x0A20#16 v)
  | .pwrState t h x r => some (t, h, .pwrState x r)
  | .pwrCap t h w => some (t, h, .pwrCap w)
  | .pwrRead t h => some (t, h, .pwrRead)
  | .policySet t h d r p => some (t, h, .policySet d r p)
  | .tmbLoad t h a n f => some (t, h, .tmbLoad a n f)
  | .tmbRun t h n x w a => some (t, h, .tmbRun n x w a)
  | .tmbResult t h n d => some (t, h, .tmbResult n d)
  | .tmbFree t h n => some (t, h, .tmbFree n)
  | .diagCounters t h x u => some (t, h, .diagCounters x u)
  | .diagEventsRead t h f n => some (t, h, .diagEventsRead f n)
  | .diagEcho t h x => some (t, h, .diagEcho x)
  | .diagDumpRead t h d o n => some (t, h, .diagDumpRead d o n)
  | .opKeywayReset t h => some (t, h, .opKeywayReset)
  | .opReset t h u l => some (t, h, .opReset u l)
  | .opChannelClear t h x y => some (t, h, .opChannelClear x y)
  | .opShareKeyCreate t h l => some (t, h, .opShareKeyCreate l)
  | .opShareKeyDelete t h r => some (t, h, .opShareKeyDelete r)
  | .opTimeStep t h => some (t, h, .opTimeStep)
  | .opLogRead t h f n => some (t, h, .opLogRead f n)
  | .opServiceStatus t h => some (t, h, .opServiceStatus)
  | _ => none

/-- The state in which a command of a session runs: the clock at its instant, the session's idle time renewed, E past it, and
its reply pending in the cache (R58, R60, R66). -/
def arrived (s : State) (t : Nat) (h : Hdr) (b : Body) (e : Ep) (n : SessRef) : State :=
  ((s.tick t).heard e n h).taking e n h b

/-- What a command of a session runs with: its packet arrived at this instant. -/
def ctxAt (s : State) (t : Nat) (h : Hdr) (b : Body) (e : Ep) (q : Session) : Ctx :=
  ctxOf (arrived s t h b e q.ref) e q.ref h (s.tick t).rackNs

/-- What a command of session 0 runs with. -/
def ctxZero (s : State) (t : Nat) (h : Hdr) (e : Ep) : Ctx := ctxOf (s.tick t) e SessRef.none h (s.tick t).rackNs

/-- A command packet that is admitted, on an open session that holds nothing back, with the SEQ that is due and no fence. -/
structure InTurn (s : State) (t : Nat) (h : Hdr) (e : Ep) (q : Session) : Prop where
  admitted : (s.tick t).letIn h = (s.tick t, some e)
  header : headerOk e h = true
  numbered : h.session ≠ 0
  session : (s.tick t).bearing? e h.session.toNat = some q
  due : h.seq = q.next
  noneHeld : q.held = []
  noneWaiting : q.waiting = []
  unfenced : h.fence = false

/-- Such a packet whose checks of arrival, epoch and reset state all pass. -/
structure Ready (s : State) (t : Nat) (h : Hdr) (b : Body) (e : Ep) (q : Session) : Prop extends InTurn s t h e q where
  checked : (arrived s t h b e q.ref).early (ctxAt s t h b e q) b = none
  epoch : h.epoch = 0
  available : (arrived s t h b e q.ref).unavailable (ctxAt s t h b e q) b = none

/-- The same on session 0, for the opcodes marked S (R65). -/
structure ReadyZero (s : State) (t : Nat) (h : Hdr) (b : Body) (e : Ep) : Prop where
  admitted : (s.tick t).letIn h = (s.tick t, some e)
  header : headerOk e h = true
  zero : h.session = 0
  marked : isSessionless b = true
  checked : (s.tick t).early (ctxZero s t h e) b = none
  epoch : h.epoch = 0
  available : (s.tick t).unavailable (ctxZero s t h e) b = none

/-- The command completes: the next state is `u`, the command's effect, with the reply of that status and body sent to the port it
came by and kept in the reply cache. -/
def Replies (i : Instr) (s : State) (t : Nat) (h : Hdr) (b : Body) (e : Ep) (q : Session) (u : State) (status : Nat)
    (body : List Byte) : Prop :=
  exec i s = .next (u.answer (ctxAt s t h b e q) (opcodeOf b) status ((arrived s t h b e q.ref).hdrEpoch h) body)

/-- The reply packet that a command's packet receives, under the epoch in force (R56, R61). -/
def replyPacket (a : State) (h : Hdr) (op status : Nat) (body : List Byte) : Out :=
  .packet h.via h.src h.udp h.keyway.toNat false false op h.seq (a.hdrEpoch h) h.session.toNat status a.clk.quality.code a.rackNs body

/-- An event goes out to a session, where it is open: to its event address, on the port of its latest command (R67). -/
def Told (a u : State) (e : Ep) (n : SessRef) (code : Nat) (body : List Byte) : Prop :=
  ∀ q, a.session? e n = some q → ∃ seq epoch,
    Out.packet q.lastVia q.evAddr q.evPort (epKeyway e) true false code seq epoch q.num 0 a.clk.quality.code a.rackNs body ∈ u.out

/-- Nothing holds a turn back: no rack-wide turn and no waiting one, no reset, and room for a further live epoch (R350, R353 to
R356). -/
structure Calm (a : State) : Prop where
  noTurn : a.turn = none
  noWaiting : a.partTurns = []
  noReset : a.resets = []
  room : ∀ p, (a.liveEpochs p).length < 16

/-- The fused operation's row (R170). -/
def launchRow (kind : Fused) (t : Nat) (p : PartId) (group member : Nat) (a : FusedArgs) : Instr :=
  match kind with
  | .mmRs => .mmRs t p group member a
  | .mmAr => .mmAr t p group member a
  | .agMm => .agMm t p group member a
  | .ar => .ar t p group member a
  | .ag => .ag t p group member a

/-- The rows that act as a SET_SET of a value: SET_SET itself and the writes of named settings. -/
def writeRow (i : Instr) (t : Nat) (h : Hdr) (id : BitVec 16) (v : List Byte) : Prop :=
  i = .setSet t h id v ∨ (id = 0x0201#16 ∧ i = .partShapeWrite t h v) ∨
    (∃ n : Fin 16, id = BitVec.ofNat 16 (0x0110 + n.val) ∧ i = .kwShareSlotWrite t h n v) ∨
    (id = 0x0101#16 ∧ i = .kwBindingWrite t h v) ∨ (id = 0x0304#16 ∧ i = .fabAcceptTestWrite t h v) ∨
    (id = 0x0A20#16 ∧ i = .rackAcceptedWrite t h v)

/-- The region MEM_REGISTER lists (R48). -/
def newRegion (rkey : BitVec 32) (addr : Addr) (len : BitVec 64) (access : BitVec 8) : MemReg :=
  { rkey := rkey, addr := addr, len := len.toNat, remoteRead := access.getLsbD 0, remoteWrite := access.getLsbD 1 }

/-- The queue pair QP_CREATE lists, working and with no retry used (R373). -/
def newPair (qpn psn : BitVec 24) (a : QpArgs) (since : Nat) : Qp :=
  { qpn := qpn, psn := psn, gid := a.gid, hostQpn := a.hostQpn, hostPsn := a.hostPsn, retry := a.retry.toNat,
    timeout := a.timeout.toNat, error := false, retriesUsed := 0, since := since }

/-- A battery unit after its calibration (R261). -/
def fullUnit (wh : Nat) : Battery :=
  { countPct := 100, voltPct := 100, disputed := false, calibrating := false, capacityWh := wh }

/-- The block keys and data of a KR_INSERT: block j of the source, under its key in the slot's share key (R186, R201). -/
def insertedBlocks (a : State) (p : PartId) (v : Part) (q : Session) (i : Fin 128) (tok kv : Addr) (first n kvb : Nat) :
    List (BitVec 128 × Memory) :=
  let keys := (chainKeys q.model q.cut (v.shape.word q.cut) (tokensOf (a.tread p tok (1024 * (first + n))))).drop first
  (List.range n).filterMap fun j =>
    (keys[j]?).map fun ck => (blockKey (a.shareKey i).value ck, a.hbmSlice (a.phys p kv + j * kvb) kvb)

/-- The largest block size of a handle's blocks (R199). -/
def handleKvb (a : State) (p : PartId) (d : Handle) : Nat :=
  (d.blocks.map fun b =>
    match (a.part p).bind fun v => v.hot? b.1 b.2 with
    | some x => x.kvb
    | none =>
      match a.kr.dir.find? fun w => w.idx = b.1 && w.key = b.2 with
      | some w => w.kvb
      | none => 0).foldl max 0

/-- Rows that neither store to memory nor change settings, resets or turns: power, cooling, supervision, rack time and detectors. -/
def observes : Instr → Bool
  | .channelPowerOn .. | .softstartEnd .. | .channelTripped .. | .softstartRetry .. | .channelLeakCut .. => true
  | .conversionLost .. | .conversionRestored .. | .chargeDisputed .. | .calibrationStart .. | .calibrationEnd .. => true
  | .loadFall .. | .ballastDecay .. | .loadRise .. => true
  | .thermalThrottle .. | .throttleStep .. | .thermalRecover .. | .hbmThrottle .. | .thermalTrip .. => true
  | .thermalTripRestart .. | .sensorFailed .. | .fanFault .. | .allowanceChanged .. | .trayCoolingSample .. => true
  | .trayThermalStop .. | .trayRestart .. | .leakDetected .. | .rackLeak .. | .leakSensorFault .. | .leakSensorDry .. => true
  | .unitSilent .. | .controllerRestart .. | .presenceChange .. | .moduleInserted .. | .moduleRemoved .. => true
  | .logRecordCommit .. | .uartCharacterReceived .. | .rmuProcessorRestart .. | .switchTrayFailure .. => true
  | .timeOfDayMessage .. | .timeMessageMissed .. | .ppsPulse .. | .timeSourceLost .. | .timeQualityDecay .. => true
  | .timeSourceLocked .. | .timeSlewEnd .. => true
  | .progressWatchdog .. | .engineWatchdog .. | .poisonConsumed .. | .keeperWatchdog .. | .chipPollTimeout .. => true
  | .hbmErrorRate .. | .escalateWindowExpiry .. => true
  | .cnpReceived .. | .hostFrameIngress .. | .rdmaRefusedOperation .. => true
  | _ => false

/-- What of a partition no such row changes. -/
def anchored (v : Part) : Shape × BitVec 32 × List Configuration × Option Configuration × Nat × ProgState :=
  (v.shape, v.epoch, v.configs, v.running, v.hinges, v.prog)

/-- The rack-wide memory of a rule that never loosens: locked-out units stay so, and service due never clears (R323, R324). -/
def KeepsLockouts (s t : State) : Prop :=
  (∀ n, s.chipLocked n = true → t.chipLocked n = true) ∧ (∀ y, y ∈ s.lockedTrays → y ∈ t.lockedTrays) ∧
    (s.serviceDue = true → t.serviceDue = true)

end Sys2Proof.Safety
end

