-- ==== Sys2Proof/Certificates/Slice0/Obligations.lean ====
section
/-! DEFINITION. The statements for the provers: one `def Obligations.<Name> : Prop` each, listed in OBLIGATIONS.json. -/

open Sys2Proof Sys2Proof.Machine Sys2Proof.Safety

/-! ### The queue -/

/-- A step takes the command at the front of the queue and is its meaning on the state with the queue's rest; an empty queue
idles (log 1). -/
def Obligations.StepRunsFrontCommand : Prop :=
  (∀ (c : Instr) (rest : List Instr) (s : State), s.pending = c :: rest → step s = exec c { s with pending := rest }) ∧
    ∀ s : State, s.pending = [] → step s = .next s

/-! ### Command packets: admission, sequence, replies -/

/-- Every command packet of a session that arrives in its turn and passes its checks runs its opcode's handler, and is answered
once with the handler's status and body under the epoch in force, the answer being kept in the cache (R58, R60, R61, R64). The
reply of a KR_LOOKUP leaves later (R197); a firmware fault takes a dump first (R73). Where the manual leaves it open, this is
the model's choice (log 64, log 107, log 111). -/
def Obligations.CommandRunsAndIsAnswered : Prop :=
  ∀ (i : Instr) (s : State) (t : Nat) (h : Hdr) (b : Body) (e : Ep) (q : Session),
    packetOf i = some (t, h, b) → Ready s t h b e q →
      ∀ r : Res, runOp (ctxAt s t h b e q) b (arrived s t h b e q.ref) = r → r.later = false →
        r.status ≠ St.internalError → (∀ a n m, b ≠ .krLookup a n m) → Replies i s t h b e q r.s r.status r.body

/-- A packet of a host port that fails admission has no effect but the port's admission count; one whose source or keyway does
not match receives no reply (R46). A packet of wrong form that passes admission is counted and gets no reply; one of an
unknown version gets BAD_VERSION with version 1 in its body (R55, R57). -/
def Obligations.BadPacketsAreCounted : Prop :=
  (∀ (i : Instr) (s : State) (t : Nat) (h : Hdr) (b : Body) (p : HostPortId),
      packetOf i = some (t, h, b) → h.via = .host p → (s.tick t).portLive p = true →
        h.udp.toNat = (s.tick t).rackSet 0x0104#16 →
        (∀ k : KwId, h.keyway.toNat = k.val → ((s.tick t).admits && (s.tick t).speaksFor p h.src k) = false) →
        exec i s = .next ((s.tick t).countAdmission p)) ∧
  ∀ (s : State) (t : Nat) (h : Hdr) (e : Ep), (s.tick t).letIn h = (s.tick t, some e) →
    (∀ f, f = .badMagic ∨ f = .badCrc ∨ f = .badLength ∨ f = .replyOrEvent →
      exec (.protocolError t h f) s = .next ((s.tick t).countProto h.via)) ∧
    ∀ v op, exec (.protocolError t h (.badVersion v op)) s =
      .next ((s.tick t).reply h op.toNat St.badVersion ((s.tick t).hdrEpoch h) [1])

/-- A packet with the SEQ of a cached reply receives that reply again with RETRY set, and runs nothing (R60); one ahead of E by
at most 63 is held (R59); one further ahead receives SEQ_GAP with E; one before the last 256 receives STALE_SEQ. Where the
manual leaves it open, this is the model's choice (log 110). -/
def Obligations.SequenceOutOfTurn : Prop :=
  ∀ (i : Instr) (s : State) (t : Nat) (h : Hdr) (b : Body) (e : Ep) (q : Session),
    packetOf i = some (t, h, b) → (s.tick t).letIn h = (s.tick t, some e) → headerOk e h = true → h.session ≠ 0 →
      (s.tick t).bearing? e h.session.toNat = some q →
      let a := (s.tick t).heard e q.ref h
      let d := (h.seq - q.next).toNat
      (1 ≤ d → d ≤ 63 → (∀ x ∈ q.held, x.hdr.seq ≠ h.seq) →
        exec i s = .next (a.modSession e q.ref fun q =>
          { q with held := q.held ++ [{ hdr := h, body := b, since := a.osc, arrived := a.rackNs }] })) ∧
      (64 ≤ d → d < 2 ^ 31 →
        exec i s = .next (a.reply h (opcodeOf b) St.seqGap (a.hdrEpoch h) (be 4 q.next.toNat))) ∧
      (2 ^ 31 ≤ d → d < 2 ^ 32 - 256 → exec i s = .next (a.reply h (opcodeOf b) St.staleSeq (a.hdrEpoch h) [])) ∧
      ∀ r st, 2 ^ 32 - 256 ≤ d → (q.replies.find? fun r => r.seq = h.seq) = some r → r.status = some st →
        exec i s = .next (a.resend h r st)

/-- Session 0 keeps no sequence: an opcode marked S is answered at once, any other assigned one receives NO_SESSION (R65).
SESSION_OPEN on session 0 of either channel: a new nonce opens the next free number with E = 1 and its cut, by default that of the
keyway; a nonce opened in the last 10 s returns its number again without opening (R58, R70, R71, R133). Where the manual leaves it open, this is the model's choice (log
106, log 107). -/
def Obligations.SessionZeroCompletes : Prop :=
  (∀ (i : Instr) (s : State) (t : Nat) (h : Hdr) (b : Body) (e : Ep),
      packetOf i = some (t, h, b) →
        (ReadyZero s t h b e → ∀ r : Res, runOp (ctxZero s t h e) b (s.tick t) = r → r.status ≠ St.internalError →
          exec i s = .next (r.s.reply h (opcodeOf b) r.status ((s.tick t).hdrEpoch h) r.body)) ∧
        ((s.tick t).letIn h = (s.tick t, some e) → headerOk e h = true → h.session = 0 → opcodeKnown e b = true →
          isSessionless b = false →
          exec i s = .next ((s.tick t).reply h (opcodeOf b) St.noSession ((s.tick t).hdrEpoch h) (List.replicate 9 0)))) ∧
  ∀ (s : State) (t : Nat) (h : Hdr) (a : OpenArgs) (e : Ep), ReadyZero s t h (.sessionOpen a) e →
    let b := s.tick t
    let w := b.endp e
    let cut : BitVec 32 := match e with
      | .kw k => if a.cut = 0 then BitVec.ofNat 32 (b.setNum 0x0105#16 (.kw k)) else a.cut
      | .op => 0
    let again := w.sessions.find? fun q => q.nonce = a.nonce && decide (b.osc - q.openedAt ≤ 10000000000)
    (∀ q, again = some q → exec (.sessionOpen t h a) s = .next (b.reply h 0x0002 St.ok (b.hdrEpoch h) (be 2 q.num))) ∧
    (∀ n, again = none → (e ≠ .op → cutWellFormed cut = true ∧ Config.cuts.contains cut = true) →
      w.sessions.length < 1024 → w.nextNumber = some n →
      ∃ u q, exec (.sessionOpen t h a) s = .next u ∧ u.bearing? e n = some q ∧ q.num = n ∧ q.serial = w.opened ∧ q.next = 1 ∧
        q.cut = cut ∧ q.model = a.model ∧ q.nonce = a.nonce ∧ q.evAddr = a.evAddr ∧ q.evPort = a.evPort ∧
        q.eventsAll = a.flags.getLsbD 0 ∧ q.replies = [] ∧ (u.endp e).lastNum = n ∧ u.hbm = s.hbm ∧ u.parts = s.parts ∧
        u.cfg = s.cfg ∧
        (w.resetOwed = false → u.out = s.out ++ [replyPacket b h 0x0002 St.ok (be 2 n)] ∧
          ∀ x : Session, x ∈ w.sessions → x ∈ (u.endp e).sessions))

/-- HELLO on either channel, PING, EVENT_ACK and SESSION_CLOSE, as a session sends them: their effect, their status and the body
of their reply (R71). An acknowledgement takes the events up to its SEQ out of the session's queue (R68); a closed session is gone,
and stores nothing (R66). Where the manual leaves it open, this is the model's choice (log 110, log 123). -/
def Obligations.SessionCommandsComplete : Prop :=
  ∀ (s : State) (t : Nat) (h : Hdr) (e : Ep) (q : Session),
    (∀ k, Ready s t h .hello (.kw k) q →
      Replies (.hello t h) s t h .hello (.kw k) q (arrived s t h .hello (.kw k) q.ref) St.ok
        ((arrived s t h .hello (.kw k) q.ref).helloKw k)) ∧
    (Ready s t h .hello .op q →
      let a := arrived s t h .hello .op q.ref
      Replies (.hello t h) s t h .hello .op q a St.ok
        (helloBody 0 4 4 4 a.quadsInService 0 (Config.firmware a.rmu.fwB) a.rackEpoch)) ∧
    (Ready s t h .ping e q →
      Replies (.ping t h) s t h .ping e q (arrived s t h .ping e q.ref) St.ok []) ∧
    (∀ x, Ready s t h (.eventAck x) e q →
      Replies (.eventAck t h x) s t h (.eventAck x) e q
        ((arrived s t h (.eventAck x) e q.ref).modSession e q.ref fun q =>
          { q with unacked := q.unacked.filter fun u => !seqLe u.ev.seq x }) St.ok []) ∧
    (Ready s t h .sessionClose e q →
      ∃ u, Replies (.sessionClose t h) s t h .sessionClose e q u St.ok [] ∧ u.session? e q.ref = none ∧ u.hbm = s.hbm)

/-- A session whose limit has passed is told SESSION_EXPIRED and closes (R66); every command held for 2 ms receives SEQ_GAP with E
and is dropped without effect (R59); an event unacknowledged for 10 ms is sent again with RETRY, and leaves the queue after its
eighth send (R68). A fenced PING that waited starts once no operation of its session is left, and ends by FENCE_DONE (R63, R377).
Where the manual leaves it open, this is the model's choice (log 16, log 109). -/
def Obligations.SessionTimersComplete : Prop :=
  (∀ (s : State) (t : Nat) (e : Ep) (n : BitVec 16) (q : Session), (s.tick t).bearing? e n.toNat = some q →
      let a := s.tick t
      (q.lastCmd + a.idleNs e ≤ a.osc →
        ∃ u, exec (.sessionExpired t e n) s = .next u ∧
          u = (a.raiseS e q.ref Ev.sessionExpired (be 2 q.num)).closeSession e q.ref ∧ u.session? e q.ref = none) ∧
      ((∀ x ∈ q.held, x.since + 2000000 ≤ a.osc) →
        ∃ u r, exec (.seqGapHoldExpiry t e n) s = .next u ∧ u.session? e q.ref = some r ∧ r.held = [] ∧ r.next = q.next ∧
          r.waiting = q.waiting ∧
          u.out = s.out ++ q.held.map (fun x => replyPacket a x.hdr (opcodeOf x.body) St.seqGap (be 4 q.next.toNat)) ∧
          u.hbm = s.hbm ∧ u.parts = s.parts ∧ u.ops = s.ops) ∧
      (∀ (x : BitVec 32) (v : Unacked), (q.unacked.find? fun u => u.ev.seq = x) = some v → v.lastSend + 10000000 ≤ a.osc →
        ∃ u r, exec (.eventResend t e n x) s = .next u ∧ u.session? e q.ref = some r ∧
          u.out = s.out ++ [.packet q.lastVia q.evAddr q.evPort (epKeyway e) true true v.ev.code v.ev.seq v.ev.epoch q.num 0
            a.clk.quality.code a.rackNs v.ev.body] ∧
          (v.sends + 1 < 8 → ∀ y ∈ r.unacked, y.ev.seq = x → y.sends = v.sends + 1 ∧ y.lastSend = a.osc) ∧
          (8 ≤ v.sends + 1 → ∀ y ∈ r.unacked, y.ev.seq ≠ x) ∧ u.hbm = s.hbm ∧ u.parts = s.parts)) ∧
  ∀ (s : State) (t : Nat) (e : Ep) (n : BitVec 16) (q : Session) (x : HeldCmd),
    (s.tick t).bearing? e n.toNat = some q → q.waiting = [x] → x.body = .ping → x.hdr.len = 0 → x.hdr.epoch = 0 →
      (s.tick t).opsOf e q.ref = [] →
      exec (.fencedCommandStart t e n) s =
        .next (((s.tick t).modSession e q.ref fun q => { q with waiting := [] }).raiseS e q.ref Ev.fenceDone
          (be 4 x.hdr.seq.toNat ++ be 2 0x0005 ++ be 2 0))

/-! ### Memory, queue pairs and transfers -/

/-- MEM_REGISTER, MEM_DEREGISTER, QP_CREATE and QP_DESTROY of a keyway: the region or queue pair listed or gone, everything else
of the machine as it was when the command arrived (R48, R71, R373). Where the manual leaves it open, this is the model's choice
(log 5). -/
def Obligations.RegistrationsComplete : Prop :=
  ∀ (s : State) (t : Nat) (h : Hdr) (k : KwId) (q : Session),
    (∀ addr len access, Ready s t h (.memRegister addr len access) (.kw k) q →
      let a := arrived s t h (.memRegister addr len access) (.kw k) q.ref
      (a.kw k).regs.length < 1024 →
      ∃ rkey : BitVec 32,
        Replies (.memRegister t h addr len access) s t h (.memRegister addr len access) (.kw k) q
          ((a.modKw k fun w => { w with regs := w.regs ++ [newRegion rkey addr len access] }).useFresh 1) St.ok
          (be 4 rkey.toNat)) ∧
    (∀ rkey, Ready s t h (.memDeregister rkey) (.kw k) q →
      let a := arrived s t h (.memDeregister rkey) (.kw k) q.ref
      ((a.kw k).regs.any fun r => r.rkey = rkey) = true →
      Replies (.memDeregister t h rkey) s t h (.memDeregister rkey) (.kw k) q
        (a.modKw k fun w => { w with regs := w.regs.filter fun r => r.rkey ≠ rkey }) St.ok []) ∧
    (∀ x : QpArgs, Ready s t h (.qpCreate x) (.kw k) q →
      let a := arrived s t h (.qpCreate x) (.kw k) q.ref
      (a.kw k).qps.length < 64 →
      ∃ qpn psn : BitVec 24,
        Replies (.qpCreate t h x) s t h (.qpCreate x) (.kw k) q
          ((a.modKw k fun w => { w with qps := w.qps ++ [newPair qpn psn x a.osc] }).useFresh 1) St.ok
          (be 3 qpn.toNat ++ be 3 psn.toNat)) ∧
    ∀ qpn, Ready s t h (.qpDestroy qpn) (.kw k) q →
      let a := arrived s t h (.qpDestroy qpn) (.kw k) q.ref
      ((a.kw k).qp? qpn).isSome = true →
      Replies (.qpDestroy t h qpn) s t h (.qpDestroy qpn) (.kw k) q
        (a.modKw k fun w => { w with qps := w.qps.filter fun q => q.qpn ≠ qpn }) St.ok []

/-- MEM_FILL, MEM_COPY, XFER_OUT and XFER_IN of a bound keyway are accepted: an operation of the session is open and no byte of
memory has changed. The first transfer of an idle queue pair starts its ACK timeout, and XFER_IN asks the host for its bytes unless
sixteen RDMA READs of the pair are outstanding (R71, R77, R372, R373). How a READ past the sixteenth waits is the model's choice
(log 155). -/
def Obligations.TransfersAreAccepted : Prop :=
  ∀ (s : State) (t : Nat) (h : Hdr) (k : KwId) (q : Session) (p : PartId),
    (∀ addr len pat, Ready s t h (.memFill addr len pat) (.kw k) q →
      let a := arrived s t h (.memFill addr len pat) (.kw k) q.ref
      a.kwPart k = some p →
      Replies (.memFill t h addr len pat) s t h (.memFill addr len pat) (.kw k) q
        (a.addOp (.kw k) q.ref h.seq (a.hdrEpoch h) (.fill p addr len.toNat pat)) St.accepted []) ∧
    (∀ src dst len, Ready s t h (.memCopy src dst len) (.kw k) q →
      let a := arrived s t h (.memCopy src dst len) (.kw k) q.ref
      a.kwPart k = some p →
      Replies (.memCopy t h src dst len) s t h (.memCopy src dst len) (.kw k) q
        (a.addOp (.kw k) q.ref h.seq (a.hdrEpoch h) (.copy p src dst len.toNat)) St.accepted []) ∧
    (∀ (x : XferArgs) (z : Qp), Ready s t h (.xferOut x) (.kw k) q →
      let a := arrived s t h (.xferOut x) (.kw k) q.ref
      let b := if (a.qpXfers (.kw k) x.qpn).isEmpty then a.startAckTimer k x.qpn else a
      a.kwPart k = some p → (a.kw k).qp? x.qpn = some z → z.error = false →
      Replies (.xferOut t h x) s t h (.xferOut x) (.kw k) q
        (b.addOp (.kw k) q.ref h.seq (a.hdrEpoch h) (.xferOut p x)) St.accepted []) ∧
    ∀ (x : XferArgs) (z : Qp), Ready s t h (.xferIn x) (.kw k) q →
      let a := arrived s t h (.xferIn x) (.kw k) q.ref
      let b := if (a.qpXfers (.kw k) x.qpn).isEmpty then a.startAckTimer k x.qpn else a
      let c := b.addOp (.kw k) q.ref h.seq (a.hdrEpoch h) (.xferIn p x)
      a.kwPart k = some p → (a.kw k).qp? x.qpn = some z → z.error = false →
      ((a.qpReads (.kw k) x.qpn).length < 16 →
        Replies (.xferIn t h x) s t h (.xferIn x) (.kw k) q
          (c.emit (.rdmaRead z.gid z.hostQpn x.remoteVa x.remoteRkey x.len.toNat)) St.accepted []) ∧
      (16 ≤ (a.qpReads (.kw k) x.qpn).length →
        Replies (.xferIn t h x) s t h (.xferIn x) (.kw k) q c St.accepted [])

/-- XFER_DONE of a fill writes the pattern, least significant byte first, over the range and nowhere else; of a copy, the bytes the
source range returned before; of an XFER_IN, the host's bytes (R372, R373); the bytes of a packet the fabric lost keep what stood there
(the model's choice, log 139). Where the range is no longer the partition's, no byte moves and the status is WARD_FAULT (R48). The
operation ends. -/
def Obligations.FillAndCopyDone : Prop :=
  ∀ (s : State) (t id : Nat) (r : XferResult) (o : Op), s.op? id = some o →
    ((s.tick t).opInTenant o.kind = true →
      (∀ p a n pat, o.kind = .fill p a n pat →
        ∃ u, exec (.xferDone t id r) s = .next u ∧ u.op? id = none ∧
          (∀ i, i < n → Memory.read u.hbm (s.phys p a + i) = BitVec.ofNat 8 (pat.toNat / 2 ^ (8 * (i % 8)))) ∧
          ∀ x, x < s.phys p a ∨ s.phys p a + n ≤ x → Memory.read u.hbm x = Memory.read s.hbm x) ∧
      (∀ p a b n, o.kind = .copy p a b n →
        ∃ u, exec (.xferDone t id r) s = .next u ∧ u.op? id = none ∧
          (∀ i, i < n → Memory.read u.hbm (s.phys p b + i) =
            if i / 1280 ∈ r.lost then Memory.read s.hbm (s.phys p b + i) else s.hbmByte (s.phys p a + i)) ∧
          ∀ x, x < s.phys p b ∨ s.phys p b + n ≤ x → Memory.read u.hbm x = Memory.read s.hbm x) ∧
      ∀ p x k z, o.kind = .xferIn p x → (s.tick t).opQp o x.qpn = some (k, z) → (s.tick t).requested o = true →
        ∃ u, exec (.xferDone t id r) s = .next u ∧ u.op? id = none ∧
          let bs := r.host.take x.len.toNat
          u.hbm = Memory.write s.hbm (s.phys p x.addr) (keepLost (s.tread p x.addr bs.length) bs r.lost)) ∧
    ((s.tick t).opInTenant o.kind = false →
      exec (.xferDone t id r) s = .next ((s.tick t).xferEnd o St.wardFault) ∧
        ((s.tick t).xferEnd o St.wardFault).op? id = none ∧ ((s.tick t).xferEnd o St.wardFault).hbm = s.hbm)

/-- An RDMA WRITE of a host inside a registered region stores its bytes there and nowhere else and is acknowledged; with
immediate data it also raises RDMA_IMMEDIATE; a READ returns the bytes and stores none. A CNP goes back for each packet that came
marked (R48, R77, R78). -/
def Obligations.HostRdmaCompletes : Prop :=
  ∀ (s : State) (t : Nat) (r : RdmaReq) (k : KwId) (z : Qp) (p : PartId) (a : Addr),
    (s.tick t).rdmaAdmit r.port r.src r.qpn = .admitted k z → r.dmaLen ≤ 2 ^ 31 →
    (∀ data : List Byte, (s.tick t).rdmaRange k r data.length true = some (p, a) →
      (∃ u, exec (.rdmaWrite t r data) s = .next u ∧
        u.out = s.out ++ List.replicate r.marked (.rdmaCnp r.port) ++ [.rdmaAck r.port r.qpn] ∧
        (∀ i, i < data.length → Memory.read u.hbm (s.phys p a + i) = data.getD i 0) ∧
        ∀ x, x < s.phys p a ∨ s.phys p a + data.length ≤ x → Memory.read u.hbm x = Memory.read s.hbm x) ∧
      ∀ imm, exec (.rdmaWriteImmediate t r data imm) s =
        .next (((((s.tick t).sendCnps r.port r.marked).twrite p a data).emit (.rdmaAck r.port r.qpn)).raiseK k Ev.rdmaImmediate
          (be 3 r.qpn.toNat ++ be 4 imm.toNat))) ∧
    ((s.tick t).rdmaRange k r r.dmaLen false = some (p, a) →
      exec (.rdmaRead t r) s =
        .next (((s.tick t).sendCnps r.port r.marked).emit (.rdmaReadData r.port r.qpn (s.tread p a r.dmaLen))))

/-- A SEND or atomic receives an invalid-request NAK; a host's NAK and the last unanswered retry put the queue pair in error; a
CNP lowers the sending rate (R77, R373, R374). A frame of a live port that does not fit its ingress buffer, or that no way leads
from, is dropped and counted; one that does leaves in the partition's host slots and, with the buffer filled above its limit, is
marked and answered by a CNP (R168). Where the manual leaves it open, this is the model's choice (log 17, log 118). -/
def Obligations.HostRdmaEventsComplete : Prop :=
  (∀ (s : State) (t : Nat) (port : HostPortId) (src : BitVec 128) (qpn : BitVec 24) (k : KwId) (z : Qp),
    (s.tick t).rdmaAdmit port src qpn = .admitted k z →
    (∀ ce, exec (.rdmaRefusedOperation t port { gid := src, marked := ce } qpn) s =
      .next (((s.tick t).sendCnps port (if ce then 1 else 0)).emit (.rdmaNak port qpn true))) ∧
    (∀ syn : Byte, syn = 2 ∨ syn = 3 ∨ syn = 4 →
      exec (.hostNakReceived t port src qpn syn) s = .next ((s.tick t).failQp k qpn syn)) ∧
    (∃ u, exec (.cnpReceived t port src qpn) s = .next u ∧
      Tab.get u.rateCuts 0 port = Tab.get s.rateCuts 0 port + 1 ∧ u.hbm = s.hbm ∧ u.kws = s.kws)) ∧
  (∀ (s : State) (t : Nat) (k : KwId) (qpn : BitVec 24) (z : Qp),
    (s.kw k).qp? qpn = some z → z.error = false → z.timeout ≠ 0 → (s.qpXfers (.kw k) qpn).isEmpty = false →
    z.since + 4096 * 2 ^ z.timeout ≤ (s.tick t).osc →
    (z.retriesUsed < z.retry →
      ∃ u y, exec (.qpAckTimeout t k qpn) s = .next u ∧ (u.kw k).qp? qpn = some y ∧ y.retriesUsed = z.retriesUsed + 1 ∧
        y.since = u.osc ∧ y.error = false ∧ u.hbm = s.hbm) ∧
    (z.retry ≤ z.retriesUsed → exec (.qpAckTimeout t k qpn) s = .next ((s.tick t).failQp k qpn 1))) ∧
  ∀ (s : State) (t : Nat) (port : HostPortId) (f : HostFrame), (s.tick t).portLive port = true →
    let a := s.tick t
    let n := ((a.part f.part).map Part.ingestChip).getD 0
    let pkts := firmwarePkts .host n n f.part 0 f.bytes
    let dropped := a.modPort port fun q => { q with drops := sat64 q.drops 1 }
    (33554432 < (s.port port).fill a.osc + f.bytes.length → exec (.hostFrameIngress t port f) s = .next dropped) ∧
    ((s.port port).fill a.osc + f.bytes.length ≤ 33554432 →
      (a.switchSend (hostPortSwitch port) f.part n true pkts = none → exec (.hostFrameIngress t port f) s = .next dropped) ∧
      ∀ b slots, a.switchSend (hostPortSwitch port) f.part n true pkts = some (b, slots) →
        ∃ u, exec (.hostFrameIngress t port f) s = .next u ∧ u.hbm = b.hbm ∧ u.laneNext = b.laneNext ∧ u.kws = b.kws ∧
          ((s.port port).fill a.osc * 100 ≤ 33554432 * b.rackSet 0x0303#16 → u.out = b.out) ∧
          (33554432 * b.rackSet 0x0303#16 < (s.port port).fill a.osc * 100 →
            u.out = b.out ++ [.rdmaCnp port] ∧ (u.port port).marked = sat64 (b.port port).marked 1))

/-! ### Programs -/

/-- PROG_LOAD, CAL_LOAD, PROG_STOP and PROG_STATUS of a bound keyway: the configuration listed and staged beside the others, the
calendar kept as it parses, the stop begun, the figures of the partition returned (R71, R106, R113, R154, R355). An image whose
tables exceed a cell's is refused: the model's choice (log 131). -/
def Obligations.ProgramCommandsComplete : Prop :=
  ∀ (s : State) (t : Nat) (h : Hdr) (k : KwId) (q : Session) (p : PartId) (v : Part),
    (∀ n addr len img, Ready s t h (.progLoad n addr len img) (.kw k) q →
      let a := arrived s t h (.progLoad n addr len img) (.kw k) q.ref
      a.kwPart k = some p → a.part p = some v → img.intact = true → img.formats.all formatOk = true →
      img.cells.all cellFits = true → img.mode.toNat = a.partSet p 0x0203#16 → Config.cuts.contains img.cut = true →
      ∃ w, Replies (.progLoad t h n addr len img) s t h (.progLoad n addr len img) (.kw k) q (a.setPart p (some w)) St.ok [] ∧
        w.staged = some n.toNat ∧
        w.config? n.toNat = some { num := n.toNat, prog := some img, cal := (v.config? n.toNat).bind Configuration.cal } ∧
        (∀ m, m ≠ n.toNat → w.config? m = v.config? m) ∧ w.running = v.running ∧ w.waves = v.waves ∧ w.hinges = v.hinges) ∧
    (∀ n addr len img, Ready s t h (.progLoad n addr len img) (.kw k) q →
      let a := arrived s t h (.progLoad n addr len img) (.kw k) q.ref
      a.kwPart k = some p → img.intact = false ∨ img.formats.all formatOk = false ∨ img.cells.all cellFits = false →
      Replies (.progLoad t h n addr len img) s t h (.progLoad n addr len img) (.kw k) q a St.programInvalid []) ∧
    (∀ n addr len, Ready s t h (.calLoad n addr len) (.kw k) q →
      let a := arrived s t h (.calLoad n addr len) (.kw k) q.ref
      a.kwPart k = some p → a.part p = some v →
      ∃ w, Replies (.calLoad t h n addr len) s t h (.calLoad n addr len) (.kw k) q (a.setPart p (some w)) St.ok [] ∧
        w.config? n.toNat = some { num := n.toNat, prog := (v.config? n.toNat).bind Configuration.prog,
                                   cal := some (parseCalendar (a.tread p addr len.toNat)) } ∧
        (∀ m, m ≠ n.toNat → w.config? m = v.config? m) ∧ w.running = v.running ∧ w.staged = v.staged) ∧
    (∀ d, Ready s t h (.progStop d) (.kw k) q →
      let a := arrived s t h (.progStop d) (.kw k) q.ref
      a.kwPart k = some p → a.part p = some v →
      let b := a.addOp (.kw k) q.ref h.seq (a.hdrEpoch h) (.progStop p)
      (v.prog = .idle → Replies (.progStop t h d) s t h (.progStop d) (.kw k) q a St.ok []) ∧
      (v.prog = .running → d = 1 → Replies (.progStop t h d) s t h (.progStop d) (.kw k) q
        (b.setPart p (some (setProg v (.draining a.osc (some a.nextOp))))) St.accepted []) ∧
      (v.prog = .running → d = 0 → Replies (.progStop t h d) s t h (.progStop d) (.kw k) q
        (b.setPart p (some (setProg v (.stopping St.ok (some a.nextOp))))) St.accepted [])) ∧
    (Ready s t h .progStatus (.kw k) q →
      let a := arrived s t h .progStatus (.kw k) q.ref
      a.kwPart k = some p → a.part p = some v →
      Replies (.progStatus t h) s t h .progStatus (.kw k) q a St.ok
        (be 2 ((v.running.map Configuration.num).getD 0xFFFF) ++ be 2 (v.staged.getD 0xFFFF) ++ be 8 v.hinges ++ be 4 v.spills))

/-- PROG_START of a loaded configuration whose checks pass starts its hinge wave behind those already started, and the session
is the program's starter; of the configuration already last started it has no effect; one under another cut than the running
configuration's is BUSY while requests are open, unless FORCE is set (R111, R113, R141, R155). Where the manual leaves it open, this
is the model's choice (log 67). -/
def Obligations.ProgramStartsByHinge : Prop :=
  ∀ (s : State) (t : Nat) (h : Hdr) (k : KwId) (q : Session) (p : PartId) (v : Part) (n : BitVec 16) (g : Configuration)
    (img : ProgramImage), Ready s t h (.progStart n) (.kw k) q →
    let a := arrived s t h (.progStart n) (.kw k) q.ref
    a.kwPart k = some p → a.part p = some v → v.config? n.toNat = some g → g.prog = some img →
    (v.latest.map Wave.config = some g →
      Replies (.progStart t h n) s t h (.progStart n) (.kw k) q a St.ok []) ∧
    (v.latest.map Wave.config ≠ some g → img.mode.toNat = a.partSet p 0x0203#16 → v.startable = true →
      merges v.shape g.cal = true → ∀ w, (v.runningWave <|> v.waves.head?) = some w → w.config.cut ≠ some img.cut →
      a.openReqs p ≠ [] → h.force = false →
      Replies (.progStart t h n) s t h (.progStart n) (.kw k) q a St.busy []) ∧
    (v.latest.map Wave.config ≠ some g → img.mode.toNat = a.partSet p 0x0203#16 → v.startable = true →
      merges v.shape g.cal = true → (∀ w, (v.runningWave <|> v.waves.head?) = some w → w.config.cut = some img.cut) →
      ∃ u w, Replies (.progStart t h n) s t h (.progStart n) (.kw k) q u St.accepted [] ∧ u.part p = some w ∧
        w.prog = .running ∧ w.hinges + w.waves.length = v.hinges + v.waves.length + 1 ∧ w.starter = some (.kw k, q.ref) ∧
        (v.staged = some n.toNat → w.staged = none) ∧ w.configs = v.configs ∧ u.hbm = s.hbm)

/-- A program that stops, at once or at the end of its drain, leaves its partition without a running configuration, wave or
taken batch, its placement and loaded configurations as they were, and turns that waited for it land (R71, R355). Where the manual
leaves it open, this is the model's choice (log 24). -/
def Obligations.ProgramStops : Prop :=
  ∀ (s : State) (t : Nat) (p : PartId) (v : Part) (i : Instr), s.part p = some v →
    (∃ status op, v.prog = .stopping status op ∧ i = .progStopped t p) ∨ (∃ since op, v.prog = .draining since op ∧ i = .drainStop t p) →
    ∃ u b w, exec i s = .next u ∧ u = b.settleTurns ∧ (b.partTurns = [] → u = b) ∧ b.part p = some w ∧ w.prog = .idle ∧
      w.running = none ∧ w.waves = [] ∧ w.taken = none ∧ w.shape = v.shape ∧ w.configs = v.configs ∧ b.hbm = s.hbm

/-! ### Keyring -/

/-- The KR_* commands of a bound keyway: a lookup's reply waits for its interval and finds only blocks of the keys its mask names,
a mask with an EMPTY slot is refused at the interval's end, an insert claims what is not yet there, a fetch is accepted with its
blocks to come, a release ends the handle, and the usage of a slot is told (R191, R196, R197, R201, R202, R206). Where the manual
leaves it open, this is the model's choice (log 64, log 113). -/
def Obligations.KeyringCommandsComplete : Prop :=
  ∀ (s : State) (t : Nat) (h : Hdr) (k : KwId) (q : Session) (p : PartId) (v : Part),
    (∀ addr n m, Ready s t h (.krLookup addr n m) (.kw k) q →
      let a := arrived s t h (.krLookup addr n m) (.kw k) q.ref
      a.kwPart k = some p → a.part p = some v →
      (a.kw k).handles.length + (a.lookups.filter fun l => l.kw = k && !l.found.isEmpty).length < 256 →
      ∃ u l, exec (.krLookup t h addr n m) s = .next u ∧ u.lookups = s.lookups ++ [l] ∧ l.due = a.osc + 20000 + 200 * n.toNat ∧
        l.kw = k ∧ l.session = q.ref ∧ l.blocks = n.toNat ∧ u.hbm = s.hbm ∧ u.out = s.out ∧
        (∀ keys, a.maskKeys k m = some keys → l.status = St.ok ∧
          ∀ f ∈ l.found, f.1 ∈ keys ∧ ((a.hotBlock? p f.1 f.2.1).isSome = true ∨ (a.warm? f.1 f.2.1).isSome = true)) ∧
        (a.maskKeys k m = none → l.status = St.shareDenied ∧ l.found = [])) ∧
    (∀ tok kv f n slot i kvb u m, Ready s t h (.krInsert tok kv f n slot) (.kw k) q →
      let a := arrived s t h (.krInsert tok kv f n slot) (.kw k) q.ref
      a.kwPart k = some p → a.part p = some v → a.slotKey k slot.toNat = some (i, true) → a.kvbOf p q.model = some kvb →
      a.rangeOk p kv (n.toNat * kvb) = true →
      a.insertBlocks p i kvb (a.krCopies i) (a.krQuota i) (insertedBlocks a p v q i tok kv f.toNat n.toNat kvb) = some (u, m) →
      Replies (.krInsert t h tok kv f n slot) s t h (.krInsert tok kv f n slot) (.kw k) q (u.krBump k 3 m) St.ok (be 2 m)) ∧
    (∀ x dst (d : Handle), Ready s t h (.krFetch x dst) (.kw k) q →
      let a := arrived s t h (.krFetch x dst) (.kw k) q.ref
      a.kwPart k = some p → ((a.kw k).handles.find? fun z => z.num = x.toNat && !z.ended) = some d →
      a.rangeOk p dst (d.blocks.length * handleKvb a p d) = true →
      ∃ u o re bad, Replies (.krFetch t h x dst) s t h (.krFetch x dst) (.kw k) q u St.accepted [] ∧ u.ops = a.ops ++ [o] ∧
        o.id = a.nextOp ∧ o.ep = .kw k ∧ o.session = q.ref ∧ o.kind = .fetch p x.toNat dst (handleKvb a p d) re bad ∧
        (a.warmOf p d.blocks = [] → re = [] ∧ bad = [] ∧ u.out = s.out) ∧ u.hbm = s.hbm ∧ u.parts = s.parts ∧ u.kr = s.kr) ∧
    (∀ x, Ready s t h (.krRelease x) (.kw k) q →
      let a := arrived s t h (.krRelease x) (.kw k) q.ref
      ((a.kw k).handles.any fun z => z.num = x.toNat && !z.ended) = true →
      Replies (.krRelease t h x) s t h (.krRelease x) (.kw k) q (a.endHandle k x.toNat) St.ok [] ∧
        ∀ z ∈ ((a.endHandle k x.toNat).kw k).handles, z.num = x.toNat → z.ended = true) ∧
    ∀ slot i w, Ready s t h (.krUsage slot) (.kw k) q →
      let a := arrived s t h (.krUsage slot) (.kw k) q.ref
      a.slotKey k slot.toNat = some (i, w) →
      Replies (.krUsage t h slot) s t h (.krUsage slot) (.kw k) q a St.ok (be 4 (a.keyBlocks i).length ++ be 4 (a.krQuota i))

/-- The Keyring's own events: the lookup whose interval ends first is answered at its end, an inserted block is committed once
every tray is up, a granule of a fetch is read again once, a fetch whose blocks can be read writes them and ends, a handle outlives
its time (R197, R198, R199, R200, R201). That a commit needs every tray up is the model's choice (log 156). -/
def Obligations.KeyringEventsComplete : Prop :=
  ∀ (s : State) (t : Nat),
    (∀ l fin, nextDue s.lookups = some l → l.due ≤ (s.tick t).osc + 500 →
      (l.status = St.ok →
        exec (.krLookupReply t fin) s =
          .next (({ s.tick t with lookups := s.lookups.erase l }.finishLookup l (fin && l.reached)).krSweep)) ∧
      (l.status = St.shareDenied →
        exec (.krLookupReply t fin) s = .next ({ s.tick t with lookups := s.lookups.erase l }.endLookup l St.shareDenied []))) ∧
    (∀ i key b, (s.kr.dir.find? fun b => b.idx = i && b.key = key && !b.committed) = some b → s.genLive i b.gen = true →
      (∀ x : SwId, (s.swt x).up = true) → s.kr.lowering = [] →
      ∃ u, exec (.krInsertCommit t i key) s = .next u ∧ u.hbm = s.hbm ∧ u.kr.keys = s.kr.keys ∧
        (∃ w ∈ u.kr.dir, w.idx = i ∧ w.key = key ∧ w.data = b.data) ∧ ∀ w ∈ u.kr.dir, w.idx = i → w.key = key → w.committed = true) ∧
    (∀ id (g : Granule) ok o k p hn dst kvb re bad d b, s.op? id = some o → o.ep = .kw k → o.kind = .fetch p hn dst kvb re bad →
      ((s.kw k).handles.find? fun z => z.num = hn) = some d → ((s.warmOf p d.blocks).find? fun e => e.1 = g.block) = some b →
      (re.contains (g.block, g.granule) = true → exec (.vaultRefetch t id g ok) s = .next (s.tick t)) ∧
      (re.contains (g.block, g.granule) = false →
        ∃ u x bad', exec (.vaultRefetch t id g ok) s = .next u ∧ u.op? id = some x ∧
          x.kind = .fetch p hn dst kvb (re ++ [(g.block, g.granule)]) bad' ∧ (ok = false → g.block ∈ bad') ∧ (ok = true → bad' = bad) ∧
          u.hbm = s.hbm ∧ u.parts = s.parts)) ∧
    (∀ id o k p hn dst kvb d, s.op? id = some o → o.ep = .kw k → o.kind = .fetch p hn dst kvb [] [] →
      ((s.kw k).handles.find? fun z => z.num = hn) = some d →
      (∀ b ∈ d.blocks, (s.blockData p b.1 b.2).isSome = true) →
      ∃ u, exec (.krFetchDone t id) s = .next u ∧ u.op? id = none ∧
        (∀ (j : Nat) (b : Fin 128 × BitVec 128) (m : Memory), d.blocks[j]? = some b → s.blockData p b.1 b.2 = some m →
          ∀ i, i < kvb → Memory.read u.hbm (s.phys p dst + j * kvb + i) = Memory.read m i) ∧
        ∀ x, x < s.phys p dst ∨ s.phys p dst + d.blocks.length * kvb ≤ x → Memory.read u.hbm x = Memory.read s.hbm x) ∧
    ∀ k x d, ((s.kw k).handles.find? fun z => z.num = BitVec.toNat (x : BitVec 32)) = some d → d.expires ≤ (s.tick t).osc →
      exec (.krHandleTtlExpiry t k x) s = .next ((s.tick t).endHandle k x.toNat) ∧
        ∀ z ∈ (((s.tick t).endHandle k x.toNat).kw k).handles, z.num = x.toNat → z.ended = true


/-! ### Requests -/

/-- REQ_SUBMIT of a keyway whose session's cut runs, whose model has a table, whose slot may insert and that has room for a further
open request is accepted: the request stands with its source 0 and the sources held under its tag that can still be its own, RX its
arrival or that of the first source held, and an operation of the session is open (R72, R141, R191, R210, R213, R225). REQ_SOURCE
joins its request in time, is held for one still to come, is answered as before when repeated, and refused with other content (R212
to R214). A completed request's tag may be given again: the model's choice (log 146). -/
def Obligations.RequestsAreSubmitted : Prop :=
  ∀ (s : State) (t : Nat) (h : Hdr) (k : KwId) (q : Session) (p : PartId) (v : Part),
    (∀ x : ReqArgs, Ready s t h (.reqSubmit x) (.kw k) q →
      let a := arrived s t h (.reqSubmit x) (.kw k) q.ref
      let held := (a.dropStale k a.rackNs).heldFor k x.tag
      a.kwPart k = some p → a.part p = some v → (a.request? k x.tag).all (fun r => !r.isOpen) = true →
      v.startedCut q.cut = true → (a.kvbOf p q.model).isSome = true → (a.insertKeyOf k x.insertSlot.toNat).isSome = true →
      (a.openReqs p).length < ((held.head?).map HeldSource.maxOpen).getD (a.partSet p 0x0507#16) →
      ∃ u r, Replies (.reqSubmit t h x) s t h (.reqSubmit x) (.kw k) q u St.accepted [] ∧ u.request? k x.tag = some r ∧
        r.stage = .receiving ∧ r.session = q.ref ∧ r.part = p ∧ r.model = q.model ∧ r.cut = q.cut ∧ r.seed = x.seed ∧
        r.epoch = a.hdrEpoch h ∧ r.declared = x.sources.toNat ∧ (r.sources.head?.map Source.text) = some x.text ∧
        r.rx = ((held.head?).map HeldSource.rx).getD a.rackNs ∧
        r.sources.tail.map (fun y => (y.index, y.text)) =
          (held.filter fun y => y.src.index < x.sources.toNat).map (fun y => (y.src.index, y.src.text)) ∧
        u.heldFor k x.tag = [] ∧
        (u.ops.any fun o => o.ep = .kw k && o.session = q.ref && o.kind = .request x.tag) = true ∧ u.hbm = s.hbm ∧
        (∀ j y, (j, y) ≠ (k, x.tag) → u.request? j y = s.request? j y)) ∧
    ∀ x : SourceArgs, Ready s t h (.reqSource x) (.kw k) q →
      let a := arrived s t h (.reqSource x) (.kw k) q.ref
      let b := a.dropStale k a.rackNs
      let y : Source := { index := x.index.toNat, flags := x.flags, stamp := stampOf x.stamp a.rackNs, arrived := a.rackNs,
                          text := x.text, via := h.via, accepted := false }
      a.kwPart k = some p →
      ((a.request? k x.tag).all (fun r => !r.isOpen) = true →
        (((b.heldFor k x.tag).find? fun z => z.src.index = x.index.toNat) = none → (b.kw k).heldSources.length < 64 →
          ∃ u, Replies (.reqSource t h x) s t h (.reqSource x) (.kw k) q u St.ok [] ∧
            (u.kw k).heldSources = (b.kw k).heldSources ++ [b.holdSource p k x.tag y] ∧ u.reqs = s.reqs ∧ u.hbm = s.hbm) ∧
        ∀ z, ((b.heldFor k x.tag).find? fun z => z.src.index = x.index.toNat) = some z →
          Replies (.reqSource t h x) s t h (.reqSource x) (.kw k) q b
            (if sameContent y z.src then St.ok else St.badParameter) []) ∧
      ∀ r, a.request? k x.tag = some r → r.stage = .receiving → x.index.toNat < r.declared →
        ((r.sources.find? fun z => z.index = x.index.toNat) = none → r.fusing = false → a.rackNs ≤ r.rx + r.window →
          ∃ u, Replies (.reqSource t h x) s t h (.reqSource x) (.kw k) q u St.ok [] ∧
            u.request? k x.tag = some { r with sources := r.sources ++
              [{ y with accepted := accepts r.rx r.window (((r.sources.find? fun z => z.index = 0).map Source.stamp).getD 0) y }] } ∧
            u.hbm = s.hbm) ∧
        ∀ z, (r.sources.find? fun z => z.index = x.index.toNat) = some z →
          Replies (.reqSource t h x) s t h (.reqSource x) (.kw k) q b (if sameContent y z then St.ok else St.badParameter) []

/-- REQ_CANCEL ends an open request CANCELLED; REQ_STATUS tells its state, and of a complete one its 92-byte record, but for one that
a reset ended; REQ_TOKENS returns the tokens asked for; DELTA_FORGET discards the session's base (R33, R69, R71, R75, R219). TOK_LOAD
of length 0 unloads a model's table, a sound image of a further model lists its table and tells its vocabulary (R209, R210). Where
the manual leaves it open, this is the model's choice (log 19, log 20). -/
def Obligations.RequestQueriesComplete : Prop :=
  (∀ (s : State) (t : Nat) (h : Hdr) (k : KwId) (q : Session),
      (∀ g r, Ready s t h (.reqCancel g) (.kw k) q →
        let a := arrived s t h (.reqCancel g) (.kw k) q.ref
        a.request? k g = some r →
        (r.isOpen = true → Replies (.reqCancel t h g) s t h (.reqCancel g) (.kw k) q (a.endRequest k g St.cancelled) St.ok [0]) ∧
        (r.isOpen = false → Replies (.reqCancel t h g) s t h (.reqCancel g) (.kw k) q a St.ok [1])) ∧
      (∀ g r, Ready s t h (.reqStatus g) (.kw k) q →
        let a := arrived s t h (.reqStatus g) (.kw k) q.ref
        a.request? k g = some r →
        (r.stage = .decoding → Replies (.reqStatus t h g) s t h (.reqStatus g) (.kw k) q a St.ok [2]) ∧
        (r.stage = .complete → r.resetBy = none →
          Replies (.reqStatus t h g) s t h (.reqStatus g) (.kw k) q a St.ok (3 :: r.record)) ∧
        (r.stage = .complete → r.resetBy ≠ none → Replies (.reqStatus t h g) s t h (.reqStatus g) (.kw k) q a St.ok [3]) ∧
        (r.stage ≠ .complete → r.stage ≠ .decoding →
          (r.chunk = 0 → (∀ v, a.part r.part = some v → v.takenChunk r.kw r.tag = none) →
            Replies (.reqStatus t h g) s t h (.reqStatus g) (.kw k) q a St.ok [0]) ∧
          (0 < r.chunk ∨ (∃ v c, a.part r.part = some v ∧ v.takenChunk r.kw r.tag = some c) →
            Replies (.reqStatus t h g) s t h (.reqStatus g) (.kw k) q a St.ok [1]))) ∧
      (∀ g first n r, Ready s t h (.reqTokens g first n) (.kw k) q →
        let a := arrived s t h (.reqTokens g first n) (.kw k) q.ref
        a.request? k g = some r →
        Replies (.reqTokens t h g first n) s t h (.reqTokens g first n) (.kw k) q a St.ok
          (((r.generated.drop first.toNat).take n.toNat).flatMap fun x => be 4 x.toNat)) ∧
      (Ready s t h .deltaForget (.kw k) q →
        Replies (.deltaForget t h) s t h .deltaForget (.kw k) q
          ((arrived s t h .deltaForget (.kw k) q.ref).modSession (.kw k) q.ref fun x => { x with base := none }) St.ok []) ∧
      ∀ m addr p v, Ready s t h (.tokLoad m addr 0) (.kw k) q →
        let a := arrived s t h (.tokLoad m addr 0) (.kw k) q.ref
        a.kwPart k = some p → a.part p = some v →
        ((v.tables.find? fun x => x.model = m) = none →
          Replies (.tokLoad t h m addr 0) s t h (.tokLoad m addr 0) (.kw k) q a St.ok [0, 0, 0, 0]) ∧
        (∀ x, (v.tables.find? fun x => x.model = m) = some x → a.modelReqs p m = [] →
          ∃ u w, Replies (.tokLoad t h m addr 0) s t h (.tokLoad m addr 0) (.kw k) q u St.ok [0, 0, 0, 0] ∧ u.part p = some w ∧
            w.tables = v.tables.filter (fun x => x.model ≠ m) ∧ w.shape = v.shape ∧ w.hot = v.hot ∧ u.hbm = s.hbm ∧ u.reqs = s.reqs)) ∧
  (∀ r : Request, r.record.length = 92) ∧
  ∀ (s : State) (t : Nat) (h : Hdr) (k : KwId) (q : Session) (p : PartId) (v : Part) (m : BitVec 32) (addr : Addr)
    (len : BitVec 64) (x : TokTable), Ready s t h (.tokLoad m addr len) (.kw k) q →
    let a := arrived s t h (.tokLoad m addr len) (.kw k) q.ref
    a.kwPart k = some p → a.part p = some v → len ≠ 0 → (v.tables.find? fun y => y.model = m) = none →
    parseTable (a.tread p addr len.toNat) m = some x →
    let y : TokTable := { x with chips := (a.serviceChips v).take 2 }
    tablesFit v (y :: v.tables) = true →
    Replies (.tokLoad t h m addr len) s t h (.tokLoad m addr len) (.kw k) q
      (a.setPart p (some { v with tables := v.tables ++ [y] })) St.ok (be 4 x.vocab.length)

/-- A request's stages on the way to its batch, while its ingest unit runs: at the deadline it fuses the sources accepted, the late
ones being told of; its text is assembled, tokenised, compared with the session's base, looked up and resident, each with its mark
in rack time (R29, R30, R35, R213 to R218). Where the tokens lie in their ring and which second reads fail is open: the model's
choice (log 4, log 32). -/
def Obligations.RequestStagesComplete : Prop :=
  ∀ (s : State) (t : Nat) (k : KwId) (g : BitVec 64) (r : Request), s.request? k g = some r →
    let a := s.tick t
    (r.stage = .receiving → r.fusing = false → r.rx + r.window ≤ a.rackNs →
      ∃ u, exec (.alignDeadline t k g) s = .next u ∧
        u = (a.lateSources r).modReq k g (fun r => { r with fusing := true, sources := r.sources.filter fun x => x.accepted }) ∧
        u.request? k g = some { r with fusing := true, sources := r.sources.filter fun x => x.accepted } ∧ u.hbm = s.hbm) ∧
    (s.ingestRuns r.part = true →
      (r.stage = .receiving → r.fusing = true ∨ r.allAccepted = true →
        ∃ u x, exec (.asm t k g) s = .next u ∧ u.request? k g = some x ∧ x.stage = .assembled ∧ x.marks = (r.mark 1 a.rackNs).marks ∧
          x.sources = r.sources.map (fun y => { y with text := .text (s.sourceText r.part y.text) }) ∧ u.hbm = s.hbm ∧
          u.parts = s.parts) ∧
      (∀ tb v, r.stage = .assembled → s.table? r.part r.model = some tb → s.part r.part = some v →
        fusePrompt tb r.sources ≠ [] → (fusePrompt tb r.sources).length ≤ 262144 →
        ∃ u x, exec (.tok t k g) s = .next u ∧ u.request? k g = some x ∧ x.stage = .tokenised ∧
          x.prompt = fusePrompt tb r.sources ∧ x.keys = chainKeys r.model r.cut (v.shape.word r.cut) x.prompt ∧
          x.marks = (r.mark 2 a.rackNs).marks) ∧
      (r.stage = .tokenised → s.deltaBlocked r = false →
        ∃ u x, exec (.dlt t k g) s = .next u ∧ u.request? k g = some x ∧ x.stage = .deltaDone ∧
          x.marks = (r.mark 3 a.rackNs).marks ∧
          (∀ b, s.baseOf r = some b → x.hadBase = true ∧ x.d = firstChange r.keys b.keys ∧
            u.baseOf r = some { b with usedAt := a.rackNs }) ∧
          (s.baseOf r = none → x.hadBase = false ∧ x.d = r.nb ∧ u.kws = s.kws) ∧ u.hbm = s.hbm ∧ u.parts = s.parts) ∧
      (∀ fin, r.stage = .deltaDone → r.marks.getD 3 0 + lookupNs r.lookupBlocks ≤ a.rackNs + 500 →
        let keys := (r.slots.filter fun x => a.genLive x.1 x.2.1).map fun x => x.1
        ∃ u x, exec (.lkp t k g fin) s = .next u ∧ u.request? k g = some x ∧ x.stage = .queued ∧ x.pinned = true ∧
          x.marks = (r.mark 4 a.rackNs).marks ∧ x.p = min (min r.d x.found.length) (r.nb - 1) ∧
          x.found = (if fin && a.searchEnds r.part keys (r.keys.take r.lookupBlocks) then
            a.search r.part keys (r.keys.take r.lookupBlocks) else []) ∧ u.hbm = s.hbm)) ∧
    ∀ (n : List (Nat × Fin 64)) (m : List Nat), r.stage = .queued → r.resident = false →
      ∃ u x, exec (.res t k g n m) s = .next u ∧ u.request? k g = some x ∧ x.resident = true ∧
        x.marks = (r.mark 5 a.rackNs).marks ∧ x.stage = .queued ∧ (n = [] → m = [] → x.reread = r.reread ∧ x.holes = r.holes) ∧
        (∀ e ∈ n, r.reads e.1 = true → e ∈ x.reread) ∧ u.hbm = s.hbm

/-- Batches: one that has waited long enough closes; the oldest prepared one whose every chunk is ready, and of the running cut, is
taken; its chunks end one by one, the last chunk's end begins decoding, and each decode step gives one token, until EOS or the most
asked for ends the request (R31 to R33, R141, R220 to R224). A record is discarded 10 s after its request ended, and sources held past
their deadline go, counted (R69, R214). The token itself is the model's own computation (R135 to R139). -/
def Obligations.BatchesComplete : Prop :=
  (∀ (s : State) (t : Nat) (p : PartId) (v : Part), s.part p = some v →
      (∀ n b, (v.former.find? fun b => b.id = n) = some b → b.closed = false → b.opened + b.wait ≤ (s.tick t).osc →
        ∃ u w, exec (.batchWaitExpiry t p n) s = .next u ∧ u = (s.tick t).closeBatch p n ∧ u.part p = some w ∧
          (v.prepared.length < 32 → w.prepared = v.prepared ++ [{ b with closed := true }] ∧
            w.former = v.former.filter fun x => x.id ≠ n) ∧
          (32 ≤ v.prepared.length → w.prepared = v.prepared ∧
            w.former = v.former.map fun x => if x.id = n then { x with closed := true } else x)) ∧
      (∀ b, (v.prepared.find? fun b => b.chunks.all fun c =>
          s.chunkReady c && (s.request? c.kw c.tag).all fun r => v.runsCut r.cut) = some b → v.takesBatches = true → v.taken = none →
        ∃ u w, exec (.batchTaken t p) s = .next u ∧ u.part p = some w ∧ w.taken = some b ∧
          (∀ x ∈ v.prepared, x.id ≠ b.id → x ∈ w.prepared) ∧ u.hbm = s.hbm ∧ u.reqs = s.reqs) ∧
      ∀ k g r, s.request? k g = some r → r.part = p → v.gridRuns (s.tick t).osc = true → v.runsCut r.cut = true →
        (∀ c, v.takenChunk k g = some c → c.last = false →
          exec (.prefillChunkDone t k g) s =
            .next ((((s.tick t).setPart p (some (v.chunkDone k g))).modReq k g fun r =>
              r.nextPart (((s.tick t).setPart p (some (v.chunkDone k g))).fixedMode p) (s.tick t).rackNs).joinFormer k g)) ∧
        (∀ c, v.takenChunk k g = some c → c.last = true →
          ∃ u x, exec (.prefillComplete t k g) s = .next u ∧ u.request? k g = some x ∧ x.stage = .decoding ∧ x.pinned = false ∧
            (∀ q, s.session? (.kw k) r.session = some q →
              ∃ y z, u.session? (.kw k) r.session = some y ∧ y.base = some z ∧ z.keys = r.keys ∧ z.model = r.model) ∧
            u.hbm = s.hbm) ∧
        (∀ tb, s.table? p r.model = some tb → r.stage = .decoding →
          let tok := (s.tick t).nextToken r v
          ∃ u, exec (.decodeStep t k g) s = .next u ∧ u.hbm = s.hbm ∧
            (r.generated.length + 1 < r.maxTokens → tb.eos = 0xFFFFFFFF ∨ tok.toNat ≠ tb.eos →
              ∃ x, u.request? k g = some x ∧ x.generated = r.generated ++ [tok] ∧ x.stage = .decoding ∧ x.tokenAt = (s.tick t).rackNs ∧
                u.parts = s.parts) ∧
            (r.maxTokens ≤ r.generated.length + 1 ∨ (tb.eos ≠ 0xFFFFFFFF ∧ tok.toNat = tb.eos) →
              ∀ q, s.session? (.kw k) r.session = some q →
                ∃ x, u.request? k g = some x ∧ x.generated = r.generated ++ [tok] ∧ x.stage = .complete ∧ x.status = some St.ok))) ∧
  ∀ (s : State) (t : Nat) (k : KwId) (g : BitVec 64),
    (∀ r, s.request? k g = some r → r.stage = .complete → r.endedAt + 10000000000 ≤ (s.tick t).rackNs →
      ∃ u, exec (.reqRecordExpiry t k g) s = .next u ∧ u.request? k g = none ∧
        (∀ j x, (j, x) ≠ (k, g) → u.request? j x = s.request? j x) ∧ u.hbm = s.hbm ∧ u.parts = s.parts ∧ u.kws = s.kws) ∧
    (((s.heldFor k g).any fun x => decide (x.rx + x.window ≤ (s.tick t).rackNs)) = true →
      ∃ u, exec (.heldSourceExpiry t k g) s = .next u ∧
        u = (s.heldFor k g).foldl (fun u x => u.ingestBump x.part 2 1) ((s.tick t).dropHeld k g) ∧ u.heldFor k g = [])

/-! ### Collectives -/

/-- CG_CREATE of members that form a box lists the group; CG_DESTROY of one without a live instance, or with FORCE, ends it, and of
one with a live instance is BUSY; CG_STATUS tells the last instance and its status (R171, R172, R183). The number of a group is the
model's choice (log 5). -/
def Obligations.GroupCommandsComplete : Prop :=
  ∀ (s : State) (t : Nat) (h : Hdr) (k : KwId) (q : Session) (p : PartId) (v : Part),
    (∀ ms us o e, Ready s t h (.cgCreate ms us) (.kw k) q →
      let a := arrived s t h (.cgCreate ms us) (.kw k) q.ref
      a.kwPart k = some p → a.part p = some v → (∀ m ∈ ms, m.toNat < v.shape.nChips) →
      boxOf v.shape (ms.map BitVec.toNat) = some (o, e) → (v.groups.filter fun g => !g.dying).length < 64 →
      ∃ u w g, Replies (.cgCreate t h ms us) s t h (.cgCreate ms us) (.kw k) q u St.ok (be 2 g.num) ∧ u.part p = some w ∧
        w.groups = v.groups ++ [g] ∧ g.members = ms.map BitVec.toNat ∧ (g.gx, g.gy, g.gz) = e ∧
        g.timeoutUs = (if us = 0 then 5000 else us.toNat) ∧ g.lastSeq = 0 ∧ g.insts = [] ∧ g.dying = false ∧ u.hbm = s.hbm) ∧
    (∀ n g, Ready s t h (.cgDestroy n) (.kw k) q →
      let a := arrived s t h (.cgDestroy n) (.kw k) q.ref
      a.kwPart k = some p → a.part p = some v → v.group? n.toNat = some g →
      (g.live = false ∨ h.force = true →
        ∃ u w, Replies (.cgDestroy t h n) s t h (.cgDestroy n) (.kw k) q u St.ok [] ∧ u.part p = some w ∧
          w.group? n.toNat = none ∧ (∀ x, x ≠ n.toNat → w.group? x = v.group? x) ∧ u.hbm = s.hbm) ∧
      (g.live = true → h.force = false →
        Replies (.cgDestroy t h n) s t h (.cgDestroy n) (.kw k) q a St.busy [])) ∧
    ∀ n g, Ready s t h (.cgStatus n) (.kw k) q →
      let a := arrived s t h (.cgStatus n) (.kw k) q.ref
      a.kwPart k = some p → a.part p = some v → v.group? n.toNat = some g →
      Replies (.cgStatus t h n) s t h (.cgStatus n) (.kw k) q a St.ok (be 8 g.lastSeq ++ be 2 g.lastStatus)

/-- MM_RS, MM_AR, AG_MM, AR and AG: a member's launch on a group of several members begins its next instance on the bytes that its
operands name, and runs until the others bring their parts; under a notice it holds it ends at once (R170, R179, R184). A step sends
its pieces once those before have landed, DONE marks are merged until every member is known to be done, and the timeout, a departure,
a notice and the end of an abort stop a member (R175, R180 to R184). Where the manual leaves it open, this is the model's choice (log
28, log 33). -/
def Obligations.CollectivesComplete : Prop :=
  (∀ (kind : Fused) (s : State) (t : Nat) (p : PartId) (v : Part) (g : Group) (cut : BitVec 32) (i : Nat) (a : FusedArgs),
      s.part p = some v → (v.groups.find? fun x => x.num = g.num) = some g → g.dying = false →
      v.running.bind Configuration.cut = some cut → v.gridRuns (s.tick t).osc = true → formatOk a.fmt = true →
      i < g.members.length → g.steps kind cut ≠ [] → i < g.memberSeq.length →
      let seq := g.memberSeq.getD i 0 + 1
      ((∀ x, g.inst? seq = some x → ∃ m, x.members[i]? = some m ∧ m.st = .waiting) →
        ∃ u g' x m, exec (launchRow kind t p g.num i a) s = .next u ∧ u.member? p g.num seq i = some (g', x, m) ∧
          m.st = .running (s.tick t).osc 0 ∧ m.args = some a ∧ (m.data, m.dataB) = (s.tick t).operands p kind a ∧
          x.kind = kind ∧ x.cut = cut ∧ g'.memberSeq.getD i 0 = seq ∧ u.hbm = s.hbm ∧ u.out = s.out) ∧
      ∀ x m since st, g.inst? seq = some x → x.members[i]? = some m → m.st = .aborting since st →
        ∃ u w g', exec (launchRow kind t p g.num i a) s = .next u ∧ u.part p = some w ∧
          (w.groups.find? fun y => y.num = g.num) = some g' ∧ (g.lastSeq ≤ seq → g'.lastSeq = seq ∧ g'.lastStatus = st) ∧
          u.sends = s.sends) ∧
  (∀ (s : State) (t : Nat) (p : PartId) (n seq i : Nat) (g : Group) (x : Instance) (m : Member),
    s.member? p n seq i = some (g, x, m) →
    let a := s.tick t
    let done := fun (j : Nat) => ∃ y, x.members[j]? = some y ∧ (y.st = .done ∨ y.st = .completed)
    (∀ since k v y, m.st = .running since k → m.args = some y → s.part p = some v → v.gridRuns a.osc = true →
      k < (g.steps x.kind x.cut).length → g.received x i k = true →
      exec (.ringStep t p n seq i) s =
        .next (((a.modMember p n seq i (setSt (.running since (k + 1)))).sendStep p v g x i k y).settleMember p n seq i)) ∧
    (∀ bits, m.st = .done →
      ((∀ j, j < g.members.length → j ∈ m.bitmap ∨ j ∈ bits ∧ done j) → (∃ j, j < g.members.length ∧ j ∉ m.bitmap) →
        ∃ u v g', exec (.doneMarkReceived t p n seq i bits) s = .next u ∧ u.part p = some v ∧
          (v.groups.find? fun y => y.num = n) = some g' ∧ (g.lastSeq ≤ seq → g'.lastSeq = seq ∧ g'.lastStatus = St.ok) ∧
          u.hbm = s.hbm) ∧
      ((∃ j, j < g.members.length ∧ j ∉ m.bitmap ∧ ¬(j ∈ bits ∧ done j)) →
        ∃ u g' x' m', exec (.doneMarkReceived t p n seq i bits) s = .next u ∧ u.member? p n seq i = some (g', x', m') ∧
          m'.st = .done ∧ (∀ j, j ∈ m'.bitmap ↔ j ∈ m.bitmap ∨ j ∈ bits ∧ done j) ∧ u.hbm = s.hbm)) ∧
    (∀ since k, m.st = .running since k → since + g.timeoutUs * 1000 ≤ a.osc →
      ∃ u g' x' m', exec (.collectiveTimeout t p n seq i) s = .next u ∧ u.member? p n seq i = some (g', x', m') ∧
        m'.st = .aborting a.osc St.collTimeout ∧ (∀ y ∈ u.sends, y.ofMember p n seq i = false) ∧
        (∀ v c d j, s.part p = some v → v.memberChip g i = some c → j < g.members.length → j ≠ i → v.memberChip g j = some d →
          ∃ y ∈ (u.chip c).prio0, y.dst = d ∧ y.body = .abort p n seq (BitVec.ofNat 16 St.collTimeout)) ∧
        u.hbm = s.hbm ∧ u.out = s.out) ∧
    (∀ v d c, s.part p = some v → v.memberChip g d = some c → s.chipUp c = false →
      exec (.memberDeparture t p n i d) s = .next (a.abortMemberAll p g i St.collAborted)) ∧
    (∀ st : BitVec 16, st = 0x30#16 ∨ st = 0x31#16 →
      ∃ u g' x' m', exec (.abortNoticeReceived t p n seq i st) s = .next u ∧ u.member? p n seq i = some (g', x', m') ∧
        m'.st = abortState a.osc st.toNat m.st ∧ (∀ y ∈ u.sends, y.ofMember p n seq i = false) ∧ u.hbm = s.hbm ∧ u.out = s.out) ∧
    ∀ since st y, m.st = .aborting since st → m.args = some y → since + 10000 ≤ a.osc → g.dying = false →
      ∃ u v g', exec (.collectiveFinalise t p n seq i) s = .next u ∧ u.part p = some v ∧
        (v.groups.find? fun y => y.num = n) = some g' ∧ (g.lastSeq ≤ seq → g'.lastSeq = seq ∧ g'.lastStatus = st)) ∧
  ∀ (s : State) (t : Nat) (p : PartId) (n seq i : Nat) (g : Group) (st : BitVec 16), s.group? p n = some g → g.inst? seq = none →
    g.memberSeq.getD i 0 < seq → i < g.members.length → st = 0x30#16 ∨ st = 0x31#16 →
    ∃ u g' x m, exec (.abortNoticeReceived t p n seq i st) s = .next u ∧ u.member? p n seq i = some (g', x, m) ∧
      m.st = .aborting (s.tick t).osc st.toNat ∧ m.args = none ∧ u.hbm = s.hbm

/-! ### Settings -/

/-- SET_GET, SET_LATCH, SET_DISCARD and SET_STORE on either channel: the value as its reader sees it with its class byte and epoch,
the latch kept in place of an earlier one of its setting, every latch gone, the running value of one setting, or of every unstored
one the sender may write, stored (R47, R332, R336, R351). Where the manual leaves it open, this is the model's choice (log 40). -/
def Obligations.SettingCommandsComplete : Prop :=
  ∀ (s : State) (t : Nat) (h : Hdr) (e : Ep) (q : Session) (id : BitVec 16),
    (∀ i ix, Ready s t h (.setGet id) e q →
      let a := arrived s t h (.setGet id) e q.ref
      let c := ctxAt s t h (.setGet id) e q
      setInfo id = some i → a.mayRead e id i = true → a.address c id i = .ok ix →
      Replies (.setGet t h id) s t h (.setGet id) e q a St.ok
        ([classByte i.cls.code (a.unstored (id, ix) i) (q.latches.any fun l => l.key = (id, ix))] ++
          be 2 (a.shownValue c (id, ix)).length ++ a.shownValue c (id, ix) ++ be 4 (a.hdrEpoch h).toNat)) ∧
    (∀ v key, Ready s t h (.setLatch id v) e q →
      let a := arrived s t h (.setLatch id v) e q.ref
      a.checkWrite (ctxAt s t h (.setLatch id v) e q) id v = .ok key → (q.latches.filter fun l => l.key ≠ key).length < 64 →
      Replies (.setLatch t h id v) s t h (.setLatch id v) e q (a.modSession e q.ref fun q =>
        { q with latches := q.latches.filter (fun l => l.key ≠ key) ++ [{ key := key, value := v }] }) St.ok []) ∧
    (Ready s t h .setDiscard e q →
      Replies (.setDiscard t h) s t h .setDiscard e q
        ((arrived s t h .setDiscard e q.ref).modSession e q.ref fun q => { q with latches := [] }) St.ok []) ∧
    (∀ i ix, Ready s t h (.setStore id) e q →
      let a := arrived s t h (.setStore id) e q.ref
      id ≠ 0 → setInfo id = some i → i.cls = .stored → a.mayWrite e i = true →
      a.address (ctxAt s t h (.setStore id) e q) id i = .ok ix →
      (a.unstored (id, ix) i = false → Replies (.setStore t h id) s t h (.setStore id) e q a St.ok []) ∧
      (a.unstored (id, ix) i = true →
        (Image.length { gen := 0, records := Tab.set a.image.records (id, ix) (a.setVal (id, ix)) }) ≤ 112 * 1024 →
        ∃ u, Replies (.setStore t h id) s t h (.setStore id) e q u St.ok [] ∧ u.storedVal (id, ix) = a.setVal (id, ix) ∧
          (∀ key, key ≠ (id, ix) → u.storedVal key = a.storedVal key) ∧ u.image.gen = max a.image.gen a.cfg.genFlash + 1 ∧
          u.cfg.running = a.cfg.running ∧ u.hbm = s.hbm)) ∧
    (Ready s t h (.setStore 0) e q →
      let a := arrived s t h (.setStore 0) e q.ref
      let keys := a.storable (ctxAt s t h (.setStore 0) e q)
      (keys = [] → Replies (.setStore t h 0) s t h (.setStore 0) e q a St.ok []) ∧
      (keys ≠ [] →
        (Image.length { gen := 0, records := keys.foldl (fun r k => Tab.set r k (a.setVal k)) a.image.records }) ≤ 112 * 1024 →
        ∃ u, Replies (.setStore t h 0) s t h (.setStore 0) e q u St.ok [] ∧ (∀ key ∈ keys, u.storedVal key = a.setVal key) ∧
          (∀ key, key ∉ keys → u.storedVal key = a.storedVal key) ∧ u.cfg.running = a.cfg.running ∧ u.hbm = s.hbm))

/-- A write of a keyway-class value turns at once and is answered with the epoch then in force: SET_SET, KW_SHARE_SLOT_WRITE and
KW_BINDING_WRITE; SET_TURN does the same with a latched value. The epochs of the partitions concerned advance by one turn (R44, R349,
R351, R352, R354). FAB_ACCEPT_TEST_WRITE starts the acceptance test, and RACK_ACCEPTED_WRITE accepts the rack, or takes acceptance
back when no keyway is open and is else BUSY; both turn on the whole rack at once (R310, R316, R352). -/
def Obligations.ValuesTurnAtOnce : Prop :=
  (∀ (s : State) (t : Nat) (h : Hdr) (e : Ep) (q : Session) (id : BitVec 16) (v : List Byte) (k : KwId) (i : SetInfo),
      setInfo id = some i → i.turn = .keyway →
      let kept := if id = 0x0101#16 then bindingValue v else v
      (∀ r, writeRow r t h id v → Ready s t h (.setSet id v) e q →
        let a := arrived s t h (.setSet id v) e q.ref
        a.checkWrite (ctxAt s t h (.setSet id v) e q) id v = .ok (id, .kw k) → Calm a →
        ∃ u, Replies r s t h (.setSet id v) e q u St.ok (be 4 (u.hdrEpoch h).toNat) ∧
          Tab.get u.cfg.running (setDefault id) (id, .kw k) = kept ∧
          (∀ p w, a.part p = some w → p ∈ a.changedParts [.val (id, .kw k) v] →
            ∃ x, u.part p = some x ∧ x.epoch = nextEpoch w.epochHigh) ∧
          u.hbm = s.hbm ∧ u.chips = s.chips) ∧
      (q.latches = [{ key := (id, .kw k), value := v }] → Ready s t h .setTurn e q →
        let a := arrived s t h .setTurn e q.ref
        Calm a → a.mayTurn e (id, .kw k) = true → a.changesOk [.val (id, .kw k) v] = true →
        ∃ u r, Replies (.setTurn t h) s t h .setTurn e q u St.ok (be 4 (u.hdrEpoch h).toNat) ∧ u.session? e q.ref = some r ∧
          r.latches = [] ∧ Tab.get u.cfg.running (setDefault id) (id, .kw k) = kept ∧ u.hbm = s.hbm)) ∧
  ∀ (s : State) (t : Nat) (h : Hdr) (q : Session) (id : BitVec 16) (v : List Byte) (r : Instr), writeRow r t h id v →
    Ready s t h (.setSet id v) .op q →
    let a := arrived s t h (.setSet id v) .op q.ref
    a.checkWrite (ctxAt s t h (.setSet id v) .op q) id v = .ok (id, .rack) → Calm a →
    (id = 0x0304#16 → a.accept.phase = 0 →
      ∃ u, Replies r s t h (.setSet id v) .op q u St.ok (be 4 (u.hdrEpoch h).toNat) ∧ u.setVal (id, .rack) = v ∧
        u.accept.phase = 1 ∧ u.rackEpoch = nextEpoch s.rackEpochHigh ∧ u.hbm = s.hbm) ∧
    (id = 0x0A20#16 → (fieldBe v 0 1 = 0 → ∀ k, a.kwOpen k = false) →
      ∃ u, Replies r s t h (.setSet id v) .op q u St.ok (be 4 (u.hdrEpoch h).toNat) ∧ u.setVal (id, .rack) = v ∧
        (fieldBe v 0 1 = 0 → u.admits = false) ∧ (fieldBe v 0 1 ≠ 0 → u.admits = true) ∧
        u.rackEpoch = nextEpoch s.rackEpochHigh ∧ u.hbm = s.hbm) ∧
    (id = 0x0A20#16 → fieldBe v 0 1 = 0 → h.force = false → (∃ k, a.kwOpen k = true) →
      Replies r s t h (.setSet id v) .op q a St.busy [])

/-- A write of PART_SHAPE that asks for a partition not there is accepted where there is room, and its turn waits for a placement
run; where none of its placements is in service it is refused NO_RESOURCE; one that asks for the shape in force brings no turn (R40,
R245, R354). -/
def Obligations.PartShapeWriteWaitsForPlace : Prop :=
  ∀ (s : State) (t : Nat) (h : Hdr) (q : Session) (p : PartId) (v : List Byte) (r : Instr), writeRow r t h 0x0201#16 v →
    Ready s t h (.setSet 0x0201#16 v) .op q →
    let a := arrived s t h (.setSet 0x0201#16 v) .op q.ref
    let ask := (p, fieldBe v 0 1, fieldBe v 1 1, fieldBe v 2 1, fieldBe v 3 1)
    let open_ := (candidates (fieldBe v 0 1) (fieldBe v 1 1) (fieldBe v 2 1) (fieldBe v 3 1)).any a.placeable
    a.checkWrite (ctxAt s t h (.setSet 0x0201#16 v) .op q) 0x0201#16 v = .ok (0x0201#16, .part p) →
    (Calm a → a.part p = none → fieldBe v 0 1 ≠ 0 → open_ = true → a.roomFor [ask] [] = true →
      ∃ u w, Replies r s t h (.setSet 0x0201#16 v) .op q u St.accepted [] ∧ u.turn = some w ∧
        w.placing = [ask] ∧ w.shapes = [] ∧ w.session = q.ref ∧ u.parts = s.parts ∧ u.hbm = s.hbm) ∧
    (a.turn = none → a.part p = none → fieldBe v 0 1 ≠ 0 → open_ = false →
      Replies r s t h (.setSet 0x0201#16 v) .op q a St.noResource []) ∧
    (∀ w, a.part p = some w → fieldBe v 0 1 = w.shape.cls → fieldBe v 1 1 = w.shape.ex → fieldBe v 2 1 = w.shape.ey →
      fieldBe v 3 1 = w.shape.ez →
      Replies r s t h (.setSet 0x0201#16 v) .op q a St.ok (be 4 (a.hdrEpoch h).toNat))

/-! ### Power of partitions -/

/-- PWR_STATE of a bound keyway is accepted; SHUT with a program or a Tumbler run live is BUSY without FORCE, and with it drains the
program. PWR_CAP and POLICY_SET turn their values at once, PWR_READ tells the four figures, and the change of state ends once every
quadrant has it, with its event (R53, R91, R95, R96, R263, R346, R348). Where the manual leaves it open, this is the model's choice
(log 39, log 76, log 114). -/
def Obligations.PowerCommandsComplete : Prop :=
  ∀ (s : State) (t : Nat) (h : Hdr) (k : KwId) (q : Session) (p : PartId) (v : Part),
    (∀ n r, Ready s t h (.pwrState n r) (.kw k) q →
      let a := arrived s t h (.pwrState n r) (.kw k) q.ref
      let busy := n = 2 && (v.hasProgram || a.partRuns p)
      a.kwPart k = some p → a.part p = some v →
      (busy = true → h.force = false → Replies (.pwrState t h n r) s t h (.pwrState n r) (.kw k) q a St.busy []) ∧
      (busy = false ∨ h.force = true →
        ∃ u o w, Replies (.pwrState t h n r) s t h (.pwrState n r) (.kw k) q u St.accepted [] ∧ o ∈ u.ops ∧ o.ep = .kw k ∧
          o.session = q.ref ∧ o.kind = .pwrState p n.toNat (r.getLsbD 0) ∧ u.part p = some w ∧ w.power = v.power ∧
          (busy = true → v.prog = .running → w.prog = .draining a.osc none) ∧ u.hbm = s.hbm)) ∧
    (∀ w : BitVec 32, Ready s t h (.pwrCap w) (.kw k) q →
      let a := arrived s t h (.pwrCap w) (.kw k) q.ref
      let most := a.partSet p 0x0605#16 * (a.partQuads p).length
      let granted := if w = 0 then most else max (150 * (a.partQuads p).length) (if most = 0 then w.toNat else min w.toNat most)
      a.kwPart k = some p → Calm a →
      ∃ u, Replies (.pwrCap t h w) s t h (.pwrCap w) (.kw k) q u St.ok (be 4 granted) ∧
        u.setVal (0x020A#16, .part p) = be 4 granted ∧ u.hbm = s.hbm) ∧
    (∀ d r n, Ready s t h (.policySet d r n) (.kw k) q →
      let a := arrived s t h (.policySet d r n) (.kw k) q.ref
      a.kwPart k = some p → Calm a →
      ∃ u, Replies (.policySet t h d r n) s t h (.policySet d r n) (.kw k) q u St.ok [] ∧
        u.partSet p 0x0207#16 = d.toNat ∧ u.partSet p 0x0208#16 = r.toNat ∧ u.partSet p 0x0209#16 = n.toNat ∧ u.hbm = s.hbm) ∧
    (Ready s t h .pwrRead (.kw k) q →
      let a := arrived s t h .pwrRead (.kw k) q.ref
      a.kwPart k = some p →
      Replies (.pwrRead t h) s t h .pwrRead (.kw k) q a St.ok
        (be 4 (a.wattsOf (a.partQuads p)) ++ be 2 (a.meter.watts / 500) ++ be 1 (Config.utilisation a.meter.sec % 101) ++
          be 1 (if a.serviceDue then 1 else 0))) ∧
    ∀ o n r, s.part p = some v → s.powerOp p = some (o, n, r) → n ≤ v.power ∨ v.hasProgram = false ∨ (v.quiesced = true ∧ n < 2) →
      ∃ u w, exec (.powerStateChanged t p) s = .next u ∧ u.part p = some w ∧ w.power = n ∧ u.op? o.id = none ∧
        Told (s.tick t) u o.ep o.session Ev.powerStateChanged [BitVec.ofNat 8 n] ∧
        (n = 2 → r = false → v.power ≠ 2 → w.configs = [] ∧ w.running = none) ∧ u.hbm = s.hbm

/-! ### The Tumbler -/

/-- TMB_LOAD of a sound image lists its problem and writes its colours; TMB_RUN queues a run on its chip under the schedule given or
the default; TMB_RESULT copies the best state and returns energy and sweep; TMB_FREE of a problem without a run, or with FORCE, frees
it (R229 to R234, R242, R243). Where the manual leaves it open, this is the model's choice (log 34). -/
def Obligations.TumblerCommandsComplete : Prop :=
  ∀ (s : State) (t : Nat) (h : Hdr) (k : KwId) (q : Session) (p : PartId) (v : Part),
    (∀ addr len fl chip x, Ready s t h (.tmbLoad addr len fl) (.kw k) q →
      let a := arrived s t h (.tmbLoad addr len fl) (.kw k) q.ref
      let bs := a.tread p addr len.toNat
      a.kwPart k = some p → a.part p = some v → v.chips[v.shape.vqChip (addrVq addr)]? = some chip →
      a.rangeOk p (tmbState bs) (stateLen (tmbN bs)) = true →
      parseProblem bs (a.pickId 1 65536 ((a.kw k).problems.map Problem.num)) p chip (v.shape.vqChip (addrVq addr)) = some x →
      v.shape.vqChip (addrVq x.stateAddr) = v.shape.vqChip (addrVq addr) → (a.kw k).problems.length < 16 →
      let y := if fl.getLsbD 0 then { x with colours := recolour x.classes x.rows } else x
      ∃ u, Replies (.tmbLoad t h addr len fl) s t h (.tmbLoad addr len fl) (.kw k) q u St.ok
          (be 2 x.num ++ be 4 x.spins ++ be 4 (sameColour y.rows y.colours)) ∧
        (u.kw k).problems = (s.kw k).problems ++ [y] ∧
        u.hbm = Memory.write s.hbm (s.phys p y.coloursAt) (packNibbles y.colours)) ∧
    (∀ n seed sw sched x g, Ready s t h (.tmbRun n seed sw sched) (.kw k) q →
      let a := arrived s t h (.tmbRun n seed sw sched) (.kw k) q.ref
      a.kwPart k = some p → (a.kw k).problem? n.toNat = some x → a.runOf k x = none →
      (if sched = 0 then some defaultSched else parseSched (a.tread p sched 148)) = some g →
      ∃ u r, Replies (.tmbRun t h n seed sw sched) s t h (.tmbRun n seed sw sched) (.kw k) q u St.accepted [] ∧
        (u.chip x.chip).runs = (s.chip x.chip).runs ++ [r] ∧ r.problem = x.num ∧ r.kw = k ∧ r.seed = seed ∧ r.sweeps = sw.toNat ∧
        r.init = g.init ∧ r.wsweeps = g.wsweeps ∧ r.xevery = g.xevery ∧ r.betas = g.betas ∧ r.cut = q.cut ∧ r.t = 0 ∧
        r.op = s.nextOp ∧ (u.op? s.nextOp).isSome = true ∧ u.hbm = s.hbm) ∧
    (∀ n dst x, Ready s t h (.tmbResult n dst) (.kw k) q →
      let a := arrived s t h (.tmbResult n dst) (.kw k) q.ref
      a.kwPart k = some p → (a.kw k).problem? n.toNat = some x → a.runOf k x = none →
      a.rangeOk p dst ((x.spins + 7) / 8) = true →
      ∃ u, Replies (.tmbResult t h n dst) s t h (.tmbResult n dst) (.kw k) q u St.ok
          ((field (a.tread p x.footerAt 12) 0 8).reverse ++ (field (a.tread p x.footerAt 12) 8 4).reverse) ∧
        u.hbm = Memory.write s.hbm (s.phys p dst) (a.tread p x.bestAddr ((x.spins + 7) / 8)) ∧ u.parts = s.parts) ∧
    ∀ n x, Ready s t h (.tmbFree n) (.kw k) q →
      let a := arrived s t h (.tmbFree n) (.kw k) q.ref
      (a.kw k).problem? n.toNat = some x →
      (a.runOf k x = none ∨ h.force = true →
        ∃ u, Replies (.tmbFree t h n) s t h (.tmbFree n) (.kw k) q u St.ok [] ∧ (u.kw k).problem? n.toNat = none ∧
          (∀ m, m ≠ n.toNat → (u.kw k).problem? m = (s.kw k).problem? m) ∧ u.hbm = s.hbm ∧
          (a.runOf k x = none → u.chips = s.chips) ∧
          (∀ r, a.runOf k x = some r → ∀ y ∈ (u.chip x.chip).runs, y.op ≠ r.op)) ∧
      (a.runOf k x ≠ none → h.force = false → Replies (.tmbFree t h n) s t h (.tmbFree n) (.kw k) q a St.busy [])

/-- Within its slice a live run advances by one sweep, slices of 100 us follow each other in a frame of five, and a run that has
reached its sweep count leaves words, best state and footer and ends with TMB_DONE (R231, R235, R239, R241, R242). When a slice that
is ended late begins anew is the model's choice (log 11). -/
def Obligations.TumblerRunsAdvance : Prop :=
  ∀ (s : State) (t : Nat) (n : ChipId),
    (∀ p run x, s.sliceOwner n = some p → s.liveRun n p = some run → (s.kw run.kw).problem? run.problem = some x →
      run.done = false → (s.tick t).osc ≤ (s.chip n).sliceAt + sliceNs →
      ∃ u r, exec (.tmbSweep t n) s = .next u ∧ u = (s.tick t).sweepRun n run x ∧ r ∈ (u.chip n).runs ∧ r.op = run.op ∧
        r.t = run.t + 1 ∧ r.done = decide (run.sweeps ≤ run.t + 1)) ∧
    (s.chipUp n = true → (s.chip n).sliceAt + sliceNs ≤ (s.tick t).osc →
      ∃ u, exec (.tumblerSlice t n) s = .next u ∧ (u.chip n).slice = ((s.chip n).slice + 1) % 5 ∧
        (u.chip n).runs = (s.chip n).runs ∧ u.hbm = s.hbm ∧ u.parts = s.parts ∧ u.out = s.out) ∧
    ∀ run x o, (s.chip n).runs.find? TmbRun.done = some run → (s.kw run.kw).problem? run.problem = some x →
      s.op? run.op = some o →
      ∃ u, exec (.tmbDone t n) s = .next u ∧ (∀ r ∈ (u.chip n).runs, r.op ≠ run.op) ∧ u.op? run.op = none ∧
        Told (s.tick t) u o.ep o.session Ev.tmbDone (be 2 run.problem ++ be 2 St.ok) ∧
        u.hbm = Memory.write (Memory.write (Memory.write s.hbm (s.phys x.part (x.wordsAt 0)) (termBytes run.replicas))
          (s.phys x.part x.bestAddr) (packBits x.spins run.best)) (s.phys x.part x.footerAt) (tmbFooter run)

/-- The firmware's own runs, in its slice: every 600 s a full shard map is taken for later inserts, and a chip's rotation plan becomes
part of the partition's planned permutation, one that is not complete leaving the plan incomplete (R121, R194, R244, R246). Where the
manual leaves it open, this is the model's choice (log 10, log 35). -/
def Obligations.FirmwareRunsComplete : Prop :=
  ∀ (s : State) (t : Nat) (n : ChipId), (s.chip n).slice = 0 →
    (∀ map : List (Fin 4), s.lowestChip = some n → map.length = 256 → s.place.shardAt + firmwarePeriod ≤ (s.tick t).osc →
      ∃ u, exec (.shardMapRun t map) s = .next u ∧ (∀ key : BitVec 128, some (u.shardOf key) = map[(key.setWidth 8).toNat]?) ∧
        u.place.shardAt = u.osc ∧ u.kr.dir = s.kr.dir ∧ u.hbm = s.hbm ∧ u.parts = s.parts) ∧
    ∀ p v plan complete, s.part p = some v → s.rotates p = true → v.hasProgram = true → s.chipUp n = true →
      v.chips.contains n = true → (plan.all fun m => v.shape.quads.contains (quadOf n (blockK m.1))) = true →
      rotationOk v.shape (((v.latest.bind fun w => w.config.prog).map ProgramImage.classes).getD []) plan = true →
      ∃ u w, exec (.rotationPlan t n p plan complete) s = .next u ∧ u.part p = some w ∧
        w.rotPlan = some (((v.rotPlan.getD []).filter fun e => e.1 ≠ n) ++
          (if complete then plan.map fun m => (n, m.1, m.2) else [])) ∧
        (n ∈ w.rotDone ↔ complete = true) ∧ w.rot = v.rot ∧ w.running = v.running ∧ u.hbm = s.hbm

/-! ### Diagnostics and the operator -/

/-- DIAG_COUNTERS of every class, DIAG_EVENTS_READ, DIAG_ECHO and DIAG_DUMP_READ, on the channel of their keyway or on the operator's,
return counters, events in their order, the bytes sent, and the part of the dump asked for (R84, R169, R327, R370, R375). The ECC
classes count what has been corrected since, an open number: the model's choice (log 133); the rest changes nothing but the reply.
Where the manual leaves it open, this is the model's choice (log 90). -/
def Obligations.DiagnosticsComplete : Prop :=
  ∀ (s : State) (t : Nat) (h : Hdr) (e : Ep) (q : Session),
    (∀ (cls : BitVec 16) k, cls = 0x0009#16 ∨ cls = 0x000B#16 → Ready s t h (.diagCounters cls 0) e q →
      let a := arrived s t h (.diagCounters cls 0) e q.ref
      (ctxAt s t h (.diagCounters cls 0) e q).kw? = some k →
      Replies (.diagCounters t h cls 0) s t h (.diagCounters cls 0) e q a St.ok
        (counterBody ((a.kw k).counters cls.toNat))) ∧
    (∀ (cls : BitVec 16) k p v, cls = 0x0006#16 ∨ cls = 0x0007#16 ∨ cls = 0x000A#16 ∨ cls = 0x000C#16 →
      Ready s t h (.diagCounters cls 0) e q →
      let a := arrived s t h (.diagCounters cls 0) e q.ref
      (ctxAt s t h (.diagCounters cls 0) e q).kw? = some k → a.kwPart k = some p → a.part p = some v →
      Replies (.diagCounters t h cls 0) s t h (.diagCounters cls 0) e q a St.ok (counterBody (v.counters cls.toNat))) ∧
    (∀ k p v, e = .kw k → Ready s t h (.diagCounters 5 0) e q →
      let a := arrived s t h (.diagCounters 5 0) e q.ref
      a.kwPart k = some p → a.part p = some v →
      let u := a.correctedAll (stacksOf v.shape.quads)
      Replies (.diagCounters t h 5 0) s t h (.diagCounters 5 0) e q u St.ok (counterBody (u.partEcc v))) ∧
    (∀ (unit : BitVec 16) (n : ChipId), unit.toNat = n.val → e = .op → h.keyway = 0xFF#8 →
      (∀ cls, Ready s t h (.diagCounters cls unit) e q →
        let a := arrived s t h (.diagCounters cls unit) e q.ref
        let u := a.correctedAll (stacksOf (chipQuads n))
        a.chipLocked n = false → a.resettingChip n = false →
        (cls = 8 → Replies (.diagCounters t h cls unit) s t h (.diagCounters cls unit) e q a St.ok (counterBody (a.linkValues n))) ∧
        (cls = 5 → Replies (.diagCounters t h cls unit) s t h (.diagCounters cls unit) e q u St.ok
          (counterBody ((List.finRange 8).flatMap (u.eccOf n)))))) ∧
    (∀ x n, Ready s t h (.diagEventsRead x n) e q →
      let a := arrived s t h (.diagEventsRead x n) e q.ref
      let o : Ep := ((ctxAt s t h (.diagEventsRead x n) e q).kw?.map Ep.kw).getD .op
      Replies (.diagEventsRead t h x n) s t h (.diagEventsRead x n) e q a St.ok
        (takeFitting 8192 ((((a.endp o).eventsFrom x).take n.toNat).map fun y => y.bytes (epKeyway o)))) ∧
    (∀ bs, Ready s t h (.diagEcho bs) e q →
      Replies (.diagEcho t h bs) s t h (.diagEcho bs) e q (arrived s t h (.diagEcho bs) e q.ref) St.ok bs) ∧
    ∀ n off len d, Ready s t h (.diagDumpRead n off len) e q →
      let a := arrived s t h (.diagDumpRead n off len) e q.ref
      a.dump? (ctxAt s t h (.diagDumpRead n off len) e q) n.toNat = some d → off.toNat < d.length →
      Replies (.diagDumpRead t h n off len) s t h (.diagDumpRead n off len) e q a St.ok
        (field d.bytes off.toNat (min len.toNat (d.length - off.toNat)))

/-- OP_KEYWAY_RESET takes the sessions, queue pairs, registrations and requests of its keyway; OP_RESET asks for its level on its
unit, its operation open until the level ends; OP_LOG_READ and OP_SERVICE_STATUS read the log and the lockouts (R76, R288, R323, R324,
R329). Where the manual leaves it open, this is the model's choice (log 73, log 152, log 153). -/
def Obligations.OperatorCommandsComplete : Prop :=
  ∀ (s : State) (t : Nat) (h : Hdr) (q : Session),
    (∀ k : KwId, Ready s t h .opKeywayReset .op q → h.keyway.toNat = k.val →
      let a := arrived s t h .opKeywayReset .op q.ref
      ∃ u, Replies (.opKeywayReset t h) s t h .opKeywayReset .op q u St.ok [] ∧ u = a.keywayReset k ∧
        (u.kw k).sessions = [] ∧ (u.kw k).qps = [] ∧ (u.kw k).regs = [] ∧ (∀ r ∈ u.reqs, r.kw ≠ k) ∧ u.hbm = s.hbm) ∧
    (∀ unit lev x, Ready s t h (.opReset unit lev) .op q →
      let a := arrived s t h (.opReset unit lev) .op q.ref
      a.resetTarget (ctxAt s t h (.opReset unit lev) .op q) unit lev.toNat = .ok x →
      ∃ u r, Replies (.opReset t h unit lev) s t h (.opReset unit lev) .op q u St.accepted [] ∧
        u.resetReqs = s.resetReqs ++ [r] ∧ r.level = lev.toNat ∧ r.scope = x ∧ r.detector = 0 ∧ r.op = some s.nextOp ∧
        (u.ops.any fun o => o.id = s.nextOp && o.session = q.ref && o.kind = .reset lev.toNat) = true ∧ u.parts = s.parts ∧
        u.hbm = s.hbm) ∧
    (∀ x n, Ready s t h (.opLogRead x n) .op q →
      let a := arrived s t h (.opLogRead x n) .op q.ref
      Replies (.opLogRead t h x n) s t h (.opLogRead x n) .op q a St.ok
        (((a.rmu.log.filter fun r => decide (x.toNat ≤ r.lseq)).take n.toNat).flatMap LogRec.bytes)) ∧
    (Ready s t h .opServiceStatus .op q →
      let a := arrived s t h .opServiceStatus .op q.ref
      Replies (.opServiceStatus t h) s t h .opServiceStatus .op q a St.ok
        (be 1 (if a.serviceDue then 1 else 0) ++ be 8 (maskOf ((allChips.filter a.chipLocked).map Fin.val)) ++
          be 2 (maskOf (((List.finRange 16).filter a.lockedTrays.contains).map Fin.val))))

/-- OP_SHARE_KEY_CREATE and OP_SHARE_KEY_DELETE turn at once where nothing holds the turn back: the key lives under the reference
returned, or the reference names none, a private key being drawn anew (R188 to R190, R352). OP_TIME_STEP of a small offset steps
nothing; of a larger one it steps rack time by it, a negative one with a keyway open being BUSY without FORCE (R299). Where the manual
leaves it open, this is the model's choice (log 9, log 62). -/
def Obligations.KeysAndTimeSteps : Prop :=
  ∀ (s : State) (t : Nat) (h : Hdr) (q : Session),
    (∀ l i, Ready s t h (.opShareKeyCreate l) .op q →
      let a := arrived s t h (.opShareKeyCreate l) .op q.ref
      ((List.finRange 128).find? a.freeIndex) = some i → Calm a →
      ∃ u, Replies (.opShareKeyCreate t h l) s t h (.opShareKeyCreate l) .op q u St.ok
          (be 4 (shareRef i ((a.shareKey i).gen + 1)).toNat) ∧
        (u.shareKey i).live = true ∧ (u.shareKey i).gen = (a.shareKey i).gen + 1 ∧ (u.shareKey i).label = l ∧ u.hbm = s.hbm) ∧
    (∀ r i, Ready s t h (.opShareKeyDelete r) .op q →
      let a := arrived s t h (.opShareKeyDelete r) .op q.ref
      a.liveRef r = some i → Calm a →
      ∃ u, Replies (.opShareKeyDelete t h r) s t h (.opShareKeyDelete r) .op q u St.ok [] ∧ u.liveRef r = none ∧
        (64 ≤ i.val → (u.shareKey i).live = false) ∧
        (i.val < 64 → (u.shareKey i).live = true ∧ (u.shareKey i).gen = (a.shareKey i).gen + 1) ∧ u.hbm = s.hbm) ∧
    (Ready s t h .opTimeStep .op q →
      let a := arrived s t h .opTimeStep .op q.ref
      (a.thetaNs.natAbs ≤ 1000 → Replies (.opTimeStep t h) s t h .opTimeStep .op q a St.ok (beInt 8 0)) ∧
      (1000 < a.thetaNs.natAbs → 0 < a.thetaNs ∨ a.anyOpen = false →
        ∃ u, Replies (.opTimeStep t h) s t h .opTimeStep .op q u St.ok (beInt 8 a.thetaNs) ∧
          u.clk.rackQ = ((a.clk.rackQ : Int) + a.thetaNs * 2 ^ 40).toNat ∧ u.clk.theta = none ∧ u.clk.rate = 0 ∧ u.hbm = s.hbm) ∧
      (a.thetaNs < -1000 → a.anyOpen = true → h.force = false →
        Replies (.opTimeStep t h) s t h .opTimeStep .op q a St.busy []))

/-! ### Cells -/

/-- CELL_SEND, CELL_RECEIVE and BLOCKED_INSTRUCTION_COMPLETE: a message goes out where its input queue has room, or where the edge of
another partition will drop it, and the cell blocks where there is none; a receive takes the head of its queue, and what waits for the
room follows, or it blocks; the instruction completes once it can, and a STATIC cell's schedule slips by the cycles it was blocked.
MESSAGE_ARRIVAL, once the head word has had its cycles, puts the oldest message of an output queue at the tail of its input queue or of
its backlog, or the edge drops it (R48, R79, R99, R101, R104, R105, R107, R117). Where the manual leaves it open, this is the model's
choice (log 25, log 129). -/
def Obligations.CellMessagesComplete : Prop :=
  ∀ (s : State) (t : Nat) (c : CellId) (p : PartId),
    let a := s.tick t
    (∀ (v : Part) (g : CellCfg), a.cellRuns c = some (p, v, g) →
      (∀ q (m : Msg) dc dr dq, outOf g q = some (.cell dc dr dq) →
        let d : CellId := { chip := c.chip, c := dc, r := dr }
        let sent : InFlight := { src := c, srcQ := q, dst := d, dstQ := dq, msg := m, sentAt := a.cycleOn c.chip }
        (m.kind.toNat < 3 → (s.cell c).blocked = none → a.crosses p c d = true ∨ a.canTake d dq m (a.inFlightWords d dq) = true →
          ∃ u, exec (.cellSend t c q m) s = .next u ∧ u.mesh = s.mesh ++ [sent] ∧ (u.cell c).blocked = none ∧ (u.cell c).sent q = [] ∧
            u.hbm = s.hbm ∧ u.parts = s.parts) ∧
        (m.kind.toNat < 3 → (s.cell c).blocked = none → a.crosses p c d = false → a.canTake d dq m (a.inFlightWords d dq) = false →
          ∃ u, exec (.cellSend t c q m) s = .next u ∧ u.mesh = s.mesh ∧ (u.cell c).blocked = some (.send q) ∧
            (u.cell c).sent q = [m] ∧ (u.cell c).blockedAt = a.cycleOn c.chip ∧ (u.cell c).inq = (s.cell c).inq ∧ u.hbm = s.hbm ∧
            u.parts = s.parts) ∧
        (∀ ms, (s.cell c).blocked = some (.send q) → (s.cell c).sent q = m :: ms →
          a.crosses p c d = true ∨ a.canTake d dq m (a.inFlightWords d dq) = true →
          ∃ u, exec (.blockedInstructionComplete t c) s = .next u ∧ u.mesh = s.mesh ++ [sent] ∧ (u.cell c).blocked = none ∧
            (a.partSet p 0x0203#16 ≠ 0 → u.parts = s.parts) ∧
            (a.partSet p 0x0203#16 = 0 → (u.cell c).slip = (s.cell c).slip + (a.cycleOn c.chip - (s.cell c).blockedAt)) ∧
            u.hbm = s.hbm)) ∧
      (∀ q srcs, insOf g q = some srcs → srcs ≠ [] ∨ g.notifyQ = some q ∨ g.abortQ = some q →
        ((s.cell c).blocked = none → (s.cell c).ready q = true →
          ∃ u new, exec (.cellReceive t c q) s = .next u ∧ (u.cell c).queue q = ((s.cell c).queue q).tail ++ new ∧
            ((∀ e ∈ s.waitIn, (e.1, e.2.1) ≠ (c, q)) → new = []) ∧ (u.cell c).blocked = none ∧
            (∀ x, x ≠ q → (u.cell c).queue x = (s.cell c).queue x) ∧ (∀ d, d ≠ c → u.cell d = s.cell d) ∧ u.mesh = s.mesh ∧
            u.hbm = s.hbm) ∧
        ((s.cell c).blocked = none → (s.cell c).ready q = false →
          ∃ u, exec (.cellReceive t c q) s = .next u ∧ (u.cell c).blocked = some (.recv q) ∧
            (u.cell c).blockedAt = a.cycleOn c.chip ∧ (u.cell c).inq = (s.cell c).inq ∧ u.mesh = s.mesh ∧ u.hbm = s.hbm ∧
            u.parts = s.parts)) ∧
      ∀ q, (s.cell c).blocked = some (.recv q) → (s.cell c).ready q = true →
        ∃ u new, exec (.blockedInstructionComplete t c) s = .next u ∧ (u.cell c).queue q = ((s.cell c).queue q).tail ++ new ∧
          ((∀ e ∈ s.waitIn, (e.1, e.2.1) ≠ (c, q)) → new = []) ∧ (u.cell c).blocked = none ∧
          (a.partSet p 0x0203#16 = 0 → (u.cell c).slip = (s.cell c).slip + (a.cycleOn c.chip - (s.cell c).blockedAt)) ∧
          (∀ x, x ≠ q → (u.cell c).queue x = (s.cell c).queue x) ∧ (∀ d, d ≠ c → u.cell d = s.cell d) ∧ u.mesh = s.mesh ∧
          u.hbm = s.hbm) ∧
    ∀ q m, s.quadOwner (cellQuad c) = some p → (s.mesh.find? fun x => decide (x.src = c) && decide (x.srcQ = q)) = some m →
      m.sentAt + meshCycles c m.dst ≤ a.cycleOn c.chip →
      let rest := dropFirst (fun x : InFlight => decide (x.src = c) && decide (x.srcQ = q)) s.mesh
      (a.crosses p c m.dst = false → a.canTake m.dst m.dstQ m.msg 0 = true →
        ∃ u, exec (.messageArrival t c q) s = .next u ∧ u.mesh = rest ∧
          ((s.cell m.dst).extended.contains m.dstQ = false →
            (u.cell m.dst).queue m.dstQ = (s.cell m.dst).queue m.dstQ ++ [m.msg] ∧ u.parts = s.parts) ∧
          ((s.cell m.dst).extended.contains m.dstQ = true →
            (u.cell m.dst).queue m.dstQ = (s.cell m.dst).queue m.dstQ ∧
            (u.cell m.dst).log m.dstQ = (s.cell m.dst).log m.dstQ ++ [m.msg]) ∧
          (∀ d, d ≠ m.dst → u.cell d = s.cell d) ∧ u.hbm = s.hbm) ∧
      (∀ v, s.part p = some v → a.crosses p c m.dst = true →
        ∃ u w, exec (.messageArrival t c q) s = .next u ∧ u.mesh = rest ∧ u.cells = s.cells ∧ u.part p = some w ∧
          w.fabric = bump32 v.fabric 1 1 ∧ u.hbm = s.hbm)

/-- SCHEDULE_ENTRY_ISSUE issues a STATIC cell's next entry once its cycle has come, and later ones slip by the cycles it loses, counted
as one slip (R107). TAGGED_FIRE takes, from each queue of the rule whose matching tag is the oldest, the first message of that tag
(R108). CELL_SWAP puts the shadow in force for a cell that hinges head, in 16 cycles, and a hinge on each bound output queue (R112).
Where the manual leaves it open, this is the model's choice (log 23, log 26). -/
def Obligations.CellsFireAndSwap : Prop :=
  ∀ (s : State) (t : Nat) (c : CellId) (p : PartId) (v : Part),
    let a := s.tick t
    (∀ g n, a.cellRuns c = some (p, v, g) → a.partSet p 0x0203#16 = 0 → g.sched ≠ [] → (s.cell c).blocked = none →
      (s.cell c).entryDue g ≤ a.cycleOn c.chip →
      ∃ u w, exec (.scheduleEntryIssue t c n) s = .next u ∧ (u.cell c).sched = (s.cell c).sched + 1 ∧
        (u.cell c).slip = (s.cell c).slip + n ∧ u.part p = some w ∧ w.cells = (if n = 0 then v.cells else bump v.cells 0 1) ∧
        u.hbm = s.hbm ∧ u.mesh = s.mesh) ∧
    (∀ g r tag, a.cellRuns c = some (p, v, g) → a.partSet p 0x0203#16 = 1 → (s.cell c).blocked = none →
      (g.rules.any fun r => r.any fun q => ((s.cell c).eligible q).any fun m => decide (32767 < tagAge (s.cell c).base m.tag)) =
        false →
      (s.cell c).pick g.rules = some (r, tag) →
      ∃ u, exec (.taggedFire t c) s = .next u ∧
        (∀ q, ∃ new, (u.cell c).queue q = (dropFirst fun m : Msg => m.tag = tag)^[r.count q] ((s.cell c).queue q) ++ new ∧
          ((∀ e ∈ s.waitIn, (e.1, e.2.1) ≠ (c, q)) → new = [])) ∧
        (∀ d, d ≠ c → u.cell d = s.cell d) ∧ u.hbm = s.hbm ∧ u.mesh = s.mesh) ∧
    ∀ nxt, s.quadOwner (cellQuad c) = some p → s.part p = some v → (s.cell c).shadow = some nxt → v.gridRuns a.osc = true →
      (v.wave? (s.nextWave v c)).isSome = true → (s.cell c).hingesHead = true → (s.cell c).mayRetire = true →
      (s.cell c).trapped = false →
      ∃ u, exec (.cellSwap t c) s = .next u ∧ (u.cell c).active = nxt ∧ (u.cell c).swapped = s.nextWave v c ∧
        (u.cell c).blocked = none ∧ (u.cell c).since = a.cycleOn c.chip + 16 ∧
        (∀ g q dc dr dq, (s.cell c).active = some g → (q, OutBind.cell dc dr dq) ∈ g.outs →
          ({ src := c, srcQ := q, dst := { chip := c.chip, c := dc, r := dr }, dstQ := dq, msg := hingeMsg,
             sentAt := a.cycleOn c.chip } : InFlight) ∈ u.mesh) ∧
        (∀ m ∈ s.mesh, m ∈ u.mesh) ∧ u.hbm = s.hbm

/-- A cell whose instruction may not run traps: an unused output queue, a reserved KIND, an unbound input queue or one with no source,
or a tag too far ahead stops the partition's program with PROGRAM_INVALID, and the chip's black box records it (R99, R101, R103, R108).
Where the manual leaves it open, this is the model's choice (log 29, log 128). -/
def Obligations.CellsTrap : Prop :=
  ∀ (s : State) (t : Nat) (c : CellId) (p : PartId) (v : Part) (g : CellCfg),
    let a := s.tick t
    a.cellRuns c = some (p, v, g) → (s.cell c).blocked = none →
    (∀ q m, outOf g q = none ∨ 3 ≤ m.kind.toNat →
      exec (.cellSend t c q m) s = .next (a.trapCell p c) ∧ exec (.fabricSend t c q m) s = .next (a.trapCell p c)) ∧
    (∀ q, insOf g q = none ∨ (insOf g q = some [] ∧ g.notifyQ ≠ some q ∧ g.abortQ ≠ some q) →
      exec (.cellReceive t c q) s = .next (a.trapCell p c)) ∧
    (a.partSet p 0x0203#16 = 1 →
      (∃ r ∈ g.rules, ∃ q ∈ r, ∃ m ∈ (s.cell c).eligible q, 32767 < tagAge (s.cell c).base m.tag) →
      exec (.taggedFire t c) s = .next (a.trapCell p c)) ∧
    ∃ u, (a.trapCell p c).part p = some u ∧ ((a.trapCell p c).cell c).trapped = true ∧
      (v.prog = .running → u.prog = .stopping St.programInvalid none) ∧
      (∃ r, ((a.trapCell p c).chip c.chip).bb.getLast? = some r ∧ r.code = Ev.progStopped ∧ r.src = 1 ∧ r.rtime = a.rackNs)

/-- DEADBOLT_SAMPLE, W/4 cycles after the sample before, counts each wait-for edge seen again, under another window anew;
DEADBOLT_SPILL empties the victim's queue into its backlog, in front of what stands there, and QUEUE_REFILL brings the backlog's head
back, the queue being normal again once the backlog is empty (R115 to R117). Where the manual leaves it open, this is the model's choice
(log 27, log 130). -/
def Obligations.DeadboltCompletes : Prop :=
  ∀ (s : State) (t : Nat) (n : ChipId),
    let a := s.tick t
    (∀ p v, s.part p = some v → v.gridRuns a.osc = true → v.chips.contains n = true →
      (s.deadbolt p n).next ≤ a.cycleOn n →
      let d := s.deadbolt p n
      ∃ u, exec (.deadboltSample t n p) s = .next u ∧
        (u.deadbolt p n).edges = s.sampleEdges p n (if d.window = a.partSet p 0x0205#16 then d.edges else []) ∧
        (u.deadbolt p n).next = a.cycleOn n + a.partSet p 0x0205#16 / 4 ∧ u.cells = s.cells ∧ u.hbm = s.hbm) ∧
    (∀ p v cyc rest x q more, s.part p = some v → (s.deadbolt p n).reports = cyc :: rest → a.victims cyc = (x, q) :: more →
      ∃ u w new, exec (.deadboltSpill t n p) s = .next u ∧ (u.cell x).queue q = [] ∧
        (u.cell x).log q = (s.cell x).queue q ++ (s.cell x).log q ++ new ∧
        ((∀ e ∈ s.waitIn, (e.1, e.2.1) ≠ (x, q)) → new = []) ∧ (u.cell x).extended.contains q = true ∧
        (u.deadbolt p n).reports = rest ∧ (u.deadbolt p n).roundsOf cyc = (s.deadbolt p n).roundsOf cyc + 1 ∧
        u.part p = some w ∧ w.spills = sat32 v.spills 1 ∧ (v.perGap = false → w.perSpills = v.perSpills + 1) ∧ u.hbm = s.hbm) ∧
    ∀ c q, (s.cell c).extended.contains q = true → (s.cell c).queue q = [] →
      (∀ e ∈ s.waitIn, (e.1, e.2.1) ≠ (c, q)) →
      let r := ((s.cell c).behind q).refill
      ∃ u, exec (.queueRefill t c q) s = .next u ∧ (u.cell c).queue q = r.1 ∧ (u.cell c).log q = r.2 ∧
        r.1 ++ r.2 = (s.cell c).log q ∧ wordsOf r.1 ≤ 16 ∧ ((u.cell c).extended.contains q = true ↔ r.2 ≠ []) ∧
        (∀ d, d ≠ c → u.cell d = s.cell d) ∧ u.hbm = s.hbm ∧ u.parts = s.parts

/-- ROTATION_HINGE, once in a period, starts a hinge wave of a TAGGED partition's current configuration. REPORTING_PERIOD_END, at the
boundary or after a step of rack time, ends the period and clears what it counted; the next runs to the next whole multiple of the
length in force, a new length from its first boundary on. CALENDAR_SWITCH puts the calendars in force whose frame has come (R121, R156,
R376). Where the manual leaves it open, this is the model's choice (log 66, log 127). -/
def Obligations.HingesAndPeriods : Prop :=
  ∀ (s : State) (t : Nat),
    let a := s.tick t
    (∀ p v w, s.part p = some v → v.latest = some w → a.partSet p 0x0203#16 = 1 → a.rotates p = true → v.prog = .running →
      v.perHinge = false → v.perGap = false →
      ∃ u x, exec (.rotationHinge t p) s = .next u ∧ u.part p = some x ∧
        x.hinges + x.waves.length = v.hinges + v.waves.length + 1 ∧ x.rotPlan = none ∧ x.perHinge = true ∧ x.prog = .running ∧
        (x.latest.map Wave.config) = some w.config ∧ u.hbm = s.hbm) ∧
    (∀ p v, s.part p = some v → v.perDue = true ∨ v.perEnd ≤ a.rackNs →
      ∃ u w, exec (.reportingPeriodEnd t p) s = .next u ∧ u.part p = some w ∧ w.perDue = false ∧ w.perMisses = 0 ∧
        w.perDropSeen = false ∧ w.perSpills = 0 ∧ w.perHinge = false ∧
        (v.perEnd ≤ a.rackNs → w.perStart = v.perEnd ∧ w.perGap = false ∧
          (v.perNew = none → w.perLen = v.perLen ∧ w.perEnd = (a.rackNs / v.perLen + 1) * v.perLen) ∧
          ∀ len first, v.perNew = some (len, first) →
            (first ≤ a.rackNs → w.perLen = len ∧ w.perNew = none ∧ w.perEnd = (a.rackNs / len + 1) * len) ∧
            (a.rackNs < first → w.perLen = v.perLen ∧ w.perNew = v.perNew ∧
              w.perEnd = min ((a.rackNs / v.perLen + 1) * v.perLen) first)) ∧
        (a.rackNs < v.perEnd → w.perEnd = v.perEnd ∧ w.perGap = v.perGap) ∧
        (v.perMisses = 0 → u.kws = s.kws) ∧ u.hbm = s.hbm) ∧
    ∀ n : ChipId, (∀ x ∈ s.sends, x.chip ≠ n) →
      ∃ u, exec (.calendarSwitch t n) s = .next u ∧
        (u.chip n).calNext = ((s.chip n).calNext.filter fun e => decide (a.osc < e.at_)) ∧
        (∀ e, ((s.chip n).calNext.filter fun x => decide (x.at_ ≤ a.osc)).getLast? = some e →
          ((u.chip n).cal.filter fun x => x.1 = e.part).map Prod.snd = e.entries) ∧
        (((s.chip n).calNext.all fun e => decide (a.osc < e.at_)) = true → (u.chip n).cal = (s.chip n).cal) ∧ u.hbm = s.hbm ∧
        u.parts = s.parts

/-! ### The fabric -/

/-- FABRIC_SEND takes a sound descriptor as a transfer of its configuration's calendar. A packet received counts its corrected symbols;
one with an uncorrectable codeword or a wrong CRC is dropped and charged to its slot's owner, a good one for another chip waits in the
forward stage for the next slot, one at its destination is written where its address says. One in the stage leaves by its next link in
its slot, if that is its partition's, else it is dropped and counted; a switch puts a packet out on its destination's port, or its
relay's, and drops a tenant packet of another partition's chip (R48, R51, R142, R147, R151, R152, R157 to R159, R164). Where the manual
leaves it open, this is the model's choice (log 28, log 29, log 70, log 136, log 138). -/
def Obligations.FabricPacketsComplete : Prop :=
  ∀ (s : State) (t : Nat),
    let a := s.tick t
    (∀ c p v g q (m : Msg), a.cellRuns c = some (p, v, g) → (s.cell c).blocked = none → outOf g q = some .fabric → m.kind = 2 →
      m.data.length = 3 →
      let x := descriptor p c m (s.cell c).swapped
      x.lengthOk = true → exec (.fabricSend t c q m) s = .next ({ a with sends := s.sends ++ [x] }.flushSends c.chip)) ∧
    (∀ l (k : NetPkt) crc sy, s.chipUp l.chip = true → (s.link l).inService = true → (s.link l).stage = none →
      (uncorrectable sy = true ∨ crcGood k crc = false →
        ∃ u, exec (.fabricPacketReceived t l.chip l.port k.toNetHdr k.payload crc sy) s = .next u ∧
          (u.link l).uncTimes.getLast? = some a.rackNs ∧ (u.link l).uncAt = a.osc ∧
          (∀ o v, k.type ≠ .null → a.slotOwner (a.senderOf l).1 (a.senderOf l).2 = some o → s.part o = some v →
            ∃ w, u.part o = some w ∧ w.fabric = bump32 v.fabric 0 1) ∧ u.hbm = s.hbm ∧ u.landings = s.landings) ∧
      (uncorrectable sy = false → crcGood k crc = true → a.netOff l.chip = false →
        (k.type = .data ∨ k.type = .vault ∨ k.type = .host → k.dchip ≠ l.chip →
          ∃ u, exec (.fabricPacketReceived t l.chip l.port k.toNetHdr k.payload crc sy) s = .next u ∧ (u.link l).stage = some (k, absSlot a.osc + 1) ∧
            (u.link l).counts = ((s.link l).heard sy false).counts ∧ u.hbm = s.hbm ∧ u.parts = s.parts) ∧
        (∀ v q, k.type = .data → k.fw = false → k.dchip = l.chip → s.part k.dpart = some v →
          v.shape.quad? (addrVq k.raddr) = some q → quadChip q = l.chip →
          addrOff k.raddr + k.payload.length ≤ a.tenantLimit k.dpart → a.quadShut q = false →
          (∀ x ∈ s.landings, x.leg.isSome = true → sentSlot k ∉ x.left) →
          ∃ u, exec (.fabricPacketReceived t l.chip l.port k.toNetHdr k.payload crc sy) s = .next u ∧
            (u.link l).counts = ((s.link l).heard sy false).counts ∧
            u.hbm = Memory.write s.hbm (hbmAddr q (addrOff k.raddr)) k.payload))) ∧
    (∀ at_ k slot, (s.link at_).stage = some (k, slot) → slot ≤ absSlot a.osc →
      (∀ l, a.nextHop at_ k (slot % 256) = some l → a.mayForward l (slot % 256) k = true → a.carries l = true →
        ∃ u, exec (.packetForward t at_) s = .next u ∧ u.out = s.out ++ [.fabric l slot (netWire k)] ∧
          (u.link at_).stage = none ∧ u.hbm = s.hbm ∧ u.parts = s.parts) ∧
      (∀ v, s.part k.dpart = some v → (∀ l, a.nextHop at_ k (slot % 256) = some l → a.mayForward l (slot % 256) k = false) →
        ∃ u w, exec (.packetForward t at_) s = .next u ∧ u.out = s.out ∧ (u.link at_).stage = none ∧ u.part k.dpart = some w ∧
          w.fabric = bump32 (bump32 v.fabric 3 1) 0 1 ∧ u.hbm = s.hbm)) ∧
    ∀ sw port (k : NetPkt) crc sy, (s.swt sw).up = true → uncorrectable sy = false → crcGood k crc = true →
      let owner := a.slotOwner (switchPortLink sw port) ((slotAt a.osc + 243) % 256)
      let o := owner.getD k.dpart
      (∀ q, k.type = .host ∨ k.type = .vault → (portTo sw k.dchip <|> portTo sw (relayChip k.dchip)) = some q →
        a.carries (switchPortLink sw q) = true →
        ∃ u, exec (.switchForward t sw port k crc sy) s = .next u ∧
          u.out = s.out ++ [.switchOut sw q (absSlot a.osc + 1) (netWire k)] ∧ u.hbm = s.hbm ∧ u.parts = s.parts) ∧
      (∀ q, k.type = .prio0 → (portTo sw k.dchip <|> portTo sw (relayChip k.dchip)) = some q →
        a.carries (switchPortLink sw q) = true →
        let slot := mgmtFrom (max (absSlot a.osc + 1) (s.swPort sw q).prioNext)
        ∃ u, exec (.switchForward t sw port k crc sy) s = .next u ∧ u.out = s.out ++ [.switchOut sw q slot (netWire k)] ∧
          (u.swPort sw q).prioNext = slot + 1 ∧ u.hbm = s.hbm ∧ u.parts = s.parts) ∧
      (∀ v q, k.type = .data → s.part o = some v → (v.shape.vchip k.dchip).isSome = true → portTo sw k.dchip = some q →
        a.carries (switchPortLink sw q) = true →
        ∃ u, exec (.switchForward t sw port k crc sy) s = .next u ∧
          u.out = s.out ++ [.switchOut sw q (absSlot a.osc + 1) (netWire k)] ∧ u.hbm = s.hbm ∧ u.parts = s.parts) ∧
      (∀ v, k.type = .data → s.part o = some v → v.shape.vchip k.dchip = none ∨ portTo sw k.dchip = none →
        ∃ u w, exec (.switchForward t sw port k crc sy) s = .next u ∧ u.part o = some w ∧ w.fabric = bump32 v.fabric 1 1 ∧
          u.hbm = s.hbm)

/-- A link with its sixteenth uncorrectable event within a second is quarantined in both directions at the next frame boundary, at the
third time in 24 h until a level 4, and qualifies to rejoin by a clean test of 60 s. A lane leaves for its test from the next frame, in
both directions; at the first boundary after its dwell it rejoins and the next is announced, or it is spared; an uncorrectable event ends
the test; on a link with a spared lane a second one quarantines it, and a retrained lane that passes rejoins (R162, R163, R166, R167).
Where the manual leaves it open, this is the model's choice (log 59). -/
def Obligations.LinkCareCompletes : Prop :=
  ∀ (s : State) (t : Nat) (l : LinkId),
    let a := s.tick t
    ((s.link l).quarantined = false →
      ((s.link l).burst = true ∧ nextFrame (s.link l).uncAt ≤ a.osc) ∨ ((s.farSide l).burst = true ∧ nextFrame (s.farSide l).uncAt ≤ a.osc) →
      ∃ u, exec (.linkQuarantine t l) s = .next u ∧ (u.link l).quarantined = true ∧ (u.farSide l).quarantined = true ∧
        u.carries l = false ∧ u.place.due = true ∧
        (2 ≤ ((s.link l).quarAt.filter fun x => decide (a.rackNs ≤ x + 86400000000000)).length → (u.link l).stuck = true) ∧
        u.parts = s.parts) ∧
    (∀ unc bers, (s.link l).quarantined = true → (s.link l).quarAt.getLastD 0 + 60000000000 ≤ a.rackNs →
      ∃ u, exec (.quarantineTestDone t l unc bers) s = .next u ∧ (u.link l).quarantined = true ∧
        ((u.link l).qualified = true ↔ unc = false ∧ bers.length = 8 ∧ (∀ b ∈ bers, b ≤ 1000000) ∧ (s.link l).stuck = false) ∧
        u.parts = s.parts) ∧
    (a.carries l = true → (s.link l).spared = 0 → (s.link l).test = none → (s.link l).testHeldUntil ≤ a.osc →
      ∃ u, exec (.laneTestStart t l) s = .next u ∧
        (u.link l).test = some { lane := 0, since := nextFrame a.osc, until_ := none } ∧
        (u.farSide l).test = some { lane := 0, since := nextFrame a.osc, until_ := none } ∧
        (u.link l).testHeldUntil = a.osc + a.rackSet 0x0301#16 * 1000000000 ∧
        u.out = s.out ++ [.mgmt l (a.osc / 2048) (.laneOut 0)] ∧ u.parts = s.parts) ∧
    (∀ x (b : LaneBers), a.carries l = true → (s.link l).spared = 0 → (s.link l).test = some x →
      (x.until_ = none → frameUp (x.since + a.rackSet 0x0302#16 * 1000000000) ≤ a.osc →
        ∃ u, exec (.laneTestEnd t l b) s = .next u ∧
          (max (b.near.headD 0) (b.far.headD 0) ≤ 10000000 → (u.link l).spared = 0 ∧
            (u.link l).test = (nextLane x.lane).map fun n => { lane := n, since := nextFrame a.osc, until_ := none }) ∧
          (10000000 < max (b.near.headD 0) (b.far.headD 0) → (u.link l).test = none ∧ (u.farSide l).test = none ∧
            (u.link l).spared = BitVec.ofNat 8 (2 ^ x.lane.val)) ∧ u.parts = s.parts) ∧
      (∀ e, x.until_ = some e → e ≤ a.osc →
        ∃ u, exec (.laneTestEnd t l b) s = .next u ∧ (u.link l).test = none ∧ (u.farSide l).test = none ∧
          (u.link l).spared = 0 ∧ u.parts = s.parts)) ∧
    ∀ (b : LaneBers), a.carries l = true → (s.link l).spared ≠ 0 → (s.link l).testHeldUntil ≤ a.osc →
      let worst := fun (i : Nat) => max (b.near.getD i 0) (b.far.getD i 0)
      let second := ∃ i < 8, (s.link l).spared.getLsbD i = false ∧ 10000000 < worst i
      let heals := (s.link l).retrained = true ∧ ∀ i < 8, (s.link l).spared.getLsbD i = true → worst i ≤ 10000000
      ∃ u, exec (.laneTestEnd t l b) s = .next u ∧ (second ↔ (u.link l).quarantined = true) ∧
        (¬ second → heals → (u.link l).spared = 0) ∧ (¬ second → ¬ heals → (u.link l).spared = (s.link l).spared) ∧ u.parts = s.parts

/-- A priority-0 message leaves on its torus path and its switch path under one XSEQ, each in that link's next management slot; on the
one path left where the other is cut; forced, with a record in the black box, where both are. A hop passes it on likewise, and the
receiver takes each XSEQ of a source once, among the last 64 (R164, R165, R169). Where the manual leaves it open, this is the model's
choice (log 30). -/
def Obligations.PriorityMessagesComplete : Prop :=
  ∀ (s : State) (t : Nat) (n : ChipId),
    let a := s.tick t
    let slot := fun (l : LinkId) => mgmtFrom (max (absSlot a.osc + 1) (s.link l).prioNext)
    (∀ (m : Prio0Msg) rest, (s.chip n).prio0 = m :: rest →
      (∀ x xs y ys, s.torusPath n m.dst = some (x :: xs) → s.switchWay n m.dst = some (y :: ys) → x ≠ y →
        ∃ u, exec (.prio0Send t n) s = .next u ∧
          u.out = s.out ++ [.prio0 n m.dst x (slot x) m.xseq false m.body, .prio0 n m.dst y (slot y) m.xseq false m.body] ∧
          (u.chip n).prio0 = rest ∧ (u.link x).prioNext = slot x + 1 ∧ (u.link y).prioNext = slot y + 1 ∧ u.hbm = s.hbm ∧
          u.parts = s.parts) ∧
      (∀ x xs, (s.torusPath n m.dst = some (x :: xs) ∧ s.switchWay n m.dst = none) ∨
          (s.torusPath n m.dst = none ∧ s.switchWay n m.dst = some (x :: xs)) →
        ∃ u, exec (.prio0Send t n) s = .next u ∧ u.out = s.out ++ [.prio0 n m.dst x (slot x) m.xseq false m.body] ∧
          (u.chip n).prio0 = rest ∧ (u.link x).counts = bump32 (s.link x).counts 5 0 ∧ u.hbm = s.hbm ∧ u.parts = s.parts) ∧
      (∀ x xs, s.torusPath n m.dst = none → s.switchWay n m.dst = none → routeLinks n (torusRoute [0, 1, 2] n m.dst) = x :: xs →
        ∃ u r, exec (.prio0Send t n) s = .next u ∧ u.out = s.out ++ [.prio0 n m.dst x (slot x) m.xseq true m.body] ∧
          (u.chip n).prio0 = rest ∧ (u.link x).counts = bump32 (s.link x).counts 5 1 ∧
          (u.chip n).bb.getLast? = some r ∧ r.code = 0 ∧ r.rtime = a.rackNs ∧
          r.data.take 6 = le 4 m.xseq.toNat ++ le 2 (unitChip m.dst).toNat ∧ u.hbm = s.hbm ∧ u.parts = s.parts)) ∧
    (∀ src x f b, (s.chip n).seen.contains (src, x) = false →
      ∃ u, exec (.prio0Received t n src x f n b) s = .next u ∧ (u.chip n).seen.contains (src, x) = true ∧
        ((u.chip n).seen.filter fun y => y.1 = src).length ≤ 64 ∧ u.out = s.out ∧ u.hbm = s.hbm ∧ u.parts = s.parts) ∧
    (∀ src x f b, (s.chip n).seen.contains (src, x) = true → exec (.prio0Received t n src x f n b) s = .next a) ∧
    ∀ src x f dst b l ls, dst ≠ n →
      (if f then some (routeLinks n (torusRoute [0, 1, 2] n dst)) else s.torusPath n dst) = some (l :: ls) →
      ∃ u, exec (.prio0Received t n src x f dst b) s = .next u ∧ u.out = s.out ++ [.prio0 src dst l (slot l) x f b] ∧
        (u.link l).prioNext = slot l + 1 ∧ (u.link l).counts = bump32 (s.link l).counts 5 (if f then 1 else 0) ∧
        (u.chip n).seen = (s.chip n).seen ∧ u.hbm = s.hbm ∧ u.parts = s.parts

/-! ### Turns and placement -/

/-- A drain attempt ends after 5 ms and its release lasts 5 ms more; at a quiesce point, or without a program, what waits for it turns.
A unit whose condition holds turns; the last one completes the turn under the next rack epoch, and its operation ends; at the deadline
the turn is rolled back (R353, R356, R357). A placement run in the firmware's slice, when one is due: a valid plan is taken as a
rack-wide turn, or for the turn that waits for it, one that changes nothing or gains too little moves nothing; one that is not valid is
repeated three times, and then the partitions that need quadrants wait, or the waiting turn is rolled back. None runs during the acceptance
test (R244, R245, R310). Where the manual leaves it open, this is the model's choice (log 35, log 56). -/
def Obligations.TurnEventsComplete : Prop :=
  ∀ (s : State) (t : Nat),
    let a := s.tick t
    (∀ p v b, s.part p = some v → v.drainStart = some b → b + 5000000 ≤ a.osc →
      ∃ u w, exec (.drainAttempt t p) s = .next u ∧ u.part p = some w ∧ w.drainStart = none ∧
        w.drainRetry = some (a.osc + 5000000) ∧ w.prog = v.prog ∧ (∀ q, q ≠ p → u.part q = s.part q) ∧ u.hbm = s.hbm) ∧
    (∀ p v r, s.part p = some v → v.drainStart = none → v.drainRetry = some r → r ≤ a.osc → a.quiesceWanted p = true →
      v.prog = .running →
      ∃ u w, exec (.drainAttempt t p) s = .next u ∧ u.part p = some w ∧ w.drainStart = some a.osc ∧ w.drainRetry = none ∧
        w.drainHinge = v.hinges ∧ u.hbm = s.hbm) ∧
    (∀ p v, s.part p = some v →
      v.hasProgram = false ∨ (v.drainStart.isSome = true ∧ v.drainHinge < v.hinges ∧ ∀ x ∈ s.sends, x.part ≠ p) →
      exec (.quiescePoint t p) s =
        .next ((a.setPart p (some { v with drainStart := none, drainRetry := none, quiesced := v.hasProgram })).settleTurns.resumeIfFree
          p)) ∧
    (∀ (x : Turn) c, s.turn = some x → x.placing = [] → c ∈ x.units → c ∉ x.turned → a.unitReady x c = true →
      ∃ u, exec (.unitTurn t c) s = .next u ∧
        (x.turned.length + 1 = x.units.length → u.turn = none ∧ u.rackEpoch = nextEpoch s.rackEpochHigh ∧
          ∀ o, x.op = some o → u.op? o = none) ∧
        (x.turned.length + 1 ≠ x.units.length → u.rackEpoch = s.rackEpoch ∧
          ∃ y, u.turn = some y ∧ y.turned = x.turned ++ [c] ∧ y.units = x.units ∧ y.shapes = x.shapes)) ∧
    (∀ (x : Turn), s.turn = some x → x.startOsc + a.rackSet 0x0903#16 * 1000000 ≤ a.osc →
      ∃ u, exec (.turnDeadline t) s = .next u ∧ u = a.rollBack x (x.units.filter fun c => !x.turned.contains c) ∧ u.turn = none ∧
        u.rackEpoch = s.rackEpoch ∧ ∀ o, x.op = some o → u.op? o = none) ∧
    (∀ plan gain n, s.lowestChip = some n → s.accept.phase = 0 → a.firmwareSlice n = true → a.placementDue = true →
      (s.turn = none → a.planOk plan = true → a.planChanges plan = [] ∨ a.periodicOk (a.planChanges plan) gain = false →
        ∃ u, exec (.placementRun t plan gain) s = .next u ∧ u.place.ranAt = a.osc ∧ u.place.fails = 0 ∧ u.place.due = false ∧
          u.turn = none ∧ u.parts = s.parts ∧ u.hbm = s.hbm) ∧
      (s.turn = none → s.resets = [] → a.planOk plan = true → a.planChanges plan ≠ [] →
        a.periodicOk (a.planChanges plan) gain = true →
        ∃ u, exec (.placementRun t plan gain) s = .next u ∧ u.place.ranAt = a.osc ∧
          ((u.turn = none ∧ u.rackEpoch = nextEpoch s.rackEpochHigh) ∨ ∃ y, u.turn = some y ∧ y.shapes = a.planChanges plan)) ∧
      (∀ x, s.turn = some x → x.placing ≠ [] → a.planOk plan = true →
        ∃ u, exec (.placementRun t plan gain) s = .next u ∧ u.place.ranAt = a.osc ∧
          ((u.turn = none ∧ u.rackEpoch = nextEpoch s.rackEpochHigh) ∨ ∃ y, u.turn = some y ∧ y.placing = [])) ∧
      (s.turn = none ∨ a.turnPlacing = true → a.planOk plan = false → s.place.fails < 3 →
        ∃ u, exec (.placementRun t plan gain) s = .next u ∧ u.place.fails = s.place.fails + 1 ∧ u.turn = s.turn ∧
          u.parts = s.parts ∧ u.hbm = s.hbm) ∧
      (s.turn = none → a.planOk plan = false → 3 ≤ s.place.fails →
        ∃ u, exec (.placementRun t plan gain) s = .next u ∧ u.place.fails = 0 ∧ u.hbm = s.hbm ∧
          (∀ p ∈ a.needsPlace, ∀ w, u.part p = some w → w.waiting = true) ∧
          ∀ p v, s.part p = some v → ∃ w, u.part p = some w ∧ w.shape = v.shape ∧ w.epoch = v.epoch) ∧
      (∀ x, s.turn = some x → x.placing ≠ [] → a.planOk plan = false → 3 ≤ s.place.fails →
        ∃ u, exec (.placementRun t plan gain) s = .next u ∧ u.turn = none ∧ u.rackEpoch = s.rackEpoch)) ∧
    ∀ plan gain, s.accept.phase ≠ 0 → exec (.placementRun t plan gain) s = .next a

/-! ### Power -/

/-- A channel that feeds a unit starts softly when it is switched on, unless its shelf is held out. One that draws more than 3 I_nom, or
whose output is low once its soft start is over, opens and latches, as does one whose tray leaks; its tray's level 5 is requested, or
its switch tray or the RMU leaves service (R21, R25, R250, R251, R253, R317, R325). Where the manual leaves it open, this is the model's
choice (log 46, log 47, log 135). -/
def Obligations.ChannelsOpen : Prop :=
  ∀ (s : State) (t : Nat) (c : ChanId),
    let a := s.tick t
    ((s.channel c).st = .off → spareChannel c = false → a.heldOut (unitShelf c.shelf) = false ∨ c = rmuChannel →
      ∃ u, exec (.channelPowerOn t c) s = .next u ∧ (u.channel c).st = .inrush ∧ (u.channel c).since = a.osc ∧
        (∀ d, d ≠ c → u.channel d = s.channel d) ∧ u.parts = s.parts ∧ u.hbm = s.hbm) ∧
    (spareChannel c = true ∨ (a.heldOut (unitShelf c.shelf) = true ∧ c ≠ rmuChannel) →
      exec (.channelPowerOn t c) s = .next a) ∧
    (∀ low peak, (s.channel c).st = .on ∨ (s.channel c).st = .inrush →
      (low = false → 3 * nominalMa c < peak) →
      (low = true → (s.channel c).st = .on ∨ (s.channel c).since + 20000000 ≤ a.osc) →
      ∃ u, exec (.channelTripped t c low peak) s = .next u ∧ (u.channel c).st = .latched ∧
        (u.channel c).cause = some (if low then 1 else 0) ∧ (∀ d, d ≠ c → u.channel d = s.channel d) ∧
        (∃ r ∈ u.rmu.logWait, r.code = Lg.channelTripped ∧ r.unit = unitChan c ∧ r.rtime = a.rackNs) ∧
        (∀ tr, channelTray c = some tr → (u.tray tr).powered = false ∧
          ∃ r, u.resetReqs = s.resetReqs ++ [r] ∧ r.level = 5 ∧ r.scope = .tray tr ∧ r.detector = 13) ∧
        (∀ i, channelSwitch c = some i → (u.swt i).up = false ∧ u.resetReqs = s.resetReqs) ∧
        (c = rmuChannel → u.rmu.up = false) ∧ u.hbm = s.hbm) ∧
    (∀ tr, channelTray c = some tr → a.leakCut tr = true → (s.channel c).st ≠ .latched → (s.channel c).st ≠ .fault →
      ∃ u, exec (.channelLeakCut t c) s = .next u ∧ (u.channel c).st = .latched ∧ (u.channel c).cause = some 2 ∧
        (∀ d, d ≠ c → u.channel d = s.channel d) ∧ u.parts = s.parts ∧ u.hbm = s.hbm)

/-- A sag of more than 100 us below 48 V restarts a soft start from zero and counts a retry; one more at three retries is a fault; ON
resets the count and ignores sags; a soft start ends ON or latched (R250 to R252). -/
def Obligations.SoftStartsEnd : Prop :=
  ∀ (s : State) (t : Nat) (c : ChanId),
    let a := s.tick t
    (∀ us mv, 100 < us → mv < 48000 →
      ((s.channel c).st = .inrush → (s.channel c).retries < 3 →
        ∃ u, exec (.softstartRetry t c us mv) s = .next u ∧ (u.channel c).st = .inrush ∧ (u.channel c).since = a.osc ∧
          (u.channel c).retries = (s.channel c).retries + 1 ∧ (∀ d, d ≠ c → u.channel d = s.channel d) ∧ u.parts = s.parts ∧
          u.hbm = s.hbm) ∧
      ((s.channel c).st = .inrush → 3 ≤ (s.channel c).retries →
        ∃ u, exec (.softstartRetry t c us mv) s = .next u ∧ (u.channel c).st = .fault ∧
          (∀ d, d ≠ c → u.channel d = s.channel d) ∧ u.hbm = s.hbm) ∧
      ((s.channel c).st = .on → exec (.softstartRetry t c us mv) s = .next a)) ∧
    ((s.channel c).st = .inrush → (s.channel c).since + 20000000 ≤ a.osc →
      (∀ pc, 90 ≤ pc →
        ∃ u, exec (.softstartEnd t c pc) s = .next u ∧ (u.channel c).st = .on ∧ (u.channel c).retries = 0 ∧
          (∀ d, d ≠ c → u.channel d = s.channel d) ∧ u.hbm = s.hbm) ∧
      ∀ pc, pc < 10 →
        ∃ u, exec (.softstartEnd t c pc) s = .next u ∧ (u.channel c).st = .latched ∧ (u.channel c).cause = some 1 ∧
          (∀ d, d ≠ c → u.channel d = s.channel d) ∧ u.hbm = s.hbm)

/-- A clear of an open channel starts it softly, a clear of another one has no effect, a spare is refused, and a short that persists,
as an over-current or as a low output after the soft start, trips the channel again and is logged again (R254). -/
def Obligations.ChannelClear : Prop :=
  ∀ (s : State) (t : Nat) (h : Hdr) (q : Session) (c : ChanId) (sh ch : BitVec 8), sh.toNat = c.shelf.val → ch.toNat = c.ch.val →
    let a := arrived s t h (.opChannelClear sh ch) .op q.ref
    (Ready s t h (.opChannelClear sh ch) .op q → spareChannel c = false → (a.channel c).st = .latched ∨ (a.channel c).st = .fault →
      ∃ u, Replies (.opChannelClear t h sh ch) s t h (.opChannelClear sh ch) .op q u St.ok [] ∧
        (u.channel c).st = .inrush ∧ (u.channel c).since = a.osc ∧ (∀ d, d ≠ c → u.channel d = a.channel d) ∧
        u.parts = s.parts ∧ u.hbm = s.hbm ∧
        ∀ t' low peak, (low = false → 3 * nominalMa c < peak) → (low = true → a.osc + 20000000 ≤ t') →
          ∃ w r, exec (.channelTripped t' c low peak) u = .next w ∧ (w.channel c).st = .latched ∧
            r ∈ w.rmu.logWait ∧ r.code = Lg.channelTripped ∧ r.unit = unitChan c ∧ r.rtime = (u.tick t').rackNs) ∧
    (Ready s t h (.opChannelClear sh ch) .op q → spareChannel c = false →
      (a.channel c).st = .off ∨ (a.channel c).st = .inrush ∨ (a.channel c).st = .on →
      Replies (.opChannelClear t h sh ch) s t h (.opChannelClear sh ch) .op q a St.ok []) ∧
    (InTurn s t h .op q → h.len = bodyLength (.opChannelClear sh ch) → spareChannel c = true →
      Replies (.opChannelClear t h sh ch) s t h (.opChannelClear sh ch) .op q a St.badParameter [])

/-- A lost conversion takes its 28 kW from the capacity, and the last one begins the ride-through; a restored one ends it, unless the
shelf is held out; the ride-through's time and the energy floor dump the rack: black boxes and records are copied, and what only power
keeps is lost (R25, R256 to R259). Where the manual leaves it open, this is the model's choice (log 135). -/
def Obligations.SupplyCompletes : Prop :=
  ∀ (s : State) (t : Nat),
    let a := s.tick t
    let down := fun (u : State) => u.ready = false ∧ u.rmu.up = false ∧ u.rmu.logWait = [] ∧ u.hbm = [] ∧ (∀ p, u.part p = none) ∧
      (∀ c, (u.channel c).st = .off ∨ (u.channel c).st = .latched ∨ (u.channel c).st = .fault) ∧ u.cfg = s.cfg ∧
      u.lockedChips = s.lockedChips ∧ u.lockedTrays = s.lockedTrays ∧ ∀ n, (u.chip n).bb = (s.chip n).bb
    (∀ sh bad, (s.shelfOf sh).ac = true → (s.shelfOf sh).conv = true →
      ∃ u, exec (.conversionLost t sh bad) s = .next u ∧ ((u.shelfOf sh).ac && (u.shelfOf sh).conv) = false ∧
        (∀ d, d ≠ sh → u.shelfOf d = s.shelfOf d) ∧ u.capacityW + 28000 = s.capacityW ∧
        (u.capacityW = 0 → s.ready = true → s.pw.rideStart = none → u.pw.rideStart = some a.osc) ∧
        (u.capacityW ≠ 0 → u.pw.rideStart = s.pw.rideStart) ∧ u.chan = s.chan ∧ u.parts = s.parts ∧ u.hbm = s.hbm) ∧
    (∀ sh, ((s.shelfOf sh).ac && (s.shelfOf sh).conv) = false → a.heldOut (unitShelf sh) = false →
      ∃ u, exec (.conversionRestored t sh) s = .next u ∧ (u.shelfOf sh).ac = true ∧ (u.shelfOf sh).conv = true ∧
        u.capacityW = s.capacityW + 28000 ∧
        (∀ d, d ≠ sh → u.shelfOf d = s.shelfOf d) ∧ u.pw.rideStart = none ∧ u.chan = s.chan ∧ u.parts = s.parts ∧
        u.hbm = s.hbm) ∧
    (∀ sh, a.heldOut (unitShelf sh) = true →
      ∃ u, exec (.conversionRestored t sh) s = .next u ∧ (u.shelfOf sh).conv = false ∧ u.pw = s.pw ∧ u.parts = s.parts ∧
        u.hbm = s.hbm) ∧
    (∀ b, s.pw.rideStart = some b → b + a.rackSet 0x0603#16 * 1000000000 ≤ a.osc →
      ∃ u, exec (.rideThroughEnd t) s = .next u ∧ down u) ∧
    ∀ us, s.pw.rideStart.isSome = true → (a.readUnits us).storedWh ≤ 150 →
      ∃ u, exec (.energyFloor t us) s = .next u ∧ down u

/-- A unit whose estimates differ by more than 15 points is disputed and arms the early dump; one unit at a time is calibrated, inside
the window and with energy to spare, and a calibration leaves it full and undisputed (R259 to R261). The ballast burns down at the ramp
limit; it takes up a fall as far as its 48 kW go, 12 kW once it has burned more for 60 s, a voluntary fall going no further and another
one beyond it being logged; it gives way first to a rise, of the rest of which what the limit allows in 100 ms is admitted and the
remainder is held (R248, R264 to R266). How a held rise is admitted and rounded, and the 60 s are the model's choice (log 75, log 154).
-/
def Obligations.BatteriesAndLoadComplete : Prop :=
  (∀ (s : State) (t : Nat) (i : Fin 16),
      let a := s.tick t
      let needed := a.rackSet 0x0603#16 * a.rackSet 0x0602#16 * 1000 / 3600 + 150
      (∀ x y, x ≤ 100 → y ≤ 100 →
        ∃ u, exec (.chargeDisputed t i x y) s = .next u ∧ (u.battery i).countPct = x ∧ (u.battery i).voltPct = y ∧
          ((u.battery i).disputed = true ↔ (s.battery i).disputed = true ∨ x + 15 < y ∨ y + 15 < x) ∧
          ((s.battery i).disputed = false → (u.battery i).disputed = true → u.pw.earlyArmed = true) ∧
          (∀ j, j ≠ i → u.battery j = s.battery j) ∧ u.parts = s.parts ∧ u.hbm = s.hbm) ∧
      ((s.battery i).disputed = true → a.inCalWindow = true → (∀ j, (s.battery j).calibrating = false) →
        s.pw.rideStart = none → needed ≤ s.storedWh [i] →
        ∃ u, exec (.calibrationStart t i) s = .next u ∧ (u.battery i).calibrating = true ∧
          (∀ j, j ≠ i → u.battery j = s.battery j) ∧ u.parts = s.parts ∧ u.hbm = s.hbm) ∧
      ((∃ j, (s.battery j).calibrating = true) ∨ s.pw.rideStart.isSome = true ∨ a.inCalWindow = false ∨ s.storedWh [i] < needed →
        exec (.calibrationStart t i) s = .next a) ∧
      ∀ wh, (s.battery i).calibrating = true →
        ∃ u, exec (.calibrationEnd t i wh) s = .next u ∧ u.battery i = fullUnit wh ∧
          (u.pw.earlyArmed = true ↔ ∃ j, j ≠ i ∧ (s.battery j).disputed = true) ∧ (∀ j, j ≠ i → u.battery j = s.battery j) ∧
          u.parts = s.parts ∧ u.hbm = s.hbm) ∧
  ∀ (s : State) (t n : Nat),
    let x := (s.tick t).settleBallast
    let room := (if x.pw.burnSince.any fun b => decide (b + 60000000000 ≤ x.osc) then 12000 else 48000) - x.pw.ballastW
    let admitted := min (n - x.pw.ballastW)
      (x.rampW / 10 - ((x.pw.rises.filter fun r => decide (x.osc < r.1 + 100000000)).map Prod.snd).sum)
    (exec (.ballastDecay t) s = .next x ∧ x.pw.ballastW = s.pw.ballastW - x.rampW * (x.osc - s.pw.ballastAt) / 1000000000 ∧
      x.pw.drawW = s.pw.drawW ∧ x.pw.heldRiseW ≤ s.pw.heldRiseW ∧ (0 < x.pw.ballastW → x.pw.heldRiseW = s.pw.heldRiseW) ∧
      x.parts = s.parts ∧ x.hbm = s.hbm ∧ x.rmu = s.rmu) ∧
    (∀ vol, let drop := if vol then min n room else n
      ∃ u, exec (.loadFall t { watts := n, voluntary := vol }) s = .next u ∧ u.pw.drawW = s.pw.drawW - drop ∧ u.pw.ballastW = x.pw.ballastW + min drop room ∧
        u.parts = s.parts ∧ u.hbm = s.hbm ∧ (drop ≤ room → u.rmu = s.rmu) ∧
        (room < drop → ∃ r, u.rmu.logWait = s.rmu.logWait ++ [r] ∧ r.code = Lg.rampExceeded)) ∧
    ∃ u, exec (.loadRise t n) s = .next u ∧ u.pw.drawW = s.pw.drawW + n ∧ u.pw.ballastW = x.pw.ballastW - n ∧
      u.pw.heldRiseW = x.pw.heldRiseW + (n - x.pw.ballastW - admitted) ∧ u.parts = s.parts ∧ u.hbm = s.hbm

/-! ### Cooling and leaks -/

/-- A sample goes to the hub, and the highest of a chip's junctions, or of a quadrant's stacks, governs: at the threshold the chip
throttles, each 10 ms at it one step more, and a quadrant's HBM is throttled; 100 ms below the threshold less the hysteresis undo one
step (R85, R270 to R272). At its trip value, of a failed sensor too, a running chip goes to LOCKED with its level 4 requested, until every
sensor that tripped is 25 °C cooler or has failed (R86, R273). Where the manual leaves it open, this is the model's choice (log 39). -/
def Obligations.ChipCoolingCompletes : Prop :=
  ∀ (s : State) (t : Nat) (n : ChipId),
    let a := s.tick t
    (∀ (x : Fin 16) (temp : Int), s.chipUp n = true →
      reaches ((a.sample n (.junction n x) temp).chip n).governing (a.milli 0x0701#16) = true → (s.chip n).mtxGate = false →
      let stepped := fun (u : State) => (u.chip n).divider = min 6 (max (s.chip n).divider (s.chip n).powerDiv + 1) ∧
        ((u.chip n).mtxGate = true ↔ (s.chip n).divider = 6) ∧ (u.chip n).thermSteps = (u.chip n).divider - 4 ∧
        (u.chip n).lastStep = a.osc ∧ (u.chip n).power = (s.chip n).power ∧ (∀ m, m ≠ n → u.chip m = s.chip m) ∧
        u.parts = s.parts ∧ u.hbm = s.hbm
      ((s.chip n).thermSteps = 0 → ∃ u, exec (.thermalThrottle t n x temp) s = .next u ∧ stepped u) ∧
      (0 < (s.chip n).thermSteps → (s.chip n).lastStep + 10000000 ≤ a.osc →
        ∃ u, exec (.throttleStep t n x temp) s = .next u ∧ stepped u)) ∧
    (∀ temp : Int, temp < a.milli 0x0701#16 - a.milli 0x0703#16 → max (s.chip n).lastStep (s.chip n).hotAt + 100000000 ≤ a.osc →
      (∀ e ∈ (s.chip n).junctions, (s.chip n).failed.contains (.junction n e.1) = true → e.2 ≤ temp) →
      ((s.chip n).mtxGate = true →
        ∃ u, exec (.thermalRecover t n none temp) s = .next u ∧ (u.chip n).mtxGate = false ∧
          (u.chip n).divider = (s.chip n).divider ∧ (u.chip n).lastStep = a.osc ∧ u.parts = s.parts ∧ u.hbm = s.hbm) ∧
      ((s.chip n).mtxGate = false → 0 < (s.chip n).thermSteps →
        ∃ u, exec (.thermalRecover t n none temp) s = .next u ∧
          (u.chip n).divider = max (4 + ((s.chip n).thermSteps - 1)) (s.chip n).powerDiv ∧
          ((s.chip n).powerDiv < 4 + ((s.chip n).thermSteps - 1) → (u.chip n).thermSteps = (s.chip n).thermSteps - 1) ∧
          (u.chip n).lastStep = a.osc ∧ u.parts = s.parts ∧ u.hbm = s.hbm)) ∧
    (∀ (k : Fin 4) (temp : Int), (s.quad (quadOf n k)).hbmThrottled = true → temp < a.milli 0x0702#16 - a.milli 0x0703#16 →
      max (s.quad (quadOf n k)).hbmStep (s.quad (quadOf n k)).hotAt + 100000000 ≤ a.osc →
      (∀ e ∈ (s.chip n).stackTemps, (s.chip n).failed.contains (.stack n e.1) = true → e.1.val / 2 = k.val → e.2 ≤ temp) →
      ∃ u, exec (.thermalRecover t n (some k) temp) s = .next u ∧ (u.quad (quadOf n k)).hbmThrottled = false ∧
        (∀ q, q ≠ quadOf n k → u.quad q = s.quad q) ∧ u.parts = s.parts ∧ u.hbm = s.hbm) ∧
    (∀ (i : Fin 8) (temp : Int), s.chipUp n = true →
      reaches (((a.sample n (.stack n i) temp).chip n).governingHbm (i.val / 2)) (a.milli 0x0702#16) = true →
      (s.quad (quadOf n ⟨i.val / 2, by omega⟩)).hbmThrottled = false →
      ∃ u, exec (.hbmThrottle t n i temp) s = .next u ∧ (u.quad (quadOf n ⟨i.val / 2, by omega⟩)).hbmThrottled = true ∧
        (∀ q, q ≠ quadOf n ⟨i.val / 2, by omega⟩ → u.quad q = s.quad q) ∧ u.parts = s.parts ∧ u.hbm = s.hbm) ∧
    (∀ (y : SensorId) (temp : Int), sensorChip y = some n →
      reaches (((a.sample n y temp).chip n).governingOf y) (tripValue y) = true →
      ((s.chip n).power = .up →
        ∃ u r, exec (.thermalTrip t y temp) s = .next u ∧ (u.chip n).power = .locked ∧
          (u.chip n).tripped = (s.chip n).tripped ++ [y] ∧ u.resetReqs = s.resetReqs ++ [r] ∧ r.level = 4 ∧ r.scope = .chip n ∧
          r.detector = 7 ∧ r.firedAt = a.osc ∧ (∀ m, m ≠ n → u.chip m = s.chip m) ∧ u.parts = s.parts ∧ u.hbm = s.hbm) ∧
      ((s.chip n).power ≠ .up →
        ∃ u, exec (.thermalTrip t y temp) s = .next u ∧ (u.chip n).power = (s.chip n).power ∧ u.resetReqs = s.resetReqs ∧
          ((s.chip n).tripped ≠ [] → y ∈ (u.chip n).tripped) ∧ u.parts = s.parts ∧ u.hbm = s.hbm)) ∧
    ∀ rs : List (Nat × Int), (s.chip n).tripped ≠ [] → s.chipLocked n = false →
      (∀ y ∈ (s.chip n).tripped,
        (s.chip n).failed.contains y = true ∨ ∃ r ∈ rs, r.1 = sensorIx y ∧ r.2 ≤ tripValue y - 25000) →
      ∃ u, exec (.thermalTripRestart t n rs) s = .next u ∧ (u.chip n).tripped = [] ∧ (u.chip n).failed = [] ∧
        (u.chip n).power = (s.chip n).power ∧ (∀ r ∈ u.resets, r.scope = .chip n → r.startOsc = a.osc ∧ u.resetHeld r = false) ∧
        u.parts = s.parts ∧ u.hbm = s.hbm

/-- Sensors that fail read their safe values, a chip's its trip value (R86, R269); a reading in range replaces the last one and ends a
failure, another one leaves it. Each factor that has been lower for 5 s, or higher for 30 s, comes into force, and the allowance is
4.5 kW times the least of the three; a stop condition stops the tray with its level 5 requested, and 60 s of normal conditions restart
it (R274 to R276). Where the manual leaves it open, this is the model's choice (log 46, log 52). -/
def Obligations.TrayCoolingCompletes : Prop :=
  ∀ (s : State) (t : Nat) (y : TrayId),
    let a := s.tick t
    let keeps := fun (u : State) => (∀ z, z ≠ y → u.tray z = s.tray z) ∧ u.parts = s.parts ∧ u.hbm = s.hbm
    ((∃ u, exec (.sensorFailed t (.inlet y)) s = .next u ∧ (u.tray y).inlet = 45000 ∧ (u.tray y).flow = (s.tray y).flow ∧ keeps u) ∧
      (∃ u, exec (.sensorFailed t (.outlet y)) s = .next u ∧ (u.tray y).outlet = 80000 ∧ keeps u) ∧
      (∃ u, exec (.sensorFailed t (.flow y)) s = .next u ∧ (u.tray y).flow = 0 ∧ (u.tray y).lowFlowSince.isSome = true ∧ keeps u) ∧
      (∃ u, exec (.sensorFailed t (.air y 0)) s = .next u ∧ (u.tray y).airBefore = 100000 ∧ keeps u) ∧
      (∃ u, exec (.sensorFailed t (.air y 1)) s = .next u ∧ (u.tray y).airAfter = 100000 ∧ keeps u) ∧
      (∀ i, ∃ u, exec (.sensorFailed t (.fan y i)) s = .next u ∧ i ∈ (u.tray y).fansFailed ∧ keeps u) ∧
      (∀ n i, ∃ u, exec (.sensorFailed t (.junction n i)) s = .next u ∧ .junction n i ∈ (u.chip n).failed ∧
        ((s.chip n).failed.contains (.junction n i) = false → Tab.get (u.chip n).junctions 0 i = 105000) ∧
        (∀ m, m ≠ n → u.chip m = s.chip m) ∧ u.parts = s.parts ∧ u.hbm = s.hbm) ∧
      ∀ n i, ∃ u, exec (.sensorFailed t (.stack n i)) s = .next u ∧ .stack n i ∈ (u.chip n).failed ∧
        ((s.chip n).failed.contains (.stack n i) = false → Tab.get (u.chip n).stackTemps 0 i = 95000) ∧
        (∀ m, m ≠ n → u.chip m = s.chip m) ∧ u.parts = s.parts ∧ u.hbm = s.hbm) ∧
    (∀ f rpm, (s.tray y).fansFailed.contains f = false →
      ∃ u, exec (.fanFault t y f rpm) s = .next u ∧ (u.tray y).fansFailed = (s.tray y).fansFailed ++ [f] ∧ keeps u) ∧
    (let settled := fun (f : Factor) =>
        if f.reads ≠ f.inForce ∧ f.since + (if f.reads < f.inForce then 5000000000 else 30000000000) ≤ a.osc then f.reads
        else f.inForce
      let least := min (settled (s.tray y).flowF) (min (settled (s.tray y).waterF) (settled (s.tray y).fanF))
      ∃ u, exec (.allowanceChanged t y) s = .next u ∧ (u.tray y).flowF.inForce = settled (s.tray y).flowF ∧
        (u.tray y).waterF.inForce = settled (s.tray y).waterF ∧ (u.tray y).fanF.inForce = settled (s.tray y).fanF ∧
        (u.tray y).factor = least ∧ (u.tray y).allowanceW = 4500 * least / 1000 ∧ keeps u) ∧
    (∀ c, (s.tray y).stopCause a.osc = some c → (s.tray y).stopped = false → (s.tray y).powered = true →
      ∃ u r, exec (.trayThermalStop t y) s = .next u ∧ (u.tray y).stopped = true ∧ (u.tray y).efuseOpen = true ∧
        (u.tray y).powered = false ∧ u.resetReqs = s.resetReqs ++ [r] ∧ r.level = 5 ∧ r.scope = .tray y ∧ r.detector = 9 ∧
        (∀ n ∈ trayChips y, (u.chip n).power = if s.chipLocked n then .locked else .off) ∧ u.chan = s.chan ∧ keeps u) ∧
    (∀ b, (s.tray y).normalSince = some b → (s.tray y).stopped = true → b + 60000000000 ≤ a.osc → a.leakCut y = false →
      s.lockedTrays.contains y = false → a.heldOut (unitTray y) = false →
      ∃ u, exec (.trayRestart t y) s = .next u ∧ (u.tray y).stopped = false ∧ (u.tray y).efuseOpen = false ∧
        (u.tray y).powered = true ∧ u.chips = s.chips ∧
        (a.level5Due y = true → u.resetReqs = s.resetReqs ∧ ∀ r ∈ u.resets, r.scope = .tray y → r.startOsc = a.osc) ∧
        (a.level5Due y = false → ∃ r, u.resetReqs = s.resetReqs ++ [r] ∧ r.level = 5 ∧ r.scope = .tray y) ∧ keeps u) ∧
    ∀ c : CoolingSample, ∃ u, exec (.trayCoolingSample t y c) s = .next u ∧
      (∀ v, c.inlet = some v →
        (0 ≤ v ∧ v ≤ 80000 → (u.tray y).inlet = v ∧ .inlet y ∉ (u.tray y).failed) ∧
        (v < 0 ∨ 80000 < v → (u.tray y).inlet = (s.tray y).inlet)) ∧
      (∀ v, c.outlet = some v →
        (0 ≤ v ∧ v ≤ 80000 → (u.tray y).outlet = v) ∧ (v < 0 ∨ 80000 < v → (u.tray y).outlet = (s.tray y).outlet)) ∧
      (∀ v, c.flow = some v → (v ≤ 40000 → (u.tray y).flow = v) ∧ (40000 < v → (u.tray y).flow = (s.tray y).flow)) ∧
      (∀ v, c.airBefore = some v → 0 ≤ v → v ≤ 100000 → (u.tray y).airBefore = v) ∧
      (∀ v, c.airAfter = some v → 0 ≤ v → v ≤ 100000 → (u.tray y).airAfter = v) ∧
      (∀ (j : Fin 6) v, c.fans.getD j.val none = some v → v ≤ 20000 → Tab.get (u.tray y).fans 0 j = v) ∧
      (c.inlet = none → (u.tray y).inlet = (s.tray y).inlet) ∧ (c.flow = none → (u.tray y).flow = (s.tray y).flow) ∧
      u.chips = s.chips ∧ keeps u

/-- A wet sensor cuts its tray, and opens the building contact; a rack leak cuts every compute tray; an open sensor is logged and nothing
more; a dry one closes no tray's e-fuse, and the contact closes again only once every sensor is dry and no channel is latched by a leak
(R277 to R280). -/
def Obligations.LeaksComplete : Prop :=
  ∀ (s : State) (t : Nat) (y : TrayId) (i : Fin 2),
    (∃ u, exec (.leakDetected t y i) s = .next u ∧ Tab.get (u.tray y).leak .dry i = .wet ∧ (u.tray y).efuseOpen = true ∧
      (u.tray y).powered = false ∧ u.leakContact = false ∧ (∀ z, z ≠ y → u.tray z = s.tray z) ∧
      ((s.tray y).powered = true → ∃ r, u.resetReqs = s.resetReqs ++ [r] ∧ r.level = 5 ∧ r.scope = .tray y ∧ r.detector = 11) ∧
      ((s.tray y).powered = false → u.resetReqs = s.resetReqs) ∧ u.parts = s.parts ∧ u.hbm = s.hbm) ∧
    (∃ u, exec (.rackLeak t) s = .next u ∧ u.rackLeak = .wet ∧ u.leakContact = false ∧
      (∀ z, (u.tray z).efuseOpen = true ∧ (u.tray z).powered = false) ∧ u.parts = s.parts ∧ u.hbm = s.hbm) ∧
    (∃ u, exec (.leakSensorFault t y i) s = .next u ∧ Tab.get (u.tray y).leak .dry i = .open_ ∧
      (u.tray y).powered = (s.tray y).powered ∧ u.resetReqs = s.resetReqs ∧ u.chips = s.chips ∧ u.chan = s.chan ∧
      (∃ r, u.rmu.logWait = s.rmu.logWait ++ [r] ∧ r.code = Lg.leakSensorFault) ∧ u.parts = s.parts ∧ u.hbm = s.hbm) ∧
    (∃ u, exec (.leakSensorDry t (some y) i) s = .next u ∧ Tab.get (u.tray y).leak .dry i = .dry ∧
      (u.tray y).efuseOpen = (s.tray y).efuseOpen ∧ (u.tray y).powered = (s.tray y).powered ∧ u.rackLeak = s.rackLeak ∧
      (u.leakContact = true ↔ s.leakContact = true ∨
        ((∀ z j, Tab.get (u.tray z).leak .dry j = .dry) ∧ u.rackLeak = .dry ∧ s.rmu.up = true ∧
          ∀ e ∈ s.chan, e.2.st = .latched → e.2.cause ≠ some 2)) ∧
      u.parts = s.parts ∧ u.hbm = s.hbm) ∧
    ∃ u, exec (.leakSensorDry t none i) s = .next u ∧ u.rackLeak = .dry ∧ u.trays = s.trays ∧ u.parts = s.parts ∧ u.hbm = s.hbm

/-! ### Supervision and rack time -/

/-- A silent or restarted unit is logged; a harness end that is accepted brings its links into service where they may be, a rejected one
takes them out, as does a far end that is not the one its map names; a module or a switch tray moves its ports; a record is committed
under the next LSEQ with its readings; a console counts framing errors, takes other characters, and selects the previous firmware on an
"r" in the first 3 s; Redfish answers an unknown account 401 and an operator's write 403 (R144, R283 to R290, R292, R293, R302, R307,
R314, R325). Where the manual leaves it open, this is the model's choice (log 94, log 103). -/
def Obligations.SupervisionCompletes : Prop :=
  ∀ (s : State) (t : Nat),
    let b := s.tick t
    (∀ unit last, ∃ r, exec (.unitSilent t unit last) s =
        .next (b.modRmu fun m => { m with logWait := m.logWait ++ [r] }) ∧ r.code = Lg.unitSilent ∧ r.unit = unit) ∧
    (∀ unit cause, ∃ r, exec (.controllerRestart t unit cause) s =
        .next (b.modRmu fun m => { m with logWait := m.logWait ++ [r] }) ∧ r.code = Lg.controllerRestart ∧ r.unit = unit) ∧
    (∀ h e id far f, cableFault h e id = some f →
      ∃ u, exec (.presenceChange t h e id far) s = .next u ∧ (∀ l ∈ harnessLinks h e, (u.link l).inService = false) ∧
        (h, e) ∈ u.rejectedEnds ∧ u.parts = s.parts ∧ u.hbm = s.hbm) ∧
    (∀ h e id far, cableFault h e id = none →
      ∃ u, exec (.presenceChange t h e id far) s = .next u ∧ (h, e) ∉ u.rejectedEnds ∧
        (id.laneOrderOk = false → ∀ l ∈ harnessLinks h e, (u.link l).inService = false) ∧
        (id.laneOrderOk = true →
          (∀ x ∈ (harnessLinks h e).zipIdx, (far[x.2]?).map (fun y => (y.1, y.2.1)) = some (farExpect h e x.1)) →
          ∀ x ∈ (harnessLinks h e).zipIdx, (u.link x.1).inService = u.linkMay x.1 ∧
            ∀ y, far[x.2]? = some y → (u.link x.1).natural = y.2.2 ∧ (linkNs < y.2.2 → (u.link x.1).inService = false)) ∧
        u.parts = s.parts ∧ u.hbm = s.hbm) ∧
    (∀ p m, ∃ u, exec (.moduleInserted t p m) s = .next u ∧ (u.port p).module = some m ∧
      ((u.port p).up = true ↔ moduleQualified m = true ∧ (s.swt (hostPortSwitch p)).up = true) ∧
      (∀ q, q ≠ p → u.port q = s.port q) ∧ u.parts = s.parts ∧ u.hbm = s.hbm) ∧
    (∀ p, ∃ u, exec (.moduleRemoved t p) s = .next u ∧ (u.port p).module = none ∧ (u.port p).up = false ∧
      (∀ q, q ≠ p → u.port q = s.port q) ∧ u.parts = s.parts ∧ u.hbm = s.hbm) ∧
    (∀ after r, firstDue s.rmu.logWait = some r → r.due ≤ (b.rackNs : Int) → s.rmu.up = true →
      s.rmu.absentUntil ≤ b.osc → s.rmu.log.length < logRing →
      ∃ u, exec (.logRecordCommit t after) s = .next u ∧
        u.rmu.log = s.rmu.log ++ [{ r.close after with lseq := s.rmu.lseq }] ∧ u.rmu.lseq = s.rmu.lseq + 1 ∧
        u.rmu.logWait = s.rmu.logWait.erase r ∧ u.kws = s.kws ∧ u.hbm = s.hbm) ∧
    (∀ unit ch low,
      ((∃ i : Fin 16, low = some i ∧ i.val ≤ 7) →
        ∃ u, exec (.uartCharacterReceived t unit ch low) s = .next u ∧
          Tab.get u.rmu.uartErrors 0 unit = Tab.get s.rmu.uartErrors 0 unit + 1 ∧ u.rmu.uartChars = s.rmu.uartChars ∧
          u.rmu.fwB = s.rmu.fwB) ∧
      ((∀ i : Fin 16, low = some i → 8 ≤ i.val) →
        ∃ u, exec (.uartCharacterReceived t unit ch low) s = .next u ∧
          Tab.get u.rmu.uartChars [] unit = Tab.get s.rmu.uartChars [] unit ++ [ch] ∧ u.rmu.uartErrors = s.rmu.uartErrors ∧
          u.rmu.fwB = (if unit = unitRmu ∧ ch = 0x72#8 ∧ s.rmu.up = true ∧ b.osc ≤ s.rmu.bootAt + 3000000000 ∧
            s.rmu.recoverySelected = false then !s.rmu.fwB else s.rmu.fwB))) ∧
    (∃ u, exec (.rmuProcessorRestart t) s = .next u ∧ b.osc ≤ u.rmu.absentUntil ∧ u.rmu.absentUntil ≤ b.osc + 30000000000 ∧
      u.cfg = s.cfg ∧ u.kws = s.kws ∧ u.parts = s.parts ∧ u.hbm = s.hbm) ∧
    (∀ a r, b.managed = true →
      (b.account? a = none → exec (.redfishRequest t a r) s = .next (b.emit (.http 401 (redfishResource r)))) ∧
      ∀ x, b.account? a = some x →
        (∀ res, r = .read res → exec (.redfishRequest t a r) s = .next (b.emit (.http (if redfishKnown res then 200 else 404) res))) ∧
        (x.admin = false → (∀ res, r ≠ .read res) → (∀ m res, r ≠ .other m res) →
          exec (.redfishRequest t a r) s = .next (b.emit (.http 403 (redfishResource r)))) ∧
        (∀ name ad pw, x.admin = true → r = .setAccount name ad pw →
          (putAccount s.rmu.accounts { name := name, admin := ad, password := pw }).length ≤ 16 →
          ∃ u, exec (.redfishRequest t a r) s = .next u ∧
            u.rmu.accounts = putAccount s.rmu.accounts { name := name, admin := ad, password := pw } ∧
            u.out = s.out ++ [.http 200 "AccountService"]) ∧
        exec (.redfishRequest t a r) s = .next ((b.redfish x.admin r).1.emit (.http (b.redfish x.admin r).2 (redfishResource r)))) ∧
    ∀ w, (s.swt w).up = true →
      ∃ u, exec (.switchTrayFailure t w) s = .next u ∧ (u.swt w).up = false ∧ (∀ i, i ≠ w → (u.swt i).up = (s.swt i).up) ∧
        (∀ p, hostPortSwitch p = w → (u.port p).up = false) ∧
        (∀ n, (uplinkSwitch n 0 = w → (u.link { chip := n, port := 6 }).inService = false) ∧
          (uplinkSwitch n 1 = w → (u.link { chip := n, port := 7 }).inService = false)) ∧ u.place.due = true ∧ u.parts = s.parts ∧
        u.hbm = s.hbm

/-- A source steady for 16 s locks and its offset is stepped, slewed, or small enough; a PPS lock beside PTP changes nothing; a lost
source leaves the other, or HOLDOVER with RATE held, which decays. A pulse too far from a locked PTP is rejected. A receiver loads each
sound message; one it cannot read, and one that stays out, are misses, and at the sixteenth in a row it free-runs (R7, R8, R294 to
R298). Where the manual leaves it open, this is the model's choice (log 120, log 149). -/
def Obligations.RackTimeCompletes : Prop :=
  ∀ (s : State) (t : Nat),
    let a := s.tick t
    (∀ pps theta n, a.sourceUsed pps = true → 16 ≤ n →
      let stepped := fun (u : State) => u.clk.rackQ = ((a.clk.rackQ : Int) + theta * 2 ^ 40).toNat ∧ u.clk.rate = 0 ∧
        u.clk.quality = (if s.clk.ptpLocked || !pps then .lockedPtp else .lockedPps) ∧ u.hbm = s.hbm
      let slews := fun (u : State) => u.clk.rackQ = a.clk.rackQ ∧ u.clk.quality = .slewing ∧
        u.clk.theta = some (theta * 2 ^ 40) ∧ u.clk.rate ≠ 0 ∧ (0 < u.clk.rate ↔ 0 < theta) ∧ u.clk.rate.natAbs ≤ maxSlew ∧
        u.parts = s.parts ∧ u.hbm = s.hbm
      (s.clk.quality = .unset → ∃ u, exec (.timeSourceLocked t pps theta n) s = .next u ∧ stepped u) ∧
      (s.clk.quality ≠ .unset → pps = true → s.clk.ptpLocked = true →
        ∃ u, exec (.timeSourceLocked t pps theta n) s = .next u ∧ u.clk.ppsLocked = true ∧ u.clk.quality = s.clk.quality ∧
          u.clk.rackQ = a.clk.rackQ ∧ u.clk.rate = s.clk.rate ∧ u.parts = s.parts ∧ u.hbm = s.hbm) ∧
      (s.clk.quality ≠ .unset → (pps = true → s.clk.ptpLocked = false) →
        (theta.natAbs ≤ 1000 → ∃ u, exec (.timeSourceLocked t pps theta n) s = .next u ∧ u.clk.rackQ = a.clk.rackQ ∧
          u.clk.quality = (if pps then .lockedPps else .lockedPtp) ∧ u.clk.theta = none ∧ u.parts = s.parts ∧ u.hbm = s.hbm) ∧
        (1000 < theta.natAbs → theta.natAbs ≤ 10000000 ∨ a.anyOpen = true ∨ a.rackSet 0x0804#16 = 0 →
          ∃ u, exec (.timeSourceLocked t pps theta n) s = .next u ∧ slews u) ∧
        (10000000 < theta.natAbs → a.anyOpen = false → a.rackSet 0x0804#16 ≠ 0 →
          ∃ u, exec (.timeSourceLocked t pps theta n) s = .next u ∧ stepped u))) ∧
    (∀ theta rate : Int, s.clk.quality = .slewing → theta.natAbs ≤ 1000 → rate.natAbs ≤ maxSlew →
      ∃ u, exec (.timeSlewEnd t theta rate) s = .next u ∧ u.clk.quality = a.lockedQuality ∧ u.clk.rate = rate ∧
        u.clk.rackQ = a.clk.rackQ ∧ u.parts = s.parts ∧ u.hbm = s.hbm) ∧
    (∀ pps n, (if pps then s.clk.ppsLocked else s.clk.ptpLocked) = true →
      ((if pps then s.clk.ptpLocked else s.clk.ppsLocked) = true →
        ∃ u, exec (.timeSourceLost t pps n) s = .next u ∧ u.clk.rate = s.clk.rate ∧
          u.clk.quality = (if pps = false ∧ s.clk.quality = .lockedPtp then .lockedPps else s.clk.quality) ∧
          (if pps then u.clk.ppsLocked else u.clk.ptpLocked) = false ∧ u.hbm = s.hbm) ∧
      ((if pps then s.clk.ptpLocked else s.clk.ppsLocked) = false → s.clk.quality ≠ .starting → s.clk.quality ≠ .unset →
        ∃ u, exec (.timeSourceLost t pps n) s = .next u ∧ u.clk.quality = .holdover ∧ u.clk.rate = s.clk.rate ∧
          u.clk.lossAt = some a.osc ∧ u.clk.uLock = n ∧ u.clk.ptpLocked = false ∧ u.clk.ppsLocked = false ∧ u.hbm = s.hbm)) ∧
    (∀ d : Int, s.clk.ptpLocked = true → 1000 < d.natAbs →
      ∃ u, exec (.ppsPulse t d) s = .next u ∧ u.clk.ppsLocked = false ∧ u.clk.ptpLocked = true ∧
        u.clk.quality = s.clk.quality ∧ (∃ r ∈ u.rmu.logWait, r.code = Lg.ppsRejected) ∧ u.hbm = s.hbm) ∧
    (∀ d : Int, d.natAbs ≤ 1000 ∨ s.clk.ptpLocked = false → exec (.ppsPulse t d) s = .next a) ∧
    (∀ l, s.clk.lossAt = some l → s.clk.quality = .holdover ∨ s.clk.quality = .degraded →
      (86400000000000 ≤ a.osc - l → ∃ u, exec (.timeQualityDecay t) s = .next u ∧ u.clk.quality = .freeRunning ∧
        u.clk.rate = s.clk.rate ∧ u.hbm = s.hbm) ∧
      (a.osc - l < 86400000000000 → 10000 < s.clk.uLock + (a.osc - l) * 1000 / 3600000000000 →
        ∃ u, exec (.timeQualityDecay t) s = .next u ∧ u.clk.quality = .degraded ∧ u.clk.rate = s.clk.rate ∧ u.hbm = s.hbm) ∧
      (a.osc - l < 86400000000000 → s.clk.uLock + (a.osc - l) * 1000 / 3600000000000 ≤ 10000 →
        exec (.timeQualityDecay t) s = .next a)) ∧
    (∀ unit (r : TimeRx) head seq tNext tail, r.tNext < 2 ^ 64 → -2 ^ 31 ≤ r.rate → r.rate < 2 ^ 31 →
      r.quality.toNat < 7 ∨ r.quality = 15 → timeBytes head seq tNext tail = timeMessage r →
      ∃ u, exec (.timeOfDayMessage t unit head seq tNext tail) s = .next u ∧
        Tab.get u.clk.rx rxInit unit = { r with missed := 0, lost := false } ∧ u.rmu = s.rmu ∧ u.hbm = s.hbm) ∧
    (∀ unit head seq tNext tail, let bs := timeBytes head seq tNext tail
      fieldBe bs 0 2 ≠ 0x5254 ∨ fieldBe bs 2 1 ≠ 1 ∨ fieldBe bs 20 4 ≠ (crc32c (field bs 0 20)).toNat ∨
        (7 ≤ fieldBe bs 3 1 % 16 ∧ fieldBe bs 3 1 % 16 < 15) →
      exec (.timeOfDayMessage t unit head seq tNext tail) s = exec (.timeMessageMissed t unit) s) ∧
    ∀ unit, let r := Tab.get s.clk.rx rxInit unit
      (r.missed = 15 → ∃ u, exec (.timeMessageMissed t unit) s = .next u ∧ (Tab.get u.clk.rx rxInit unit).quality = 4 ∧
        (Tab.get u.clk.rx rxInit unit).lost = true ∧ (Tab.get u.clk.rx rxInit unit).rate = r.rate ∧
        (∃ x, u.rmu.logWait = s.rmu.logWait ++ [x] ∧ x.code = Lg.timeSourceLost) ∧ u.hbm = s.hbm) ∧
      (r.missed ≠ 15 → ∃ u, exec (.timeMessageMissed t unit) s = .next u ∧
        (Tab.get u.clk.rx rxInit unit).missed = r.missed + 1 ∧ (Tab.get u.clk.rx rxInit unit).quality = r.quality ∧
        (Tab.get u.clk.rx rxInit unit).rate = r.rate ∧ u.rmu = s.rmu ∧ u.hbm = s.hbm)

/-! ### Start, acceptance and recovery -/

/-- POWER_UP of a rack that is down starts the RMU, the clock, and every channel but an opened one and those of a shelf held out; units
that do not match the factory record stay out, and the rack is ready. The acceptance test's lane phase gives way to its codeword phase,
and that to its verdict (R25, R250, R253, R294, R304, R310, R311). Where the manual leaves it open, this is the model's choice (log 97,
log 99, log 100, log 135). -/
def Obligations.StartCompletes : Prop :=
  ∀ (s : State) (t : Nat),
    let a := s.tick t
    (∀ r : PowerUpReadings, s.ready = false → r.ac.any id = true → s.opened rmuChannel = false →
      let out := fun (x : BitVec 16) => (r.mismatched.map Prod.fst).contains x
      ∃ u, exec (.powerUp t r) s = .next u ∧ u.ready = true ∧ u.rmu.up = true ∧ u.mismatched = r.mismatched.map Prod.fst ∧
        (∀ i, (u.shelfOf i).ac = r.ac.getD i.val false ∧
          (u.shelfOf i).conv = (r.ac.getD i.val false && !out (unitShelf i))) ∧
        (∀ c, spareChannel c = false → s.opened c = false → out (unitShelf c.shelf) = false ∨ c = rmuChannel →
          (u.channel c).st = .on ∨ ((u.channel c).st = .latched ∧ (u.channel c).cause = some 2)) ∧
        (∀ c, s.opened c = true → u.channel c = s.channel c) ∧
        (∀ n, out (unitChip n) = true → (u.chip n).power = (s.chip n).power) ∧
        (∀ i, out (unitSwitch i) = true → (u.swt i).up = false) ∧
        (∀ y, out (unitTray y) = true → (u.tray y).powered = (s.tray y).powered) ∧
        u.clk.quality = (if r.rtc.isSome then .starting else .unset) ∧ u.lockedChips = s.lockedChips ∧
        u.lockedTrays = s.lockedTrays ∧ (∀ y ∈ s.lockedTrays, (u.tray y).powered = (s.tray y).powered)) ∧
    (∀ r : PowerUpReadings, s.ready = true ∨ s.opened rmuChannel = true ∨ r.ac.any id = false →
      exec (.powerUp t r) s = .next a) ∧
    (∀ rs, s.accept.phase = 1 → s.accept.since + 60000000000 ≤ a.osc →
      ∃ u, exec (.acceptTestPhaseEnd t rs) s = .next u ∧ u.accept.phase = 2 ∧ u.accept.since = a.osc ∧
        (∀ l ∈ allLinks, (s.link l).passed = false → ∀ bers, (rs.find? fun e => e.1 = l) = some (l, bers) →
          (u.link l).laneFailed = (List.range 8).filter fun i => laneFails (bers.getD i 0)) ∧ u.parts = s.parts ∧ u.hbm = s.hbm) ∧
    ∀ rs, s.accept.phase = 2 → s.accept.since + 60000000000 ≤ a.osc →
      ∃ u, exec (.acceptTestPhaseEnd t rs) s = .next u ∧ u.accept.phase = 0 ∧
        u.rackSet 0x0304#16 = (if allLinks.all fun l => (u.link l).passed then 2 else 3) ∧
        (∀ l ∈ allLinks, (s.link l).passed = false → (s.link l).laneFailed = [] →
          (rs.find? fun e => e.1 = l) = some (l, [0, 0]) → (u.link l).accept = 1) ∧ u.parts = s.parts ∧ u.hbm = s.hbm

/-- Detectors 2 to 6 and 8 of R317 request their level for their unit; a poisoned word that is consumed stays marked, is counted, and
aborts the live instances of its chip; a stack of detector 8 counts its 64 words (R84, R182, R317). Where the manual leaves it open, this
is the model's choice (log 77). -/
def Obligations.DetectorsRequestResets : Prop :=
  ∀ (s : State) (t : Nat) (n : ChipId),
    let a := s.tick t
    (∀ p v, s.part p = some v → v.taken.isSome = true → n ∈ v.chips →
      exec (.progressWatchdog t p n) s = .next (a.fire 2 1 (.part p) (some n))) ∧
    (∀ p b, quadOf n (blockK b) ∈ s.partQuads p →
      ∃ u r, exec (.engineWatchdog t p n b) s = .next u ∧ u = { a with resetReqs := u.resetReqs } ∧
        u.resetReqs = s.resetReqs ++ [r] ∧ r.level = 2 ∧ r.scope = .block p n b ∧ r.detector = 3 ∧ r.chip = some n ∧
        r.firedAt = a.osc) ∧
    (∀ p v addr q, s.part p = some v → v.shape.quad? (addrVq addr) = some q →
      ∃ u r, exec (.poisonConsumed t p addr) s = .next u ∧ s.phys p addr / 32 ∈ u.poison ∧ (∀ x ∈ s.poison, x ∈ u.poison) ∧
        (let i := stackOf (quadK q) (s.phys p addr % 2 ^ 36)
         (Tab.get (u.chip (quadChip q)).ecc (0, 0) i).2 = sat64 (Tab.get (s.chip (quadChip q)).ecc (0, 0) i).2 1) ∧
        u.parts = (a.abortChip p (quadChip q)).parts ∧
        u.resetReqs = s.resetReqs ++ [r] ∧ r.level = 1 ∧ r.scope = .part p ∧ r.detector = 4 ∧ r.chip = some (quadChip q) ∧
        r.firedAt = a.osc ∧ u.hbm = s.hbm) ∧
    (s.chipUp n = true →
      exec (.keeperWatchdog t n) s = .next (a.fire 5 4 (.chip n) (some n)) ∧
      exec (.chipPollTimeout t n) s = .next (a.fire 6 4 (.chip n) (some n)) ∧
      ∀ i, ∃ u r, exec (.hbmErrorRate t n i) s = .next u ∧ 64 ≤ (Tab.get (u.chip n).ecc (0, 0) i).2 ∧
        (∀ m, m ≠ n → u.chip m = s.chip m) ∧
        u.resetReqs = s.resetReqs ++ [r] ∧ r.level = 4 ∧ r.scope = .chip n ∧ r.detector = 8 ∧ r.chip = some n ∧
        r.firedAt = a.osc ∧ u.parts = s.parts ∧ u.hbm = s.hbm)

/-- With no reset running the first request that can be taken starts: level 1 clears the batch, waves and sends of its partition, level
2 its block besides, level 3 memory, programs, groups and hot tier, level 4 takes its chip through LOCKED, level 5 the power of its tray,
level 6 the rack down. A done reset ends and opens its window, a late or failed one fails, a late level 4 goes on as level 5 of its tray,
and a level 5 is tried again after 60 s; windows pass (R76, R318 to R320, R323). Where the manual leaves it open, this is the model's
choice (log 54, log 55, log 153). -/
def Obligations.ResetsRun : Prop :=
  ∀ (s : State) (t : Nat),
    let a := s.tick t
    (∀ q, s.resets = [] → (s.resetReqs.find? a.takeable) = some q → a.recurs q = none →
      (∀ p v, q.level = 1 → q.scope = .part p → s.scopeParts (.part p) = [p] → s.part p = some v →
        ∃ u w r, exec (.resetStarted t) s = .next u ∧ u.part p = some w ∧ w.taken = none ∧ w.waves = [] ∧ w.shape = v.shape ∧
          w.configs = v.configs ∧ w.running = v.running ∧ u.resets = [r] ∧ r.level = 1 ∧ r.scope = .part p ∧ r.startOsc = a.osc ∧
          (∀ x ∈ u.sends, x.part ≠ p) ∧ u.hbm = s.hbm) ∧
      (∀ p v n b, q.level = 2 → q.scope = .block p n b → s.scopeParts (.block p n b) = [p] → s.part p = some v →
        ∃ u w r, exec (.resetStarted t) s = .next u ∧ u.part p = some w ∧ w.taken = none ∧ w.waves = [] ∧ w.shape = v.shape ∧
          w.configs = v.configs ∧ u.resets = [r] ∧ r.level = 2 ∧ r.startOsc = a.osc ∧ (∀ x ∈ u.bufs, x.1 ≠ (n, b)) ∧
          (∀ x ∈ u.acc, x.1 ≠ (n, b)) ∧ u.hbm = s.hbm) ∧
      (∀ p v, q.level = 3 → q.scope = .part p → s.scopeParts (.part p) = [p] → s.part p = some v →
        ∃ u w r, exec (.resetStarted t) s = .next u ∧ u.part p = some w ∧ w.prog = .idle ∧ w.configs = [] ∧
          (∀ g ∈ w.groups, g.dying = true) ∧ w.hot = [] ∧ w.shape = v.shape ∧ u.resets = [r] ∧ r.level = 3 ∧ r.startOsc = a.osc ∧
          ∀ x ∈ v.shape.quads, ∀ off, off < 2 ^ 36 → Memory.read u.hbm (hbmAddr x off) = 0) ∧
      (∀ n, q.level = 4 → q.scope = .chip n → s.chipLocked n = false → (s.chip n).power ≠ .off →
        ∃ u, exec (.resetStarted t) s = .next u ∧ (u.chip n).power = .locked ∧ (u.chip n).divider = 4 ∧
          (u.chip n).mtxGate = false ∧ (u.chip n).cal = [] ∧ (u.chip n).seen = [] ∧ (u.chip n).lastResetLevel = 4) ∧
      (∀ y, q.level = 5 → q.scope = .tray y → s.lockedTrays.contains y = false →
        ∃ u, exec (.resetStarted t) s = .next u ∧ (u.tray y).powered = false ∧ ∀ n ∈ trayChips y, (u.chip n).power ≠ .up) ∧
      (q.level = 6 → q.scope = .rack →
        ∃ u, exec (.resetStarted t) s = .next u ∧ u.ready = false ∧ u.rmu.commanded = true ∧ u.hbm = [] ∧
          ∀ p, u.part p = none)) ∧
    (∀ x r, (s.resets.find? fun r => r.scope = x) = some r → a.resetHeld r = false →
      (a.osc ≤ r.startOsc + resetDeadlineNs r.level →
        exec (.resetDone t x false) s = .next (a.failRun r 2) ∧
        ∃ (w : State) (z : Window), exec (.resetDone t x true) s = .next w.settleTurns ∧ (∀ y ∈ w.resets, y.scope ≠ x) ∧ z ∈ w.windows ∧
          z.level = r.level ∧ z.scope = x ∧ z.endOsc = a.osc + a.rackSet 0x0902#16 * 1000000 ∧
          (∀ o, r.op = some o → w.op? o = none) ∧
          (∀ n ∈ scopeChips x, a.chipLocked n = false → a.chipHeldOut n = false → (w.chip n).power = .up) ∧
          (∀ y, x = .tray y → a.heldOut (unitTray y) = false → (w.tray y).powered = true) ∧ w.hbm = s.hbm) ∧
      (r.startOsc + resetDeadlineNs r.level < a.osc → ∀ ok,
        exec (.resetDone t x ok) s = .next (a.failRun r 0) ∧ exec (.resetDeadline t x) s = .next (a.failRun r 0))) ∧
    (∀ n r, s.resets = [r] → r.level = 4 → r.scope = .chip n → (s.chip n).tripped = [] →
      r.startOsc + 30000000000 ≤ a.osc → s.lockedTrays.contains (trayOf n) = false →
      ∃ u, exec (.resetDeadline t (.chip n)) s = .next u ∧ (u.tray (trayOf n)).powered = false ∧
        ∀ m ∈ trayChips (trayOf n), (u.chip m).power ≠ .up) ∧
    (∀ y e, (s.retry5.find? fun e => e.1 = y) = some e → e.2 + 60000000000 ≤ a.osc → s.resets = [] →
      s.lockedTrays.contains y = false →
      ∃ u, exec (.level5Retry t y) s = .next u ∧ (∀ z ∈ u.retry5, z.1 ≠ y) ∧ (u.tray y).powered = false ∧
        ∀ n ∈ trayChips y, (u.chip n).power ≠ .up) ∧
    ∀ x, s.resetReqs = [] →
      ∃ u, exec (.escalateWindowExpiry t x) s = .next u ∧ (∀ w ∈ u.windows, w.scope = x → a.osc ≤ w.endOsc) ∧
        (∀ w ∈ s.windows, w.scope ≠ x ∨ a.osc ≤ w.endOsc → w ∈ u.windows) ∧ u.parts = s.parts ∧ u.hbm = s.hbm

/-! ### The machine -/

/-- The numbers of chips, trays and slots, and where the uplinks land (R14, R17). -/
def Obligations.MachineMap : Prop :=
  (∀ x y z : Nat, x < 4 → y < 4 → z < 4 →
    (chipAt x y z).val = x + 4 * y + 16 * z ∧ (trayOf (chipAt x y z)).val = y + 4 * z ∧
      (chipAt x y z).val = 4 * (trayOf (chipAt x y z)).val + x ∧ (chipAt x y z).val % 4 = x ∧
      chipX (chipAt x y z) = x ∧ chipY (chipAt x y z) = y ∧ chipZ (chipAt x y z) = z) ∧
  (∀ n : ChipId, n = chipAt (chipX n) (chipY n) (chipZ n) ∧ n ∈ trayChips (trayOf n)) ∧
  (∀ n : ChipId, (uplinkSwitch n 0).val = chipZ n ∧ uplinkPort n 0 = 4 * chipY n + chipX n ∧
    (uplinkSwitch n 1).val = (chipZ n + 2) % 4 ∧ uplinkPort n 1 = 16 + 4 * chipY n + chipX n) ∧
  ∀ (w : SwId) (p : Nat), (p < 16 → ∃ n, uplinkSwitch n 0 = w ∧ uplinkPort n 0 = p ∧ chipZ n = w.val ∧
      ∀ m u, u < 2 → uplinkSwitch m u = w → uplinkPort m u = p → m = n ∧ u = 0) ∧
    (16 ≤ p → p < 32 → ∃ n, uplinkSwitch n 1 = w ∧ uplinkPort n 1 = p ∧ chipZ n = (w.val + 2) % 4 ∧
      ∀ m u, u < 2 → uplinkSwitch m u = w → uplinkPort m u = p → m = n ∧ u = 1)

/-- The machine as delivered: nothing runs, is placed, listed or locked, no channel is on and every setting is at its default (R26, R250,
R304, R331). The values that the manual leaves open are the model's choice (log 3, log 7, log 8). -/
def Obligations.ResetState : Prop :=
  (Memory.wf State.reset.hbm ∧ ∀ a, Memory.read State.reset.hbm a = 0) ∧ State.reset.pending = [] ∧ State.reset.ready = false ∧
    (∀ p, State.reset.part p = none) ∧ (∀ n, (State.reset.chip n).power = .off ∧ State.reset.chipLocked n = false) ∧
    (∀ c, (State.reset.channel c).st = .off ∧ (State.reset.channel c).retries = 0) ∧
    (∀ k : KwId, (State.reset.kw k).sessions = [] ∧ State.reset.kwPart k = none ∧ State.reset.kwRole k = 0) ∧
    State.reset.serviceDue = false ∧ State.reset.resets = [] ∧ State.reset.turn = none ∧
    (∀ id, State.reset.rackSet id = ofBe (setDefault id)) ∧ State.reset.clk.quality = .unset

/-- A row of power, cooling, supervision, rack time or detection leaves memory, buffers, accumulators, cell SRAM, settings, share keys,
lockouts, turns and every partition's placement, epoch and programs as they were. -/
def Obligations.ObservingRowsKeepTenants : Prop :=
  ∀ (i : Instr) (s u : State), observes i = true → exec i s = .next u →
    (∀ a, Memory.read u.hbm a = Memory.read s.hbm a) ∧ u.bufs = s.bufs ∧ u.acc = s.acc ∧ u.sram = s.sram ∧
      u.cells = s.cells ∧ u.cfg = s.cfg ∧ u.kr.keys = s.kr.keys ∧ u.lockedChips = s.lockedChips ∧
      u.lockedTrays = s.lockedTrays ∧ u.serviceDue = s.serviceDue ∧ u.turn = s.turn ∧ u.partTurns = s.partTurns ∧
      u.rackEpoch = s.rackEpoch ∧ u.pending = s.pending ∧ ∀ p, (u.part p).map anchored = (s.part p).map anchored

/-- Memory keeps its canonical form through every step: rising addresses, no zero byte listed (log 8). -/
def Obligations.MemoryStaysCanonical : Prop :=
  ∀ s u : State, Memory.wf s.hbm → step s = .next u → Memory.wf u.hbm

/-- A locked-out unit is locked out for the life of the rack, whatever is commanded, and service due never clears (R323, R324). -/
def Obligations.LockoutsNeverClear : Prop :=
  ∀ s u : State, step s = .next u → KeepsLockouts s u
end

