-- ==== Sys2Proof/Laws/State.lean ====
section
/-! SUPPORT. What each update of the state leaves alone: one lemma per update and field, true by unfolding, for simp. The field an
update writes has its lemma in Laws/Tables.lean. -/

namespace Sys2Proof.Machine.State

variable (s : State)

/-! `emit` -/

@[simp] theorem emit_pending (o : Out) : (s.emit o).pending = s.pending := rfl
@[simp] theorem emit_fresh (o : Out) : (s.emit o).fresh = s.fresh := rfl
@[simp] theorem emit_clk (o : Out) : (s.emit o).clk = s.clk := rfl
@[simp] theorem emit_ports (o : Out) : (s.emit o).ports = s.ports := rfl
@[simp] theorem emit_mgmtDrops (o : Out) : (s.emit o).mgmtDrops = s.mgmtDrops := rfl
@[simp] theorem emit_rateCuts (o : Out) : (s.emit o).rateCuts = s.rateCuts := rfl
@[simp] theorem emit_kws (o : Out) : (s.emit o).kws = s.kws := rfl
@[simp] theorem emit_opr (o : Out) : (s.emit o).opr = s.opr := rfl
@[simp] theorem emit_ops (o : Out) : (s.emit o).ops = s.ops := rfl
@[simp] theorem emit_nextOp (o : Out) : (s.emit o).nextOp = s.nextOp := rfl
@[simp] theorem emit_lookups (o : Out) : (s.emit o).lookups = s.lookups := rfl
@[simp] theorem emit_reqs (o : Out) : (s.emit o).reqs = s.reqs := rfl
@[simp] theorem emit_cfg (o : Out) : (s.emit o).cfg = s.cfg := rfl
@[simp] theorem emit_rackEpoch (o : Out) : (s.emit o).rackEpoch = s.rackEpoch := rfl
@[simp] theorem emit_rackEpochHigh (o : Out) : (s.emit o).rackEpochHigh = s.rackEpochHigh := rfl
@[simp] theorem emit_parts (o : Out) : (s.emit o).parts = s.parts := rfl
@[simp] theorem emit_hbm (o : Out) : (s.emit o).hbm = s.hbm := rfl
@[simp] theorem emit_bufs (o : Out) : (s.emit o).bufs = s.bufs := rfl
@[simp] theorem emit_sram (o : Out) : (s.emit o).sram = s.sram := rfl
@[simp] theorem emit_acc (o : Out) : (s.emit o).acc = s.acc := rfl
@[simp] theorem emit_poison (o : Out) : (s.emit o).poison = s.poison := rfl
@[simp] theorem emit_cells (o : Out) : (s.emit o).cells = s.cells := rfl
@[simp] theorem emit_mesh (o : Out) : (s.emit o).mesh = s.mesh := rfl
@[simp] theorem emit_waitIn (o : Out) : (s.emit o).waitIn = s.waitIn := rfl
@[simp] theorem emit_deadbolts (o : Out) : (s.emit o).deadbolts = s.deadbolts := rfl
@[simp] theorem emit_chips (o : Out) : (s.emit o).chips = s.chips := rfl
@[simp] theorem emit_quads (o : Out) : (s.emit o).quads = s.quads := rfl
@[simp] theorem emit_links (o : Out) : (s.emit o).links = s.links := rfl
@[simp] theorem emit_sends (o : Out) : (s.emit o).sends = s.sends := rfl
@[simp] theorem emit_landings (o : Out) : (s.emit o).landings = s.landings := rfl
@[simp] theorem emit_laneNext (o : Out) : (s.emit o).laneNext = s.laneNext := rfl
@[simp] theorem emit_accept (o : Out) : (s.emit o).accept = s.accept := rfl
@[simp] theorem emit_place (o : Out) : (s.emit o).place = s.place := rfl
@[simp] theorem emit_kr (o : Out) : (s.emit o).kr = s.kr := rfl
@[simp] theorem emit_sw (o : Out) : (s.emit o).sw = s.sw := rfl
@[simp] theorem emit_chan (o : Out) : (s.emit o).chan = s.chan := rfl
@[simp] theorem emit_shelf (o : Out) : (s.emit o).shelf = s.shelf := rfl
@[simp] theorem emit_batt (o : Out) : (s.emit o).batt = s.batt := rfl
@[simp] theorem emit_pw (o : Out) : (s.emit o).pw = s.pw := rfl
@[simp] theorem emit_meter (o : Out) : (s.emit o).meter = s.meter := rfl
@[simp] theorem emit_trays (o : Out) : (s.emit o).trays = s.trays := rfl
@[simp] theorem emit_rackLeak (o : Out) : (s.emit o).rackLeak = s.rackLeak := rfl
@[simp] theorem emit_leakContact (o : Out) : (s.emit o).leakContact = s.leakContact := rfl
@[simp] theorem emit_rmu (o : Out) : (s.emit o).rmu = s.rmu := rfl
@[simp] theorem emit_resetReqs (o : Out) : (s.emit o).resetReqs = s.resetReqs := rfl
@[simp] theorem emit_resets (o : Out) : (s.emit o).resets = s.resets := rfl
@[simp] theorem emit_windows (o : Out) : (s.emit o).windows = s.windows := rfl
@[simp] theorem emit_retry5 (o : Out) : (s.emit o).retry5 = s.retry5 := rfl
@[simp] theorem emit_lockedChips (o : Out) : (s.emit o).lockedChips = s.lockedChips := rfl
@[simp] theorem emit_lockedTrays (o : Out) : (s.emit o).lockedTrays = s.lockedTrays := rfl
@[simp] theorem emit_serviceDue (o : Out) : (s.emit o).serviceDue = s.serviceDue := rfl
@[simp] theorem emit_turn (o : Out) : (s.emit o).turn = s.turn := rfl
@[simp] theorem emit_partTurns (o : Out) : (s.emit o).partTurns = s.partTurns := rfl
@[simp] theorem emit_ready (o : Out) : (s.emit o).ready = s.ready := rfl
@[simp] theorem emit_rejectedEnds (o : Out) : (s.emit o).rejectedEnds = s.rejectedEnds := rfl
@[simp] theorem emit_mismatched (o : Out) : (s.emit o).mismatched = s.mismatched := rfl
@[simp] theorem emit_unplaced (o : Out) : (s.emit o).unplaced = s.unplaced := rfl

/-! `setPart` -/

@[simp] theorem setPart_pending (p : PartId) (v : Option Part) : (s.setPart p v).pending = s.pending := rfl
@[simp] theorem setPart_out (p : PartId) (v : Option Part) : (s.setPart p v).out = s.out := rfl
@[simp] theorem setPart_fresh (p : PartId) (v : Option Part) : (s.setPart p v).fresh = s.fresh := rfl
@[simp] theorem setPart_clk (p : PartId) (v : Option Part) : (s.setPart p v).clk = s.clk := rfl
@[simp] theorem setPart_ports (p : PartId) (v : Option Part) : (s.setPart p v).ports = s.ports := rfl
@[simp] theorem setPart_mgmtDrops (p : PartId) (v : Option Part) : (s.setPart p v).mgmtDrops = s.mgmtDrops := rfl
@[simp] theorem setPart_rateCuts (p : PartId) (v : Option Part) : (s.setPart p v).rateCuts = s.rateCuts := rfl
@[simp] theorem setPart_kws (p : PartId) (v : Option Part) : (s.setPart p v).kws = s.kws := rfl
@[simp] theorem setPart_opr (p : PartId) (v : Option Part) : (s.setPart p v).opr = s.opr := rfl
@[simp] theorem setPart_ops (p : PartId) (v : Option Part) : (s.setPart p v).ops = s.ops := rfl
@[simp] theorem setPart_nextOp (p : PartId) (v : Option Part) : (s.setPart p v).nextOp = s.nextOp := rfl
@[simp] theorem setPart_lookups (p : PartId) (v : Option Part) : (s.setPart p v).lookups = s.lookups := rfl
@[simp] theorem setPart_reqs (p : PartId) (v : Option Part) : (s.setPart p v).reqs = s.reqs := rfl
@[simp] theorem setPart_cfg (p : PartId) (v : Option Part) : (s.setPart p v).cfg = s.cfg := rfl
@[simp] theorem setPart_rackEpoch (p : PartId) (v : Option Part) : (s.setPart p v).rackEpoch = s.rackEpoch := rfl
@[simp] theorem setPart_rackEpochHigh (p : PartId) (v : Option Part) : (s.setPart p v).rackEpochHigh = s.rackEpochHigh := rfl
@[simp] theorem setPart_hbm (p : PartId) (v : Option Part) : (s.setPart p v).hbm = s.hbm := rfl
@[simp] theorem setPart_bufs (p : PartId) (v : Option Part) : (s.setPart p v).bufs = s.bufs := rfl
@[simp] theorem setPart_sram (p : PartId) (v : Option Part) : (s.setPart p v).sram = s.sram := rfl
@[simp] theorem setPart_acc (p : PartId) (v : Option Part) : (s.setPart p v).acc = s.acc := rfl
@[simp] theorem setPart_poison (p : PartId) (v : Option Part) : (s.setPart p v).poison = s.poison := rfl
@[simp] theorem setPart_cells (p : PartId) (v : Option Part) : (s.setPart p v).cells = s.cells := rfl
@[simp] theorem setPart_mesh (p : PartId) (v : Option Part) : (s.setPart p v).mesh = s.mesh := rfl
@[simp] theorem setPart_waitIn (p : PartId) (v : Option Part) : (s.setPart p v).waitIn = s.waitIn := rfl
@[simp] theorem setPart_deadbolts (p : PartId) (v : Option Part) : (s.setPart p v).deadbolts = s.deadbolts := rfl
@[simp] theorem setPart_chips (p : PartId) (v : Option Part) : (s.setPart p v).chips = s.chips := rfl
@[simp] theorem setPart_quads (p : PartId) (v : Option Part) : (s.setPart p v).quads = s.quads := rfl
@[simp] theorem setPart_links (p : PartId) (v : Option Part) : (s.setPart p v).links = s.links := rfl
@[simp] theorem setPart_sends (p : PartId) (v : Option Part) : (s.setPart p v).sends = s.sends := rfl
@[simp] theorem setPart_landings (p : PartId) (v : Option Part) : (s.setPart p v).landings = s.landings := rfl
@[simp] theorem setPart_laneNext (p : PartId) (v : Option Part) : (s.setPart p v).laneNext = s.laneNext := rfl
@[simp] theorem setPart_accept (p : PartId) (v : Option Part) : (s.setPart p v).accept = s.accept := rfl
@[simp] theorem setPart_place (p : PartId) (v : Option Part) : (s.setPart p v).place = s.place := rfl
@[simp] theorem setPart_kr (p : PartId) (v : Option Part) : (s.setPart p v).kr = s.kr := rfl
@[simp] theorem setPart_sw (p : PartId) (v : Option Part) : (s.setPart p v).sw = s.sw := rfl
@[simp] theorem setPart_chan (p : PartId) (v : Option Part) : (s.setPart p v).chan = s.chan := rfl
@[simp] theorem setPart_shelf (p : PartId) (v : Option Part) : (s.setPart p v).shelf = s.shelf := rfl
@[simp] theorem setPart_batt (p : PartId) (v : Option Part) : (s.setPart p v).batt = s.batt := rfl
@[simp] theorem setPart_pw (p : PartId) (v : Option Part) : (s.setPart p v).pw = s.pw := rfl
@[simp] theorem setPart_meter (p : PartId) (v : Option Part) : (s.setPart p v).meter = s.meter := rfl
@[simp] theorem setPart_trays (p : PartId) (v : Option Part) : (s.setPart p v).trays = s.trays := rfl
@[simp] theorem setPart_rackLeak (p : PartId) (v : Option Part) : (s.setPart p v).rackLeak = s.rackLeak := rfl
@[simp] theorem setPart_leakContact (p : PartId) (v : Option Part) : (s.setPart p v).leakContact = s.leakContact := rfl
@[simp] theorem setPart_rmu (p : PartId) (v : Option Part) : (s.setPart p v).rmu = s.rmu := rfl
@[simp] theorem setPart_resetReqs (p : PartId) (v : Option Part) : (s.setPart p v).resetReqs = s.resetReqs := rfl
@[simp] theorem setPart_resets (p : PartId) (v : Option Part) : (s.setPart p v).resets = s.resets := rfl
@[simp] theorem setPart_windows (p : PartId) (v : Option Part) : (s.setPart p v).windows = s.windows := rfl
@[simp] theorem setPart_retry5 (p : PartId) (v : Option Part) : (s.setPart p v).retry5 = s.retry5 := rfl
@[simp] theorem setPart_lockedChips (p : PartId) (v : Option Part) : (s.setPart p v).lockedChips = s.lockedChips := rfl
@[simp] theorem setPart_lockedTrays (p : PartId) (v : Option Part) : (s.setPart p v).lockedTrays = s.lockedTrays := rfl
@[simp] theorem setPart_serviceDue (p : PartId) (v : Option Part) : (s.setPart p v).serviceDue = s.serviceDue := rfl
@[simp] theorem setPart_turn (p : PartId) (v : Option Part) : (s.setPart p v).turn = s.turn := rfl
@[simp] theorem setPart_partTurns (p : PartId) (v : Option Part) : (s.setPart p v).partTurns = s.partTurns := rfl
@[simp] theorem setPart_ready (p : PartId) (v : Option Part) : (s.setPart p v).ready = s.ready := rfl
@[simp] theorem setPart_rejectedEnds (p : PartId) (v : Option Part) : (s.setPart p v).rejectedEnds = s.rejectedEnds := rfl
@[simp] theorem setPart_mismatched (p : PartId) (v : Option Part) : (s.setPart p v).mismatched = s.mismatched := rfl
@[simp] theorem setPart_unplaced (p : PartId) (v : Option Part) : (s.setPart p v).unplaced = s.unplaced := rfl

/-! `modPart` -/

@[simp] theorem modPart_pending (p : PartId) (f : Part → Part) : (s.modPart p f).pending = s.pending := by unfold State.modPart; split <;> rfl
@[simp] theorem modPart_out (p : PartId) (f : Part → Part) : (s.modPart p f).out = s.out := by unfold State.modPart; split <;> rfl
@[simp] theorem modPart_fresh (p : PartId) (f : Part → Part) : (s.modPart p f).fresh = s.fresh := by unfold State.modPart; split <;> rfl
@[simp] theorem modPart_clk (p : PartId) (f : Part → Part) : (s.modPart p f).clk = s.clk := by unfold State.modPart; split <;> rfl
@[simp] theorem modPart_ports (p : PartId) (f : Part → Part) : (s.modPart p f).ports = s.ports := by unfold State.modPart; split <;> rfl
@[simp] theorem modPart_mgmtDrops (p : PartId) (f : Part → Part) : (s.modPart p f).mgmtDrops = s.mgmtDrops := by unfold State.modPart; split <;> rfl
@[simp] theorem modPart_rateCuts (p : PartId) (f : Part → Part) : (s.modPart p f).rateCuts = s.rateCuts := by unfold State.modPart; split <;> rfl
@[simp] theorem modPart_kws (p : PartId) (f : Part → Part) : (s.modPart p f).kws = s.kws := by unfold State.modPart; split <;> rfl
@[simp] theorem modPart_opr (p : PartId) (f : Part → Part) : (s.modPart p f).opr = s.opr := by unfold State.modPart; split <;> rfl
@[simp] theorem modPart_ops (p : PartId) (f : Part → Part) : (s.modPart p f).ops = s.ops := by unfold State.modPart; split <;> rfl
@[simp] theorem modPart_nextOp (p : PartId) (f : Part → Part) : (s.modPart p f).nextOp = s.nextOp := by unfold State.modPart; split <;> rfl
@[simp] theorem modPart_lookups (p : PartId) (f : Part → Part) : (s.modPart p f).lookups = s.lookups := by unfold State.modPart; split <;> rfl
@[simp] theorem modPart_reqs (p : PartId) (f : Part → Part) : (s.modPart p f).reqs = s.reqs := by unfold State.modPart; split <;> rfl
@[simp] theorem modPart_cfg (p : PartId) (f : Part → Part) : (s.modPart p f).cfg = s.cfg := by unfold State.modPart; split <;> rfl
@[simp] theorem modPart_rackEpoch (p : PartId) (f : Part → Part) : (s.modPart p f).rackEpoch = s.rackEpoch := by unfold State.modPart; split <;> rfl
@[simp] theorem modPart_rackEpochHigh (p : PartId) (f : Part → Part) : (s.modPart p f).rackEpochHigh = s.rackEpochHigh := by unfold State.modPart; split <;> rfl
@[simp] theorem modPart_hbm (p : PartId) (f : Part → Part) : (s.modPart p f).hbm = s.hbm := by unfold State.modPart; split <;> rfl
@[simp] theorem modPart_bufs (p : PartId) (f : Part → Part) : (s.modPart p f).bufs = s.bufs := by unfold State.modPart; split <;> rfl
@[simp] theorem modPart_sram (p : PartId) (f : Part → Part) : (s.modPart p f).sram = s.sram := by unfold State.modPart; split <;> rfl
@[simp] theorem modPart_acc (p : PartId) (f : Part → Part) : (s.modPart p f).acc = s.acc := by unfold State.modPart; split <;> rfl
@[simp] theorem modPart_poison (p : PartId) (f : Part → Part) : (s.modPart p f).poison = s.poison := by unfold State.modPart; split <;> rfl
@[simp] theorem modPart_cells (p : PartId) (f : Part → Part) : (s.modPart p f).cells = s.cells := by unfold State.modPart; split <;> rfl
@[simp] theorem modPart_mesh (p : PartId) (f : Part → Part) : (s.modPart p f).mesh = s.mesh := by unfold State.modPart; split <;> rfl
@[simp] theorem modPart_waitIn (p : PartId) (f : Part → Part) : (s.modPart p f).waitIn = s.waitIn := by unfold State.modPart; split <;> rfl
@[simp] theorem modPart_deadbolts (p : PartId) (f : Part → Part) : (s.modPart p f).deadbolts = s.deadbolts := by unfold State.modPart; split <;> rfl
@[simp] theorem modPart_chips (p : PartId) (f : Part → Part) : (s.modPart p f).chips = s.chips := by unfold State.modPart; split <;> rfl
@[simp] theorem modPart_quads (p : PartId) (f : Part → Part) : (s.modPart p f).quads = s.quads := by unfold State.modPart; split <;> rfl
@[simp] theorem modPart_links (p : PartId) (f : Part → Part) : (s.modPart p f).links = s.links := by unfold State.modPart; split <;> rfl
@[simp] theorem modPart_sends (p : PartId) (f : Part → Part) : (s.modPart p f).sends = s.sends := by unfold State.modPart; split <;> rfl
@[simp] theorem modPart_landings (p : PartId) (f : Part → Part) : (s.modPart p f).landings = s.landings := by unfold State.modPart; split <;> rfl
@[simp] theorem modPart_laneNext (p : PartId) (f : Part → Part) : (s.modPart p f).laneNext = s.laneNext := by unfold State.modPart; split <;> rfl
@[simp] theorem modPart_accept (p : PartId) (f : Part → Part) : (s.modPart p f).accept = s.accept := by unfold State.modPart; split <;> rfl
@[simp] theorem modPart_place (p : PartId) (f : Part → Part) : (s.modPart p f).place = s.place := by unfold State.modPart; split <;> rfl
@[simp] theorem modPart_kr (p : PartId) (f : Part → Part) : (s.modPart p f).kr = s.kr := by unfold State.modPart; split <;> rfl
@[simp] theorem modPart_sw (p : PartId) (f : Part → Part) : (s.modPart p f).sw = s.sw := by unfold State.modPart; split <;> rfl
@[simp] theorem modPart_chan (p : PartId) (f : Part → Part) : (s.modPart p f).chan = s.chan := by unfold State.modPart; split <;> rfl
@[simp] theorem modPart_shelf (p : PartId) (f : Part → Part) : (s.modPart p f).shelf = s.shelf := by unfold State.modPart; split <;> rfl
@[simp] theorem modPart_batt (p : PartId) (f : Part → Part) : (s.modPart p f).batt = s.batt := by unfold State.modPart; split <;> rfl
@[simp] theorem modPart_pw (p : PartId) (f : Part → Part) : (s.modPart p f).pw = s.pw := by unfold State.modPart; split <;> rfl
@[simp] theorem modPart_meter (p : PartId) (f : Part → Part) : (s.modPart p f).meter = s.meter := by unfold State.modPart; split <;> rfl
@[simp] theorem modPart_trays (p : PartId) (f : Part → Part) : (s.modPart p f).trays = s.trays := by unfold State.modPart; split <;> rfl
@[simp] theorem modPart_rackLeak (p : PartId) (f : Part → Part) : (s.modPart p f).rackLeak = s.rackLeak := by unfold State.modPart; split <;> rfl
@[simp] theorem modPart_leakContact (p : PartId) (f : Part → Part) : (s.modPart p f).leakContact = s.leakContact := by unfold State.modPart; split <;> rfl
@[simp] theorem modPart_rmu (p : PartId) (f : Part → Part) : (s.modPart p f).rmu = s.rmu := by unfold State.modPart; split <;> rfl
@[simp] theorem modPart_resetReqs (p : PartId) (f : Part → Part) : (s.modPart p f).resetReqs = s.resetReqs := by unfold State.modPart; split <;> rfl
@[simp] theorem modPart_resets (p : PartId) (f : Part → Part) : (s.modPart p f).resets = s.resets := by unfold State.modPart; split <;> rfl
@[simp] theorem modPart_windows (p : PartId) (f : Part → Part) : (s.modPart p f).windows = s.windows := by unfold State.modPart; split <;> rfl
@[simp] theorem modPart_retry5 (p : PartId) (f : Part → Part) : (s.modPart p f).retry5 = s.retry5 := by unfold State.modPart; split <;> rfl
@[simp] theorem modPart_lockedChips (p : PartId) (f : Part → Part) : (s.modPart p f).lockedChips = s.lockedChips := by unfold State.modPart; split <;> rfl
@[simp] theorem modPart_lockedTrays (p : PartId) (f : Part → Part) : (s.modPart p f).lockedTrays = s.lockedTrays := by unfold State.modPart; split <;> rfl
@[simp] theorem modPart_serviceDue (p : PartId) (f : Part → Part) : (s.modPart p f).serviceDue = s.serviceDue := by unfold State.modPart; split <;> rfl
@[simp] theorem modPart_turn (p : PartId) (f : Part → Part) : (s.modPart p f).turn = s.turn := by unfold State.modPart; split <;> rfl
@[simp] theorem modPart_partTurns (p : PartId) (f : Part → Part) : (s.modPart p f).partTurns = s.partTurns := by unfold State.modPart; split <;> rfl
@[simp] theorem modPart_ready (p : PartId) (f : Part → Part) : (s.modPart p f).ready = s.ready := by unfold State.modPart; split <;> rfl
@[simp] theorem modPart_rejectedEnds (p : PartId) (f : Part → Part) : (s.modPart p f).rejectedEnds = s.rejectedEnds := by unfold State.modPart; split <;> rfl
@[simp] theorem modPart_mismatched (p : PartId) (f : Part → Part) : (s.modPart p f).mismatched = s.mismatched := by unfold State.modPart; split <;> rfl
@[simp] theorem modPart_unplaced (p : PartId) (f : Part → Part) : (s.modPart p f).unplaced = s.unplaced := by unfold State.modPart; split <;> rfl

/-! `modEp` -/

@[simp] theorem modEp_pending (e : Ep) (f : Keyway → Keyway) : (s.modEp e f).pending = s.pending := by cases e <;> rfl
@[simp] theorem modEp_out (e : Ep) (f : Keyway → Keyway) : (s.modEp e f).out = s.out := by cases e <;> rfl
@[simp] theorem modEp_fresh (e : Ep) (f : Keyway → Keyway) : (s.modEp e f).fresh = s.fresh := by cases e <;> rfl
@[simp] theorem modEp_clk (e : Ep) (f : Keyway → Keyway) : (s.modEp e f).clk = s.clk := by cases e <;> rfl
@[simp] theorem modEp_ports (e : Ep) (f : Keyway → Keyway) : (s.modEp e f).ports = s.ports := by cases e <;> rfl
@[simp] theorem modEp_mgmtDrops (e : Ep) (f : Keyway → Keyway) : (s.modEp e f).mgmtDrops = s.mgmtDrops := by cases e <;> rfl
@[simp] theorem modEp_rateCuts (e : Ep) (f : Keyway → Keyway) : (s.modEp e f).rateCuts = s.rateCuts := by cases e <;> rfl
@[simp] theorem modEp_ops (e : Ep) (f : Keyway → Keyway) : (s.modEp e f).ops = s.ops := by cases e <;> rfl
@[simp] theorem modEp_nextOp (e : Ep) (f : Keyway → Keyway) : (s.modEp e f).nextOp = s.nextOp := by cases e <;> rfl
@[simp] theorem modEp_lookups (e : Ep) (f : Keyway → Keyway) : (s.modEp e f).lookups = s.lookups := by cases e <;> rfl
@[simp] theorem modEp_reqs (e : Ep) (f : Keyway → Keyway) : (s.modEp e f).reqs = s.reqs := by cases e <;> rfl
@[simp] theorem modEp_cfg (e : Ep) (f : Keyway → Keyway) : (s.modEp e f).cfg = s.cfg := by cases e <;> rfl
@[simp] theorem modEp_rackEpoch (e : Ep) (f : Keyway → Keyway) : (s.modEp e f).rackEpoch = s.rackEpoch := by cases e <;> rfl
@[simp] theorem modEp_rackEpochHigh (e : Ep) (f : Keyway → Keyway) : (s.modEp e f).rackEpochHigh = s.rackEpochHigh := by cases e <;> rfl
@[simp] theorem modEp_parts (e : Ep) (f : Keyway → Keyway) : (s.modEp e f).parts = s.parts := by cases e <;> rfl
@[simp] theorem modEp_hbm (e : Ep) (f : Keyway → Keyway) : (s.modEp e f).hbm = s.hbm := by cases e <;> rfl
@[simp] theorem modEp_bufs (e : Ep) (f : Keyway → Keyway) : (s.modEp e f).bufs = s.bufs := by cases e <;> rfl
@[simp] theorem modEp_sram (e : Ep) (f : Keyway → Keyway) : (s.modEp e f).sram = s.sram := by cases e <;> rfl
@[simp] theorem modEp_acc (e : Ep) (f : Keyway → Keyway) : (s.modEp e f).acc = s.acc := by cases e <;> rfl
@[simp] theorem modEp_poison (e : Ep) (f : Keyway → Keyway) : (s.modEp e f).poison = s.poison := by cases e <;> rfl
@[simp] theorem modEp_cells (e : Ep) (f : Keyway → Keyway) : (s.modEp e f).cells = s.cells := by cases e <;> rfl
@[simp] theorem modEp_mesh (e : Ep) (f : Keyway → Keyway) : (s.modEp e f).mesh = s.mesh := by cases e <;> rfl
@[simp] theorem modEp_waitIn (e : Ep) (f : Keyway → Keyway) : (s.modEp e f).waitIn = s.waitIn := by cases e <;> rfl
@[simp] theorem modEp_deadbolts (e : Ep) (f : Keyway → Keyway) : (s.modEp e f).deadbolts = s.deadbolts := by cases e <;> rfl
@[simp] theorem modEp_chips (e : Ep) (f : Keyway → Keyway) : (s.modEp e f).chips = s.chips := by cases e <;> rfl
@[simp] theorem modEp_quads (e : Ep) (f : Keyway → Keyway) : (s.modEp e f).quads = s.quads := by cases e <;> rfl
@[simp] theorem modEp_links (e : Ep) (f : Keyway → Keyway) : (s.modEp e f).links = s.links := by cases e <;> rfl
@[simp] theorem modEp_sends (e : Ep) (f : Keyway → Keyway) : (s.modEp e f).sends = s.sends := by cases e <;> rfl
@[simp] theorem modEp_landings (e : Ep) (f : Keyway → Keyway) : (s.modEp e f).landings = s.landings := by cases e <;> rfl
@[simp] theorem modEp_laneNext (e : Ep) (f : Keyway → Keyway) : (s.modEp e f).laneNext = s.laneNext := by cases e <;> rfl
@[simp] theorem modEp_accept (e : Ep) (f : Keyway → Keyway) : (s.modEp e f).accept = s.accept := by cases e <;> rfl
@[simp] theorem modEp_place (e : Ep) (f : Keyway → Keyway) : (s.modEp e f).place = s.place := by cases e <;> rfl
@[simp] theorem modEp_kr (e : Ep) (f : Keyway → Keyway) : (s.modEp e f).kr = s.kr := by cases e <;> rfl
@[simp] theorem modEp_sw (e : Ep) (f : Keyway → Keyway) : (s.modEp e f).sw = s.sw := by cases e <;> rfl
@[simp] theorem modEp_chan (e : Ep) (f : Keyway → Keyway) : (s.modEp e f).chan = s.chan := by cases e <;> rfl
@[simp] theorem modEp_shelf (e : Ep) (f : Keyway → Keyway) : (s.modEp e f).shelf = s.shelf := by cases e <;> rfl
@[simp] theorem modEp_batt (e : Ep) (f : Keyway → Keyway) : (s.modEp e f).batt = s.batt := by cases e <;> rfl
@[simp] theorem modEp_pw (e : Ep) (f : Keyway → Keyway) : (s.modEp e f).pw = s.pw := by cases e <;> rfl
@[simp] theorem modEp_meter (e : Ep) (f : Keyway → Keyway) : (s.modEp e f).meter = s.meter := by cases e <;> rfl
@[simp] theorem modEp_trays (e : Ep) (f : Keyway → Keyway) : (s.modEp e f).trays = s.trays := by cases e <;> rfl
@[simp] theorem modEp_rackLeak (e : Ep) (f : Keyway → Keyway) : (s.modEp e f).rackLeak = s.rackLeak := by cases e <;> rfl
@[simp] theorem modEp_leakContact (e : Ep) (f : Keyway → Keyway) : (s.modEp e f).leakContact = s.leakContact := by cases e <;> rfl
@[simp] theorem modEp_rmu (e : Ep) (f : Keyway → Keyway) : (s.modEp e f).rmu = s.rmu := by cases e <;> rfl
@[simp] theorem modEp_resetReqs (e : Ep) (f : Keyway → Keyway) : (s.modEp e f).resetReqs = s.resetReqs := by cases e <;> rfl
@[simp] theorem modEp_resets (e : Ep) (f : Keyway → Keyway) : (s.modEp e f).resets = s.resets := by cases e <;> rfl
@[simp] theorem modEp_windows (e : Ep) (f : Keyway → Keyway) : (s.modEp e f).windows = s.windows := by cases e <;> rfl
@[simp] theorem modEp_retry5 (e : Ep) (f : Keyway → Keyway) : (s.modEp e f).retry5 = s.retry5 := by cases e <;> rfl
@[simp] theorem modEp_lockedChips (e : Ep) (f : Keyway → Keyway) : (s.modEp e f).lockedChips = s.lockedChips := by cases e <;> rfl
@[simp] theorem modEp_lockedTrays (e : Ep) (f : Keyway → Keyway) : (s.modEp e f).lockedTrays = s.lockedTrays := by cases e <;> rfl
@[simp] theorem modEp_serviceDue (e : Ep) (f : Keyway → Keyway) : (s.modEp e f).serviceDue = s.serviceDue := by cases e <;> rfl
@[simp] theorem modEp_turn (e : Ep) (f : Keyway → Keyway) : (s.modEp e f).turn = s.turn := by cases e <;> rfl
@[simp] theorem modEp_partTurns (e : Ep) (f : Keyway → Keyway) : (s.modEp e f).partTurns = s.partTurns := by cases e <;> rfl
@[simp] theorem modEp_ready (e : Ep) (f : Keyway → Keyway) : (s.modEp e f).ready = s.ready := by cases e <;> rfl
@[simp] theorem modEp_rejectedEnds (e : Ep) (f : Keyway → Keyway) : (s.modEp e f).rejectedEnds = s.rejectedEnds := by cases e <;> rfl
@[simp] theorem modEp_mismatched (e : Ep) (f : Keyway → Keyway) : (s.modEp e f).mismatched = s.mismatched := by cases e <;> rfl
@[simp] theorem modEp_unplaced (e : Ep) (f : Keyway → Keyway) : (s.modEp e f).unplaced = s.unplaced := by cases e <;> rfl

/-! `modKw` -/

@[simp] theorem modKw_pending (k : KwId) (f : Keyway → Keyway) : (s.modKw k f).pending = s.pending := rfl
@[simp] theorem modKw_out (k : KwId) (f : Keyway → Keyway) : (s.modKw k f).out = s.out := rfl
@[simp] theorem modKw_fresh (k : KwId) (f : Keyway → Keyway) : (s.modKw k f).fresh = s.fresh := rfl
@[simp] theorem modKw_clk (k : KwId) (f : Keyway → Keyway) : (s.modKw k f).clk = s.clk := rfl
@[simp] theorem modKw_ports (k : KwId) (f : Keyway → Keyway) : (s.modKw k f).ports = s.ports := rfl
@[simp] theorem modKw_mgmtDrops (k : KwId) (f : Keyway → Keyway) : (s.modKw k f).mgmtDrops = s.mgmtDrops := rfl
@[simp] theorem modKw_rateCuts (k : KwId) (f : Keyway → Keyway) : (s.modKw k f).rateCuts = s.rateCuts := rfl
@[simp] theorem modKw_opr (k : KwId) (f : Keyway → Keyway) : (s.modKw k f).opr = s.opr := rfl
@[simp] theorem modKw_ops (k : KwId) (f : Keyway → Keyway) : (s.modKw k f).ops = s.ops := rfl
@[simp] theorem modKw_nextOp (k : KwId) (f : Keyway → Keyway) : (s.modKw k f).nextOp = s.nextOp := rfl
@[simp] theorem modKw_lookups (k : KwId) (f : Keyway → Keyway) : (s.modKw k f).lookups = s.lookups := rfl
@[simp] theorem modKw_reqs (k : KwId) (f : Keyway → Keyway) : (s.modKw k f).reqs = s.reqs := rfl
@[simp] theorem modKw_cfg (k : KwId) (f : Keyway → Keyway) : (s.modKw k f).cfg = s.cfg := rfl
@[simp] theorem modKw_rackEpoch (k : KwId) (f : Keyway → Keyway) : (s.modKw k f).rackEpoch = s.rackEpoch := rfl
@[simp] theorem modKw_rackEpochHigh (k : KwId) (f : Keyway → Keyway) : (s.modKw k f).rackEpochHigh = s.rackEpochHigh := rfl
@[simp] theorem modKw_parts (k : KwId) (f : Keyway → Keyway) : (s.modKw k f).parts = s.parts := rfl
@[simp] theorem modKw_hbm (k : KwId) (f : Keyway → Keyway) : (s.modKw k f).hbm = s.hbm := rfl
@[simp] theorem modKw_bufs (k : KwId) (f : Keyway → Keyway) : (s.modKw k f).bufs = s.bufs := rfl
@[simp] theorem modKw_sram (k : KwId) (f : Keyway → Keyway) : (s.modKw k f).sram = s.sram := rfl
@[simp] theorem modKw_acc (k : KwId) (f : Keyway → Keyway) : (s.modKw k f).acc = s.acc := rfl
@[simp] theorem modKw_poison (k : KwId) (f : Keyway → Keyway) : (s.modKw k f).poison = s.poison := rfl
@[simp] theorem modKw_cells (k : KwId) (f : Keyway → Keyway) : (s.modKw k f).cells = s.cells := rfl
@[simp] theorem modKw_mesh (k : KwId) (f : Keyway → Keyway) : (s.modKw k f).mesh = s.mesh := rfl
@[simp] theorem modKw_waitIn (k : KwId) (f : Keyway → Keyway) : (s.modKw k f).waitIn = s.waitIn := rfl
@[simp] theorem modKw_deadbolts (k : KwId) (f : Keyway → Keyway) : (s.modKw k f).deadbolts = s.deadbolts := rfl
@[simp] theorem modKw_chips (k : KwId) (f : Keyway → Keyway) : (s.modKw k f).chips = s.chips := rfl
@[simp] theorem modKw_quads (k : KwId) (f : Keyway → Keyway) : (s.modKw k f).quads = s.quads := rfl
@[simp] theorem modKw_links (k : KwId) (f : Keyway → Keyway) : (s.modKw k f).links = s.links := rfl
@[simp] theorem modKw_sends (k : KwId) (f : Keyway → Keyway) : (s.modKw k f).sends = s.sends := rfl
@[simp] theorem modKw_landings (k : KwId) (f : Keyway → Keyway) : (s.modKw k f).landings = s.landings := rfl
@[simp] theorem modKw_laneNext (k : KwId) (f : Keyway → Keyway) : (s.modKw k f).laneNext = s.laneNext := rfl
@[simp] theorem modKw_accept (k : KwId) (f : Keyway → Keyway) : (s.modKw k f).accept = s.accept := rfl
@[simp] theorem modKw_place (k : KwId) (f : Keyway → Keyway) : (s.modKw k f).place = s.place := rfl
@[simp] theorem modKw_kr (k : KwId) (f : Keyway → Keyway) : (s.modKw k f).kr = s.kr := rfl
@[simp] theorem modKw_sw (k : KwId) (f : Keyway → Keyway) : (s.modKw k f).sw = s.sw := rfl
@[simp] theorem modKw_chan (k : KwId) (f : Keyway → Keyway) : (s.modKw k f).chan = s.chan := rfl
@[simp] theorem modKw_shelf (k : KwId) (f : Keyway → Keyway) : (s.modKw k f).shelf = s.shelf := rfl
@[simp] theorem modKw_batt (k : KwId) (f : Keyway → Keyway) : (s.modKw k f).batt = s.batt := rfl
@[simp] theorem modKw_pw (k : KwId) (f : Keyway → Keyway) : (s.modKw k f).pw = s.pw := rfl
@[simp] theorem modKw_meter (k : KwId) (f : Keyway → Keyway) : (s.modKw k f).meter = s.meter := rfl
@[simp] theorem modKw_trays (k : KwId) (f : Keyway → Keyway) : (s.modKw k f).trays = s.trays := rfl
@[simp] theorem modKw_rackLeak (k : KwId) (f : Keyway → Keyway) : (s.modKw k f).rackLeak = s.rackLeak := rfl
@[simp] theorem modKw_leakContact (k : KwId) (f : Keyway → Keyway) : (s.modKw k f).leakContact = s.leakContact := rfl
@[simp] theorem modKw_rmu (k : KwId) (f : Keyway → Keyway) : (s.modKw k f).rmu = s.rmu := rfl
@[simp] theorem modKw_resetReqs (k : KwId) (f : Keyway → Keyway) : (s.modKw k f).resetReqs = s.resetReqs := rfl
@[simp] theorem modKw_resets (k : KwId) (f : Keyway → Keyway) : (s.modKw k f).resets = s.resets := rfl
@[simp] theorem modKw_windows (k : KwId) (f : Keyway → Keyway) : (s.modKw k f).windows = s.windows := rfl
@[simp] theorem modKw_retry5 (k : KwId) (f : Keyway → Keyway) : (s.modKw k f).retry5 = s.retry5 := rfl
@[simp] theorem modKw_lockedChips (k : KwId) (f : Keyway → Keyway) : (s.modKw k f).lockedChips = s.lockedChips := rfl
@[simp] theorem modKw_lockedTrays (k : KwId) (f : Keyway → Keyway) : (s.modKw k f).lockedTrays = s.lockedTrays := rfl
@[simp] theorem modKw_serviceDue (k : KwId) (f : Keyway → Keyway) : (s.modKw k f).serviceDue = s.serviceDue := rfl
@[simp] theorem modKw_turn (k : KwId) (f : Keyway → Keyway) : (s.modKw k f).turn = s.turn := rfl
@[simp] theorem modKw_partTurns (k : KwId) (f : Keyway → Keyway) : (s.modKw k f).partTurns = s.partTurns := rfl
@[simp] theorem modKw_ready (k : KwId) (f : Keyway → Keyway) : (s.modKw k f).ready = s.ready := rfl
@[simp] theorem modKw_rejectedEnds (k : KwId) (f : Keyway → Keyway) : (s.modKw k f).rejectedEnds = s.rejectedEnds := rfl
@[simp] theorem modKw_mismatched (k : KwId) (f : Keyway → Keyway) : (s.modKw k f).mismatched = s.mismatched := rfl
@[simp] theorem modKw_unplaced (k : KwId) (f : Keyway → Keyway) : (s.modKw k f).unplaced = s.unplaced := rfl

/-! `modSession` -/

@[simp] theorem modSession_pending (e : Ep) (n : SessRef) (f : Session → Session) : (s.modSession e n f).pending = s.pending := by cases e <;> rfl
@[simp] theorem modSession_out (e : Ep) (n : SessRef) (f : Session → Session) : (s.modSession e n f).out = s.out := by cases e <;> rfl
@[simp] theorem modSession_fresh (e : Ep) (n : SessRef) (f : Session → Session) : (s.modSession e n f).fresh = s.fresh := by cases e <;> rfl
@[simp] theorem modSession_clk (e : Ep) (n : SessRef) (f : Session → Session) : (s.modSession e n f).clk = s.clk := by cases e <;> rfl
@[simp] theorem modSession_ports (e : Ep) (n : SessRef) (f : Session → Session) : (s.modSession e n f).ports = s.ports := by cases e <;> rfl
@[simp] theorem modSession_mgmtDrops (e : Ep) (n : SessRef) (f : Session → Session) : (s.modSession e n f).mgmtDrops = s.mgmtDrops := by cases e <;> rfl
@[simp] theorem modSession_rateCuts (e : Ep) (n : SessRef) (f : Session → Session) : (s.modSession e n f).rateCuts = s.rateCuts := by cases e <;> rfl
@[simp] theorem modSession_ops (e : Ep) (n : SessRef) (f : Session → Session) : (s.modSession e n f).ops = s.ops := by cases e <;> rfl
@[simp] theorem modSession_nextOp (e : Ep) (n : SessRef) (f : Session → Session) : (s.modSession e n f).nextOp = s.nextOp := by cases e <;> rfl
@[simp] theorem modSession_lookups (e : Ep) (n : SessRef) (f : Session → Session) : (s.modSession e n f).lookups = s.lookups := by cases e <;> rfl
@[simp] theorem modSession_reqs (e : Ep) (n : SessRef) (f : Session → Session) : (s.modSession e n f).reqs = s.reqs := by cases e <;> rfl
@[simp] theorem modSession_cfg (e : Ep) (n : SessRef) (f : Session → Session) : (s.modSession e n f).cfg = s.cfg := by cases e <;> rfl
@[simp] theorem modSession_rackEpoch (e : Ep) (n : SessRef) (f : Session → Session) : (s.modSession e n f).rackEpoch = s.rackEpoch := by cases e <;> rfl
@[simp] theorem modSession_rackEpochHigh (e : Ep) (n : SessRef) (f : Session → Session) : (s.modSession e n f).rackEpochHigh = s.rackEpochHigh := by cases e <;> rfl
@[simp] theorem modSession_parts (e : Ep) (n : SessRef) (f : Session → Session) : (s.modSession e n f).parts = s.parts := by cases e <;> rfl
@[simp] theorem modSession_hbm (e : Ep) (n : SessRef) (f : Session → Session) : (s.modSession e n f).hbm = s.hbm := by cases e <;> rfl
@[simp] theorem modSession_bufs (e : Ep) (n : SessRef) (f : Session → Session) : (s.modSession e n f).bufs = s.bufs := by cases e <;> rfl
@[simp] theorem modSession_sram (e : Ep) (n : SessRef) (f : Session → Session) : (s.modSession e n f).sram = s.sram := by cases e <;> rfl
@[simp] theorem modSession_acc (e : Ep) (n : SessRef) (f : Session → Session) : (s.modSession e n f).acc = s.acc := by cases e <;> rfl
@[simp] theorem modSession_poison (e : Ep) (n : SessRef) (f : Session → Session) : (s.modSession e n f).poison = s.poison := by cases e <;> rfl
@[simp] theorem modSession_cells (e : Ep) (n : SessRef) (f : Session → Session) : (s.modSession e n f).cells = s.cells := by cases e <;> rfl
@[simp] theorem modSession_mesh (e : Ep) (n : SessRef) (f : Session → Session) : (s.modSession e n f).mesh = s.mesh := by cases e <;> rfl
@[simp] theorem modSession_waitIn (e : Ep) (n : SessRef) (f : Session → Session) : (s.modSession e n f).waitIn = s.waitIn := by cases e <;> rfl
@[simp] theorem modSession_deadbolts (e : Ep) (n : SessRef) (f : Session → Session) : (s.modSession e n f).deadbolts = s.deadbolts := by cases e <;> rfl
@[simp] theorem modSession_chips (e : Ep) (n : SessRef) (f : Session → Session) : (s.modSession e n f).chips = s.chips := by cases e <;> rfl
@[simp] theorem modSession_quads (e : Ep) (n : SessRef) (f : Session → Session) : (s.modSession e n f).quads = s.quads := by cases e <;> rfl
@[simp] theorem modSession_links (e : Ep) (n : SessRef) (f : Session → Session) : (s.modSession e n f).links = s.links := by cases e <;> rfl
@[simp] theorem modSession_sends (e : Ep) (n : SessRef) (f : Session → Session) : (s.modSession e n f).sends = s.sends := by cases e <;> rfl
@[simp] theorem modSession_landings (e : Ep) (n : SessRef) (f : Session → Session) : (s.modSession e n f).landings = s.landings := by cases e <;> rfl
@[simp] theorem modSession_laneNext (e : Ep) (n : SessRef) (f : Session → Session) : (s.modSession e n f).laneNext = s.laneNext := by cases e <;> rfl
@[simp] theorem modSession_accept (e : Ep) (n : SessRef) (f : Session → Session) : (s.modSession e n f).accept = s.accept := by cases e <;> rfl
@[simp] theorem modSession_place (e : Ep) (n : SessRef) (f : Session → Session) : (s.modSession e n f).place = s.place := by cases e <;> rfl
@[simp] theorem modSession_kr (e : Ep) (n : SessRef) (f : Session → Session) : (s.modSession e n f).kr = s.kr := by cases e <;> rfl
@[simp] theorem modSession_sw (e : Ep) (n : SessRef) (f : Session → Session) : (s.modSession e n f).sw = s.sw := by cases e <;> rfl
@[simp] theorem modSession_chan (e : Ep) (n : SessRef) (f : Session → Session) : (s.modSession e n f).chan = s.chan := by cases e <;> rfl
@[simp] theorem modSession_shelf (e : Ep) (n : SessRef) (f : Session → Session) : (s.modSession e n f).shelf = s.shelf := by cases e <;> rfl
@[simp] theorem modSession_batt (e : Ep) (n : SessRef) (f : Session → Session) : (s.modSession e n f).batt = s.batt := by cases e <;> rfl
@[simp] theorem modSession_pw (e : Ep) (n : SessRef) (f : Session → Session) : (s.modSession e n f).pw = s.pw := by cases e <;> rfl
@[simp] theorem modSession_meter (e : Ep) (n : SessRef) (f : Session → Session) : (s.modSession e n f).meter = s.meter := by cases e <;> rfl
@[simp] theorem modSession_trays (e : Ep) (n : SessRef) (f : Session → Session) : (s.modSession e n f).trays = s.trays := by cases e <;> rfl
@[simp] theorem modSession_rackLeak (e : Ep) (n : SessRef) (f : Session → Session) : (s.modSession e n f).rackLeak = s.rackLeak := by cases e <;> rfl
@[simp] theorem modSession_leakContact (e : Ep) (n : SessRef) (f : Session → Session) : (s.modSession e n f).leakContact = s.leakContact := by cases e <;> rfl
@[simp] theorem modSession_rmu (e : Ep) (n : SessRef) (f : Session → Session) : (s.modSession e n f).rmu = s.rmu := by cases e <;> rfl
@[simp] theorem modSession_resetReqs (e : Ep) (n : SessRef) (f : Session → Session) : (s.modSession e n f).resetReqs = s.resetReqs := by cases e <;> rfl
@[simp] theorem modSession_resets (e : Ep) (n : SessRef) (f : Session → Session) : (s.modSession e n f).resets = s.resets := by cases e <;> rfl
@[simp] theorem modSession_windows (e : Ep) (n : SessRef) (f : Session → Session) : (s.modSession e n f).windows = s.windows := by cases e <;> rfl
@[simp] theorem modSession_retry5 (e : Ep) (n : SessRef) (f : Session → Session) : (s.modSession e n f).retry5 = s.retry5 := by cases e <;> rfl
@[simp] theorem modSession_lockedChips (e : Ep) (n : SessRef) (f : Session → Session) : (s.modSession e n f).lockedChips = s.lockedChips := by cases e <;> rfl
@[simp] theorem modSession_lockedTrays (e : Ep) (n : SessRef) (f : Session → Session) : (s.modSession e n f).lockedTrays = s.lockedTrays := by cases e <;> rfl
@[simp] theorem modSession_serviceDue (e : Ep) (n : SessRef) (f : Session → Session) : (s.modSession e n f).serviceDue = s.serviceDue := by cases e <;> rfl
@[simp] theorem modSession_turn (e : Ep) (n : SessRef) (f : Session → Session) : (s.modSession e n f).turn = s.turn := by cases e <;> rfl
@[simp] theorem modSession_partTurns (e : Ep) (n : SessRef) (f : Session → Session) : (s.modSession e n f).partTurns = s.partTurns := by cases e <;> rfl
@[simp] theorem modSession_ready (e : Ep) (n : SessRef) (f : Session → Session) : (s.modSession e n f).ready = s.ready := by cases e <;> rfl
@[simp] theorem modSession_rejectedEnds (e : Ep) (n : SessRef) (f : Session → Session) : (s.modSession e n f).rejectedEnds = s.rejectedEnds := by cases e <;> rfl
@[simp] theorem modSession_mismatched (e : Ep) (n : SessRef) (f : Session → Session) : (s.modSession e n f).mismatched = s.mismatched := by cases e <;> rfl
@[simp] theorem modSession_unplaced (e : Ep) (n : SessRef) (f : Session → Session) : (s.modSession e n f).unplaced = s.unplaced := by cases e <;> rfl

/-! `modChip` -/

@[simp] theorem modChip_pending (n : ChipId) (f : Chip → Chip) : (s.modChip n f).pending = s.pending := rfl
@[simp] theorem modChip_out (n : ChipId) (f : Chip → Chip) : (s.modChip n f).out = s.out := rfl
@[simp] theorem modChip_fresh (n : ChipId) (f : Chip → Chip) : (s.modChip n f).fresh = s.fresh := rfl
@[simp] theorem modChip_clk (n : ChipId) (f : Chip → Chip) : (s.modChip n f).clk = s.clk := rfl
@[simp] theorem modChip_ports (n : ChipId) (f : Chip → Chip) : (s.modChip n f).ports = s.ports := rfl
@[simp] theorem modChip_mgmtDrops (n : ChipId) (f : Chip → Chip) : (s.modChip n f).mgmtDrops = s.mgmtDrops := rfl
@[simp] theorem modChip_rateCuts (n : ChipId) (f : Chip → Chip) : (s.modChip n f).rateCuts = s.rateCuts := rfl
@[simp] theorem modChip_kws (n : ChipId) (f : Chip → Chip) : (s.modChip n f).kws = s.kws := rfl
@[simp] theorem modChip_opr (n : ChipId) (f : Chip → Chip) : (s.modChip n f).opr = s.opr := rfl
@[simp] theorem modChip_ops (n : ChipId) (f : Chip → Chip) : (s.modChip n f).ops = s.ops := rfl
@[simp] theorem modChip_nextOp (n : ChipId) (f : Chip → Chip) : (s.modChip n f).nextOp = s.nextOp := rfl
@[simp] theorem modChip_lookups (n : ChipId) (f : Chip → Chip) : (s.modChip n f).lookups = s.lookups := rfl
@[simp] theorem modChip_reqs (n : ChipId) (f : Chip → Chip) : (s.modChip n f).reqs = s.reqs := rfl
@[simp] theorem modChip_cfg (n : ChipId) (f : Chip → Chip) : (s.modChip n f).cfg = s.cfg := rfl
@[simp] theorem modChip_rackEpoch (n : ChipId) (f : Chip → Chip) : (s.modChip n f).rackEpoch = s.rackEpoch := rfl
@[simp] theorem modChip_rackEpochHigh (n : ChipId) (f : Chip → Chip) : (s.modChip n f).rackEpochHigh = s.rackEpochHigh := rfl
@[simp] theorem modChip_parts (n : ChipId) (f : Chip → Chip) : (s.modChip n f).parts = s.parts := rfl
@[simp] theorem modChip_hbm (n : ChipId) (f : Chip → Chip) : (s.modChip n f).hbm = s.hbm := rfl
@[simp] theorem modChip_bufs (n : ChipId) (f : Chip → Chip) : (s.modChip n f).bufs = s.bufs := rfl
@[simp] theorem modChip_sram (n : ChipId) (f : Chip → Chip) : (s.modChip n f).sram = s.sram := rfl
@[simp] theorem modChip_acc (n : ChipId) (f : Chip → Chip) : (s.modChip n f).acc = s.acc := rfl
@[simp] theorem modChip_poison (n : ChipId) (f : Chip → Chip) : (s.modChip n f).poison = s.poison := rfl
@[simp] theorem modChip_cells (n : ChipId) (f : Chip → Chip) : (s.modChip n f).cells = s.cells := rfl
@[simp] theorem modChip_mesh (n : ChipId) (f : Chip → Chip) : (s.modChip n f).mesh = s.mesh := rfl
@[simp] theorem modChip_waitIn (n : ChipId) (f : Chip → Chip) : (s.modChip n f).waitIn = s.waitIn := rfl
@[simp] theorem modChip_deadbolts (n : ChipId) (f : Chip → Chip) : (s.modChip n f).deadbolts = s.deadbolts := rfl
@[simp] theorem modChip_quads (n : ChipId) (f : Chip → Chip) : (s.modChip n f).quads = s.quads := rfl
@[simp] theorem modChip_links (n : ChipId) (f : Chip → Chip) : (s.modChip n f).links = s.links := rfl
@[simp] theorem modChip_sends (n : ChipId) (f : Chip → Chip) : (s.modChip n f).sends = s.sends := rfl
@[simp] theorem modChip_landings (n : ChipId) (f : Chip → Chip) : (s.modChip n f).landings = s.landings := rfl
@[simp] theorem modChip_laneNext (n : ChipId) (f : Chip → Chip) : (s.modChip n f).laneNext = s.laneNext := rfl
@[simp] theorem modChip_accept (n : ChipId) (f : Chip → Chip) : (s.modChip n f).accept = s.accept := rfl
@[simp] theorem modChip_place (n : ChipId) (f : Chip → Chip) : (s.modChip n f).place = s.place := rfl
@[simp] theorem modChip_kr (n : ChipId) (f : Chip → Chip) : (s.modChip n f).kr = s.kr := rfl
@[simp] theorem modChip_sw (n : ChipId) (f : Chip → Chip) : (s.modChip n f).sw = s.sw := rfl
@[simp] theorem modChip_chan (n : ChipId) (f : Chip → Chip) : (s.modChip n f).chan = s.chan := rfl
@[simp] theorem modChip_shelf (n : ChipId) (f : Chip → Chip) : (s.modChip n f).shelf = s.shelf := rfl
@[simp] theorem modChip_batt (n : ChipId) (f : Chip → Chip) : (s.modChip n f).batt = s.batt := rfl
@[simp] theorem modChip_pw (n : ChipId) (f : Chip → Chip) : (s.modChip n f).pw = s.pw := rfl
@[simp] theorem modChip_meter (n : ChipId) (f : Chip → Chip) : (s.modChip n f).meter = s.meter := rfl
@[simp] theorem modChip_trays (n : ChipId) (f : Chip → Chip) : (s.modChip n f).trays = s.trays := rfl
@[simp] theorem modChip_rackLeak (n : ChipId) (f : Chip → Chip) : (s.modChip n f).rackLeak = s.rackLeak := rfl
@[simp] theorem modChip_leakContact (n : ChipId) (f : Chip → Chip) : (s.modChip n f).leakContact = s.leakContact := rfl
@[simp] theorem modChip_rmu (n : ChipId) (f : Chip → Chip) : (s.modChip n f).rmu = s.rmu := rfl
@[simp] theorem modChip_resetReqs (n : ChipId) (f : Chip → Chip) : (s.modChip n f).resetReqs = s.resetReqs := rfl
@[simp] theorem modChip_resets (n : ChipId) (f : Chip → Chip) : (s.modChip n f).resets = s.resets := rfl
@[simp] theorem modChip_windows (n : ChipId) (f : Chip → Chip) : (s.modChip n f).windows = s.windows := rfl
@[simp] theorem modChip_retry5 (n : ChipId) (f : Chip → Chip) : (s.modChip n f).retry5 = s.retry5 := rfl
@[simp] theorem modChip_lockedChips (n : ChipId) (f : Chip → Chip) : (s.modChip n f).lockedChips = s.lockedChips := rfl
@[simp] theorem modChip_lockedTrays (n : ChipId) (f : Chip → Chip) : (s.modChip n f).lockedTrays = s.lockedTrays := rfl
@[simp] theorem modChip_serviceDue (n : ChipId) (f : Chip → Chip) : (s.modChip n f).serviceDue = s.serviceDue := rfl
@[simp] theorem modChip_turn (n : ChipId) (f : Chip → Chip) : (s.modChip n f).turn = s.turn := rfl
@[simp] theorem modChip_partTurns (n : ChipId) (f : Chip → Chip) : (s.modChip n f).partTurns = s.partTurns := rfl
@[simp] theorem modChip_ready (n : ChipId) (f : Chip → Chip) : (s.modChip n f).ready = s.ready := rfl
@[simp] theorem modChip_rejectedEnds (n : ChipId) (f : Chip → Chip) : (s.modChip n f).rejectedEnds = s.rejectedEnds := rfl
@[simp] theorem modChip_mismatched (n : ChipId) (f : Chip → Chip) : (s.modChip n f).mismatched = s.mismatched := rfl
@[simp] theorem modChip_unplaced (n : ChipId) (f : Chip → Chip) : (s.modChip n f).unplaced = s.unplaced := rfl

/-! `modQuad` -/

@[simp] theorem modQuad_pending (q : QuadId) (f : Quad → Quad) : (s.modQuad q f).pending = s.pending := rfl
@[simp] theorem modQuad_out (q : QuadId) (f : Quad → Quad) : (s.modQuad q f).out = s.out := rfl
@[simp] theorem modQuad_fresh (q : QuadId) (f : Quad → Quad) : (s.modQuad q f).fresh = s.fresh := rfl
@[simp] theorem modQuad_clk (q : QuadId) (f : Quad → Quad) : (s.modQuad q f).clk = s.clk := rfl
@[simp] theorem modQuad_ports (q : QuadId) (f : Quad → Quad) : (s.modQuad q f).ports = s.ports := rfl
@[simp] theorem modQuad_mgmtDrops (q : QuadId) (f : Quad → Quad) : (s.modQuad q f).mgmtDrops = s.mgmtDrops := rfl
@[simp] theorem modQuad_rateCuts (q : QuadId) (f : Quad → Quad) : (s.modQuad q f).rateCuts = s.rateCuts := rfl
@[simp] theorem modQuad_kws (q : QuadId) (f : Quad → Quad) : (s.modQuad q f).kws = s.kws := rfl
@[simp] theorem modQuad_opr (q : QuadId) (f : Quad → Quad) : (s.modQuad q f).opr = s.opr := rfl
@[simp] theorem modQuad_ops (q : QuadId) (f : Quad → Quad) : (s.modQuad q f).ops = s.ops := rfl
@[simp] theorem modQuad_nextOp (q : QuadId) (f : Quad → Quad) : (s.modQuad q f).nextOp = s.nextOp := rfl
@[simp] theorem modQuad_lookups (q : QuadId) (f : Quad → Quad) : (s.modQuad q f).lookups = s.lookups := rfl
@[simp] theorem modQuad_reqs (q : QuadId) (f : Quad → Quad) : (s.modQuad q f).reqs = s.reqs := rfl
@[simp] theorem modQuad_cfg (q : QuadId) (f : Quad → Quad) : (s.modQuad q f).cfg = s.cfg := rfl
@[simp] theorem modQuad_rackEpoch (q : QuadId) (f : Quad → Quad) : (s.modQuad q f).rackEpoch = s.rackEpoch := rfl
@[simp] theorem modQuad_rackEpochHigh (q : QuadId) (f : Quad → Quad) : (s.modQuad q f).rackEpochHigh = s.rackEpochHigh := rfl
@[simp] theorem modQuad_parts (q : QuadId) (f : Quad → Quad) : (s.modQuad q f).parts = s.parts := rfl
@[simp] theorem modQuad_hbm (q : QuadId) (f : Quad → Quad) : (s.modQuad q f).hbm = s.hbm := rfl
@[simp] theorem modQuad_bufs (q : QuadId) (f : Quad → Quad) : (s.modQuad q f).bufs = s.bufs := rfl
@[simp] theorem modQuad_sram (q : QuadId) (f : Quad → Quad) : (s.modQuad q f).sram = s.sram := rfl
@[simp] theorem modQuad_acc (q : QuadId) (f : Quad → Quad) : (s.modQuad q f).acc = s.acc := rfl
@[simp] theorem modQuad_poison (q : QuadId) (f : Quad → Quad) : (s.modQuad q f).poison = s.poison := rfl
@[simp] theorem modQuad_cells (q : QuadId) (f : Quad → Quad) : (s.modQuad q f).cells = s.cells := rfl
@[simp] theorem modQuad_mesh (q : QuadId) (f : Quad → Quad) : (s.modQuad q f).mesh = s.mesh := rfl
@[simp] theorem modQuad_waitIn (q : QuadId) (f : Quad → Quad) : (s.modQuad q f).waitIn = s.waitIn := rfl
@[simp] theorem modQuad_deadbolts (q : QuadId) (f : Quad → Quad) : (s.modQuad q f).deadbolts = s.deadbolts := rfl
@[simp] theorem modQuad_chips (q : QuadId) (f : Quad → Quad) : (s.modQuad q f).chips = s.chips := rfl
@[simp] theorem modQuad_links (q : QuadId) (f : Quad → Quad) : (s.modQuad q f).links = s.links := rfl
@[simp] theorem modQuad_sends (q : QuadId) (f : Quad → Quad) : (s.modQuad q f).sends = s.sends := rfl
@[simp] theorem modQuad_landings (q : QuadId) (f : Quad → Quad) : (s.modQuad q f).landings = s.landings := rfl
@[simp] theorem modQuad_laneNext (q : QuadId) (f : Quad → Quad) : (s.modQuad q f).laneNext = s.laneNext := rfl
@[simp] theorem modQuad_accept (q : QuadId) (f : Quad → Quad) : (s.modQuad q f).accept = s.accept := rfl
@[simp] theorem modQuad_place (q : QuadId) (f : Quad → Quad) : (s.modQuad q f).place = s.place := rfl
@[simp] theorem modQuad_kr (q : QuadId) (f : Quad → Quad) : (s.modQuad q f).kr = s.kr := rfl
@[simp] theorem modQuad_sw (q : QuadId) (f : Quad → Quad) : (s.modQuad q f).sw = s.sw := rfl
@[simp] theorem modQuad_chan (q : QuadId) (f : Quad → Quad) : (s.modQuad q f).chan = s.chan := rfl
@[simp] theorem modQuad_shelf (q : QuadId) (f : Quad → Quad) : (s.modQuad q f).shelf = s.shelf := rfl
@[simp] theorem modQuad_batt (q : QuadId) (f : Quad → Quad) : (s.modQuad q f).batt = s.batt := rfl
@[simp] theorem modQuad_pw (q : QuadId) (f : Quad → Quad) : (s.modQuad q f).pw = s.pw := rfl
@[simp] theorem modQuad_meter (q : QuadId) (f : Quad → Quad) : (s.modQuad q f).meter = s.meter := rfl
@[simp] theorem modQuad_trays (q : QuadId) (f : Quad → Quad) : (s.modQuad q f).trays = s.trays := rfl
@[simp] theorem modQuad_rackLeak (q : QuadId) (f : Quad → Quad) : (s.modQuad q f).rackLeak = s.rackLeak := rfl
@[simp] theorem modQuad_leakContact (q : QuadId) (f : Quad → Quad) : (s.modQuad q f).leakContact = s.leakContact := rfl
@[simp] theorem modQuad_rmu (q : QuadId) (f : Quad → Quad) : (s.modQuad q f).rmu = s.rmu := rfl
@[simp] theorem modQuad_resetReqs (q : QuadId) (f : Quad → Quad) : (s.modQuad q f).resetReqs = s.resetReqs := rfl
@[simp] theorem modQuad_resets (q : QuadId) (f : Quad → Quad) : (s.modQuad q f).resets = s.resets := rfl
@[simp] theorem modQuad_windows (q : QuadId) (f : Quad → Quad) : (s.modQuad q f).windows = s.windows := rfl
@[simp] theorem modQuad_retry5 (q : QuadId) (f : Quad → Quad) : (s.modQuad q f).retry5 = s.retry5 := rfl
@[simp] theorem modQuad_lockedChips (q : QuadId) (f : Quad → Quad) : (s.modQuad q f).lockedChips = s.lockedChips := rfl
@[simp] theorem modQuad_lockedTrays (q : QuadId) (f : Quad → Quad) : (s.modQuad q f).lockedTrays = s.lockedTrays := rfl
@[simp] theorem modQuad_serviceDue (q : QuadId) (f : Quad → Quad) : (s.modQuad q f).serviceDue = s.serviceDue := rfl
@[simp] theorem modQuad_turn (q : QuadId) (f : Quad → Quad) : (s.modQuad q f).turn = s.turn := rfl
@[simp] theorem modQuad_partTurns (q : QuadId) (f : Quad → Quad) : (s.modQuad q f).partTurns = s.partTurns := rfl
@[simp] theorem modQuad_ready (q : QuadId) (f : Quad → Quad) : (s.modQuad q f).ready = s.ready := rfl
@[simp] theorem modQuad_rejectedEnds (q : QuadId) (f : Quad → Quad) : (s.modQuad q f).rejectedEnds = s.rejectedEnds := rfl
@[simp] theorem modQuad_mismatched (q : QuadId) (f : Quad → Quad) : (s.modQuad q f).mismatched = s.mismatched := rfl
@[simp] theorem modQuad_unplaced (q : QuadId) (f : Quad → Quad) : (s.modQuad q f).unplaced = s.unplaced := rfl

/-! `modLink` -/

@[simp] theorem modLink_pending (l : LinkId) (f : Link → Link) : (s.modLink l f).pending = s.pending := rfl
@[simp] theorem modLink_out (l : LinkId) (f : Link → Link) : (s.modLink l f).out = s.out := rfl
@[simp] theorem modLink_fresh (l : LinkId) (f : Link → Link) : (s.modLink l f).fresh = s.fresh := rfl
@[simp] theorem modLink_clk (l : LinkId) (f : Link → Link) : (s.modLink l f).clk = s.clk := rfl
@[simp] theorem modLink_ports (l : LinkId) (f : Link → Link) : (s.modLink l f).ports = s.ports := rfl
@[simp] theorem modLink_mgmtDrops (l : LinkId) (f : Link → Link) : (s.modLink l f).mgmtDrops = s.mgmtDrops := rfl
@[simp] theorem modLink_rateCuts (l : LinkId) (f : Link → Link) : (s.modLink l f).rateCuts = s.rateCuts := rfl
@[simp] theorem modLink_kws (l : LinkId) (f : Link → Link) : (s.modLink l f).kws = s.kws := rfl
@[simp] theorem modLink_opr (l : LinkId) (f : Link → Link) : (s.modLink l f).opr = s.opr := rfl
@[simp] theorem modLink_ops (l : LinkId) (f : Link → Link) : (s.modLink l f).ops = s.ops := rfl
@[simp] theorem modLink_nextOp (l : LinkId) (f : Link → Link) : (s.modLink l f).nextOp = s.nextOp := rfl
@[simp] theorem modLink_lookups (l : LinkId) (f : Link → Link) : (s.modLink l f).lookups = s.lookups := rfl
@[simp] theorem modLink_reqs (l : LinkId) (f : Link → Link) : (s.modLink l f).reqs = s.reqs := rfl
@[simp] theorem modLink_cfg (l : LinkId) (f : Link → Link) : (s.modLink l f).cfg = s.cfg := rfl
@[simp] theorem modLink_rackEpoch (l : LinkId) (f : Link → Link) : (s.modLink l f).rackEpoch = s.rackEpoch := rfl
@[simp] theorem modLink_rackEpochHigh (l : LinkId) (f : Link → Link) : (s.modLink l f).rackEpochHigh = s.rackEpochHigh := rfl
@[simp] theorem modLink_parts (l : LinkId) (f : Link → Link) : (s.modLink l f).parts = s.parts := rfl
@[simp] theorem modLink_hbm (l : LinkId) (f : Link → Link) : (s.modLink l f).hbm = s.hbm := rfl
@[simp] theorem modLink_bufs (l : LinkId) (f : Link → Link) : (s.modLink l f).bufs = s.bufs := rfl
@[simp] theorem modLink_sram (l : LinkId) (f : Link → Link) : (s.modLink l f).sram = s.sram := rfl
@[simp] theorem modLink_acc (l : LinkId) (f : Link → Link) : (s.modLink l f).acc = s.acc := rfl
@[simp] theorem modLink_poison (l : LinkId) (f : Link → Link) : (s.modLink l f).poison = s.poison := rfl
@[simp] theorem modLink_cells (l : LinkId) (f : Link → Link) : (s.modLink l f).cells = s.cells := rfl
@[simp] theorem modLink_mesh (l : LinkId) (f : Link → Link) : (s.modLink l f).mesh = s.mesh := rfl
@[simp] theorem modLink_waitIn (l : LinkId) (f : Link → Link) : (s.modLink l f).waitIn = s.waitIn := rfl
@[simp] theorem modLink_deadbolts (l : LinkId) (f : Link → Link) : (s.modLink l f).deadbolts = s.deadbolts := rfl
@[simp] theorem modLink_chips (l : LinkId) (f : Link → Link) : (s.modLink l f).chips = s.chips := rfl
@[simp] theorem modLink_quads (l : LinkId) (f : Link → Link) : (s.modLink l f).quads = s.quads := rfl
@[simp] theorem modLink_sends (l : LinkId) (f : Link → Link) : (s.modLink l f).sends = s.sends := rfl
@[simp] theorem modLink_landings (l : LinkId) (f : Link → Link) : (s.modLink l f).landings = s.landings := rfl
@[simp] theorem modLink_laneNext (l : LinkId) (f : Link → Link) : (s.modLink l f).laneNext = s.laneNext := rfl
@[simp] theorem modLink_accept (l : LinkId) (f : Link → Link) : (s.modLink l f).accept = s.accept := rfl
@[simp] theorem modLink_place (l : LinkId) (f : Link → Link) : (s.modLink l f).place = s.place := rfl
@[simp] theorem modLink_kr (l : LinkId) (f : Link → Link) : (s.modLink l f).kr = s.kr := rfl
@[simp] theorem modLink_sw (l : LinkId) (f : Link → Link) : (s.modLink l f).sw = s.sw := rfl
@[simp] theorem modLink_chan (l : LinkId) (f : Link → Link) : (s.modLink l f).chan = s.chan := rfl
@[simp] theorem modLink_shelf (l : LinkId) (f : Link → Link) : (s.modLink l f).shelf = s.shelf := rfl
@[simp] theorem modLink_batt (l : LinkId) (f : Link → Link) : (s.modLink l f).batt = s.batt := rfl
@[simp] theorem modLink_pw (l : LinkId) (f : Link → Link) : (s.modLink l f).pw = s.pw := rfl
@[simp] theorem modLink_meter (l : LinkId) (f : Link → Link) : (s.modLink l f).meter = s.meter := rfl
@[simp] theorem modLink_trays (l : LinkId) (f : Link → Link) : (s.modLink l f).trays = s.trays := rfl
@[simp] theorem modLink_rackLeak (l : LinkId) (f : Link → Link) : (s.modLink l f).rackLeak = s.rackLeak := rfl
@[simp] theorem modLink_leakContact (l : LinkId) (f : Link → Link) : (s.modLink l f).leakContact = s.leakContact := rfl
@[simp] theorem modLink_rmu (l : LinkId) (f : Link → Link) : (s.modLink l f).rmu = s.rmu := rfl
@[simp] theorem modLink_resetReqs (l : LinkId) (f : Link → Link) : (s.modLink l f).resetReqs = s.resetReqs := rfl
@[simp] theorem modLink_resets (l : LinkId) (f : Link → Link) : (s.modLink l f).resets = s.resets := rfl
@[simp] theorem modLink_windows (l : LinkId) (f : Link → Link) : (s.modLink l f).windows = s.windows := rfl
@[simp] theorem modLink_retry5 (l : LinkId) (f : Link → Link) : (s.modLink l f).retry5 = s.retry5 := rfl
@[simp] theorem modLink_lockedChips (l : LinkId) (f : Link → Link) : (s.modLink l f).lockedChips = s.lockedChips := rfl
@[simp] theorem modLink_lockedTrays (l : LinkId) (f : Link → Link) : (s.modLink l f).lockedTrays = s.lockedTrays := rfl
@[simp] theorem modLink_serviceDue (l : LinkId) (f : Link → Link) : (s.modLink l f).serviceDue = s.serviceDue := rfl
@[simp] theorem modLink_turn (l : LinkId) (f : Link → Link) : (s.modLink l f).turn = s.turn := rfl
@[simp] theorem modLink_partTurns (l : LinkId) (f : Link → Link) : (s.modLink l f).partTurns = s.partTurns := rfl
@[simp] theorem modLink_ready (l : LinkId) (f : Link → Link) : (s.modLink l f).ready = s.ready := rfl
@[simp] theorem modLink_rejectedEnds (l : LinkId) (f : Link → Link) : (s.modLink l f).rejectedEnds = s.rejectedEnds := rfl
@[simp] theorem modLink_mismatched (l : LinkId) (f : Link → Link) : (s.modLink l f).mismatched = s.mismatched := rfl
@[simp] theorem modLink_unplaced (l : LinkId) (f : Link → Link) : (s.modLink l f).unplaced = s.unplaced := rfl

/-! `modPort` -/

@[simp] theorem modPort_pending (p : HostPortId) (f : HostPort → HostPort) : (s.modPort p f).pending = s.pending := rfl
@[simp] theorem modPort_out (p : HostPortId) (f : HostPort → HostPort) : (s.modPort p f).out = s.out := rfl
@[simp] theorem modPort_fresh (p : HostPortId) (f : HostPort → HostPort) : (s.modPort p f).fresh = s.fresh := rfl
@[simp] theorem modPort_clk (p : HostPortId) (f : HostPort → HostPort) : (s.modPort p f).clk = s.clk := rfl
@[simp] theorem modPort_mgmtDrops (p : HostPortId) (f : HostPort → HostPort) : (s.modPort p f).mgmtDrops = s.mgmtDrops := rfl
@[simp] theorem modPort_rateCuts (p : HostPortId) (f : HostPort → HostPort) : (s.modPort p f).rateCuts = s.rateCuts := rfl
@[simp] theorem modPort_kws (p : HostPortId) (f : HostPort → HostPort) : (s.modPort p f).kws = s.kws := rfl
@[simp] theorem modPort_opr (p : HostPortId) (f : HostPort → HostPort) : (s.modPort p f).opr = s.opr := rfl
@[simp] theorem modPort_ops (p : HostPortId) (f : HostPort → HostPort) : (s.modPort p f).ops = s.ops := rfl
@[simp] theorem modPort_nextOp (p : HostPortId) (f : HostPort → HostPort) : (s.modPort p f).nextOp = s.nextOp := rfl
@[simp] theorem modPort_lookups (p : HostPortId) (f : HostPort → HostPort) : (s.modPort p f).lookups = s.lookups := rfl
@[simp] theorem modPort_reqs (p : HostPortId) (f : HostPort → HostPort) : (s.modPort p f).reqs = s.reqs := rfl
@[simp] theorem modPort_cfg (p : HostPortId) (f : HostPort → HostPort) : (s.modPort p f).cfg = s.cfg := rfl
@[simp] theorem modPort_rackEpoch (p : HostPortId) (f : HostPort → HostPort) : (s.modPort p f).rackEpoch = s.rackEpoch := rfl
@[simp] theorem modPort_rackEpochHigh (p : HostPortId) (f : HostPort → HostPort) : (s.modPort p f).rackEpochHigh = s.rackEpochHigh := rfl
@[simp] theorem modPort_parts (p : HostPortId) (f : HostPort → HostPort) : (s.modPort p f).parts = s.parts := rfl
@[simp] theorem modPort_hbm (p : HostPortId) (f : HostPort → HostPort) : (s.modPort p f).hbm = s.hbm := rfl
@[simp] theorem modPort_bufs (p : HostPortId) (f : HostPort → HostPort) : (s.modPort p f).bufs = s.bufs := rfl
@[simp] theorem modPort_sram (p : HostPortId) (f : HostPort → HostPort) : (s.modPort p f).sram = s.sram := rfl
@[simp] theorem modPort_acc (p : HostPortId) (f : HostPort → HostPort) : (s.modPort p f).acc = s.acc := rfl
@[simp] theorem modPort_poison (p : HostPortId) (f : HostPort → HostPort) : (s.modPort p f).poison = s.poison := rfl
@[simp] theorem modPort_cells (p : HostPortId) (f : HostPort → HostPort) : (s.modPort p f).cells = s.cells := rfl
@[simp] theorem modPort_mesh (p : HostPortId) (f : HostPort → HostPort) : (s.modPort p f).mesh = s.mesh := rfl
@[simp] theorem modPort_waitIn (p : HostPortId) (f : HostPort → HostPort) : (s.modPort p f).waitIn = s.waitIn := rfl
@[simp] theorem modPort_deadbolts (p : HostPortId) (f : HostPort → HostPort) : (s.modPort p f).deadbolts = s.deadbolts := rfl
@[simp] theorem modPort_chips (p : HostPortId) (f : HostPort → HostPort) : (s.modPort p f).chips = s.chips := rfl
@[simp] theorem modPort_quads (p : HostPortId) (f : HostPort → HostPort) : (s.modPort p f).quads = s.quads := rfl
@[simp] theorem modPort_links (p : HostPortId) (f : HostPort → HostPort) : (s.modPort p f).links = s.links := rfl
@[simp] theorem modPort_sends (p : HostPortId) (f : HostPort → HostPort) : (s.modPort p f).sends = s.sends := rfl
@[simp] theorem modPort_landings (p : HostPortId) (f : HostPort → HostPort) : (s.modPort p f).landings = s.landings := rfl
@[simp] theorem modPort_laneNext (p : HostPortId) (f : HostPort → HostPort) : (s.modPort p f).laneNext = s.laneNext := rfl
@[simp] theorem modPort_accept (p : HostPortId) (f : HostPort → HostPort) : (s.modPort p f).accept = s.accept := rfl
@[simp] theorem modPort_place (p : HostPortId) (f : HostPort → HostPort) : (s.modPort p f).place = s.place := rfl
@[simp] theorem modPort_kr (p : HostPortId) (f : HostPort → HostPort) : (s.modPort p f).kr = s.kr := rfl
@[simp] theorem modPort_sw (p : HostPortId) (f : HostPort → HostPort) : (s.modPort p f).sw = s.sw := rfl
@[simp] theorem modPort_chan (p : HostPortId) (f : HostPort → HostPort) : (s.modPort p f).chan = s.chan := rfl
@[simp] theorem modPort_shelf (p : HostPortId) (f : HostPort → HostPort) : (s.modPort p f).shelf = s.shelf := rfl
@[simp] theorem modPort_batt (p : HostPortId) (f : HostPort → HostPort) : (s.modPort p f).batt = s.batt := rfl
@[simp] theorem modPort_pw (p : HostPortId) (f : HostPort → HostPort) : (s.modPort p f).pw = s.pw := rfl
@[simp] theorem modPort_meter (p : HostPortId) (f : HostPort → HostPort) : (s.modPort p f).meter = s.meter := rfl
@[simp] theorem modPort_trays (p : HostPortId) (f : HostPort → HostPort) : (s.modPort p f).trays = s.trays := rfl
@[simp] theorem modPort_rackLeak (p : HostPortId) (f : HostPort → HostPort) : (s.modPort p f).rackLeak = s.rackLeak := rfl
@[simp] theorem modPort_leakContact (p : HostPortId) (f : HostPort → HostPort) : (s.modPort p f).leakContact = s.leakContact := rfl
@[simp] theorem modPort_rmu (p : HostPortId) (f : HostPort → HostPort) : (s.modPort p f).rmu = s.rmu := rfl
@[simp] theorem modPort_resetReqs (p : HostPortId) (f : HostPort → HostPort) : (s.modPort p f).resetReqs = s.resetReqs := rfl
@[simp] theorem modPort_resets (p : HostPortId) (f : HostPort → HostPort) : (s.modPort p f).resets = s.resets := rfl
@[simp] theorem modPort_windows (p : HostPortId) (f : HostPort → HostPort) : (s.modPort p f).windows = s.windows := rfl
@[simp] theorem modPort_retry5 (p : HostPortId) (f : HostPort → HostPort) : (s.modPort p f).retry5 = s.retry5 := rfl
@[simp] theorem modPort_lockedChips (p : HostPortId) (f : HostPort → HostPort) : (s.modPort p f).lockedChips = s.lockedChips := rfl
@[simp] theorem modPort_lockedTrays (p : HostPortId) (f : HostPort → HostPort) : (s.modPort p f).lockedTrays = s.lockedTrays := rfl
@[simp] theorem modPort_serviceDue (p : HostPortId) (f : HostPort → HostPort) : (s.modPort p f).serviceDue = s.serviceDue := rfl
@[simp] theorem modPort_turn (p : HostPortId) (f : HostPort → HostPort) : (s.modPort p f).turn = s.turn := rfl
@[simp] theorem modPort_partTurns (p : HostPortId) (f : HostPort → HostPort) : (s.modPort p f).partTurns = s.partTurns := rfl
@[simp] theorem modPort_ready (p : HostPortId) (f : HostPort → HostPort) : (s.modPort p f).ready = s.ready := rfl
@[simp] theorem modPort_rejectedEnds (p : HostPortId) (f : HostPort → HostPort) : (s.modPort p f).rejectedEnds = s.rejectedEnds := rfl
@[simp] theorem modPort_mismatched (p : HostPortId) (f : HostPort → HostPort) : (s.modPort p f).mismatched = s.mismatched := rfl
@[simp] theorem modPort_unplaced (p : HostPortId) (f : HostPort → HostPort) : (s.modPort p f).unplaced = s.unplaced := rfl

/-! `modCell` -/

@[simp] theorem modCell_pending (c : CellId) (f : CellState → CellState) : (s.modCell c f).pending = s.pending := rfl
@[simp] theorem modCell_out (c : CellId) (f : CellState → CellState) : (s.modCell c f).out = s.out := rfl
@[simp] theorem modCell_fresh (c : CellId) (f : CellState → CellState) : (s.modCell c f).fresh = s.fresh := rfl
@[simp] theorem modCell_clk (c : CellId) (f : CellState → CellState) : (s.modCell c f).clk = s.clk := rfl
@[simp] theorem modCell_ports (c : CellId) (f : CellState → CellState) : (s.modCell c f).ports = s.ports := rfl
@[simp] theorem modCell_mgmtDrops (c : CellId) (f : CellState → CellState) : (s.modCell c f).mgmtDrops = s.mgmtDrops := rfl
@[simp] theorem modCell_rateCuts (c : CellId) (f : CellState → CellState) : (s.modCell c f).rateCuts = s.rateCuts := rfl
@[simp] theorem modCell_kws (c : CellId) (f : CellState → CellState) : (s.modCell c f).kws = s.kws := rfl
@[simp] theorem modCell_opr (c : CellId) (f : CellState → CellState) : (s.modCell c f).opr = s.opr := rfl
@[simp] theorem modCell_ops (c : CellId) (f : CellState → CellState) : (s.modCell c f).ops = s.ops := rfl
@[simp] theorem modCell_nextOp (c : CellId) (f : CellState → CellState) : (s.modCell c f).nextOp = s.nextOp := rfl
@[simp] theorem modCell_lookups (c : CellId) (f : CellState → CellState) : (s.modCell c f).lookups = s.lookups := rfl
@[simp] theorem modCell_reqs (c : CellId) (f : CellState → CellState) : (s.modCell c f).reqs = s.reqs := rfl
@[simp] theorem modCell_cfg (c : CellId) (f : CellState → CellState) : (s.modCell c f).cfg = s.cfg := rfl
@[simp] theorem modCell_rackEpoch (c : CellId) (f : CellState → CellState) : (s.modCell c f).rackEpoch = s.rackEpoch := rfl
@[simp] theorem modCell_rackEpochHigh (c : CellId) (f : CellState → CellState) : (s.modCell c f).rackEpochHigh = s.rackEpochHigh := rfl
@[simp] theorem modCell_parts (c : CellId) (f : CellState → CellState) : (s.modCell c f).parts = s.parts := rfl
@[simp] theorem modCell_hbm (c : CellId) (f : CellState → CellState) : (s.modCell c f).hbm = s.hbm := rfl
@[simp] theorem modCell_bufs (c : CellId) (f : CellState → CellState) : (s.modCell c f).bufs = s.bufs := rfl
@[simp] theorem modCell_sram (c : CellId) (f : CellState → CellState) : (s.modCell c f).sram = s.sram := rfl
@[simp] theorem modCell_acc (c : CellId) (f : CellState → CellState) : (s.modCell c f).acc = s.acc := rfl
@[simp] theorem modCell_poison (c : CellId) (f : CellState → CellState) : (s.modCell c f).poison = s.poison := rfl
@[simp] theorem modCell_mesh (c : CellId) (f : CellState → CellState) : (s.modCell c f).mesh = s.mesh := rfl
@[simp] theorem modCell_waitIn (c : CellId) (f : CellState → CellState) : (s.modCell c f).waitIn = s.waitIn := rfl
@[simp] theorem modCell_deadbolts (c : CellId) (f : CellState → CellState) : (s.modCell c f).deadbolts = s.deadbolts := rfl
@[simp] theorem modCell_chips (c : CellId) (f : CellState → CellState) : (s.modCell c f).chips = s.chips := rfl
@[simp] theorem modCell_quads (c : CellId) (f : CellState → CellState) : (s.modCell c f).quads = s.quads := rfl
@[simp] theorem modCell_links (c : CellId) (f : CellState → CellState) : (s.modCell c f).links = s.links := rfl
@[simp] theorem modCell_sends (c : CellId) (f : CellState → CellState) : (s.modCell c f).sends = s.sends := rfl
@[simp] theorem modCell_landings (c : CellId) (f : CellState → CellState) : (s.modCell c f).landings = s.landings := rfl
@[simp] theorem modCell_laneNext (c : CellId) (f : CellState → CellState) : (s.modCell c f).laneNext = s.laneNext := rfl
@[simp] theorem modCell_accept (c : CellId) (f : CellState → CellState) : (s.modCell c f).accept = s.accept := rfl
@[simp] theorem modCell_place (c : CellId) (f : CellState → CellState) : (s.modCell c f).place = s.place := rfl
@[simp] theorem modCell_kr (c : CellId) (f : CellState → CellState) : (s.modCell c f).kr = s.kr := rfl
@[simp] theorem modCell_sw (c : CellId) (f : CellState → CellState) : (s.modCell c f).sw = s.sw := rfl
@[simp] theorem modCell_chan (c : CellId) (f : CellState → CellState) : (s.modCell c f).chan = s.chan := rfl
@[simp] theorem modCell_shelf (c : CellId) (f : CellState → CellState) : (s.modCell c f).shelf = s.shelf := rfl
@[simp] theorem modCell_batt (c : CellId) (f : CellState → CellState) : (s.modCell c f).batt = s.batt := rfl
@[simp] theorem modCell_pw (c : CellId) (f : CellState → CellState) : (s.modCell c f).pw = s.pw := rfl
@[simp] theorem modCell_meter (c : CellId) (f : CellState → CellState) : (s.modCell c f).meter = s.meter := rfl
@[simp] theorem modCell_trays (c : CellId) (f : CellState → CellState) : (s.modCell c f).trays = s.trays := rfl
@[simp] theorem modCell_rackLeak (c : CellId) (f : CellState → CellState) : (s.modCell c f).rackLeak = s.rackLeak := rfl
@[simp] theorem modCell_leakContact (c : CellId) (f : CellState → CellState) : (s.modCell c f).leakContact = s.leakContact := rfl
@[simp] theorem modCell_rmu (c : CellId) (f : CellState → CellState) : (s.modCell c f).rmu = s.rmu := rfl
@[simp] theorem modCell_resetReqs (c : CellId) (f : CellState → CellState) : (s.modCell c f).resetReqs = s.resetReqs := rfl
@[simp] theorem modCell_resets (c : CellId) (f : CellState → CellState) : (s.modCell c f).resets = s.resets := rfl
@[simp] theorem modCell_windows (c : CellId) (f : CellState → CellState) : (s.modCell c f).windows = s.windows := rfl
@[simp] theorem modCell_retry5 (c : CellId) (f : CellState → CellState) : (s.modCell c f).retry5 = s.retry5 := rfl
@[simp] theorem modCell_lockedChips (c : CellId) (f : CellState → CellState) : (s.modCell c f).lockedChips = s.lockedChips := rfl
@[simp] theorem modCell_lockedTrays (c : CellId) (f : CellState → CellState) : (s.modCell c f).lockedTrays = s.lockedTrays := rfl
@[simp] theorem modCell_serviceDue (c : CellId) (f : CellState → CellState) : (s.modCell c f).serviceDue = s.serviceDue := rfl
@[simp] theorem modCell_turn (c : CellId) (f : CellState → CellState) : (s.modCell c f).turn = s.turn := rfl
@[simp] theorem modCell_partTurns (c : CellId) (f : CellState → CellState) : (s.modCell c f).partTurns = s.partTurns := rfl
@[simp] theorem modCell_ready (c : CellId) (f : CellState → CellState) : (s.modCell c f).ready = s.ready := rfl
@[simp] theorem modCell_rejectedEnds (c : CellId) (f : CellState → CellState) : (s.modCell c f).rejectedEnds = s.rejectedEnds := rfl
@[simp] theorem modCell_mismatched (c : CellId) (f : CellState → CellState) : (s.modCell c f).mismatched = s.mismatched := rfl
@[simp] theorem modCell_unplaced (c : CellId) (f : CellState → CellState) : (s.modCell c f).unplaced = s.unplaced := rfl

/-! `modSw` -/

@[simp] theorem modSw_pending (i : SwId) (f : SwTray → SwTray) : (s.modSw i f).pending = s.pending := rfl
@[simp] theorem modSw_out (i : SwId) (f : SwTray → SwTray) : (s.modSw i f).out = s.out := rfl
@[simp] theorem modSw_fresh (i : SwId) (f : SwTray → SwTray) : (s.modSw i f).fresh = s.fresh := rfl
@[simp] theorem modSw_clk (i : SwId) (f : SwTray → SwTray) : (s.modSw i f).clk = s.clk := rfl
@[simp] theorem modSw_ports (i : SwId) (f : SwTray → SwTray) : (s.modSw i f).ports = s.ports := rfl
@[simp] theorem modSw_mgmtDrops (i : SwId) (f : SwTray → SwTray) : (s.modSw i f).mgmtDrops = s.mgmtDrops := rfl
@[simp] theorem modSw_rateCuts (i : SwId) (f : SwTray → SwTray) : (s.modSw i f).rateCuts = s.rateCuts := rfl
@[simp] theorem modSw_kws (i : SwId) (f : SwTray → SwTray) : (s.modSw i f).kws = s.kws := rfl
@[simp] theorem modSw_opr (i : SwId) (f : SwTray → SwTray) : (s.modSw i f).opr = s.opr := rfl
@[simp] theorem modSw_ops (i : SwId) (f : SwTray → SwTray) : (s.modSw i f).ops = s.ops := rfl
@[simp] theorem modSw_nextOp (i : SwId) (f : SwTray → SwTray) : (s.modSw i f).nextOp = s.nextOp := rfl
@[simp] theorem modSw_lookups (i : SwId) (f : SwTray → SwTray) : (s.modSw i f).lookups = s.lookups := rfl
@[simp] theorem modSw_reqs (i : SwId) (f : SwTray → SwTray) : (s.modSw i f).reqs = s.reqs := rfl
@[simp] theorem modSw_cfg (i : SwId) (f : SwTray → SwTray) : (s.modSw i f).cfg = s.cfg := rfl
@[simp] theorem modSw_rackEpoch (i : SwId) (f : SwTray → SwTray) : (s.modSw i f).rackEpoch = s.rackEpoch := rfl
@[simp] theorem modSw_rackEpochHigh (i : SwId) (f : SwTray → SwTray) : (s.modSw i f).rackEpochHigh = s.rackEpochHigh := rfl
@[simp] theorem modSw_parts (i : SwId) (f : SwTray → SwTray) : (s.modSw i f).parts = s.parts := rfl
@[simp] theorem modSw_hbm (i : SwId) (f : SwTray → SwTray) : (s.modSw i f).hbm = s.hbm := rfl
@[simp] theorem modSw_bufs (i : SwId) (f : SwTray → SwTray) : (s.modSw i f).bufs = s.bufs := rfl
@[simp] theorem modSw_sram (i : SwId) (f : SwTray → SwTray) : (s.modSw i f).sram = s.sram := rfl
@[simp] theorem modSw_acc (i : SwId) (f : SwTray → SwTray) : (s.modSw i f).acc = s.acc := rfl
@[simp] theorem modSw_poison (i : SwId) (f : SwTray → SwTray) : (s.modSw i f).poison = s.poison := rfl
@[simp] theorem modSw_cells (i : SwId) (f : SwTray → SwTray) : (s.modSw i f).cells = s.cells := rfl
@[simp] theorem modSw_mesh (i : SwId) (f : SwTray → SwTray) : (s.modSw i f).mesh = s.mesh := rfl
@[simp] theorem modSw_waitIn (i : SwId) (f : SwTray → SwTray) : (s.modSw i f).waitIn = s.waitIn := rfl
@[simp] theorem modSw_deadbolts (i : SwId) (f : SwTray → SwTray) : (s.modSw i f).deadbolts = s.deadbolts := rfl
@[simp] theorem modSw_chips (i : SwId) (f : SwTray → SwTray) : (s.modSw i f).chips = s.chips := rfl
@[simp] theorem modSw_quads (i : SwId) (f : SwTray → SwTray) : (s.modSw i f).quads = s.quads := rfl
@[simp] theorem modSw_links (i : SwId) (f : SwTray → SwTray) : (s.modSw i f).links = s.links := rfl
@[simp] theorem modSw_sends (i : SwId) (f : SwTray → SwTray) : (s.modSw i f).sends = s.sends := rfl
@[simp] theorem modSw_landings (i : SwId) (f : SwTray → SwTray) : (s.modSw i f).landings = s.landings := rfl
@[simp] theorem modSw_laneNext (i : SwId) (f : SwTray → SwTray) : (s.modSw i f).laneNext = s.laneNext := rfl
@[simp] theorem modSw_accept (i : SwId) (f : SwTray → SwTray) : (s.modSw i f).accept = s.accept := rfl
@[simp] theorem modSw_place (i : SwId) (f : SwTray → SwTray) : (s.modSw i f).place = s.place := rfl
@[simp] theorem modSw_kr (i : SwId) (f : SwTray → SwTray) : (s.modSw i f).kr = s.kr := rfl
@[simp] theorem modSw_chan (i : SwId) (f : SwTray → SwTray) : (s.modSw i f).chan = s.chan := rfl
@[simp] theorem modSw_shelf (i : SwId) (f : SwTray → SwTray) : (s.modSw i f).shelf = s.shelf := rfl
@[simp] theorem modSw_batt (i : SwId) (f : SwTray → SwTray) : (s.modSw i f).batt = s.batt := rfl
@[simp] theorem modSw_pw (i : SwId) (f : SwTray → SwTray) : (s.modSw i f).pw = s.pw := rfl
@[simp] theorem modSw_meter (i : SwId) (f : SwTray → SwTray) : (s.modSw i f).meter = s.meter := rfl
@[simp] theorem modSw_trays (i : SwId) (f : SwTray → SwTray) : (s.modSw i f).trays = s.trays := rfl
@[simp] theorem modSw_rackLeak (i : SwId) (f : SwTray → SwTray) : (s.modSw i f).rackLeak = s.rackLeak := rfl
@[simp] theorem modSw_leakContact (i : SwId) (f : SwTray → SwTray) : (s.modSw i f).leakContact = s.leakContact := rfl
@[simp] theorem modSw_rmu (i : SwId) (f : SwTray → SwTray) : (s.modSw i f).rmu = s.rmu := rfl
@[simp] theorem modSw_resetReqs (i : SwId) (f : SwTray → SwTray) : (s.modSw i f).resetReqs = s.resetReqs := rfl
@[simp] theorem modSw_resets (i : SwId) (f : SwTray → SwTray) : (s.modSw i f).resets = s.resets := rfl
@[simp] theorem modSw_windows (i : SwId) (f : SwTray → SwTray) : (s.modSw i f).windows = s.windows := rfl
@[simp] theorem modSw_retry5 (i : SwId) (f : SwTray → SwTray) : (s.modSw i f).retry5 = s.retry5 := rfl
@[simp] theorem modSw_lockedChips (i : SwId) (f : SwTray → SwTray) : (s.modSw i f).lockedChips = s.lockedChips := rfl
@[simp] theorem modSw_lockedTrays (i : SwId) (f : SwTray → SwTray) : (s.modSw i f).lockedTrays = s.lockedTrays := rfl
@[simp] theorem modSw_serviceDue (i : SwId) (f : SwTray → SwTray) : (s.modSw i f).serviceDue = s.serviceDue := rfl
@[simp] theorem modSw_turn (i : SwId) (f : SwTray → SwTray) : (s.modSw i f).turn = s.turn := rfl
@[simp] theorem modSw_partTurns (i : SwId) (f : SwTray → SwTray) : (s.modSw i f).partTurns = s.partTurns := rfl
@[simp] theorem modSw_ready (i : SwId) (f : SwTray → SwTray) : (s.modSw i f).ready = s.ready := rfl
@[simp] theorem modSw_rejectedEnds (i : SwId) (f : SwTray → SwTray) : (s.modSw i f).rejectedEnds = s.rejectedEnds := rfl
@[simp] theorem modSw_mismatched (i : SwId) (f : SwTray → SwTray) : (s.modSw i f).mismatched = s.mismatched := rfl
@[simp] theorem modSw_unplaced (i : SwId) (f : SwTray → SwTray) : (s.modSw i f).unplaced = s.unplaced := rfl

/-! `modChan` -/

@[simp] theorem modChan_pending (c : ChanId) (f : Channel → Channel) : (s.modChan c f).pending = s.pending := rfl
@[simp] theorem modChan_out (c : ChanId) (f : Channel → Channel) : (s.modChan c f).out = s.out := rfl
@[simp] theorem modChan_fresh (c : ChanId) (f : Channel → Channel) : (s.modChan c f).fresh = s.fresh := rfl
@[simp] theorem modChan_clk (c : ChanId) (f : Channel → Channel) : (s.modChan c f).clk = s.clk := rfl
@[simp] theorem modChan_ports (c : ChanId) (f : Channel → Channel) : (s.modChan c f).ports = s.ports := rfl
@[simp] theorem modChan_mgmtDrops (c : ChanId) (f : Channel → Channel) : (s.modChan c f).mgmtDrops = s.mgmtDrops := rfl
@[simp] theorem modChan_rateCuts (c : ChanId) (f : Channel → Channel) : (s.modChan c f).rateCuts = s.rateCuts := rfl
@[simp] theorem modChan_kws (c : ChanId) (f : Channel → Channel) : (s.modChan c f).kws = s.kws := rfl
@[simp] theorem modChan_opr (c : ChanId) (f : Channel → Channel) : (s.modChan c f).opr = s.opr := rfl
@[simp] theorem modChan_ops (c : ChanId) (f : Channel → Channel) : (s.modChan c f).ops = s.ops := rfl
@[simp] theorem modChan_nextOp (c : ChanId) (f : Channel → Channel) : (s.modChan c f).nextOp = s.nextOp := rfl
@[simp] theorem modChan_lookups (c : ChanId) (f : Channel → Channel) : (s.modChan c f).lookups = s.lookups := rfl
@[simp] theorem modChan_reqs (c : ChanId) (f : Channel → Channel) : (s.modChan c f).reqs = s.reqs := rfl
@[simp] theorem modChan_cfg (c : ChanId) (f : Channel → Channel) : (s.modChan c f).cfg = s.cfg := rfl
@[simp] theorem modChan_rackEpoch (c : ChanId) (f : Channel → Channel) : (s.modChan c f).rackEpoch = s.rackEpoch := rfl
@[simp] theorem modChan_rackEpochHigh (c : ChanId) (f : Channel → Channel) : (s.modChan c f).rackEpochHigh = s.rackEpochHigh := rfl
@[simp] theorem modChan_parts (c : ChanId) (f : Channel → Channel) : (s.modChan c f).parts = s.parts := rfl
@[simp] theorem modChan_hbm (c : ChanId) (f : Channel → Channel) : (s.modChan c f).hbm = s.hbm := rfl
@[simp] theorem modChan_bufs (c : ChanId) (f : Channel → Channel) : (s.modChan c f).bufs = s.bufs := rfl
@[simp] theorem modChan_sram (c : ChanId) (f : Channel → Channel) : (s.modChan c f).sram = s.sram := rfl
@[simp] theorem modChan_acc (c : ChanId) (f : Channel → Channel) : (s.modChan c f).acc = s.acc := rfl
@[simp] theorem modChan_poison (c : ChanId) (f : Channel → Channel) : (s.modChan c f).poison = s.poison := rfl
@[simp] theorem modChan_cells (c : ChanId) (f : Channel → Channel) : (s.modChan c f).cells = s.cells := rfl
@[simp] theorem modChan_mesh (c : ChanId) (f : Channel → Channel) : (s.modChan c f).mesh = s.mesh := rfl
@[simp] theorem modChan_waitIn (c : ChanId) (f : Channel → Channel) : (s.modChan c f).waitIn = s.waitIn := rfl
@[simp] theorem modChan_deadbolts (c : ChanId) (f : Channel → Channel) : (s.modChan c f).deadbolts = s.deadbolts := rfl
@[simp] theorem modChan_chips (c : ChanId) (f : Channel → Channel) : (s.modChan c f).chips = s.chips := rfl
@[simp] theorem modChan_quads (c : ChanId) (f : Channel → Channel) : (s.modChan c f).quads = s.quads := rfl
@[simp] theorem modChan_links (c : ChanId) (f : Channel → Channel) : (s.modChan c f).links = s.links := rfl
@[simp] theorem modChan_sends (c : ChanId) (f : Channel → Channel) : (s.modChan c f).sends = s.sends := rfl
@[simp] theorem modChan_landings (c : ChanId) (f : Channel → Channel) : (s.modChan c f).landings = s.landings := rfl
@[simp] theorem modChan_laneNext (c : ChanId) (f : Channel → Channel) : (s.modChan c f).laneNext = s.laneNext := rfl
@[simp] theorem modChan_accept (c : ChanId) (f : Channel → Channel) : (s.modChan c f).accept = s.accept := rfl
@[simp] theorem modChan_place (c : ChanId) (f : Channel → Channel) : (s.modChan c f).place = s.place := rfl
@[simp] theorem modChan_kr (c : ChanId) (f : Channel → Channel) : (s.modChan c f).kr = s.kr := rfl
@[simp] theorem modChan_sw (c : ChanId) (f : Channel → Channel) : (s.modChan c f).sw = s.sw := rfl
@[simp] theorem modChan_shelf (c : ChanId) (f : Channel → Channel) : (s.modChan c f).shelf = s.shelf := rfl
@[simp] theorem modChan_batt (c : ChanId) (f : Channel → Channel) : (s.modChan c f).batt = s.batt := rfl
@[simp] theorem modChan_pw (c : ChanId) (f : Channel → Channel) : (s.modChan c f).pw = s.pw := rfl
@[simp] theorem modChan_meter (c : ChanId) (f : Channel → Channel) : (s.modChan c f).meter = s.meter := rfl
@[simp] theorem modChan_trays (c : ChanId) (f : Channel → Channel) : (s.modChan c f).trays = s.trays := rfl
@[simp] theorem modChan_rackLeak (c : ChanId) (f : Channel → Channel) : (s.modChan c f).rackLeak = s.rackLeak := rfl
@[simp] theorem modChan_leakContact (c : ChanId) (f : Channel → Channel) : (s.modChan c f).leakContact = s.leakContact := rfl
@[simp] theorem modChan_rmu (c : ChanId) (f : Channel → Channel) : (s.modChan c f).rmu = s.rmu := rfl
@[simp] theorem modChan_resetReqs (c : ChanId) (f : Channel → Channel) : (s.modChan c f).resetReqs = s.resetReqs := rfl
@[simp] theorem modChan_resets (c : ChanId) (f : Channel → Channel) : (s.modChan c f).resets = s.resets := rfl
@[simp] theorem modChan_windows (c : ChanId) (f : Channel → Channel) : (s.modChan c f).windows = s.windows := rfl
@[simp] theorem modChan_retry5 (c : ChanId) (f : Channel → Channel) : (s.modChan c f).retry5 = s.retry5 := rfl
@[simp] theorem modChan_lockedChips (c : ChanId) (f : Channel → Channel) : (s.modChan c f).lockedChips = s.lockedChips := rfl
@[simp] theorem modChan_lockedTrays (c : ChanId) (f : Channel → Channel) : (s.modChan c f).lockedTrays = s.lockedTrays := rfl
@[simp] theorem modChan_serviceDue (c : ChanId) (f : Channel → Channel) : (s.modChan c f).serviceDue = s.serviceDue := rfl
@[simp] theorem modChan_turn (c : ChanId) (f : Channel → Channel) : (s.modChan c f).turn = s.turn := rfl
@[simp] theorem modChan_partTurns (c : ChanId) (f : Channel → Channel) : (s.modChan c f).partTurns = s.partTurns := rfl
@[simp] theorem modChan_ready (c : ChanId) (f : Channel → Channel) : (s.modChan c f).ready = s.ready := rfl
@[simp] theorem modChan_rejectedEnds (c : ChanId) (f : Channel → Channel) : (s.modChan c f).rejectedEnds = s.rejectedEnds := rfl
@[simp] theorem modChan_mismatched (c : ChanId) (f : Channel → Channel) : (s.modChan c f).mismatched = s.mismatched := rfl
@[simp] theorem modChan_unplaced (c : ChanId) (f : Channel → Channel) : (s.modChan c f).unplaced = s.unplaced := rfl

/-! `modShelf` -/

@[simp] theorem modShelf_pending (i : ShelfId) (f : Shelf → Shelf) : (s.modShelf i f).pending = s.pending := rfl
@[simp] theorem modShelf_out (i : ShelfId) (f : Shelf → Shelf) : (s.modShelf i f).out = s.out := rfl
@[simp] theorem modShelf_fresh (i : ShelfId) (f : Shelf → Shelf) : (s.modShelf i f).fresh = s.fresh := rfl
@[simp] theorem modShelf_clk (i : ShelfId) (f : Shelf → Shelf) : (s.modShelf i f).clk = s.clk := rfl
@[simp] theorem modShelf_ports (i : ShelfId) (f : Shelf → Shelf) : (s.modShelf i f).ports = s.ports := rfl
@[simp] theorem modShelf_mgmtDrops (i : ShelfId) (f : Shelf → Shelf) : (s.modShelf i f).mgmtDrops = s.mgmtDrops := rfl
@[simp] theorem modShelf_rateCuts (i : ShelfId) (f : Shelf → Shelf) : (s.modShelf i f).rateCuts = s.rateCuts := rfl
@[simp] theorem modShelf_kws (i : ShelfId) (f : Shelf → Shelf) : (s.modShelf i f).kws = s.kws := rfl
@[simp] theorem modShelf_opr (i : ShelfId) (f : Shelf → Shelf) : (s.modShelf i f).opr = s.opr := rfl
@[simp] theorem modShelf_ops (i : ShelfId) (f : Shelf → Shelf) : (s.modShelf i f).ops = s.ops := rfl
@[simp] theorem modShelf_nextOp (i : ShelfId) (f : Shelf → Shelf) : (s.modShelf i f).nextOp = s.nextOp := rfl
@[simp] theorem modShelf_lookups (i : ShelfId) (f : Shelf → Shelf) : (s.modShelf i f).lookups = s.lookups := rfl
@[simp] theorem modShelf_reqs (i : ShelfId) (f : Shelf → Shelf) : (s.modShelf i f).reqs = s.reqs := rfl
@[simp] theorem modShelf_cfg (i : ShelfId) (f : Shelf → Shelf) : (s.modShelf i f).cfg = s.cfg := rfl
@[simp] theorem modShelf_rackEpoch (i : ShelfId) (f : Shelf → Shelf) : (s.modShelf i f).rackEpoch = s.rackEpoch := rfl
@[simp] theorem modShelf_rackEpochHigh (i : ShelfId) (f : Shelf → Shelf) : (s.modShelf i f).rackEpochHigh = s.rackEpochHigh := rfl
@[simp] theorem modShelf_parts (i : ShelfId) (f : Shelf → Shelf) : (s.modShelf i f).parts = s.parts := rfl
@[simp] theorem modShelf_hbm (i : ShelfId) (f : Shelf → Shelf) : (s.modShelf i f).hbm = s.hbm := rfl
@[simp] theorem modShelf_bufs (i : ShelfId) (f : Shelf → Shelf) : (s.modShelf i f).bufs = s.bufs := rfl
@[simp] theorem modShelf_sram (i : ShelfId) (f : Shelf → Shelf) : (s.modShelf i f).sram = s.sram := rfl
@[simp] theorem modShelf_acc (i : ShelfId) (f : Shelf → Shelf) : (s.modShelf i f).acc = s.acc := rfl
@[simp] theorem modShelf_poison (i : ShelfId) (f : Shelf → Shelf) : (s.modShelf i f).poison = s.poison := rfl
@[simp] theorem modShelf_cells (i : ShelfId) (f : Shelf → Shelf) : (s.modShelf i f).cells = s.cells := rfl
@[simp] theorem modShelf_mesh (i : ShelfId) (f : Shelf → Shelf) : (s.modShelf i f).mesh = s.mesh := rfl
@[simp] theorem modShelf_waitIn (i : ShelfId) (f : Shelf → Shelf) : (s.modShelf i f).waitIn = s.waitIn := rfl
@[simp] theorem modShelf_deadbolts (i : ShelfId) (f : Shelf → Shelf) : (s.modShelf i f).deadbolts = s.deadbolts := rfl
@[simp] theorem modShelf_chips (i : ShelfId) (f : Shelf → Shelf) : (s.modShelf i f).chips = s.chips := rfl
@[simp] theorem modShelf_quads (i : ShelfId) (f : Shelf → Shelf) : (s.modShelf i f).quads = s.quads := rfl
@[simp] theorem modShelf_links (i : ShelfId) (f : Shelf → Shelf) : (s.modShelf i f).links = s.links := rfl
@[simp] theorem modShelf_sends (i : ShelfId) (f : Shelf → Shelf) : (s.modShelf i f).sends = s.sends := rfl
@[simp] theorem modShelf_landings (i : ShelfId) (f : Shelf → Shelf) : (s.modShelf i f).landings = s.landings := rfl
@[simp] theorem modShelf_laneNext (i : ShelfId) (f : Shelf → Shelf) : (s.modShelf i f).laneNext = s.laneNext := rfl
@[simp] theorem modShelf_accept (i : ShelfId) (f : Shelf → Shelf) : (s.modShelf i f).accept = s.accept := rfl
@[simp] theorem modShelf_place (i : ShelfId) (f : Shelf → Shelf) : (s.modShelf i f).place = s.place := rfl
@[simp] theorem modShelf_kr (i : ShelfId) (f : Shelf → Shelf) : (s.modShelf i f).kr = s.kr := rfl
@[simp] theorem modShelf_sw (i : ShelfId) (f : Shelf → Shelf) : (s.modShelf i f).sw = s.sw := rfl
@[simp] theorem modShelf_chan (i : ShelfId) (f : Shelf → Shelf) : (s.modShelf i f).chan = s.chan := rfl
@[simp] theorem modShelf_batt (i : ShelfId) (f : Shelf → Shelf) : (s.modShelf i f).batt = s.batt := rfl
@[simp] theorem modShelf_pw (i : ShelfId) (f : Shelf → Shelf) : (s.modShelf i f).pw = s.pw := rfl
@[simp] theorem modShelf_meter (i : ShelfId) (f : Shelf → Shelf) : (s.modShelf i f).meter = s.meter := rfl
@[simp] theorem modShelf_trays (i : ShelfId) (f : Shelf → Shelf) : (s.modShelf i f).trays = s.trays := rfl
@[simp] theorem modShelf_rackLeak (i : ShelfId) (f : Shelf → Shelf) : (s.modShelf i f).rackLeak = s.rackLeak := rfl
@[simp] theorem modShelf_leakContact (i : ShelfId) (f : Shelf → Shelf) : (s.modShelf i f).leakContact = s.leakContact := rfl
@[simp] theorem modShelf_rmu (i : ShelfId) (f : Shelf → Shelf) : (s.modShelf i f).rmu = s.rmu := rfl
@[simp] theorem modShelf_resetReqs (i : ShelfId) (f : Shelf → Shelf) : (s.modShelf i f).resetReqs = s.resetReqs := rfl
@[simp] theorem modShelf_resets (i : ShelfId) (f : Shelf → Shelf) : (s.modShelf i f).resets = s.resets := rfl
@[simp] theorem modShelf_windows (i : ShelfId) (f : Shelf → Shelf) : (s.modShelf i f).windows = s.windows := rfl
@[simp] theorem modShelf_retry5 (i : ShelfId) (f : Shelf → Shelf) : (s.modShelf i f).retry5 = s.retry5 := rfl
@[simp] theorem modShelf_lockedChips (i : ShelfId) (f : Shelf → Shelf) : (s.modShelf i f).lockedChips = s.lockedChips := rfl
@[simp] theorem modShelf_lockedTrays (i : ShelfId) (f : Shelf → Shelf) : (s.modShelf i f).lockedTrays = s.lockedTrays := rfl
@[simp] theorem modShelf_serviceDue (i : ShelfId) (f : Shelf → Shelf) : (s.modShelf i f).serviceDue = s.serviceDue := rfl
@[simp] theorem modShelf_turn (i : ShelfId) (f : Shelf → Shelf) : (s.modShelf i f).turn = s.turn := rfl
@[simp] theorem modShelf_partTurns (i : ShelfId) (f : Shelf → Shelf) : (s.modShelf i f).partTurns = s.partTurns := rfl
@[simp] theorem modShelf_ready (i : ShelfId) (f : Shelf → Shelf) : (s.modShelf i f).ready = s.ready := rfl
@[simp] theorem modShelf_rejectedEnds (i : ShelfId) (f : Shelf → Shelf) : (s.modShelf i f).rejectedEnds = s.rejectedEnds := rfl
@[simp] theorem modShelf_mismatched (i : ShelfId) (f : Shelf → Shelf) : (s.modShelf i f).mismatched = s.mismatched := rfl
@[simp] theorem modShelf_unplaced (i : ShelfId) (f : Shelf → Shelf) : (s.modShelf i f).unplaced = s.unplaced := rfl

/-! `modBatt` -/

@[simp] theorem modBatt_pending (i : Fin 16) (f : Battery → Battery) : (s.modBatt i f).pending = s.pending := rfl
@[simp] theorem modBatt_out (i : Fin 16) (f : Battery → Battery) : (s.modBatt i f).out = s.out := rfl
@[simp] theorem modBatt_fresh (i : Fin 16) (f : Battery → Battery) : (s.modBatt i f).fresh = s.fresh := rfl
@[simp] theorem modBatt_clk (i : Fin 16) (f : Battery → Battery) : (s.modBatt i f).clk = s.clk := rfl
@[simp] theorem modBatt_ports (i : Fin 16) (f : Battery → Battery) : (s.modBatt i f).ports = s.ports := rfl
@[simp] theorem modBatt_mgmtDrops (i : Fin 16) (f : Battery → Battery) : (s.modBatt i f).mgmtDrops = s.mgmtDrops := rfl
@[simp] theorem modBatt_rateCuts (i : Fin 16) (f : Battery → Battery) : (s.modBatt i f).rateCuts = s.rateCuts := rfl
@[simp] theorem modBatt_kws (i : Fin 16) (f : Battery → Battery) : (s.modBatt i f).kws = s.kws := rfl
@[simp] theorem modBatt_opr (i : Fin 16) (f : Battery → Battery) : (s.modBatt i f).opr = s.opr := rfl
@[simp] theorem modBatt_ops (i : Fin 16) (f : Battery → Battery) : (s.modBatt i f).ops = s.ops := rfl
@[simp] theorem modBatt_nextOp (i : Fin 16) (f : Battery → Battery) : (s.modBatt i f).nextOp = s.nextOp := rfl
@[simp] theorem modBatt_lookups (i : Fin 16) (f : Battery → Battery) : (s.modBatt i f).lookups = s.lookups := rfl
@[simp] theorem modBatt_reqs (i : Fin 16) (f : Battery → Battery) : (s.modBatt i f).reqs = s.reqs := rfl
@[simp] theorem modBatt_cfg (i : Fin 16) (f : Battery → Battery) : (s.modBatt i f).cfg = s.cfg := rfl
@[simp] theorem modBatt_rackEpoch (i : Fin 16) (f : Battery → Battery) : (s.modBatt i f).rackEpoch = s.rackEpoch := rfl
@[simp] theorem modBatt_rackEpochHigh (i : Fin 16) (f : Battery → Battery) : (s.modBatt i f).rackEpochHigh = s.rackEpochHigh := rfl
@[simp] theorem modBatt_parts (i : Fin 16) (f : Battery → Battery) : (s.modBatt i f).parts = s.parts := rfl
@[simp] theorem modBatt_hbm (i : Fin 16) (f : Battery → Battery) : (s.modBatt i f).hbm = s.hbm := rfl
@[simp] theorem modBatt_bufs (i : Fin 16) (f : Battery → Battery) : (s.modBatt i f).bufs = s.bufs := rfl
@[simp] theorem modBatt_sram (i : Fin 16) (f : Battery → Battery) : (s.modBatt i f).sram = s.sram := rfl
@[simp] theorem modBatt_acc (i : Fin 16) (f : Battery → Battery) : (s.modBatt i f).acc = s.acc := rfl
@[simp] theorem modBatt_poison (i : Fin 16) (f : Battery → Battery) : (s.modBatt i f).poison = s.poison := rfl
@[simp] theorem modBatt_cells (i : Fin 16) (f : Battery → Battery) : (s.modBatt i f).cells = s.cells := rfl
@[simp] theorem modBatt_mesh (i : Fin 16) (f : Battery → Battery) : (s.modBatt i f).mesh = s.mesh := rfl
@[simp] theorem modBatt_waitIn (i : Fin 16) (f : Battery → Battery) : (s.modBatt i f).waitIn = s.waitIn := rfl
@[simp] theorem modBatt_deadbolts (i : Fin 16) (f : Battery → Battery) : (s.modBatt i f).deadbolts = s.deadbolts := rfl
@[simp] theorem modBatt_chips (i : Fin 16) (f : Battery → Battery) : (s.modBatt i f).chips = s.chips := rfl
@[simp] theorem modBatt_quads (i : Fin 16) (f : Battery → Battery) : (s.modBatt i f).quads = s.quads := rfl
@[simp] theorem modBatt_links (i : Fin 16) (f : Battery → Battery) : (s.modBatt i f).links = s.links := rfl
@[simp] theorem modBatt_sends (i : Fin 16) (f : Battery → Battery) : (s.modBatt i f).sends = s.sends := rfl
@[simp] theorem modBatt_landings (i : Fin 16) (f : Battery → Battery) : (s.modBatt i f).landings = s.landings := rfl
@[simp] theorem modBatt_laneNext (i : Fin 16) (f : Battery → Battery) : (s.modBatt i f).laneNext = s.laneNext := rfl
@[simp] theorem modBatt_accept (i : Fin 16) (f : Battery → Battery) : (s.modBatt i f).accept = s.accept := rfl
@[simp] theorem modBatt_place (i : Fin 16) (f : Battery → Battery) : (s.modBatt i f).place = s.place := rfl
@[simp] theorem modBatt_kr (i : Fin 16) (f : Battery → Battery) : (s.modBatt i f).kr = s.kr := rfl
@[simp] theorem modBatt_sw (i : Fin 16) (f : Battery → Battery) : (s.modBatt i f).sw = s.sw := rfl
@[simp] theorem modBatt_chan (i : Fin 16) (f : Battery → Battery) : (s.modBatt i f).chan = s.chan := rfl
@[simp] theorem modBatt_shelf (i : Fin 16) (f : Battery → Battery) : (s.modBatt i f).shelf = s.shelf := rfl
@[simp] theorem modBatt_pw (i : Fin 16) (f : Battery → Battery) : (s.modBatt i f).pw = s.pw := rfl
@[simp] theorem modBatt_meter (i : Fin 16) (f : Battery → Battery) : (s.modBatt i f).meter = s.meter := rfl
@[simp] theorem modBatt_trays (i : Fin 16) (f : Battery → Battery) : (s.modBatt i f).trays = s.trays := rfl
@[simp] theorem modBatt_rackLeak (i : Fin 16) (f : Battery → Battery) : (s.modBatt i f).rackLeak = s.rackLeak := rfl
@[simp] theorem modBatt_leakContact (i : Fin 16) (f : Battery → Battery) : (s.modBatt i f).leakContact = s.leakContact := rfl
@[simp] theorem modBatt_rmu (i : Fin 16) (f : Battery → Battery) : (s.modBatt i f).rmu = s.rmu := rfl
@[simp] theorem modBatt_resetReqs (i : Fin 16) (f : Battery → Battery) : (s.modBatt i f).resetReqs = s.resetReqs := rfl
@[simp] theorem modBatt_resets (i : Fin 16) (f : Battery → Battery) : (s.modBatt i f).resets = s.resets := rfl
@[simp] theorem modBatt_windows (i : Fin 16) (f : Battery → Battery) : (s.modBatt i f).windows = s.windows := rfl
@[simp] theorem modBatt_retry5 (i : Fin 16) (f : Battery → Battery) : (s.modBatt i f).retry5 = s.retry5 := rfl
@[simp] theorem modBatt_lockedChips (i : Fin 16) (f : Battery → Battery) : (s.modBatt i f).lockedChips = s.lockedChips := rfl
@[simp] theorem modBatt_lockedTrays (i : Fin 16) (f : Battery → Battery) : (s.modBatt i f).lockedTrays = s.lockedTrays := rfl
@[simp] theorem modBatt_serviceDue (i : Fin 16) (f : Battery → Battery) : (s.modBatt i f).serviceDue = s.serviceDue := rfl
@[simp] theorem modBatt_turn (i : Fin 16) (f : Battery → Battery) : (s.modBatt i f).turn = s.turn := rfl
@[simp] theorem modBatt_partTurns (i : Fin 16) (f : Battery → Battery) : (s.modBatt i f).partTurns = s.partTurns := rfl
@[simp] theorem modBatt_ready (i : Fin 16) (f : Battery → Battery) : (s.modBatt i f).ready = s.ready := rfl
@[simp] theorem modBatt_rejectedEnds (i : Fin 16) (f : Battery → Battery) : (s.modBatt i f).rejectedEnds = s.rejectedEnds := rfl
@[simp] theorem modBatt_mismatched (i : Fin 16) (f : Battery → Battery) : (s.modBatt i f).mismatched = s.mismatched := rfl
@[simp] theorem modBatt_unplaced (i : Fin 16) (f : Battery → Battery) : (s.modBatt i f).unplaced = s.unplaced := rfl

/-! `modTray` -/

@[simp] theorem modTray_pending (t : TrayId) (f : Tray → Tray) : (s.modTray t f).pending = s.pending := rfl
@[simp] theorem modTray_out (t : TrayId) (f : Tray → Tray) : (s.modTray t f).out = s.out := rfl
@[simp] theorem modTray_fresh (t : TrayId) (f : Tray → Tray) : (s.modTray t f).fresh = s.fresh := rfl
@[simp] theorem modTray_clk (t : TrayId) (f : Tray → Tray) : (s.modTray t f).clk = s.clk := rfl
@[simp] theorem modTray_ports (t : TrayId) (f : Tray → Tray) : (s.modTray t f).ports = s.ports := rfl
@[simp] theorem modTray_mgmtDrops (t : TrayId) (f : Tray → Tray) : (s.modTray t f).mgmtDrops = s.mgmtDrops := rfl
@[simp] theorem modTray_rateCuts (t : TrayId) (f : Tray → Tray) : (s.modTray t f).rateCuts = s.rateCuts := rfl
@[simp] theorem modTray_kws (t : TrayId) (f : Tray → Tray) : (s.modTray t f).kws = s.kws := rfl
@[simp] theorem modTray_opr (t : TrayId) (f : Tray → Tray) : (s.modTray t f).opr = s.opr := rfl
@[simp] theorem modTray_ops (t : TrayId) (f : Tray → Tray) : (s.modTray t f).ops = s.ops := rfl
@[simp] theorem modTray_nextOp (t : TrayId) (f : Tray → Tray) : (s.modTray t f).nextOp = s.nextOp := rfl
@[simp] theorem modTray_lookups (t : TrayId) (f : Tray → Tray) : (s.modTray t f).lookups = s.lookups := rfl
@[simp] theorem modTray_reqs (t : TrayId) (f : Tray → Tray) : (s.modTray t f).reqs = s.reqs := rfl
@[simp] theorem modTray_cfg (t : TrayId) (f : Tray → Tray) : (s.modTray t f).cfg = s.cfg := rfl
@[simp] theorem modTray_rackEpoch (t : TrayId) (f : Tray → Tray) : (s.modTray t f).rackEpoch = s.rackEpoch := rfl
@[simp] theorem modTray_rackEpochHigh (t : TrayId) (f : Tray → Tray) : (s.modTray t f).rackEpochHigh = s.rackEpochHigh := rfl
@[simp] theorem modTray_parts (t : TrayId) (f : Tray → Tray) : (s.modTray t f).parts = s.parts := rfl
@[simp] theorem modTray_hbm (t : TrayId) (f : Tray → Tray) : (s.modTray t f).hbm = s.hbm := rfl
@[simp] theorem modTray_bufs (t : TrayId) (f : Tray → Tray) : (s.modTray t f).bufs = s.bufs := rfl
@[simp] theorem modTray_sram (t : TrayId) (f : Tray → Tray) : (s.modTray t f).sram = s.sram := rfl
@[simp] theorem modTray_acc (t : TrayId) (f : Tray → Tray) : (s.modTray t f).acc = s.acc := rfl
@[simp] theorem modTray_poison (t : TrayId) (f : Tray → Tray) : (s.modTray t f).poison = s.poison := rfl
@[simp] theorem modTray_cells (t : TrayId) (f : Tray → Tray) : (s.modTray t f).cells = s.cells := rfl
@[simp] theorem modTray_mesh (t : TrayId) (f : Tray → Tray) : (s.modTray t f).mesh = s.mesh := rfl
@[simp] theorem modTray_waitIn (t : TrayId) (f : Tray → Tray) : (s.modTray t f).waitIn = s.waitIn := rfl
@[simp] theorem modTray_deadbolts (t : TrayId) (f : Tray → Tray) : (s.modTray t f).deadbolts = s.deadbolts := rfl
@[simp] theorem modTray_chips (t : TrayId) (f : Tray → Tray) : (s.modTray t f).chips = s.chips := rfl
@[simp] theorem modTray_quads (t : TrayId) (f : Tray → Tray) : (s.modTray t f).quads = s.quads := rfl
@[simp] theorem modTray_links (t : TrayId) (f : Tray → Tray) : (s.modTray t f).links = s.links := rfl
@[simp] theorem modTray_sends (t : TrayId) (f : Tray → Tray) : (s.modTray t f).sends = s.sends := rfl
@[simp] theorem modTray_landings (t : TrayId) (f : Tray → Tray) : (s.modTray t f).landings = s.landings := rfl
@[simp] theorem modTray_laneNext (t : TrayId) (f : Tray → Tray) : (s.modTray t f).laneNext = s.laneNext := rfl
@[simp] theorem modTray_accept (t : TrayId) (f : Tray → Tray) : (s.modTray t f).accept = s.accept := rfl
@[simp] theorem modTray_place (t : TrayId) (f : Tray → Tray) : (s.modTray t f).place = s.place := rfl
@[simp] theorem modTray_kr (t : TrayId) (f : Tray → Tray) : (s.modTray t f).kr = s.kr := rfl
@[simp] theorem modTray_sw (t : TrayId) (f : Tray → Tray) : (s.modTray t f).sw = s.sw := rfl
@[simp] theorem modTray_chan (t : TrayId) (f : Tray → Tray) : (s.modTray t f).chan = s.chan := rfl
@[simp] theorem modTray_shelf (t : TrayId) (f : Tray → Tray) : (s.modTray t f).shelf = s.shelf := rfl
@[simp] theorem modTray_batt (t : TrayId) (f : Tray → Tray) : (s.modTray t f).batt = s.batt := rfl
@[simp] theorem modTray_pw (t : TrayId) (f : Tray → Tray) : (s.modTray t f).pw = s.pw := rfl
@[simp] theorem modTray_meter (t : TrayId) (f : Tray → Tray) : (s.modTray t f).meter = s.meter := rfl
@[simp] theorem modTray_rackLeak (t : TrayId) (f : Tray → Tray) : (s.modTray t f).rackLeak = s.rackLeak := rfl
@[simp] theorem modTray_leakContact (t : TrayId) (f : Tray → Tray) : (s.modTray t f).leakContact = s.leakContact := rfl
@[simp] theorem modTray_rmu (t : TrayId) (f : Tray → Tray) : (s.modTray t f).rmu = s.rmu := rfl
@[simp] theorem modTray_resetReqs (t : TrayId) (f : Tray → Tray) : (s.modTray t f).resetReqs = s.resetReqs := rfl
@[simp] theorem modTray_resets (t : TrayId) (f : Tray → Tray) : (s.modTray t f).resets = s.resets := rfl
@[simp] theorem modTray_windows (t : TrayId) (f : Tray → Tray) : (s.modTray t f).windows = s.windows := rfl
@[simp] theorem modTray_retry5 (t : TrayId) (f : Tray → Tray) : (s.modTray t f).retry5 = s.retry5 := rfl
@[simp] theorem modTray_lockedChips (t : TrayId) (f : Tray → Tray) : (s.modTray t f).lockedChips = s.lockedChips := rfl
@[simp] theorem modTray_lockedTrays (t : TrayId) (f : Tray → Tray) : (s.modTray t f).lockedTrays = s.lockedTrays := rfl
@[simp] theorem modTray_serviceDue (t : TrayId) (f : Tray → Tray) : (s.modTray t f).serviceDue = s.serviceDue := rfl
@[simp] theorem modTray_turn (t : TrayId) (f : Tray → Tray) : (s.modTray t f).turn = s.turn := rfl
@[simp] theorem modTray_partTurns (t : TrayId) (f : Tray → Tray) : (s.modTray t f).partTurns = s.partTurns := rfl
@[simp] theorem modTray_ready (t : TrayId) (f : Tray → Tray) : (s.modTray t f).ready = s.ready := rfl
@[simp] theorem modTray_rejectedEnds (t : TrayId) (f : Tray → Tray) : (s.modTray t f).rejectedEnds = s.rejectedEnds := rfl
@[simp] theorem modTray_mismatched (t : TrayId) (f : Tray → Tray) : (s.modTray t f).mismatched = s.mismatched := rfl
@[simp] theorem modTray_unplaced (t : TrayId) (f : Tray → Tray) : (s.modTray t f).unplaced = s.unplaced := rfl

/-! `modRmu` -/

@[simp] theorem modRmu_pending (f : Rmu → Rmu) : (s.modRmu f).pending = s.pending := rfl
@[simp] theorem modRmu_out (f : Rmu → Rmu) : (s.modRmu f).out = s.out := rfl
@[simp] theorem modRmu_fresh (f : Rmu → Rmu) : (s.modRmu f).fresh = s.fresh := rfl
@[simp] theorem modRmu_clk (f : Rmu → Rmu) : (s.modRmu f).clk = s.clk := rfl
@[simp] theorem modRmu_ports (f : Rmu → Rmu) : (s.modRmu f).ports = s.ports := rfl
@[simp] theorem modRmu_mgmtDrops (f : Rmu → Rmu) : (s.modRmu f).mgmtDrops = s.mgmtDrops := rfl
@[simp] theorem modRmu_rateCuts (f : Rmu → Rmu) : (s.modRmu f).rateCuts = s.rateCuts := rfl
@[simp] theorem modRmu_kws (f : Rmu → Rmu) : (s.modRmu f).kws = s.kws := rfl
@[simp] theorem modRmu_opr (f : Rmu → Rmu) : (s.modRmu f).opr = s.opr := rfl
@[simp] theorem modRmu_ops (f : Rmu → Rmu) : (s.modRmu f).ops = s.ops := rfl
@[simp] theorem modRmu_nextOp (f : Rmu → Rmu) : (s.modRmu f).nextOp = s.nextOp := rfl
@[simp] theorem modRmu_lookups (f : Rmu → Rmu) : (s.modRmu f).lookups = s.lookups := rfl
@[simp] theorem modRmu_reqs (f : Rmu → Rmu) : (s.modRmu f).reqs = s.reqs := rfl
@[simp] theorem modRmu_cfg (f : Rmu → Rmu) : (s.modRmu f).cfg = s.cfg := rfl
@[simp] theorem modRmu_rackEpoch (f : Rmu → Rmu) : (s.modRmu f).rackEpoch = s.rackEpoch := rfl
@[simp] theorem modRmu_rackEpochHigh (f : Rmu → Rmu) : (s.modRmu f).rackEpochHigh = s.rackEpochHigh := rfl
@[simp] theorem modRmu_parts (f : Rmu → Rmu) : (s.modRmu f).parts = s.parts := rfl
@[simp] theorem modRmu_hbm (f : Rmu → Rmu) : (s.modRmu f).hbm = s.hbm := rfl
@[simp] theorem modRmu_bufs (f : Rmu → Rmu) : (s.modRmu f).bufs = s.bufs := rfl
@[simp] theorem modRmu_sram (f : Rmu → Rmu) : (s.modRmu f).sram = s.sram := rfl
@[simp] theorem modRmu_acc (f : Rmu → Rmu) : (s.modRmu f).acc = s.acc := rfl
@[simp] theorem modRmu_poison (f : Rmu → Rmu) : (s.modRmu f).poison = s.poison := rfl
@[simp] theorem modRmu_cells (f : Rmu → Rmu) : (s.modRmu f).cells = s.cells := rfl
@[simp] theorem modRmu_mesh (f : Rmu → Rmu) : (s.modRmu f).mesh = s.mesh := rfl
@[simp] theorem modRmu_waitIn (f : Rmu → Rmu) : (s.modRmu f).waitIn = s.waitIn := rfl
@[simp] theorem modRmu_deadbolts (f : Rmu → Rmu) : (s.modRmu f).deadbolts = s.deadbolts := rfl
@[simp] theorem modRmu_chips (f : Rmu → Rmu) : (s.modRmu f).chips = s.chips := rfl
@[simp] theorem modRmu_quads (f : Rmu → Rmu) : (s.modRmu f).quads = s.quads := rfl
@[simp] theorem modRmu_links (f : Rmu → Rmu) : (s.modRmu f).links = s.links := rfl
@[simp] theorem modRmu_sends (f : Rmu → Rmu) : (s.modRmu f).sends = s.sends := rfl
@[simp] theorem modRmu_landings (f : Rmu → Rmu) : (s.modRmu f).landings = s.landings := rfl
@[simp] theorem modRmu_laneNext (f : Rmu → Rmu) : (s.modRmu f).laneNext = s.laneNext := rfl
@[simp] theorem modRmu_accept (f : Rmu → Rmu) : (s.modRmu f).accept = s.accept := rfl
@[simp] theorem modRmu_place (f : Rmu → Rmu) : (s.modRmu f).place = s.place := rfl
@[simp] theorem modRmu_kr (f : Rmu → Rmu) : (s.modRmu f).kr = s.kr := rfl
@[simp] theorem modRmu_sw (f : Rmu → Rmu) : (s.modRmu f).sw = s.sw := rfl
@[simp] theorem modRmu_chan (f : Rmu → Rmu) : (s.modRmu f).chan = s.chan := rfl
@[simp] theorem modRmu_shelf (f : Rmu → Rmu) : (s.modRmu f).shelf = s.shelf := rfl
@[simp] theorem modRmu_batt (f : Rmu → Rmu) : (s.modRmu f).batt = s.batt := rfl
@[simp] theorem modRmu_pw (f : Rmu → Rmu) : (s.modRmu f).pw = s.pw := rfl
@[simp] theorem modRmu_meter (f : Rmu → Rmu) : (s.modRmu f).meter = s.meter := rfl
@[simp] theorem modRmu_trays (f : Rmu → Rmu) : (s.modRmu f).trays = s.trays := rfl
@[simp] theorem modRmu_rackLeak (f : Rmu → Rmu) : (s.modRmu f).rackLeak = s.rackLeak := rfl
@[simp] theorem modRmu_leakContact (f : Rmu → Rmu) : (s.modRmu f).leakContact = s.leakContact := rfl
@[simp] theorem modRmu_resetReqs (f : Rmu → Rmu) : (s.modRmu f).resetReqs = s.resetReqs := rfl
@[simp] theorem modRmu_resets (f : Rmu → Rmu) : (s.modRmu f).resets = s.resets := rfl
@[simp] theorem modRmu_windows (f : Rmu → Rmu) : (s.modRmu f).windows = s.windows := rfl
@[simp] theorem modRmu_retry5 (f : Rmu → Rmu) : (s.modRmu f).retry5 = s.retry5 := rfl
@[simp] theorem modRmu_lockedChips (f : Rmu → Rmu) : (s.modRmu f).lockedChips = s.lockedChips := rfl
@[simp] theorem modRmu_lockedTrays (f : Rmu → Rmu) : (s.modRmu f).lockedTrays = s.lockedTrays := rfl
@[simp] theorem modRmu_serviceDue (f : Rmu → Rmu) : (s.modRmu f).serviceDue = s.serviceDue := rfl
@[simp] theorem modRmu_turn (f : Rmu → Rmu) : (s.modRmu f).turn = s.turn := rfl
@[simp] theorem modRmu_partTurns (f : Rmu → Rmu) : (s.modRmu f).partTurns = s.partTurns := rfl
@[simp] theorem modRmu_ready (f : Rmu → Rmu) : (s.modRmu f).ready = s.ready := rfl
@[simp] theorem modRmu_rejectedEnds (f : Rmu → Rmu) : (s.modRmu f).rejectedEnds = s.rejectedEnds := rfl
@[simp] theorem modRmu_mismatched (f : Rmu → Rmu) : (s.modRmu f).mismatched = s.mismatched := rfl
@[simp] theorem modRmu_unplaced (f : Rmu → Rmu) : (s.modRmu f).unplaced = s.unplaced := rfl

/-! `tick` -/

@[simp] theorem tick_pending (t : Nat) : (s.tick t).pending = s.pending := rfl
@[simp] theorem tick_out (t : Nat) : (s.tick t).out = s.out := rfl
@[simp] theorem tick_fresh (t : Nat) : (s.tick t).fresh = s.fresh := rfl
@[simp] theorem tick_ports (t : Nat) : (s.tick t).ports = s.ports := rfl
@[simp] theorem tick_mgmtDrops (t : Nat) : (s.tick t).mgmtDrops = s.mgmtDrops := rfl
@[simp] theorem tick_rateCuts (t : Nat) : (s.tick t).rateCuts = s.rateCuts := rfl
@[simp] theorem tick_kws (t : Nat) : (s.tick t).kws = s.kws := rfl
@[simp] theorem tick_opr (t : Nat) : (s.tick t).opr = s.opr := rfl
@[simp] theorem tick_ops (t : Nat) : (s.tick t).ops = s.ops := rfl
@[simp] theorem tick_nextOp (t : Nat) : (s.tick t).nextOp = s.nextOp := rfl
@[simp] theorem tick_lookups (t : Nat) : (s.tick t).lookups = s.lookups := rfl
@[simp] theorem tick_reqs (t : Nat) : (s.tick t).reqs = s.reqs := rfl
@[simp] theorem tick_cfg (t : Nat) : (s.tick t).cfg = s.cfg := rfl
@[simp] theorem tick_rackEpoch (t : Nat) : (s.tick t).rackEpoch = s.rackEpoch := rfl
@[simp] theorem tick_rackEpochHigh (t : Nat) : (s.tick t).rackEpochHigh = s.rackEpochHigh := rfl
@[simp] theorem tick_parts (t : Nat) : (s.tick t).parts = s.parts := rfl
@[simp] theorem tick_hbm (t : Nat) : (s.tick t).hbm = s.hbm := rfl
@[simp] theorem tick_bufs (t : Nat) : (s.tick t).bufs = s.bufs := rfl
@[simp] theorem tick_sram (t : Nat) : (s.tick t).sram = s.sram := rfl
@[simp] theorem tick_acc (t : Nat) : (s.tick t).acc = s.acc := rfl
@[simp] theorem tick_poison (t : Nat) : (s.tick t).poison = s.poison := rfl
@[simp] theorem tick_cells (t : Nat) : (s.tick t).cells = s.cells := rfl
@[simp] theorem tick_mesh (t : Nat) : (s.tick t).mesh = s.mesh := rfl
@[simp] theorem tick_waitIn (t : Nat) : (s.tick t).waitIn = s.waitIn := rfl
@[simp] theorem tick_deadbolts (t : Nat) : (s.tick t).deadbolts = s.deadbolts := rfl
@[simp] theorem tick_chips (t : Nat) : (s.tick t).chips = s.chips := rfl
@[simp] theorem tick_quads (t : Nat) : (s.tick t).quads = s.quads := rfl
@[simp] theorem tick_links (t : Nat) : (s.tick t).links = s.links := rfl
@[simp] theorem tick_sends (t : Nat) : (s.tick t).sends = s.sends := rfl
@[simp] theorem tick_landings (t : Nat) : (s.tick t).landings = s.landings := rfl
@[simp] theorem tick_laneNext (t : Nat) : (s.tick t).laneNext = s.laneNext := rfl
@[simp] theorem tick_accept (t : Nat) : (s.tick t).accept = s.accept := rfl
@[simp] theorem tick_place (t : Nat) : (s.tick t).place = s.place := rfl
@[simp] theorem tick_kr (t : Nat) : (s.tick t).kr = s.kr := rfl
@[simp] theorem tick_sw (t : Nat) : (s.tick t).sw = s.sw := rfl
@[simp] theorem tick_chan (t : Nat) : (s.tick t).chan = s.chan := rfl
@[simp] theorem tick_shelf (t : Nat) : (s.tick t).shelf = s.shelf := rfl
@[simp] theorem tick_batt (t : Nat) : (s.tick t).batt = s.batt := rfl
@[simp] theorem tick_pw (t : Nat) : (s.tick t).pw = s.pw := rfl
@[simp] theorem tick_trays (t : Nat) : (s.tick t).trays = s.trays := rfl
@[simp] theorem tick_rackLeak (t : Nat) : (s.tick t).rackLeak = s.rackLeak := rfl
@[simp] theorem tick_leakContact (t : Nat) : (s.tick t).leakContact = s.leakContact := rfl
@[simp] theorem tick_rmu (t : Nat) : (s.tick t).rmu = s.rmu := rfl
@[simp] theorem tick_resetReqs (t : Nat) : (s.tick t).resetReqs = s.resetReqs := rfl
@[simp] theorem tick_resets (t : Nat) : (s.tick t).resets = s.resets := rfl
@[simp] theorem tick_windows (t : Nat) : (s.tick t).windows = s.windows := rfl
@[simp] theorem tick_retry5 (t : Nat) : (s.tick t).retry5 = s.retry5 := rfl
@[simp] theorem tick_lockedChips (t : Nat) : (s.tick t).lockedChips = s.lockedChips := rfl
@[simp] theorem tick_lockedTrays (t : Nat) : (s.tick t).lockedTrays = s.lockedTrays := rfl
@[simp] theorem tick_serviceDue (t : Nat) : (s.tick t).serviceDue = s.serviceDue := rfl
@[simp] theorem tick_turn (t : Nat) : (s.tick t).turn = s.turn := rfl
@[simp] theorem tick_partTurns (t : Nat) : (s.tick t).partTurns = s.partTurns := rfl
@[simp] theorem tick_ready (t : Nat) : (s.tick t).ready = s.ready := rfl
@[simp] theorem tick_rejectedEnds (t : Nat) : (s.tick t).rejectedEnds = s.rejectedEnds := rfl
@[simp] theorem tick_mismatched (t : Nat) : (s.tick t).mismatched = s.mismatched := rfl
@[simp] theorem tick_unplaced (t : Nat) : (s.tick t).unplaced = s.unplaced := rfl

/-! `useFresh` -/

@[simp] theorem useFresh_pending (k : Nat) : (s.useFresh k).pending = s.pending := rfl
@[simp] theorem useFresh_out (k : Nat) : (s.useFresh k).out = s.out := rfl
@[simp] theorem useFresh_clk (k : Nat) : (s.useFresh k).clk = s.clk := rfl
@[simp] theorem useFresh_ports (k : Nat) : (s.useFresh k).ports = s.ports := rfl
@[simp] theorem useFresh_mgmtDrops (k : Nat) : (s.useFresh k).mgmtDrops = s.mgmtDrops := rfl
@[simp] theorem useFresh_rateCuts (k : Nat) : (s.useFresh k).rateCuts = s.rateCuts := rfl
@[simp] theorem useFresh_kws (k : Nat) : (s.useFresh k).kws = s.kws := rfl
@[simp] theorem useFresh_opr (k : Nat) : (s.useFresh k).opr = s.opr := rfl
@[simp] theorem useFresh_ops (k : Nat) : (s.useFresh k).ops = s.ops := rfl
@[simp] theorem useFresh_nextOp (k : Nat) : (s.useFresh k).nextOp = s.nextOp := rfl
@[simp] theorem useFresh_lookups (k : Nat) : (s.useFresh k).lookups = s.lookups := rfl
@[simp] theorem useFresh_reqs (k : Nat) : (s.useFresh k).reqs = s.reqs := rfl
@[simp] theorem useFresh_cfg (k : Nat) : (s.useFresh k).cfg = s.cfg := rfl
@[simp] theorem useFresh_rackEpoch (k : Nat) : (s.useFresh k).rackEpoch = s.rackEpoch := rfl
@[simp] theorem useFresh_rackEpochHigh (k : Nat) : (s.useFresh k).rackEpochHigh = s.rackEpochHigh := rfl
@[simp] theorem useFresh_parts (k : Nat) : (s.useFresh k).parts = s.parts := rfl
@[simp] theorem useFresh_hbm (k : Nat) : (s.useFresh k).hbm = s.hbm := rfl
@[simp] theorem useFresh_bufs (k : Nat) : (s.useFresh k).bufs = s.bufs := rfl
@[simp] theorem useFresh_sram (k : Nat) : (s.useFresh k).sram = s.sram := rfl
@[simp] theorem useFresh_acc (k : Nat) : (s.useFresh k).acc = s.acc := rfl
@[simp] theorem useFresh_poison (k : Nat) : (s.useFresh k).poison = s.poison := rfl
@[simp] theorem useFresh_cells (k : Nat) : (s.useFresh k).cells = s.cells := rfl
@[simp] theorem useFresh_mesh (k : Nat) : (s.useFresh k).mesh = s.mesh := rfl
@[simp] theorem useFresh_waitIn (k : Nat) : (s.useFresh k).waitIn = s.waitIn := rfl
@[simp] theorem useFresh_deadbolts (k : Nat) : (s.useFresh k).deadbolts = s.deadbolts := rfl
@[simp] theorem useFresh_chips (k : Nat) : (s.useFresh k).chips = s.chips := rfl
@[simp] theorem useFresh_quads (k : Nat) : (s.useFresh k).quads = s.quads := rfl
@[simp] theorem useFresh_links (k : Nat) : (s.useFresh k).links = s.links := rfl
@[simp] theorem useFresh_sends (k : Nat) : (s.useFresh k).sends = s.sends := rfl
@[simp] theorem useFresh_landings (k : Nat) : (s.useFresh k).landings = s.landings := rfl
@[simp] theorem useFresh_laneNext (k : Nat) : (s.useFresh k).laneNext = s.laneNext := rfl
@[simp] theorem useFresh_accept (k : Nat) : (s.useFresh k).accept = s.accept := rfl
@[simp] theorem useFresh_place (k : Nat) : (s.useFresh k).place = s.place := rfl
@[simp] theorem useFresh_kr (k : Nat) : (s.useFresh k).kr = s.kr := rfl
@[simp] theorem useFresh_sw (k : Nat) : (s.useFresh k).sw = s.sw := rfl
@[simp] theorem useFresh_chan (k : Nat) : (s.useFresh k).chan = s.chan := rfl
@[simp] theorem useFresh_shelf (k : Nat) : (s.useFresh k).shelf = s.shelf := rfl
@[simp] theorem useFresh_batt (k : Nat) : (s.useFresh k).batt = s.batt := rfl
@[simp] theorem useFresh_pw (k : Nat) : (s.useFresh k).pw = s.pw := rfl
@[simp] theorem useFresh_meter (k : Nat) : (s.useFresh k).meter = s.meter := rfl
@[simp] theorem useFresh_trays (k : Nat) : (s.useFresh k).trays = s.trays := rfl
@[simp] theorem useFresh_rackLeak (k : Nat) : (s.useFresh k).rackLeak = s.rackLeak := rfl
@[simp] theorem useFresh_leakContact (k : Nat) : (s.useFresh k).leakContact = s.leakContact := rfl
@[simp] theorem useFresh_rmu (k : Nat) : (s.useFresh k).rmu = s.rmu := rfl
@[simp] theorem useFresh_resetReqs (k : Nat) : (s.useFresh k).resetReqs = s.resetReqs := rfl
@[simp] theorem useFresh_resets (k : Nat) : (s.useFresh k).resets = s.resets := rfl
@[simp] theorem useFresh_windows (k : Nat) : (s.useFresh k).windows = s.windows := rfl
@[simp] theorem useFresh_retry5 (k : Nat) : (s.useFresh k).retry5 = s.retry5 := rfl
@[simp] theorem useFresh_lockedChips (k : Nat) : (s.useFresh k).lockedChips = s.lockedChips := rfl
@[simp] theorem useFresh_lockedTrays (k : Nat) : (s.useFresh k).lockedTrays = s.lockedTrays := rfl
@[simp] theorem useFresh_serviceDue (k : Nat) : (s.useFresh k).serviceDue = s.serviceDue := rfl
@[simp] theorem useFresh_turn (k : Nat) : (s.useFresh k).turn = s.turn := rfl
@[simp] theorem useFresh_partTurns (k : Nat) : (s.useFresh k).partTurns = s.partTurns := rfl
@[simp] theorem useFresh_ready (k : Nat) : (s.useFresh k).ready = s.ready := rfl
@[simp] theorem useFresh_rejectedEnds (k : Nat) : (s.useFresh k).rejectedEnds = s.rejectedEnds := rfl
@[simp] theorem useFresh_mismatched (k : Nat) : (s.useFresh k).mismatched = s.mismatched := rfl
@[simp] theorem useFresh_unplaced (k : Nat) : (s.useFresh k).unplaced = s.unplaced := rfl

/-! `writeRun` -/

@[simp] theorem writeRun_pending (key : SetKey) (v : List Byte) : (s.writeRun key v).pending = s.pending := rfl
@[simp] theorem writeRun_out (key : SetKey) (v : List Byte) : (s.writeRun key v).out = s.out := rfl
@[simp] theorem writeRun_fresh (key : SetKey) (v : List Byte) : (s.writeRun key v).fresh = s.fresh := rfl
@[simp] theorem writeRun_clk (key : SetKey) (v : List Byte) : (s.writeRun key v).clk = s.clk := rfl
@[simp] theorem writeRun_ports (key : SetKey) (v : List Byte) : (s.writeRun key v).ports = s.ports := rfl
@[simp] theorem writeRun_mgmtDrops (key : SetKey) (v : List Byte) : (s.writeRun key v).mgmtDrops = s.mgmtDrops := rfl
@[simp] theorem writeRun_rateCuts (key : SetKey) (v : List Byte) : (s.writeRun key v).rateCuts = s.rateCuts := rfl
@[simp] theorem writeRun_kws (key : SetKey) (v : List Byte) : (s.writeRun key v).kws = s.kws := rfl
@[simp] theorem writeRun_opr (key : SetKey) (v : List Byte) : (s.writeRun key v).opr = s.opr := rfl
@[simp] theorem writeRun_ops (key : SetKey) (v : List Byte) : (s.writeRun key v).ops = s.ops := rfl
@[simp] theorem writeRun_nextOp (key : SetKey) (v : List Byte) : (s.writeRun key v).nextOp = s.nextOp := rfl
@[simp] theorem writeRun_lookups (key : SetKey) (v : List Byte) : (s.writeRun key v).lookups = s.lookups := rfl
@[simp] theorem writeRun_reqs (key : SetKey) (v : List Byte) : (s.writeRun key v).reqs = s.reqs := rfl
@[simp] theorem writeRun_rackEpoch (key : SetKey) (v : List Byte) : (s.writeRun key v).rackEpoch = s.rackEpoch := rfl
@[simp] theorem writeRun_rackEpochHigh (key : SetKey) (v : List Byte) : (s.writeRun key v).rackEpochHigh = s.rackEpochHigh := rfl
@[simp] theorem writeRun_parts (key : SetKey) (v : List Byte) : (s.writeRun key v).parts = s.parts := rfl
@[simp] theorem writeRun_hbm (key : SetKey) (v : List Byte) : (s.writeRun key v).hbm = s.hbm := rfl
@[simp] theorem writeRun_bufs (key : SetKey) (v : List Byte) : (s.writeRun key v).bufs = s.bufs := rfl
@[simp] theorem writeRun_sram (key : SetKey) (v : List Byte) : (s.writeRun key v).sram = s.sram := rfl
@[simp] theorem writeRun_acc (key : SetKey) (v : List Byte) : (s.writeRun key v).acc = s.acc := rfl
@[simp] theorem writeRun_poison (key : SetKey) (v : List Byte) : (s.writeRun key v).poison = s.poison := rfl
@[simp] theorem writeRun_cells (key : SetKey) (v : List Byte) : (s.writeRun key v).cells = s.cells := rfl
@[simp] theorem writeRun_mesh (key : SetKey) (v : List Byte) : (s.writeRun key v).mesh = s.mesh := rfl
@[simp] theorem writeRun_waitIn (key : SetKey) (v : List Byte) : (s.writeRun key v).waitIn = s.waitIn := rfl
@[simp] theorem writeRun_deadbolts (key : SetKey) (v : List Byte) : (s.writeRun key v).deadbolts = s.deadbolts := rfl
@[simp] theorem writeRun_chips (key : SetKey) (v : List Byte) : (s.writeRun key v).chips = s.chips := rfl
@[simp] theorem writeRun_quads (key : SetKey) (v : List Byte) : (s.writeRun key v).quads = s.quads := rfl
@[simp] theorem writeRun_links (key : SetKey) (v : List Byte) : (s.writeRun key v).links = s.links := rfl
@[simp] theorem writeRun_sends (key : SetKey) (v : List Byte) : (s.writeRun key v).sends = s.sends := rfl
@[simp] theorem writeRun_landings (key : SetKey) (v : List Byte) : (s.writeRun key v).landings = s.landings := rfl
@[simp] theorem writeRun_laneNext (key : SetKey) (v : List Byte) : (s.writeRun key v).laneNext = s.laneNext := rfl
@[simp] theorem writeRun_accept (key : SetKey) (v : List Byte) : (s.writeRun key v).accept = s.accept := rfl
@[simp] theorem writeRun_place (key : SetKey) (v : List Byte) : (s.writeRun key v).place = s.place := rfl
@[simp] theorem writeRun_kr (key : SetKey) (v : List Byte) : (s.writeRun key v).kr = s.kr := rfl
@[simp] theorem writeRun_sw (key : SetKey) (v : List Byte) : (s.writeRun key v).sw = s.sw := rfl
@[simp] theorem writeRun_chan (key : SetKey) (v : List Byte) : (s.writeRun key v).chan = s.chan := rfl
@[simp] theorem writeRun_shelf (key : SetKey) (v : List Byte) : (s.writeRun key v).shelf = s.shelf := rfl
@[simp] theorem writeRun_batt (key : SetKey) (v : List Byte) : (s.writeRun key v).batt = s.batt := rfl
@[simp] theorem writeRun_pw (key : SetKey) (v : List Byte) : (s.writeRun key v).pw = s.pw := rfl
@[simp] theorem writeRun_meter (key : SetKey) (v : List Byte) : (s.writeRun key v).meter = s.meter := rfl
@[simp] theorem writeRun_trays (key : SetKey) (v : List Byte) : (s.writeRun key v).trays = s.trays := rfl
@[simp] theorem writeRun_rackLeak (key : SetKey) (v : List Byte) : (s.writeRun key v).rackLeak = s.rackLeak := rfl
@[simp] theorem writeRun_leakContact (key : SetKey) (v : List Byte) : (s.writeRun key v).leakContact = s.leakContact := rfl
@[simp] theorem writeRun_rmu (key : SetKey) (v : List Byte) : (s.writeRun key v).rmu = s.rmu := rfl
@[simp] theorem writeRun_resetReqs (key : SetKey) (v : List Byte) : (s.writeRun key v).resetReqs = s.resetReqs := rfl
@[simp] theorem writeRun_resets (key : SetKey) (v : List Byte) : (s.writeRun key v).resets = s.resets := rfl
@[simp] theorem writeRun_windows (key : SetKey) (v : List Byte) : (s.writeRun key v).windows = s.windows := rfl
@[simp] theorem writeRun_retry5 (key : SetKey) (v : List Byte) : (s.writeRun key v).retry5 = s.retry5 := rfl
@[simp] theorem writeRun_lockedChips (key : SetKey) (v : List Byte) : (s.writeRun key v).lockedChips = s.lockedChips := rfl
@[simp] theorem writeRun_lockedTrays (key : SetKey) (v : List Byte) : (s.writeRun key v).lockedTrays = s.lockedTrays := rfl
@[simp] theorem writeRun_serviceDue (key : SetKey) (v : List Byte) : (s.writeRun key v).serviceDue = s.serviceDue := rfl
@[simp] theorem writeRun_turn (key : SetKey) (v : List Byte) : (s.writeRun key v).turn = s.turn := rfl
@[simp] theorem writeRun_partTurns (key : SetKey) (v : List Byte) : (s.writeRun key v).partTurns = s.partTurns := rfl
@[simp] theorem writeRun_ready (key : SetKey) (v : List Byte) : (s.writeRun key v).ready = s.ready := rfl
@[simp] theorem writeRun_rejectedEnds (key : SetKey) (v : List Byte) : (s.writeRun key v).rejectedEnds = s.rejectedEnds := rfl
@[simp] theorem writeRun_mismatched (key : SetKey) (v : List Byte) : (s.writeRun key v).mismatched = s.mismatched := rfl
@[simp] theorem writeRun_unplaced (key : SetKey) (v : List Byte) : (s.writeRun key v).unplaced = s.unplaced := rfl

/-! `dropRun` -/

@[simp] theorem dropRun_pending (f : SetKey → Bool) : (s.dropRun f).pending = s.pending := rfl
@[simp] theorem dropRun_out (f : SetKey → Bool) : (s.dropRun f).out = s.out := rfl
@[simp] theorem dropRun_fresh (f : SetKey → Bool) : (s.dropRun f).fresh = s.fresh := rfl
@[simp] theorem dropRun_clk (f : SetKey → Bool) : (s.dropRun f).clk = s.clk := rfl
@[simp] theorem dropRun_ports (f : SetKey → Bool) : (s.dropRun f).ports = s.ports := rfl
@[simp] theorem dropRun_mgmtDrops (f : SetKey → Bool) : (s.dropRun f).mgmtDrops = s.mgmtDrops := rfl
@[simp] theorem dropRun_rateCuts (f : SetKey → Bool) : (s.dropRun f).rateCuts = s.rateCuts := rfl
@[simp] theorem dropRun_kws (f : SetKey → Bool) : (s.dropRun f).kws = s.kws := rfl
@[simp] theorem dropRun_opr (f : SetKey → Bool) : (s.dropRun f).opr = s.opr := rfl
@[simp] theorem dropRun_ops (f : SetKey → Bool) : (s.dropRun f).ops = s.ops := rfl
@[simp] theorem dropRun_nextOp (f : SetKey → Bool) : (s.dropRun f).nextOp = s.nextOp := rfl
@[simp] theorem dropRun_lookups (f : SetKey → Bool) : (s.dropRun f).lookups = s.lookups := rfl
@[simp] theorem dropRun_reqs (f : SetKey → Bool) : (s.dropRun f).reqs = s.reqs := rfl
@[simp] theorem dropRun_rackEpoch (f : SetKey → Bool) : (s.dropRun f).rackEpoch = s.rackEpoch := rfl
@[simp] theorem dropRun_rackEpochHigh (f : SetKey → Bool) : (s.dropRun f).rackEpochHigh = s.rackEpochHigh := rfl
@[simp] theorem dropRun_parts (f : SetKey → Bool) : (s.dropRun f).parts = s.parts := rfl
@[simp] theorem dropRun_hbm (f : SetKey → Bool) : (s.dropRun f).hbm = s.hbm := rfl
@[simp] theorem dropRun_bufs (f : SetKey → Bool) : (s.dropRun f).bufs = s.bufs := rfl
@[simp] theorem dropRun_sram (f : SetKey → Bool) : (s.dropRun f).sram = s.sram := rfl
@[simp] theorem dropRun_acc (f : SetKey → Bool) : (s.dropRun f).acc = s.acc := rfl
@[simp] theorem dropRun_poison (f : SetKey → Bool) : (s.dropRun f).poison = s.poison := rfl
@[simp] theorem dropRun_cells (f : SetKey → Bool) : (s.dropRun f).cells = s.cells := rfl
@[simp] theorem dropRun_mesh (f : SetKey → Bool) : (s.dropRun f).mesh = s.mesh := rfl
@[simp] theorem dropRun_waitIn (f : SetKey → Bool) : (s.dropRun f).waitIn = s.waitIn := rfl
@[simp] theorem dropRun_deadbolts (f : SetKey → Bool) : (s.dropRun f).deadbolts = s.deadbolts := rfl
@[simp] theorem dropRun_chips (f : SetKey → Bool) : (s.dropRun f).chips = s.chips := rfl
@[simp] theorem dropRun_quads (f : SetKey → Bool) : (s.dropRun f).quads = s.quads := rfl
@[simp] theorem dropRun_links (f : SetKey → Bool) : (s.dropRun f).links = s.links := rfl
@[simp] theorem dropRun_sends (f : SetKey → Bool) : (s.dropRun f).sends = s.sends := rfl
@[simp] theorem dropRun_landings (f : SetKey → Bool) : (s.dropRun f).landings = s.landings := rfl
@[simp] theorem dropRun_laneNext (f : SetKey → Bool) : (s.dropRun f).laneNext = s.laneNext := rfl
@[simp] theorem dropRun_accept (f : SetKey → Bool) : (s.dropRun f).accept = s.accept := rfl
@[simp] theorem dropRun_place (f : SetKey → Bool) : (s.dropRun f).place = s.place := rfl
@[simp] theorem dropRun_kr (f : SetKey → Bool) : (s.dropRun f).kr = s.kr := rfl
@[simp] theorem dropRun_sw (f : SetKey → Bool) : (s.dropRun f).sw = s.sw := rfl
@[simp] theorem dropRun_chan (f : SetKey → Bool) : (s.dropRun f).chan = s.chan := rfl
@[simp] theorem dropRun_shelf (f : SetKey → Bool) : (s.dropRun f).shelf = s.shelf := rfl
@[simp] theorem dropRun_batt (f : SetKey → Bool) : (s.dropRun f).batt = s.batt := rfl
@[simp] theorem dropRun_pw (f : SetKey → Bool) : (s.dropRun f).pw = s.pw := rfl
@[simp] theorem dropRun_meter (f : SetKey → Bool) : (s.dropRun f).meter = s.meter := rfl
@[simp] theorem dropRun_trays (f : SetKey → Bool) : (s.dropRun f).trays = s.trays := rfl
@[simp] theorem dropRun_rackLeak (f : SetKey → Bool) : (s.dropRun f).rackLeak = s.rackLeak := rfl
@[simp] theorem dropRun_leakContact (f : SetKey → Bool) : (s.dropRun f).leakContact = s.leakContact := rfl
@[simp] theorem dropRun_rmu (f : SetKey → Bool) : (s.dropRun f).rmu = s.rmu := rfl
@[simp] theorem dropRun_resetReqs (f : SetKey → Bool) : (s.dropRun f).resetReqs = s.resetReqs := rfl
@[simp] theorem dropRun_resets (f : SetKey → Bool) : (s.dropRun f).resets = s.resets := rfl
@[simp] theorem dropRun_windows (f : SetKey → Bool) : (s.dropRun f).windows = s.windows := rfl
@[simp] theorem dropRun_retry5 (f : SetKey → Bool) : (s.dropRun f).retry5 = s.retry5 := rfl
@[simp] theorem dropRun_lockedChips (f : SetKey → Bool) : (s.dropRun f).lockedChips = s.lockedChips := rfl
@[simp] theorem dropRun_lockedTrays (f : SetKey → Bool) : (s.dropRun f).lockedTrays = s.lockedTrays := rfl
@[simp] theorem dropRun_serviceDue (f : SetKey → Bool) : (s.dropRun f).serviceDue = s.serviceDue := rfl
@[simp] theorem dropRun_turn (f : SetKey → Bool) : (s.dropRun f).turn = s.turn := rfl
@[simp] theorem dropRun_partTurns (f : SetKey → Bool) : (s.dropRun f).partTurns = s.partTurns := rfl
@[simp] theorem dropRun_ready (f : SetKey → Bool) : (s.dropRun f).ready = s.ready := rfl
@[simp] theorem dropRun_rejectedEnds (f : SetKey → Bool) : (s.dropRun f).rejectedEnds = s.rejectedEnds := rfl
@[simp] theorem dropRun_mismatched (f : SetKey → Bool) : (s.dropRun f).mismatched = s.mismatched := rfl
@[simp] theorem dropRun_unplaced (f : SetKey → Bool) : (s.dropRun f).unplaced = s.unplaced := rfl

/-! `addOp` -/

@[simp] theorem addOp_pending (e : Ep) (n : SessRef) (seq epoch : BitVec 32) (k : OpKind) : (s.addOp e n seq epoch k).pending = s.pending := rfl
@[simp] theorem addOp_out (e : Ep) (n : SessRef) (seq epoch : BitVec 32) (k : OpKind) : (s.addOp e n seq epoch k).out = s.out := rfl
@[simp] theorem addOp_fresh (e : Ep) (n : SessRef) (seq epoch : BitVec 32) (k : OpKind) : (s.addOp e n seq epoch k).fresh = s.fresh := rfl
@[simp] theorem addOp_clk (e : Ep) (n : SessRef) (seq epoch : BitVec 32) (k : OpKind) : (s.addOp e n seq epoch k).clk = s.clk := rfl
@[simp] theorem addOp_ports (e : Ep) (n : SessRef) (seq epoch : BitVec 32) (k : OpKind) : (s.addOp e n seq epoch k).ports = s.ports := rfl
@[simp] theorem addOp_mgmtDrops (e : Ep) (n : SessRef) (seq epoch : BitVec 32) (k : OpKind) : (s.addOp e n seq epoch k).mgmtDrops = s.mgmtDrops := rfl
@[simp] theorem addOp_rateCuts (e : Ep) (n : SessRef) (seq epoch : BitVec 32) (k : OpKind) : (s.addOp e n seq epoch k).rateCuts = s.rateCuts := rfl
@[simp] theorem addOp_kws (e : Ep) (n : SessRef) (seq epoch : BitVec 32) (k : OpKind) : (s.addOp e n seq epoch k).kws = s.kws := rfl
@[simp] theorem addOp_opr (e : Ep) (n : SessRef) (seq epoch : BitVec 32) (k : OpKind) : (s.addOp e n seq epoch k).opr = s.opr := rfl
@[simp] theorem addOp_lookups (e : Ep) (n : SessRef) (seq epoch : BitVec 32) (k : OpKind) : (s.addOp e n seq epoch k).lookups = s.lookups := rfl
@[simp] theorem addOp_reqs (e : Ep) (n : SessRef) (seq epoch : BitVec 32) (k : OpKind) : (s.addOp e n seq epoch k).reqs = s.reqs := rfl
@[simp] theorem addOp_cfg (e : Ep) (n : SessRef) (seq epoch : BitVec 32) (k : OpKind) : (s.addOp e n seq epoch k).cfg = s.cfg := rfl
@[simp] theorem addOp_rackEpoch (e : Ep) (n : SessRef) (seq epoch : BitVec 32) (k : OpKind) : (s.addOp e n seq epoch k).rackEpoch = s.rackEpoch := rfl
@[simp] theorem addOp_rackEpochHigh (e : Ep) (n : SessRef) (seq epoch : BitVec 32) (k : OpKind) : (s.addOp e n seq epoch k).rackEpochHigh = s.rackEpochHigh := rfl
@[simp] theorem addOp_parts (e : Ep) (n : SessRef) (seq epoch : BitVec 32) (k : OpKind) : (s.addOp e n seq epoch k).parts = s.parts := rfl
@[simp] theorem addOp_hbm (e : Ep) (n : SessRef) (seq epoch : BitVec 32) (k : OpKind) : (s.addOp e n seq epoch k).hbm = s.hbm := rfl
@[simp] theorem addOp_bufs (e : Ep) (n : SessRef) (seq epoch : BitVec 32) (k : OpKind) : (s.addOp e n seq epoch k).bufs = s.bufs := rfl
@[simp] theorem addOp_sram (e : Ep) (n : SessRef) (seq epoch : BitVec 32) (k : OpKind) : (s.addOp e n seq epoch k).sram = s.sram := rfl
@[simp] theorem addOp_acc (e : Ep) (n : SessRef) (seq epoch : BitVec 32) (k : OpKind) : (s.addOp e n seq epoch k).acc = s.acc := rfl
@[simp] theorem addOp_poison (e : Ep) (n : SessRef) (seq epoch : BitVec 32) (k : OpKind) : (s.addOp e n seq epoch k).poison = s.poison := rfl
@[simp] theorem addOp_cells (e : Ep) (n : SessRef) (seq epoch : BitVec 32) (k : OpKind) : (s.addOp e n seq epoch k).cells = s.cells := rfl
@[simp] theorem addOp_mesh (e : Ep) (n : SessRef) (seq epoch : BitVec 32) (k : OpKind) : (s.addOp e n seq epoch k).mesh = s.mesh := rfl
@[simp] theorem addOp_waitIn (e : Ep) (n : SessRef) (seq epoch : BitVec 32) (k : OpKind) : (s.addOp e n seq epoch k).waitIn = s.waitIn := rfl
@[simp] theorem addOp_deadbolts (e : Ep) (n : SessRef) (seq epoch : BitVec 32) (k : OpKind) : (s.addOp e n seq epoch k).deadbolts = s.deadbolts := rfl
@[simp] theorem addOp_chips (e : Ep) (n : SessRef) (seq epoch : BitVec 32) (k : OpKind) : (s.addOp e n seq epoch k).chips = s.chips := rfl
@[simp] theorem addOp_quads (e : Ep) (n : SessRef) (seq epoch : BitVec 32) (k : OpKind) : (s.addOp e n seq epoch k).quads = s.quads := rfl
@[simp] theorem addOp_links (e : Ep) (n : SessRef) (seq epoch : BitVec 32) (k : OpKind) : (s.addOp e n seq epoch k).links = s.links := rfl
@[simp] theorem addOp_sends (e : Ep) (n : SessRef) (seq epoch : BitVec 32) (k : OpKind) : (s.addOp e n seq epoch k).sends = s.sends := rfl
@[simp] theorem addOp_landings (e : Ep) (n : SessRef) (seq epoch : BitVec 32) (k : OpKind) : (s.addOp e n seq epoch k).landings = s.landings := rfl
@[simp] theorem addOp_laneNext (e : Ep) (n : SessRef) (seq epoch : BitVec 32) (k : OpKind) : (s.addOp e n seq epoch k).laneNext = s.laneNext := rfl
@[simp] theorem addOp_accept (e : Ep) (n : SessRef) (seq epoch : BitVec 32) (k : OpKind) : (s.addOp e n seq epoch k).accept = s.accept := rfl
@[simp] theorem addOp_place (e : Ep) (n : SessRef) (seq epoch : BitVec 32) (k : OpKind) : (s.addOp e n seq epoch k).place = s.place := rfl
@[simp] theorem addOp_kr (e : Ep) (n : SessRef) (seq epoch : BitVec 32) (k : OpKind) : (s.addOp e n seq epoch k).kr = s.kr := rfl
@[simp] theorem addOp_sw (e : Ep) (n : SessRef) (seq epoch : BitVec 32) (k : OpKind) : (s.addOp e n seq epoch k).sw = s.sw := rfl
@[simp] theorem addOp_chan (e : Ep) (n : SessRef) (seq epoch : BitVec 32) (k : OpKind) : (s.addOp e n seq epoch k).chan = s.chan := rfl
@[simp] theorem addOp_shelf (e : Ep) (n : SessRef) (seq epoch : BitVec 32) (k : OpKind) : (s.addOp e n seq epoch k).shelf = s.shelf := rfl
@[simp] theorem addOp_batt (e : Ep) (n : SessRef) (seq epoch : BitVec 32) (k : OpKind) : (s.addOp e n seq epoch k).batt = s.batt := rfl
@[simp] theorem addOp_pw (e : Ep) (n : SessRef) (seq epoch : BitVec 32) (k : OpKind) : (s.addOp e n seq epoch k).pw = s.pw := rfl
@[simp] theorem addOp_meter (e : Ep) (n : SessRef) (seq epoch : BitVec 32) (k : OpKind) : (s.addOp e n seq epoch k).meter = s.meter := rfl
@[simp] theorem addOp_trays (e : Ep) (n : SessRef) (seq epoch : BitVec 32) (k : OpKind) : (s.addOp e n seq epoch k).trays = s.trays := rfl
@[simp] theorem addOp_rackLeak (e : Ep) (n : SessRef) (seq epoch : BitVec 32) (k : OpKind) : (s.addOp e n seq epoch k).rackLeak = s.rackLeak := rfl
@[simp] theorem addOp_leakContact (e : Ep) (n : SessRef) (seq epoch : BitVec 32) (k : OpKind) : (s.addOp e n seq epoch k).leakContact = s.leakContact := rfl
@[simp] theorem addOp_rmu (e : Ep) (n : SessRef) (seq epoch : BitVec 32) (k : OpKind) : (s.addOp e n seq epoch k).rmu = s.rmu := rfl
@[simp] theorem addOp_resetReqs (e : Ep) (n : SessRef) (seq epoch : BitVec 32) (k : OpKind) : (s.addOp e n seq epoch k).resetReqs = s.resetReqs := rfl
@[simp] theorem addOp_resets (e : Ep) (n : SessRef) (seq epoch : BitVec 32) (k : OpKind) : (s.addOp e n seq epoch k).resets = s.resets := rfl
@[simp] theorem addOp_windows (e : Ep) (n : SessRef) (seq epoch : BitVec 32) (k : OpKind) : (s.addOp e n seq epoch k).windows = s.windows := rfl
@[simp] theorem addOp_retry5 (e : Ep) (n : SessRef) (seq epoch : BitVec 32) (k : OpKind) : (s.addOp e n seq epoch k).retry5 = s.retry5 := rfl
@[simp] theorem addOp_lockedChips (e : Ep) (n : SessRef) (seq epoch : BitVec 32) (k : OpKind) : (s.addOp e n seq epoch k).lockedChips = s.lockedChips := rfl
@[simp] theorem addOp_lockedTrays (e : Ep) (n : SessRef) (seq epoch : BitVec 32) (k : OpKind) : (s.addOp e n seq epoch k).lockedTrays = s.lockedTrays := rfl
@[simp] theorem addOp_serviceDue (e : Ep) (n : SessRef) (seq epoch : BitVec 32) (k : OpKind) : (s.addOp e n seq epoch k).serviceDue = s.serviceDue := rfl
@[simp] theorem addOp_turn (e : Ep) (n : SessRef) (seq epoch : BitVec 32) (k : OpKind) : (s.addOp e n seq epoch k).turn = s.turn := rfl
@[simp] theorem addOp_partTurns (e : Ep) (n : SessRef) (seq epoch : BitVec 32) (k : OpKind) : (s.addOp e n seq epoch k).partTurns = s.partTurns := rfl
@[simp] theorem addOp_ready (e : Ep) (n : SessRef) (seq epoch : BitVec 32) (k : OpKind) : (s.addOp e n seq epoch k).ready = s.ready := rfl
@[simp] theorem addOp_rejectedEnds (e : Ep) (n : SessRef) (seq epoch : BitVec 32) (k : OpKind) : (s.addOp e n seq epoch k).rejectedEnds = s.rejectedEnds := rfl
@[simp] theorem addOp_mismatched (e : Ep) (n : SessRef) (seq epoch : BitVec 32) (k : OpKind) : (s.addOp e n seq epoch k).mismatched = s.mismatched := rfl
@[simp] theorem addOp_unplaced (e : Ep) (n : SessRef) (seq epoch : BitVec 32) (k : OpKind) : (s.addOp e n seq epoch k).unplaced = s.unplaced := rfl

/-! `endOp` -/

@[simp] theorem endOp_pending (i : Nat) : (s.endOp i).pending = s.pending := rfl
@[simp] theorem endOp_out (i : Nat) : (s.endOp i).out = s.out := rfl
@[simp] theorem endOp_fresh (i : Nat) : (s.endOp i).fresh = s.fresh := rfl
@[simp] theorem endOp_clk (i : Nat) : (s.endOp i).clk = s.clk := rfl
@[simp] theorem endOp_ports (i : Nat) : (s.endOp i).ports = s.ports := rfl
@[simp] theorem endOp_mgmtDrops (i : Nat) : (s.endOp i).mgmtDrops = s.mgmtDrops := rfl
@[simp] theorem endOp_rateCuts (i : Nat) : (s.endOp i).rateCuts = s.rateCuts := rfl
@[simp] theorem endOp_kws (i : Nat) : (s.endOp i).kws = s.kws := rfl
@[simp] theorem endOp_opr (i : Nat) : (s.endOp i).opr = s.opr := rfl
@[simp] theorem endOp_nextOp (i : Nat) : (s.endOp i).nextOp = s.nextOp := rfl
@[simp] theorem endOp_lookups (i : Nat) : (s.endOp i).lookups = s.lookups := rfl
@[simp] theorem endOp_reqs (i : Nat) : (s.endOp i).reqs = s.reqs := rfl
@[simp] theorem endOp_cfg (i : Nat) : (s.endOp i).cfg = s.cfg := rfl
@[simp] theorem endOp_rackEpoch (i : Nat) : (s.endOp i).rackEpoch = s.rackEpoch := rfl
@[simp] theorem endOp_rackEpochHigh (i : Nat) : (s.endOp i).rackEpochHigh = s.rackEpochHigh := rfl
@[simp] theorem endOp_parts (i : Nat) : (s.endOp i).parts = s.parts := rfl
@[simp] theorem endOp_hbm (i : Nat) : (s.endOp i).hbm = s.hbm := rfl
@[simp] theorem endOp_bufs (i : Nat) : (s.endOp i).bufs = s.bufs := rfl
@[simp] theorem endOp_sram (i : Nat) : (s.endOp i).sram = s.sram := rfl
@[simp] theorem endOp_acc (i : Nat) : (s.endOp i).acc = s.acc := rfl
@[simp] theorem endOp_poison (i : Nat) : (s.endOp i).poison = s.poison := rfl
@[simp] theorem endOp_cells (i : Nat) : (s.endOp i).cells = s.cells := rfl
@[simp] theorem endOp_mesh (i : Nat) : (s.endOp i).mesh = s.mesh := rfl
@[simp] theorem endOp_waitIn (i : Nat) : (s.endOp i).waitIn = s.waitIn := rfl
@[simp] theorem endOp_deadbolts (i : Nat) : (s.endOp i).deadbolts = s.deadbolts := rfl
@[simp] theorem endOp_chips (i : Nat) : (s.endOp i).chips = s.chips := rfl
@[simp] theorem endOp_quads (i : Nat) : (s.endOp i).quads = s.quads := rfl
@[simp] theorem endOp_links (i : Nat) : (s.endOp i).links = s.links := rfl
@[simp] theorem endOp_sends (i : Nat) : (s.endOp i).sends = s.sends := rfl
@[simp] theorem endOp_landings (i : Nat) : (s.endOp i).landings = s.landings := rfl
@[simp] theorem endOp_laneNext (i : Nat) : (s.endOp i).laneNext = s.laneNext := rfl
@[simp] theorem endOp_accept (i : Nat) : (s.endOp i).accept = s.accept := rfl
@[simp] theorem endOp_place (i : Nat) : (s.endOp i).place = s.place := rfl
@[simp] theorem endOp_kr (i : Nat) : (s.endOp i).kr = s.kr := rfl
@[simp] theorem endOp_sw (i : Nat) : (s.endOp i).sw = s.sw := rfl
@[simp] theorem endOp_chan (i : Nat) : (s.endOp i).chan = s.chan := rfl
@[simp] theorem endOp_shelf (i : Nat) : (s.endOp i).shelf = s.shelf := rfl
@[simp] theorem endOp_batt (i : Nat) : (s.endOp i).batt = s.batt := rfl
@[simp] theorem endOp_pw (i : Nat) : (s.endOp i).pw = s.pw := rfl
@[simp] theorem endOp_meter (i : Nat) : (s.endOp i).meter = s.meter := rfl
@[simp] theorem endOp_trays (i : Nat) : (s.endOp i).trays = s.trays := rfl
@[simp] theorem endOp_rackLeak (i : Nat) : (s.endOp i).rackLeak = s.rackLeak := rfl
@[simp] theorem endOp_leakContact (i : Nat) : (s.endOp i).leakContact = s.leakContact := rfl
@[simp] theorem endOp_rmu (i : Nat) : (s.endOp i).rmu = s.rmu := rfl
@[simp] theorem endOp_resetReqs (i : Nat) : (s.endOp i).resetReqs = s.resetReqs := rfl
@[simp] theorem endOp_resets (i : Nat) : (s.endOp i).resets = s.resets := rfl
@[simp] theorem endOp_windows (i : Nat) : (s.endOp i).windows = s.windows := rfl
@[simp] theorem endOp_retry5 (i : Nat) : (s.endOp i).retry5 = s.retry5 := rfl
@[simp] theorem endOp_lockedChips (i : Nat) : (s.endOp i).lockedChips = s.lockedChips := rfl
@[simp] theorem endOp_lockedTrays (i : Nat) : (s.endOp i).lockedTrays = s.lockedTrays := rfl
@[simp] theorem endOp_serviceDue (i : Nat) : (s.endOp i).serviceDue = s.serviceDue := rfl
@[simp] theorem endOp_turn (i : Nat) : (s.endOp i).turn = s.turn := rfl
@[simp] theorem endOp_partTurns (i : Nat) : (s.endOp i).partTurns = s.partTurns := rfl
@[simp] theorem endOp_ready (i : Nat) : (s.endOp i).ready = s.ready := rfl
@[simp] theorem endOp_rejectedEnds (i : Nat) : (s.endOp i).rejectedEnds = s.rejectedEnds := rfl
@[simp] theorem endOp_mismatched (i : Nat) : (s.endOp i).mismatched = s.mismatched := rfl
@[simp] theorem endOp_unplaced (i : Nat) : (s.endOp i).unplaced = s.unplaced := rfl

/-! `modOp` -/

@[simp] theorem modOp_pending (i : Nat) (f : Op → Op) : (s.modOp i f).pending = s.pending := rfl
@[simp] theorem modOp_out (i : Nat) (f : Op → Op) : (s.modOp i f).out = s.out := rfl
@[simp] theorem modOp_fresh (i : Nat) (f : Op → Op) : (s.modOp i f).fresh = s.fresh := rfl
@[simp] theorem modOp_clk (i : Nat) (f : Op → Op) : (s.modOp i f).clk = s.clk := rfl
@[simp] theorem modOp_ports (i : Nat) (f : Op → Op) : (s.modOp i f).ports = s.ports := rfl
@[simp] theorem modOp_mgmtDrops (i : Nat) (f : Op → Op) : (s.modOp i f).mgmtDrops = s.mgmtDrops := rfl
@[simp] theorem modOp_rateCuts (i : Nat) (f : Op → Op) : (s.modOp i f).rateCuts = s.rateCuts := rfl
@[simp] theorem modOp_kws (i : Nat) (f : Op → Op) : (s.modOp i f).kws = s.kws := rfl
@[simp] theorem modOp_opr (i : Nat) (f : Op → Op) : (s.modOp i f).opr = s.opr := rfl
@[simp] theorem modOp_nextOp (i : Nat) (f : Op → Op) : (s.modOp i f).nextOp = s.nextOp := rfl
@[simp] theorem modOp_lookups (i : Nat) (f : Op → Op) : (s.modOp i f).lookups = s.lookups := rfl
@[simp] theorem modOp_reqs (i : Nat) (f : Op → Op) : (s.modOp i f).reqs = s.reqs := rfl
@[simp] theorem modOp_cfg (i : Nat) (f : Op → Op) : (s.modOp i f).cfg = s.cfg := rfl
@[simp] theorem modOp_rackEpoch (i : Nat) (f : Op → Op) : (s.modOp i f).rackEpoch = s.rackEpoch := rfl
@[simp] theorem modOp_rackEpochHigh (i : Nat) (f : Op → Op) : (s.modOp i f).rackEpochHigh = s.rackEpochHigh := rfl
@[simp] theorem modOp_parts (i : Nat) (f : Op → Op) : (s.modOp i f).parts = s.parts := rfl
@[simp] theorem modOp_hbm (i : Nat) (f : Op → Op) : (s.modOp i f).hbm = s.hbm := rfl
@[simp] theorem modOp_bufs (i : Nat) (f : Op → Op) : (s.modOp i f).bufs = s.bufs := rfl
@[simp] theorem modOp_sram (i : Nat) (f : Op → Op) : (s.modOp i f).sram = s.sram := rfl
@[simp] theorem modOp_acc (i : Nat) (f : Op → Op) : (s.modOp i f).acc = s.acc := rfl
@[simp] theorem modOp_poison (i : Nat) (f : Op → Op) : (s.modOp i f).poison = s.poison := rfl
@[simp] theorem modOp_cells (i : Nat) (f : Op → Op) : (s.modOp i f).cells = s.cells := rfl
@[simp] theorem modOp_mesh (i : Nat) (f : Op → Op) : (s.modOp i f).mesh = s.mesh := rfl
@[simp] theorem modOp_waitIn (i : Nat) (f : Op → Op) : (s.modOp i f).waitIn = s.waitIn := rfl
@[simp] theorem modOp_deadbolts (i : Nat) (f : Op → Op) : (s.modOp i f).deadbolts = s.deadbolts := rfl
@[simp] theorem modOp_chips (i : Nat) (f : Op → Op) : (s.modOp i f).chips = s.chips := rfl
@[simp] theorem modOp_quads (i : Nat) (f : Op → Op) : (s.modOp i f).quads = s.quads := rfl
@[simp] theorem modOp_links (i : Nat) (f : Op → Op) : (s.modOp i f).links = s.links := rfl
@[simp] theorem modOp_sends (i : Nat) (f : Op → Op) : (s.modOp i f).sends = s.sends := rfl
@[simp] theorem modOp_landings (i : Nat) (f : Op → Op) : (s.modOp i f).landings = s.landings := rfl
@[simp] theorem modOp_laneNext (i : Nat) (f : Op → Op) : (s.modOp i f).laneNext = s.laneNext := rfl
@[simp] theorem modOp_accept (i : Nat) (f : Op → Op) : (s.modOp i f).accept = s.accept := rfl
@[simp] theorem modOp_place (i : Nat) (f : Op → Op) : (s.modOp i f).place = s.place := rfl
@[simp] theorem modOp_kr (i : Nat) (f : Op → Op) : (s.modOp i f).kr = s.kr := rfl
@[simp] theorem modOp_sw (i : Nat) (f : Op → Op) : (s.modOp i f).sw = s.sw := rfl
@[simp] theorem modOp_chan (i : Nat) (f : Op → Op) : (s.modOp i f).chan = s.chan := rfl
@[simp] theorem modOp_shelf (i : Nat) (f : Op → Op) : (s.modOp i f).shelf = s.shelf := rfl
@[simp] theorem modOp_batt (i : Nat) (f : Op → Op) : (s.modOp i f).batt = s.batt := rfl
@[simp] theorem modOp_pw (i : Nat) (f : Op → Op) : (s.modOp i f).pw = s.pw := rfl
@[simp] theorem modOp_meter (i : Nat) (f : Op → Op) : (s.modOp i f).meter = s.meter := rfl
@[simp] theorem modOp_trays (i : Nat) (f : Op → Op) : (s.modOp i f).trays = s.trays := rfl
@[simp] theorem modOp_rackLeak (i : Nat) (f : Op → Op) : (s.modOp i f).rackLeak = s.rackLeak := rfl
@[simp] theorem modOp_leakContact (i : Nat) (f : Op → Op) : (s.modOp i f).leakContact = s.leakContact := rfl
@[simp] theorem modOp_rmu (i : Nat) (f : Op → Op) : (s.modOp i f).rmu = s.rmu := rfl
@[simp] theorem modOp_resetReqs (i : Nat) (f : Op → Op) : (s.modOp i f).resetReqs = s.resetReqs := rfl
@[simp] theorem modOp_resets (i : Nat) (f : Op → Op) : (s.modOp i f).resets = s.resets := rfl
@[simp] theorem modOp_windows (i : Nat) (f : Op → Op) : (s.modOp i f).windows = s.windows := rfl
@[simp] theorem modOp_retry5 (i : Nat) (f : Op → Op) : (s.modOp i f).retry5 = s.retry5 := rfl
@[simp] theorem modOp_lockedChips (i : Nat) (f : Op → Op) : (s.modOp i f).lockedChips = s.lockedChips := rfl
@[simp] theorem modOp_lockedTrays (i : Nat) (f : Op → Op) : (s.modOp i f).lockedTrays = s.lockedTrays := rfl
@[simp] theorem modOp_serviceDue (i : Nat) (f : Op → Op) : (s.modOp i f).serviceDue = s.serviceDue := rfl
@[simp] theorem modOp_turn (i : Nat) (f : Op → Op) : (s.modOp i f).turn = s.turn := rfl
@[simp] theorem modOp_partTurns (i : Nat) (f : Op → Op) : (s.modOp i f).partTurns = s.partTurns := rfl
@[simp] theorem modOp_ready (i : Nat) (f : Op → Op) : (s.modOp i f).ready = s.ready := rfl
@[simp] theorem modOp_rejectedEnds (i : Nat) (f : Op → Op) : (s.modOp i f).rejectedEnds = s.rejectedEnds := rfl
@[simp] theorem modOp_mismatched (i : Nat) (f : Op → Op) : (s.modOp i f).mismatched = s.mismatched := rfl
@[simp] theorem modOp_unplaced (i : Nat) (f : Op → Op) : (s.modOp i f).unplaced = s.unplaced := rfl

/-! `hbmPaste` -/

@[simp] theorem hbmPaste_pending (a n : Nat) (m : Memory) : (s.hbmPaste a n m).pending = s.pending := rfl
@[simp] theorem hbmPaste_out (a n : Nat) (m : Memory) : (s.hbmPaste a n m).out = s.out := rfl
@[simp] theorem hbmPaste_fresh (a n : Nat) (m : Memory) : (s.hbmPaste a n m).fresh = s.fresh := rfl
@[simp] theorem hbmPaste_clk (a n : Nat) (m : Memory) : (s.hbmPaste a n m).clk = s.clk := rfl
@[simp] theorem hbmPaste_ports (a n : Nat) (m : Memory) : (s.hbmPaste a n m).ports = s.ports := rfl
@[simp] theorem hbmPaste_mgmtDrops (a n : Nat) (m : Memory) : (s.hbmPaste a n m).mgmtDrops = s.mgmtDrops := rfl
@[simp] theorem hbmPaste_rateCuts (a n : Nat) (m : Memory) : (s.hbmPaste a n m).rateCuts = s.rateCuts := rfl
@[simp] theorem hbmPaste_kws (a n : Nat) (m : Memory) : (s.hbmPaste a n m).kws = s.kws := rfl
@[simp] theorem hbmPaste_opr (a n : Nat) (m : Memory) : (s.hbmPaste a n m).opr = s.opr := rfl
@[simp] theorem hbmPaste_ops (a n : Nat) (m : Memory) : (s.hbmPaste a n m).ops = s.ops := rfl
@[simp] theorem hbmPaste_nextOp (a n : Nat) (m : Memory) : (s.hbmPaste a n m).nextOp = s.nextOp := rfl
@[simp] theorem hbmPaste_lookups (a n : Nat) (m : Memory) : (s.hbmPaste a n m).lookups = s.lookups := rfl
@[simp] theorem hbmPaste_reqs (a n : Nat) (m : Memory) : (s.hbmPaste a n m).reqs = s.reqs := rfl
@[simp] theorem hbmPaste_cfg (a n : Nat) (m : Memory) : (s.hbmPaste a n m).cfg = s.cfg := rfl
@[simp] theorem hbmPaste_rackEpoch (a n : Nat) (m : Memory) : (s.hbmPaste a n m).rackEpoch = s.rackEpoch := rfl
@[simp] theorem hbmPaste_rackEpochHigh (a n : Nat) (m : Memory) : (s.hbmPaste a n m).rackEpochHigh = s.rackEpochHigh := rfl
@[simp] theorem hbmPaste_parts (a n : Nat) (m : Memory) : (s.hbmPaste a n m).parts = s.parts := rfl
@[simp] theorem hbmPaste_bufs (a n : Nat) (m : Memory) : (s.hbmPaste a n m).bufs = s.bufs := rfl
@[simp] theorem hbmPaste_sram (a n : Nat) (m : Memory) : (s.hbmPaste a n m).sram = s.sram := rfl
@[simp] theorem hbmPaste_acc (a n : Nat) (m : Memory) : (s.hbmPaste a n m).acc = s.acc := rfl
@[simp] theorem hbmPaste_cells (a n : Nat) (m : Memory) : (s.hbmPaste a n m).cells = s.cells := rfl
@[simp] theorem hbmPaste_mesh (a n : Nat) (m : Memory) : (s.hbmPaste a n m).mesh = s.mesh := rfl
@[simp] theorem hbmPaste_waitIn (a n : Nat) (m : Memory) : (s.hbmPaste a n m).waitIn = s.waitIn := rfl
@[simp] theorem hbmPaste_deadbolts (a n : Nat) (m : Memory) : (s.hbmPaste a n m).deadbolts = s.deadbolts := rfl
@[simp] theorem hbmPaste_chips (a n : Nat) (m : Memory) : (s.hbmPaste a n m).chips = s.chips := rfl
@[simp] theorem hbmPaste_quads (a n : Nat) (m : Memory) : (s.hbmPaste a n m).quads = s.quads := rfl
@[simp] theorem hbmPaste_links (a n : Nat) (m : Memory) : (s.hbmPaste a n m).links = s.links := rfl
@[simp] theorem hbmPaste_sends (a n : Nat) (m : Memory) : (s.hbmPaste a n m).sends = s.sends := rfl
@[simp] theorem hbmPaste_landings (a n : Nat) (m : Memory) : (s.hbmPaste a n m).landings = s.landings := rfl
@[simp] theorem hbmPaste_laneNext (a n : Nat) (m : Memory) : (s.hbmPaste a n m).laneNext = s.laneNext := rfl
@[simp] theorem hbmPaste_accept (a n : Nat) (m : Memory) : (s.hbmPaste a n m).accept = s.accept := rfl
@[simp] theorem hbmPaste_place (a n : Nat) (m : Memory) : (s.hbmPaste a n m).place = s.place := rfl
@[simp] theorem hbmPaste_kr (a n : Nat) (m : Memory) : (s.hbmPaste a n m).kr = s.kr := rfl
@[simp] theorem hbmPaste_sw (a n : Nat) (m : Memory) : (s.hbmPaste a n m).sw = s.sw := rfl
@[simp] theorem hbmPaste_chan (a n : Nat) (m : Memory) : (s.hbmPaste a n m).chan = s.chan := rfl
@[simp] theorem hbmPaste_shelf (a n : Nat) (m : Memory) : (s.hbmPaste a n m).shelf = s.shelf := rfl
@[simp] theorem hbmPaste_batt (a n : Nat) (m : Memory) : (s.hbmPaste a n m).batt = s.batt := rfl
@[simp] theorem hbmPaste_pw (a n : Nat) (m : Memory) : (s.hbmPaste a n m).pw = s.pw := rfl
@[simp] theorem hbmPaste_meter (a n : Nat) (m : Memory) : (s.hbmPaste a n m).meter = s.meter := rfl
@[simp] theorem hbmPaste_trays (a n : Nat) (m : Memory) : (s.hbmPaste a n m).trays = s.trays := rfl
@[simp] theorem hbmPaste_rackLeak (a n : Nat) (m : Memory) : (s.hbmPaste a n m).rackLeak = s.rackLeak := rfl
@[simp] theorem hbmPaste_leakContact (a n : Nat) (m : Memory) : (s.hbmPaste a n m).leakContact = s.leakContact := rfl
@[simp] theorem hbmPaste_rmu (a n : Nat) (m : Memory) : (s.hbmPaste a n m).rmu = s.rmu := rfl
@[simp] theorem hbmPaste_resetReqs (a n : Nat) (m : Memory) : (s.hbmPaste a n m).resetReqs = s.resetReqs := rfl
@[simp] theorem hbmPaste_resets (a n : Nat) (m : Memory) : (s.hbmPaste a n m).resets = s.resets := rfl
@[simp] theorem hbmPaste_windows (a n : Nat) (m : Memory) : (s.hbmPaste a n m).windows = s.windows := rfl
@[simp] theorem hbmPaste_retry5 (a n : Nat) (m : Memory) : (s.hbmPaste a n m).retry5 = s.retry5 := rfl
@[simp] theorem hbmPaste_lockedChips (a n : Nat) (m : Memory) : (s.hbmPaste a n m).lockedChips = s.lockedChips := rfl
@[simp] theorem hbmPaste_lockedTrays (a n : Nat) (m : Memory) : (s.hbmPaste a n m).lockedTrays = s.lockedTrays := rfl
@[simp] theorem hbmPaste_serviceDue (a n : Nat) (m : Memory) : (s.hbmPaste a n m).serviceDue = s.serviceDue := rfl
@[simp] theorem hbmPaste_turn (a n : Nat) (m : Memory) : (s.hbmPaste a n m).turn = s.turn := rfl
@[simp] theorem hbmPaste_partTurns (a n : Nat) (m : Memory) : (s.hbmPaste a n m).partTurns = s.partTurns := rfl
@[simp] theorem hbmPaste_ready (a n : Nat) (m : Memory) : (s.hbmPaste a n m).ready = s.ready := rfl
@[simp] theorem hbmPaste_rejectedEnds (a n : Nat) (m : Memory) : (s.hbmPaste a n m).rejectedEnds = s.rejectedEnds := rfl
@[simp] theorem hbmPaste_mismatched (a n : Nat) (m : Memory) : (s.hbmPaste a n m).mismatched = s.mismatched := rfl
@[simp] theorem hbmPaste_unplaced (a n : Nat) (m : Memory) : (s.hbmPaste a n m).unplaced = s.unplaced := rfl

/-! `logRec` -/

@[simp] theorem logRec_pending (c : Nat) (u : BitVec 16) (d : List Byte) (b a : Int) (rs : List (BitVec 128)) (fs : Option SessRef) : (s.logRec c u d b a rs fs).pending = s.pending := rfl
@[simp] theorem logRec_out (c : Nat) (u : BitVec 16) (d : List Byte) (b a : Int) (rs : List (BitVec 128)) (fs : Option SessRef) : (s.logRec c u d b a rs fs).out = s.out := rfl
@[simp] theorem logRec_fresh (c : Nat) (u : BitVec 16) (d : List Byte) (b a : Int) (rs : List (BitVec 128)) (fs : Option SessRef) : (s.logRec c u d b a rs fs).fresh = s.fresh := rfl
@[simp] theorem logRec_clk (c : Nat) (u : BitVec 16) (d : List Byte) (b a : Int) (rs : List (BitVec 128)) (fs : Option SessRef) : (s.logRec c u d b a rs fs).clk = s.clk := rfl
@[simp] theorem logRec_ports (c : Nat) (u : BitVec 16) (d : List Byte) (b a : Int) (rs : List (BitVec 128)) (fs : Option SessRef) : (s.logRec c u d b a rs fs).ports = s.ports := rfl
@[simp] theorem logRec_mgmtDrops (c : Nat) (u : BitVec 16) (d : List Byte) (b a : Int) (rs : List (BitVec 128)) (fs : Option SessRef) : (s.logRec c u d b a rs fs).mgmtDrops = s.mgmtDrops := rfl
@[simp] theorem logRec_rateCuts (c : Nat) (u : BitVec 16) (d : List Byte) (b a : Int) (rs : List (BitVec 128)) (fs : Option SessRef) : (s.logRec c u d b a rs fs).rateCuts = s.rateCuts := rfl
@[simp] theorem logRec_kws (c : Nat) (u : BitVec 16) (d : List Byte) (b a : Int) (rs : List (BitVec 128)) (fs : Option SessRef) : (s.logRec c u d b a rs fs).kws = s.kws := rfl
@[simp] theorem logRec_opr (c : Nat) (u : BitVec 16) (d : List Byte) (b a : Int) (rs : List (BitVec 128)) (fs : Option SessRef) : (s.logRec c u d b a rs fs).opr = s.opr := rfl
@[simp] theorem logRec_ops (c : Nat) (u : BitVec 16) (d : List Byte) (b a : Int) (rs : List (BitVec 128)) (fs : Option SessRef) : (s.logRec c u d b a rs fs).ops = s.ops := rfl
@[simp] theorem logRec_nextOp (c : Nat) (u : BitVec 16) (d : List Byte) (b a : Int) (rs : List (BitVec 128)) (fs : Option SessRef) : (s.logRec c u d b a rs fs).nextOp = s.nextOp := rfl
@[simp] theorem logRec_lookups (c : Nat) (u : BitVec 16) (d : List Byte) (b a : Int) (rs : List (BitVec 128)) (fs : Option SessRef) : (s.logRec c u d b a rs fs).lookups = s.lookups := rfl
@[simp] theorem logRec_reqs (c : Nat) (u : BitVec 16) (d : List Byte) (b a : Int) (rs : List (BitVec 128)) (fs : Option SessRef) : (s.logRec c u d b a rs fs).reqs = s.reqs := rfl
@[simp] theorem logRec_cfg (c : Nat) (u : BitVec 16) (d : List Byte) (b a : Int) (rs : List (BitVec 128)) (fs : Option SessRef) : (s.logRec c u d b a rs fs).cfg = s.cfg := rfl
@[simp] theorem logRec_rackEpoch (c : Nat) (u : BitVec 16) (d : List Byte) (b a : Int) (rs : List (BitVec 128)) (fs : Option SessRef) : (s.logRec c u d b a rs fs).rackEpoch = s.rackEpoch := rfl
@[simp] theorem logRec_rackEpochHigh (c : Nat) (u : BitVec 16) (d : List Byte) (b a : Int) (rs : List (BitVec 128)) (fs : Option SessRef) : (s.logRec c u d b a rs fs).rackEpochHigh = s.rackEpochHigh := rfl
@[simp] theorem logRec_parts (c : Nat) (u : BitVec 16) (d : List Byte) (b a : Int) (rs : List (BitVec 128)) (fs : Option SessRef) : (s.logRec c u d b a rs fs).parts = s.parts := rfl
@[simp] theorem logRec_hbm (c : Nat) (u : BitVec 16) (d : List Byte) (b a : Int) (rs : List (BitVec 128)) (fs : Option SessRef) : (s.logRec c u d b a rs fs).hbm = s.hbm := rfl
@[simp] theorem logRec_bufs (c : Nat) (u : BitVec 16) (d : List Byte) (b a : Int) (rs : List (BitVec 128)) (fs : Option SessRef) : (s.logRec c u d b a rs fs).bufs = s.bufs := rfl
@[simp] theorem logRec_sram (c : Nat) (u : BitVec 16) (d : List Byte) (b a : Int) (rs : List (BitVec 128)) (fs : Option SessRef) : (s.logRec c u d b a rs fs).sram = s.sram := rfl
@[simp] theorem logRec_acc (c : Nat) (u : BitVec 16) (d : List Byte) (b a : Int) (rs : List (BitVec 128)) (fs : Option SessRef) : (s.logRec c u d b a rs fs).acc = s.acc := rfl
@[simp] theorem logRec_poison (c : Nat) (u : BitVec 16) (d : List Byte) (b a : Int) (rs : List (BitVec 128)) (fs : Option SessRef) : (s.logRec c u d b a rs fs).poison = s.poison := rfl
@[simp] theorem logRec_cells (c : Nat) (u : BitVec 16) (d : List Byte) (b a : Int) (rs : List (BitVec 128)) (fs : Option SessRef) : (s.logRec c u d b a rs fs).cells = s.cells := rfl
@[simp] theorem logRec_mesh (c : Nat) (u : BitVec 16) (d : List Byte) (b a : Int) (rs : List (BitVec 128)) (fs : Option SessRef) : (s.logRec c u d b a rs fs).mesh = s.mesh := rfl
@[simp] theorem logRec_waitIn (c : Nat) (u : BitVec 16) (d : List Byte) (b a : Int) (rs : List (BitVec 128)) (fs : Option SessRef) : (s.logRec c u d b a rs fs).waitIn = s.waitIn := rfl
@[simp] theorem logRec_deadbolts (c : Nat) (u : BitVec 16) (d : List Byte) (b a : Int) (rs : List (BitVec 128)) (fs : Option SessRef) : (s.logRec c u d b a rs fs).deadbolts = s.deadbolts := rfl
@[simp] theorem logRec_chips (c : Nat) (u : BitVec 16) (d : List Byte) (b a : Int) (rs : List (BitVec 128)) (fs : Option SessRef) : (s.logRec c u d b a rs fs).chips = s.chips := rfl
@[simp] theorem logRec_quads (c : Nat) (u : BitVec 16) (d : List Byte) (b a : Int) (rs : List (BitVec 128)) (fs : Option SessRef) : (s.logRec c u d b a rs fs).quads = s.quads := rfl
@[simp] theorem logRec_links (c : Nat) (u : BitVec 16) (d : List Byte) (b a : Int) (rs : List (BitVec 128)) (fs : Option SessRef) : (s.logRec c u d b a rs fs).links = s.links := rfl
@[simp] theorem logRec_sends (c : Nat) (u : BitVec 16) (d : List Byte) (b a : Int) (rs : List (BitVec 128)) (fs : Option SessRef) : (s.logRec c u d b a rs fs).sends = s.sends := rfl
@[simp] theorem logRec_landings (c : Nat) (u : BitVec 16) (d : List Byte) (b a : Int) (rs : List (BitVec 128)) (fs : Option SessRef) : (s.logRec c u d b a rs fs).landings = s.landings := rfl
@[simp] theorem logRec_laneNext (c : Nat) (u : BitVec 16) (d : List Byte) (b a : Int) (rs : List (BitVec 128)) (fs : Option SessRef) : (s.logRec c u d b a rs fs).laneNext = s.laneNext := rfl
@[simp] theorem logRec_accept (c : Nat) (u : BitVec 16) (d : List Byte) (b a : Int) (rs : List (BitVec 128)) (fs : Option SessRef) : (s.logRec c u d b a rs fs).accept = s.accept := rfl
@[simp] theorem logRec_place (c : Nat) (u : BitVec 16) (d : List Byte) (b a : Int) (rs : List (BitVec 128)) (fs : Option SessRef) : (s.logRec c u d b a rs fs).place = s.place := rfl
@[simp] theorem logRec_kr (c : Nat) (u : BitVec 16) (d : List Byte) (b a : Int) (rs : List (BitVec 128)) (fs : Option SessRef) : (s.logRec c u d b a rs fs).kr = s.kr := rfl
@[simp] theorem logRec_sw (c : Nat) (u : BitVec 16) (d : List Byte) (b a : Int) (rs : List (BitVec 128)) (fs : Option SessRef) : (s.logRec c u d b a rs fs).sw = s.sw := rfl
@[simp] theorem logRec_chan (c : Nat) (u : BitVec 16) (d : List Byte) (b a : Int) (rs : List (BitVec 128)) (fs : Option SessRef) : (s.logRec c u d b a rs fs).chan = s.chan := rfl
@[simp] theorem logRec_shelf (c : Nat) (u : BitVec 16) (d : List Byte) (b a : Int) (rs : List (BitVec 128)) (fs : Option SessRef) : (s.logRec c u d b a rs fs).shelf = s.shelf := rfl
@[simp] theorem logRec_batt (c : Nat) (u : BitVec 16) (d : List Byte) (b a : Int) (rs : List (BitVec 128)) (fs : Option SessRef) : (s.logRec c u d b a rs fs).batt = s.batt := rfl
@[simp] theorem logRec_pw (c : Nat) (u : BitVec 16) (d : List Byte) (b a : Int) (rs : List (BitVec 128)) (fs : Option SessRef) : (s.logRec c u d b a rs fs).pw = s.pw := rfl
@[simp] theorem logRec_meter (c : Nat) (u : BitVec 16) (d : List Byte) (b a : Int) (rs : List (BitVec 128)) (fs : Option SessRef) : (s.logRec c u d b a rs fs).meter = s.meter := rfl
@[simp] theorem logRec_trays (c : Nat) (u : BitVec 16) (d : List Byte) (b a : Int) (rs : List (BitVec 128)) (fs : Option SessRef) : (s.logRec c u d b a rs fs).trays = s.trays := rfl
@[simp] theorem logRec_rackLeak (c : Nat) (u : BitVec 16) (d : List Byte) (b a : Int) (rs : List (BitVec 128)) (fs : Option SessRef) : (s.logRec c u d b a rs fs).rackLeak = s.rackLeak := rfl
@[simp] theorem logRec_leakContact (c : Nat) (u : BitVec 16) (d : List Byte) (b a : Int) (rs : List (BitVec 128)) (fs : Option SessRef) : (s.logRec c u d b a rs fs).leakContact = s.leakContact := rfl
@[simp] theorem logRec_resetReqs (c : Nat) (u : BitVec 16) (d : List Byte) (b a : Int) (rs : List (BitVec 128)) (fs : Option SessRef) : (s.logRec c u d b a rs fs).resetReqs = s.resetReqs := rfl
@[simp] theorem logRec_resets (c : Nat) (u : BitVec 16) (d : List Byte) (b a : Int) (rs : List (BitVec 128)) (fs : Option SessRef) : (s.logRec c u d b a rs fs).resets = s.resets := rfl
@[simp] theorem logRec_windows (c : Nat) (u : BitVec 16) (d : List Byte) (b a : Int) (rs : List (BitVec 128)) (fs : Option SessRef) : (s.logRec c u d b a rs fs).windows = s.windows := rfl
@[simp] theorem logRec_retry5 (c : Nat) (u : BitVec 16) (d : List Byte) (b a : Int) (rs : List (BitVec 128)) (fs : Option SessRef) : (s.logRec c u d b a rs fs).retry5 = s.retry5 := rfl
@[simp] theorem logRec_lockedChips (c : Nat) (u : BitVec 16) (d : List Byte) (b a : Int) (rs : List (BitVec 128)) (fs : Option SessRef) : (s.logRec c u d b a rs fs).lockedChips = s.lockedChips := rfl
@[simp] theorem logRec_lockedTrays (c : Nat) (u : BitVec 16) (d : List Byte) (b a : Int) (rs : List (BitVec 128)) (fs : Option SessRef) : (s.logRec c u d b a rs fs).lockedTrays = s.lockedTrays := rfl
@[simp] theorem logRec_serviceDue (c : Nat) (u : BitVec 16) (d : List Byte) (b a : Int) (rs : List (BitVec 128)) (fs : Option SessRef) : (s.logRec c u d b a rs fs).serviceDue = s.serviceDue := rfl
@[simp] theorem logRec_turn (c : Nat) (u : BitVec 16) (d : List Byte) (b a : Int) (rs : List (BitVec 128)) (fs : Option SessRef) : (s.logRec c u d b a rs fs).turn = s.turn := rfl
@[simp] theorem logRec_partTurns (c : Nat) (u : BitVec 16) (d : List Byte) (b a : Int) (rs : List (BitVec 128)) (fs : Option SessRef) : (s.logRec c u d b a rs fs).partTurns = s.partTurns := rfl
@[simp] theorem logRec_ready (c : Nat) (u : BitVec 16) (d : List Byte) (b a : Int) (rs : List (BitVec 128)) (fs : Option SessRef) : (s.logRec c u d b a rs fs).ready = s.ready := rfl
@[simp] theorem logRec_rejectedEnds (c : Nat) (u : BitVec 16) (d : List Byte) (b a : Int) (rs : List (BitVec 128)) (fs : Option SessRef) : (s.logRec c u d b a rs fs).rejectedEnds = s.rejectedEnds := rfl
@[simp] theorem logRec_mismatched (c : Nat) (u : BitVec 16) (d : List Byte) (b a : Int) (rs : List (BitVec 128)) (fs : Option SessRef) : (s.logRec c u d b a rs fs).mismatched = s.mismatched := rfl
@[simp] theorem logRec_unplaced (c : Nat) (u : BitVec 16) (d : List Byte) (b a : Int) (rs : List (BitVec 128)) (fs : Option SessRef) : (s.logRec c u d b a rs fs).unplaced = s.unplaced := rfl

/-! `log` -/

@[simp] theorem log_pending (c : Nat) (u : BitVec 16) (d : List Byte) : (s.log c u d).pending = s.pending := rfl
@[simp] theorem log_out (c : Nat) (u : BitVec 16) (d : List Byte) : (s.log c u d).out = s.out := rfl
@[simp] theorem log_fresh (c : Nat) (u : BitVec 16) (d : List Byte) : (s.log c u d).fresh = s.fresh := rfl
@[simp] theorem log_clk (c : Nat) (u : BitVec 16) (d : List Byte) : (s.log c u d).clk = s.clk := rfl
@[simp] theorem log_ports (c : Nat) (u : BitVec 16) (d : List Byte) : (s.log c u d).ports = s.ports := rfl
@[simp] theorem log_mgmtDrops (c : Nat) (u : BitVec 16) (d : List Byte) : (s.log c u d).mgmtDrops = s.mgmtDrops := rfl
@[simp] theorem log_rateCuts (c : Nat) (u : BitVec 16) (d : List Byte) : (s.log c u d).rateCuts = s.rateCuts := rfl
@[simp] theorem log_kws (c : Nat) (u : BitVec 16) (d : List Byte) : (s.log c u d).kws = s.kws := rfl
@[simp] theorem log_opr (c : Nat) (u : BitVec 16) (d : List Byte) : (s.log c u d).opr = s.opr := rfl
@[simp] theorem log_ops (c : Nat) (u : BitVec 16) (d : List Byte) : (s.log c u d).ops = s.ops := rfl
@[simp] theorem log_nextOp (c : Nat) (u : BitVec 16) (d : List Byte) : (s.log c u d).nextOp = s.nextOp := rfl
@[simp] theorem log_lookups (c : Nat) (u : BitVec 16) (d : List Byte) : (s.log c u d).lookups = s.lookups := rfl
@[simp] theorem log_reqs (c : Nat) (u : BitVec 16) (d : List Byte) : (s.log c u d).reqs = s.reqs := rfl
@[simp] theorem log_cfg (c : Nat) (u : BitVec 16) (d : List Byte) : (s.log c u d).cfg = s.cfg := rfl
@[simp] theorem log_rackEpoch (c : Nat) (u : BitVec 16) (d : List Byte) : (s.log c u d).rackEpoch = s.rackEpoch := rfl
@[simp] theorem log_rackEpochHigh (c : Nat) (u : BitVec 16) (d : List Byte) : (s.log c u d).rackEpochHigh = s.rackEpochHigh := rfl
@[simp] theorem log_parts (c : Nat) (u : BitVec 16) (d : List Byte) : (s.log c u d).parts = s.parts := rfl
@[simp] theorem log_hbm (c : Nat) (u : BitVec 16) (d : List Byte) : (s.log c u d).hbm = s.hbm := rfl
@[simp] theorem log_bufs (c : Nat) (u : BitVec 16) (d : List Byte) : (s.log c u d).bufs = s.bufs := rfl
@[simp] theorem log_sram (c : Nat) (u : BitVec 16) (d : List Byte) : (s.log c u d).sram = s.sram := rfl
@[simp] theorem log_acc (c : Nat) (u : BitVec 16) (d : List Byte) : (s.log c u d).acc = s.acc := rfl
@[simp] theorem log_poison (c : Nat) (u : BitVec 16) (d : List Byte) : (s.log c u d).poison = s.poison := rfl
@[simp] theorem log_cells (c : Nat) (u : BitVec 16) (d : List Byte) : (s.log c u d).cells = s.cells := rfl
@[simp] theorem log_mesh (c : Nat) (u : BitVec 16) (d : List Byte) : (s.log c u d).mesh = s.mesh := rfl
@[simp] theorem log_waitIn (c : Nat) (u : BitVec 16) (d : List Byte) : (s.log c u d).waitIn = s.waitIn := rfl
@[simp] theorem log_deadbolts (c : Nat) (u : BitVec 16) (d : List Byte) : (s.log c u d).deadbolts = s.deadbolts := rfl
@[simp] theorem log_chips (c : Nat) (u : BitVec 16) (d : List Byte) : (s.log c u d).chips = s.chips := rfl
@[simp] theorem log_quads (c : Nat) (u : BitVec 16) (d : List Byte) : (s.log c u d).quads = s.quads := rfl
@[simp] theorem log_links (c : Nat) (u : BitVec 16) (d : List Byte) : (s.log c u d).links = s.links := rfl
@[simp] theorem log_sends (c : Nat) (u : BitVec 16) (d : List Byte) : (s.log c u d).sends = s.sends := rfl
@[simp] theorem log_landings (c : Nat) (u : BitVec 16) (d : List Byte) : (s.log c u d).landings = s.landings := rfl
@[simp] theorem log_laneNext (c : Nat) (u : BitVec 16) (d : List Byte) : (s.log c u d).laneNext = s.laneNext := rfl
@[simp] theorem log_accept (c : Nat) (u : BitVec 16) (d : List Byte) : (s.log c u d).accept = s.accept := rfl
@[simp] theorem log_place (c : Nat) (u : BitVec 16) (d : List Byte) : (s.log c u d).place = s.place := rfl
@[simp] theorem log_kr (c : Nat) (u : BitVec 16) (d : List Byte) : (s.log c u d).kr = s.kr := rfl
@[simp] theorem log_sw (c : Nat) (u : BitVec 16) (d : List Byte) : (s.log c u d).sw = s.sw := rfl
@[simp] theorem log_chan (c : Nat) (u : BitVec 16) (d : List Byte) : (s.log c u d).chan = s.chan := rfl
@[simp] theorem log_shelf (c : Nat) (u : BitVec 16) (d : List Byte) : (s.log c u d).shelf = s.shelf := rfl
@[simp] theorem log_batt (c : Nat) (u : BitVec 16) (d : List Byte) : (s.log c u d).batt = s.batt := rfl
@[simp] theorem log_pw (c : Nat) (u : BitVec 16) (d : List Byte) : (s.log c u d).pw = s.pw := rfl
@[simp] theorem log_meter (c : Nat) (u : BitVec 16) (d : List Byte) : (s.log c u d).meter = s.meter := rfl
@[simp] theorem log_trays (c : Nat) (u : BitVec 16) (d : List Byte) : (s.log c u d).trays = s.trays := rfl
@[simp] theorem log_rackLeak (c : Nat) (u : BitVec 16) (d : List Byte) : (s.log c u d).rackLeak = s.rackLeak := rfl
@[simp] theorem log_leakContact (c : Nat) (u : BitVec 16) (d : List Byte) : (s.log c u d).leakContact = s.leakContact := rfl
@[simp] theorem log_resetReqs (c : Nat) (u : BitVec 16) (d : List Byte) : (s.log c u d).resetReqs = s.resetReqs := rfl
@[simp] theorem log_resets (c : Nat) (u : BitVec 16) (d : List Byte) : (s.log c u d).resets = s.resets := rfl
@[simp] theorem log_windows (c : Nat) (u : BitVec 16) (d : List Byte) : (s.log c u d).windows = s.windows := rfl
@[simp] theorem log_retry5 (c : Nat) (u : BitVec 16) (d : List Byte) : (s.log c u d).retry5 = s.retry5 := rfl
@[simp] theorem log_lockedChips (c : Nat) (u : BitVec 16) (d : List Byte) : (s.log c u d).lockedChips = s.lockedChips := rfl
@[simp] theorem log_lockedTrays (c : Nat) (u : BitVec 16) (d : List Byte) : (s.log c u d).lockedTrays = s.lockedTrays := rfl
@[simp] theorem log_serviceDue (c : Nat) (u : BitVec 16) (d : List Byte) : (s.log c u d).serviceDue = s.serviceDue := rfl
@[simp] theorem log_turn (c : Nat) (u : BitVec 16) (d : List Byte) : (s.log c u d).turn = s.turn := rfl
@[simp] theorem log_partTurns (c : Nat) (u : BitVec 16) (d : List Byte) : (s.log c u d).partTurns = s.partTurns := rfl
@[simp] theorem log_ready (c : Nat) (u : BitVec 16) (d : List Byte) : (s.log c u d).ready = s.ready := rfl
@[simp] theorem log_rejectedEnds (c : Nat) (u : BitVec 16) (d : List Byte) : (s.log c u d).rejectedEnds = s.rejectedEnds := rfl
@[simp] theorem log_mismatched (c : Nat) (u : BitVec 16) (d : List Byte) : (s.log c u d).mismatched = s.mismatched := rfl
@[simp] theorem log_unplaced (c : Nat) (u : BitVec 16) (d : List Byte) : (s.log c u d).unplaced = s.unplaced := rfl

/-! `bbox` -/

@[simp] theorem bbox_pending (n : ChipId) (c k : Nat) (d : List Byte) : (s.bbox n c k d).pending = s.pending := rfl
@[simp] theorem bbox_out (n : ChipId) (c k : Nat) (d : List Byte) : (s.bbox n c k d).out = s.out := rfl
@[simp] theorem bbox_fresh (n : ChipId) (c k : Nat) (d : List Byte) : (s.bbox n c k d).fresh = s.fresh := rfl
@[simp] theorem bbox_clk (n : ChipId) (c k : Nat) (d : List Byte) : (s.bbox n c k d).clk = s.clk := rfl
@[simp] theorem bbox_ports (n : ChipId) (c k : Nat) (d : List Byte) : (s.bbox n c k d).ports = s.ports := rfl
@[simp] theorem bbox_mgmtDrops (n : ChipId) (c k : Nat) (d : List Byte) : (s.bbox n c k d).mgmtDrops = s.mgmtDrops := rfl
@[simp] theorem bbox_rateCuts (n : ChipId) (c k : Nat) (d : List Byte) : (s.bbox n c k d).rateCuts = s.rateCuts := rfl
@[simp] theorem bbox_kws (n : ChipId) (c k : Nat) (d : List Byte) : (s.bbox n c k d).kws = s.kws := rfl
@[simp] theorem bbox_opr (n : ChipId) (c k : Nat) (d : List Byte) : (s.bbox n c k d).opr = s.opr := rfl
@[simp] theorem bbox_ops (n : ChipId) (c k : Nat) (d : List Byte) : (s.bbox n c k d).ops = s.ops := rfl
@[simp] theorem bbox_nextOp (n : ChipId) (c k : Nat) (d : List Byte) : (s.bbox n c k d).nextOp = s.nextOp := rfl
@[simp] theorem bbox_lookups (n : ChipId) (c k : Nat) (d : List Byte) : (s.bbox n c k d).lookups = s.lookups := rfl
@[simp] theorem bbox_reqs (n : ChipId) (c k : Nat) (d : List Byte) : (s.bbox n c k d).reqs = s.reqs := rfl
@[simp] theorem bbox_cfg (n : ChipId) (c k : Nat) (d : List Byte) : (s.bbox n c k d).cfg = s.cfg := rfl
@[simp] theorem bbox_rackEpoch (n : ChipId) (c k : Nat) (d : List Byte) : (s.bbox n c k d).rackEpoch = s.rackEpoch := rfl
@[simp] theorem bbox_rackEpochHigh (n : ChipId) (c k : Nat) (d : List Byte) : (s.bbox n c k d).rackEpochHigh = s.rackEpochHigh := rfl
@[simp] theorem bbox_parts (n : ChipId) (c k : Nat) (d : List Byte) : (s.bbox n c k d).parts = s.parts := rfl
@[simp] theorem bbox_hbm (n : ChipId) (c k : Nat) (d : List Byte) : (s.bbox n c k d).hbm = s.hbm := rfl
@[simp] theorem bbox_bufs (n : ChipId) (c k : Nat) (d : List Byte) : (s.bbox n c k d).bufs = s.bufs := rfl
@[simp] theorem bbox_sram (n : ChipId) (c k : Nat) (d : List Byte) : (s.bbox n c k d).sram = s.sram := rfl
@[simp] theorem bbox_acc (n : ChipId) (c k : Nat) (d : List Byte) : (s.bbox n c k d).acc = s.acc := rfl
@[simp] theorem bbox_poison (n : ChipId) (c k : Nat) (d : List Byte) : (s.bbox n c k d).poison = s.poison := rfl
@[simp] theorem bbox_cells (n : ChipId) (c k : Nat) (d : List Byte) : (s.bbox n c k d).cells = s.cells := rfl
@[simp] theorem bbox_mesh (n : ChipId) (c k : Nat) (d : List Byte) : (s.bbox n c k d).mesh = s.mesh := rfl
@[simp] theorem bbox_waitIn (n : ChipId) (c k : Nat) (d : List Byte) : (s.bbox n c k d).waitIn = s.waitIn := rfl
@[simp] theorem bbox_deadbolts (n : ChipId) (c k : Nat) (d : List Byte) : (s.bbox n c k d).deadbolts = s.deadbolts := rfl
@[simp] theorem bbox_quads (n : ChipId) (c k : Nat) (d : List Byte) : (s.bbox n c k d).quads = s.quads := rfl
@[simp] theorem bbox_links (n : ChipId) (c k : Nat) (d : List Byte) : (s.bbox n c k d).links = s.links := rfl
@[simp] theorem bbox_sends (n : ChipId) (c k : Nat) (d : List Byte) : (s.bbox n c k d).sends = s.sends := rfl
@[simp] theorem bbox_landings (n : ChipId) (c k : Nat) (d : List Byte) : (s.bbox n c k d).landings = s.landings := rfl
@[simp] theorem bbox_laneNext (n : ChipId) (c k : Nat) (d : List Byte) : (s.bbox n c k d).laneNext = s.laneNext := rfl
@[simp] theorem bbox_accept (n : ChipId) (c k : Nat) (d : List Byte) : (s.bbox n c k d).accept = s.accept := rfl
@[simp] theorem bbox_place (n : ChipId) (c k : Nat) (d : List Byte) : (s.bbox n c k d).place = s.place := rfl
@[simp] theorem bbox_kr (n : ChipId) (c k : Nat) (d : List Byte) : (s.bbox n c k d).kr = s.kr := rfl
@[simp] theorem bbox_sw (n : ChipId) (c k : Nat) (d : List Byte) : (s.bbox n c k d).sw = s.sw := rfl
@[simp] theorem bbox_chan (n : ChipId) (c k : Nat) (d : List Byte) : (s.bbox n c k d).chan = s.chan := rfl
@[simp] theorem bbox_shelf (n : ChipId) (c k : Nat) (d : List Byte) : (s.bbox n c k d).shelf = s.shelf := rfl
@[simp] theorem bbox_batt (n : ChipId) (c k : Nat) (d : List Byte) : (s.bbox n c k d).batt = s.batt := rfl
@[simp] theorem bbox_pw (n : ChipId) (c k : Nat) (d : List Byte) : (s.bbox n c k d).pw = s.pw := rfl
@[simp] theorem bbox_meter (n : ChipId) (c k : Nat) (d : List Byte) : (s.bbox n c k d).meter = s.meter := rfl
@[simp] theorem bbox_trays (n : ChipId) (c k : Nat) (d : List Byte) : (s.bbox n c k d).trays = s.trays := rfl
@[simp] theorem bbox_rackLeak (n : ChipId) (c k : Nat) (d : List Byte) : (s.bbox n c k d).rackLeak = s.rackLeak := rfl
@[simp] theorem bbox_leakContact (n : ChipId) (c k : Nat) (d : List Byte) : (s.bbox n c k d).leakContact = s.leakContact := rfl
@[simp] theorem bbox_rmu (n : ChipId) (c k : Nat) (d : List Byte) : (s.bbox n c k d).rmu = s.rmu := rfl
@[simp] theorem bbox_resetReqs (n : ChipId) (c k : Nat) (d : List Byte) : (s.bbox n c k d).resetReqs = s.resetReqs := rfl
@[simp] theorem bbox_resets (n : ChipId) (c k : Nat) (d : List Byte) : (s.bbox n c k d).resets = s.resets := rfl
@[simp] theorem bbox_windows (n : ChipId) (c k : Nat) (d : List Byte) : (s.bbox n c k d).windows = s.windows := rfl
@[simp] theorem bbox_retry5 (n : ChipId) (c k : Nat) (d : List Byte) : (s.bbox n c k d).retry5 = s.retry5 := rfl
@[simp] theorem bbox_lockedChips (n : ChipId) (c k : Nat) (d : List Byte) : (s.bbox n c k d).lockedChips = s.lockedChips := rfl
@[simp] theorem bbox_lockedTrays (n : ChipId) (c k : Nat) (d : List Byte) : (s.bbox n c k d).lockedTrays = s.lockedTrays := rfl
@[simp] theorem bbox_serviceDue (n : ChipId) (c k : Nat) (d : List Byte) : (s.bbox n c k d).serviceDue = s.serviceDue := rfl
@[simp] theorem bbox_turn (n : ChipId) (c k : Nat) (d : List Byte) : (s.bbox n c k d).turn = s.turn := rfl
@[simp] theorem bbox_partTurns (n : ChipId) (c k : Nat) (d : List Byte) : (s.bbox n c k d).partTurns = s.partTurns := rfl
@[simp] theorem bbox_ready (n : ChipId) (c k : Nat) (d : List Byte) : (s.bbox n c k d).ready = s.ready := rfl
@[simp] theorem bbox_rejectedEnds (n : ChipId) (c k : Nat) (d : List Byte) : (s.bbox n c k d).rejectedEnds = s.rejectedEnds := rfl
@[simp] theorem bbox_mismatched (n : ChipId) (c k : Nat) (d : List Byte) : (s.bbox n c k d).mismatched = s.mismatched := rfl
@[simp] theorem bbox_unplaced (n : ChipId) (c k : Nat) (d : List Byte) : (s.bbox n c k d).unplaced = s.unplaced := rfl

end Sys2Proof.Machine.State
end

