-- ==== Sys2Proof/Laws/Tables.lean ====
section
/-! SUPPORT. Tables by key: an entry read after a write, for every kind of unit. -/

namespace Sys2Proof.Machine

section Tab

variable {κ α : Type} [DecidableEq κ]

theorem Tab.get_filter_ne (m : Tab κ α) (d : α) {k j : κ} (h : j ≠ k) :
    Tab.get (m.filter fun e => e.1 ≠ k) d j = Tab.get m d j := by
  induction m with
  | nil => rfl
  | cons e m ih =>
    obtain ⟨i, v⟩ := e
    by_cases hi : i = k
    · subst hi
      simpa [Tab.get, h] using ih
    · by_cases hj : j = i <;> simp_all [Tab.get]

@[simp] theorem Tab.get_set_self (m : Tab κ α) (d : α) (k : κ) (v : α) : Tab.get (Tab.set m k v) d k = v := by
  simp [Tab.set, Tab.get]

theorem Tab.get_set_ne (m : Tab κ α) (d : α) {k j : κ} (v : α) (h : j ≠ k) :
    Tab.get (Tab.set m k v) d j = Tab.get m d j := by
  simp only [Tab.set, Tab.get, if_neg h]
  exact Tab.get_filter_ne m d h

theorem Tab.get_set (m : Tab κ α) (d : α) (k j : κ) (v : α) :
    Tab.get (Tab.set m k v) d j = if j = k then v else Tab.get m d j := by
  split
  · next h => subst h; exact Tab.get_set_self ..
  · next h => exact Tab.get_set_ne _ _ _ h

end Tab

/-! ### Units -/

namespace State

variable (s : State)

theorem part_setPart (p q : PartId) (v : Option Part) : (s.setPart p v).part q = if q = p then v else s.part q :=
  Tab.get_set ..

@[simp] theorem part_setPart_self (p : PartId) (v : Option Part) : (s.setPart p v).part p = v := Tab.get_set_self ..

theorem part_modPart (p q : PartId) (f : Part → Part) :
    (s.modPart p f).part q = if q = p then (s.part p).map f else s.part q := by
  unfold modPart
  split
  · next v h => rw [part_setPart, h]; rfl
  · next h =>
    split
    · next hq => subst hq; simp [h]
    · rfl

@[simp] theorem part_modPart_self (p : PartId) (f : Part → Part) : (s.modPart p f).part p = (s.part p).map f := by
  rw [part_modPart, if_pos rfl]

theorem kw_modKw (k j : KwId) (f : Keyway → Keyway) : (s.modKw k f).kw j = if j = k then f (s.kw k) else s.kw j :=
  Tab.get_set ..

@[simp] theorem kw_modKw_self (k : KwId) (f : Keyway → Keyway) : (s.modKw k f).kw k = f (s.kw k) := Tab.get_set_self ..

@[simp] theorem endp_modEp_self (e : Ep) (f : Keyway → Keyway) : (s.modEp e f).endp e = f (s.endp e) := by
  cases e with
  | kw k => exact Tab.get_set_self ..
  | op => rfl

theorem chip_modChip (n m : ChipId) (f : Chip → Chip) : (s.modChip n f).chip m = if m = n then f (s.chip n) else s.chip m :=
  Tab.get_set ..

@[simp] theorem chip_modChip_self (n : ChipId) (f : Chip → Chip) : (s.modChip n f).chip n = f (s.chip n) := Tab.get_set_self ..

theorem quad_modQuad (q r : QuadId) (f : Quad → Quad) : (s.modQuad q f).quad r = if r = q then f (s.quad q) else s.quad r :=
  Tab.get_set ..

theorem link_modLink (l k : LinkId) (f : Link → Link) : (s.modLink l f).link k = if k = l then f (s.link l) else s.link k :=
  Tab.get_set ..

theorem port_modPort (p q : HostPortId) (f : HostPort → HostPort) :
    (s.modPort p f).port q = if q = p then f (s.port p) else s.port q := Tab.get_set ..

theorem cell_modCell (c d : CellId) (f : CellState → CellState) :
    (s.modCell c f).cell d = if d = c then f (s.cell c) else s.cell d := Tab.get_set ..

theorem swt_modSw (i j : SwId) (f : SwTray → SwTray) : (s.modSw i f).swt j = if j = i then f (s.swt i) else s.swt j :=
  Tab.get_set ..

theorem channel_modChan (c d : ChanId) (f : Channel → Channel) :
    (s.modChan c f).channel d = if d = c then f (s.channel c) else s.channel d := Tab.get_set ..

@[simp] theorem channel_modChan_self (c : ChanId) (f : Channel → Channel) : (s.modChan c f).channel c = f (s.channel c) :=
  Tab.get_set_self ..

theorem shelfOf_modShelf (i j : ShelfId) (f : Shelf → Shelf) :
    (s.modShelf i f).shelfOf j = if j = i then f (s.shelfOf i) else s.shelfOf j := Tab.get_set ..

theorem battery_modBatt (i j : Fin 16) (f : Battery → Battery) :
    (s.modBatt i f).battery j = if j = i then f (s.battery i) else s.battery j := Tab.get_set ..

theorem tray_modTray (t u : TrayId) (f : Tray → Tray) : (s.modTray t f).tray u = if u = t then f (s.tray t) else s.tray u :=
  Tab.get_set ..

@[simp] theorem tray_modTray_self (t : TrayId) (f : Tray → Tray) : (s.modTray t f).tray t = f (s.tray t) := Tab.get_set_self ..

@[simp] theorem modRmu_rmu (f : Rmu → Rmu) : (s.modRmu f).rmu = f s.rmu := rfl
@[simp] theorem emit_out (o : Out) : (s.emit o).out = s.out ++ [o] := rfl
@[simp] theorem tick_clk (t : Nat) : (s.tick t).clk = tickClock s.clk t := rfl
@[simp] theorem useFresh_fresh (k : Nat) : (s.useFresh k).fresh = s.fresh + k := rfl

/-- A running value written is the one read back, and no other changes. -/
theorem running_writeRun (key j : SetKey) (v d : List Byte) :
    Tab.get (s.writeRun key v).cfg.running d j = if j = key then v else Tab.get s.cfg.running d j := Tab.get_set ..

@[simp] theorem op?_endOp (i : Nat) : (s.endOp i).op? i = none := by
  simp [endOp, op?, List.find?_eq_none]

theorem op?_endOp_ne {i j : Nat} (h : j ≠ i) : (s.endOp i).op? j = s.op? j := by
  simp only [endOp, op?, List.find?_filter]
  congr 1
  funext o
  by_cases ho : o.id = j <;> simp [ho, h]

end State

/-! ### Folds -/

/-- What every step of a fold leaves alone, the fold leaves alone. -/
theorem foldl_keeps {α β γ : Type} (f : β → α → β) (g : β → γ) (h : ∀ b a, g (f b a) = g b) (l : List α) (b : β) :
    g (l.foldl f b) = g b := by
  induction l generalizing b with
  | nil => rfl
  | cons a l ih => rw [List.foldl_cons, ih, h]

/-- What every step of a fold keeps, the fold keeps. -/
theorem foldl_invariant {α β : Type} (P : β → Prop) (f : β → α → β) (h : ∀ b a, P b → P (f b a)) (l : List α) (b : β)
    (hb : P b) : P (l.foldl f b) := by
  induction l generalizing b with
  | nil => exact hb
  | cons a l ih => exact ih _ (h b a hb)

end Sys2Proof.Machine
end

