-- ==== Sys2Proof/Laws/Memory.lean ====
section
/-! SUPPORT. Byte memories: every operation keeps the canonical form (log 8), and what a byte reads as after it. -/

namespace Sys2Proof.Machine.Memory

/-! ### Reading -/

theorem read_cons (c : Host.Cell) (m : Memory) (x : Nat) : read (c :: m) x = if c.1 = x then c.2 else read m x := by
  by_cases h : c.1 = x <;> simp [read, h]

@[simp] theorem read_nil (x : Nat) : read [] x = 0 := rfl

/-- An address that no cell names reads 0. -/
theorem read_absent {m : Memory} {x : Nat} (h : ∀ c ∈ m, c.1 ≠ x) : read m x = 0 := by
  have : m.find? (fun c => c.1 = x) = none := List.find?_eq_none.2 fun c hc => by simpa using h c hc
  simp only [read, this]

theorem read_append_left {l : Memory} (r : Memory) {x : Nat} (h : ∀ c ∈ r, c.1 ≠ x) : read (l ++ r) x = read l x := by
  induction l with
  | nil => exact read_absent h
  | cons c l ih => rw [List.cons_append, read_cons, read_cons, ih]

theorem read_append_right {l : Memory} (r : Memory) {x : Nat} (h : ∀ c ∈ l, c.1 ≠ x) : read (l ++ r) x = read r x := by
  induction l with
  | nil => rfl
  | cons c l ih =>
    rw [List.cons_append, read_cons, if_neg (h c (by simp))]
    exact ih fun d hd => h d (by simp [hd])

/-- A filter by address that keeps an address keeps what it reads as. -/
theorem read_filter (m : Memory) (p : Nat → Bool) {x : Nat} (h : p x = true) : read (m.filter fun c => p c.1) x = read m x := by
  induction m with
  | nil => rfl
  | cons c m ih =>
    rw [List.filter_cons]
    by_cases hc : c.1 = x
    · rw [if_pos (by rw [hc]; exact h), read_cons, read_cons, if_pos hc, if_pos hc]
    · by_cases hp : p c.1 = true
      · rw [if_pos hp, read_cons, read_cons, if_neg hc, if_neg hc, ih]
      · rw [if_neg hp, ih, read_cons, if_neg hc]

theorem read_shift (m : Memory) (a x : Nat) : read (m.map fun c => (c.1 + a, c.2)) (x + a) = read m x := by
  induction m with
  | nil => rfl
  | cons c m ih =>
    simp only [List.map_cons, read_cons, ih, Nat.add_right_cancel_iff]

/-! ### The canonical form -/

/-- A memory whose addresses all lie above a. -/
theorem wf_cons {c : Host.Cell} {m : Memory} (h : wf (c :: m)) : wf m ∧ (∀ d ∈ m, c.1 < d.1) ∧ c.2 ≠ 0 :=
  ⟨⟨(List.pairwise_cons.1 h.1).2, fun d hd => h.2 d (by simp [hd])⟩, (List.pairwise_cons.1 h.1).1, h.2 c (by simp)⟩

theorem wf_of_cons {c : Host.Cell} {m : Memory} (h : wf m) (hlt : ∀ d ∈ m, c.1 < d.1) (hc : c.2 ≠ 0) : wf (c :: m) :=
  ⟨List.pairwise_cons.2 ⟨hlt, h.1⟩, fun d hd => by
    rcases List.mem_cons.1 hd with rfl | hd
    · exact hc
    · exact h.2 d hd⟩

theorem wf_nil : wf [] := ⟨List.Pairwise.nil, by simp⟩

theorem wf_filter {m : Memory} (h : wf m) (p : Host.Cell → Bool) : wf (m.filter p) :=
  ⟨h.1.filter p, fun c hc => h.2 c (List.mem_filter.1 hc).1⟩

/-- Where a stored byte leaves cells. -/
theorem mem_put {m : Memory} {a : Nat} {b : Byte} {c : Host.Cell} (h : c ∈ put m a b) : c ∈ m ∨ c = (a, b) ∧ b ≠ 0 := by
  induction m with
  | nil =>
    simp only [put] at h
    split at h <;> simp_all
  | cons d m ih =>
    simp only [put] at h
    split at h
    · split at h
      · exact .inl h
      · rcases List.mem_cons.1 h with h | h
        · exact .inr ⟨h, by assumption⟩
        · exact .inl h
    · split at h
      · split at h
        · exact .inl (by simp [h])
        · rcases List.mem_cons.1 h with h | h
          · exact .inr ⟨h, by assumption⟩
          · exact .inl (by simp [h])
      · rcases List.mem_cons.1 h with h | h
        · exact .inl (by simp [h])
        · rcases ih h with h | h
          · exact .inl (by simp [h])
          · exact .inr h

/-- A byte stored keeps the canonical form. -/
theorem wf_put {m : Memory} (a : Nat) (b : Byte) (h : wf m) : wf (put m a b) := by
  induction m with
  | nil =>
    simp only [put]
    split
    · exact wf_nil
    · exact wf_of_cons wf_nil (by simp) (by assumption)
  | cons d m ih =>
    obtain ⟨hm, hlt, hd⟩ := wf_cons h
    simp only [put]
    split
    · next ha =>
      split
      · exact h
      · refine wf_of_cons h (fun e he => ?_) (by assumption)
        rcases List.mem_cons.1 he with rfl | he
        · exact ha
        · exact Nat.lt_trans ha (hlt e he)
    · split
      · next ha =>
        split
        · exact hm
        · exact wf_of_cons hm (fun e he => by simpa [ha] using hlt e he) (by assumption)
      · next h1 h2 =>
        refine wf_of_cons (ih hm) (fun e he => ?_) hd
        rcases mem_put he with he | ⟨rfl, -⟩
        · exact hlt e he
        · simp only; omega

/-- A byte reads as it was stored, and no other changes. -/
theorem read_put {m : Memory} (h : wf m) (a x : Nat) (b : Byte) : read (put m a b) x = if x = a then b else read m x := by
  induction m with
  | nil =>
    simp only [put]
    split
    · next hb => split <;> simp [hb]
    · rw [read_cons]
      by_cases hx : x = a
      · simp [hx]
      · rw [if_neg (by simpa using fun e => hx e.symm), if_neg hx]
  | cons d m ih =>
    obtain ⟨hm, hlt, hd⟩ := wf_cons h
    simp only [put]
    split
    · next ha =>
      have hmiss : read (d :: m) a = 0 := by
        refine read_absent fun c hc => ?_
        rcases List.mem_cons.1 hc with rfl | hc
        · omega
        · have := hlt c hc; omega
      split
      · next hb =>
        split
        · next hx => rw [hx, hmiss, hb]
        · rfl
      · by_cases hx : x = a
        · simp [hx, read_cons]
        · rw [read_cons, if_neg (by simpa using fun e => hx e.symm), if_neg hx]
    · split
      · next ha =>
        have hmiss : read m a = 0 := read_absent fun c hc => by have := hlt c hc; omega
        by_cases hx : x = a
        · split
          · next hb => rw [hx, hmiss, hb]
          · rw [read_cons, if_pos (by simpa using hx.symm)]
        · split
          · rw [read_cons, if_neg (by omega)]
          · rw [read_cons, if_neg (by simpa using fun e => hx e.symm), read_cons, if_neg (by omega)]
      · next h1 h2 =>
        rw [read_cons, read_cons, ih hm]
        by_cases hx : x = a
        · rw [if_neg (by omega), if_pos hx, if_pos hx]
        · rw [if_neg hx, if_neg hx]

theorem wf_canon (l : List Host.Cell) : wf (canon l) := by
  induction l with
  | nil => exact wf_nil
  | cons c l ih => exact wf_put _ _ ih

theorem read_canon (l : List Host.Cell) (x : Nat) : read (canon l) x = read l x := by
  induction l with
  | nil => rfl
  | cons c l ih =>
    change read (put (canon l) c.1 c.2) x = _
    rw [read_put (wf_canon l), read_cons, ih]
    by_cases h : x = c.1 <;> simp [h, eq_comm]

/-! ### Ranges -/

theorem mem_pasted {m : Memory} {a n : Nat} {c : Host.Cell}
    (h : c ∈ (m.filter fun d => decide (d.1 < n)).map fun d => (d.1 + a, d.2)) : a ≤ c.1 ∧ c.1 < a + n := by
  obtain ⟨d, hd, rfl⟩ := List.mem_map.1 h
  have := (List.mem_filter.1 hd).2
  simp only [decide_eq_true_eq] at this
  exact ⟨by simp, by simp only; omega⟩

/-- A range replaced keeps the canonical form. -/
theorem wf_paste {m : Memory} (h : wf m) (a n : Nat) (src : Memory) : wf (paste m a n src) := by
  have hs : wf ((canon src).filter fun c => decide (c.1 < n)) := wf_filter (wf_canon src) _
  refine ⟨?_, ?_⟩
  · refine List.pairwise_append.2 ⟨List.pairwise_append.2 ⟨h.1.filter _, ?_, ?_⟩, h.1.filter _, ?_⟩
    · exact (List.pairwise_map.2 (hs.1.imp fun hlt => by simpa using hlt))
    · intro c hc d hd
      have := mem_pasted hd
      have := (List.mem_filter.1 hc).2
      simp only [decide_eq_true_eq] at this
      omega
    · intro c hc d hd
      have hd := (List.mem_filter.1 hd).2
      simp only [decide_eq_true_eq] at hd
      rcases List.mem_append.1 hc with hc | hc
      · have := (List.mem_filter.1 hc).2
        simp only [decide_eq_true_eq] at this
        omega
      · have := mem_pasted hc
        omega
  · intro c hc
    rcases List.mem_append.1 hc with hc | hc
    · rcases List.mem_append.1 hc with hc | hc
      · exact h.2 c (List.mem_filter.1 hc).1
      · obtain ⟨d, hd, rfl⟩ := List.mem_map.1 hc
        exact hs.2 d hd
    · exact h.2 c (List.mem_filter.1 hc).1

/-- What a byte reads as after a range was replaced. -/
theorem read_paste (m : Memory) (a n : Nat) (src : Memory) (x : Nat) :
    read (paste m a n src) x = if a ≤ x ∧ x < a + n then read src (x - a) else read m x := by
  unfold paste
  have hlow : ∀ c ∈ m.filter (fun c => decide (c.1 < a)), c.1 < a := fun c hc => by
    simpa using (List.mem_filter.1 hc).2
  have hhigh : ∀ c ∈ m.filter (fun c => decide (a + n ≤ c.1)), a + n ≤ c.1 := fun c hc => by
    simpa using (List.mem_filter.1 hc).2
  by_cases h1 : x < a
  · rw [List.append_assoc, read_append_left, read_filter m (fun y => decide (y < a)) (by simpa using h1),
      if_neg (by omega)]
    intro c hc
    rcases List.mem_append.1 hc with hc | hc
    · have := mem_pasted hc; omega
    · have := hhigh c hc; omega
  · by_cases h2 : x < a + n
    · rw [read_append_left _ (fun c hc => by have := hhigh c hc; omega), read_append_right _ (fun c hc => by
        have := hlow c hc; omega), if_pos (by omega)]
      have hx : x = x - a + a := by omega
      rw [hx, read_shift, read_filter (canon src) (fun y => decide (y < n)) (by simp; omega), read_canon]
      congr 1; omega
    · rw [read_append_right, read_filter m (fun y => decide (a + n ≤ y)) (by simp; omega), if_neg (by omega)]
      intro c hc
      rcases List.mem_append.1 hc with hc | hc
      · have := hlow c hc; omega
      · have := mem_pasted hc; omega

theorem wf_clear {m : Memory} (h : wf m) (a n : Nat) : wf (clear m a n) := wf_paste h a n []

theorem read_clear (m : Memory) (a n x : Nat) : read (clear m a n) x = if a ≤ x ∧ x < a + n then 0 else read m x := by
  rw [clear, read_paste]; rfl

theorem wf_slice {m : Memory} (h : wf m) (a n : Nat) : wf (slice m a n) := by
  refine ⟨List.pairwise_map.2 ((h.1.filter _).imp_of_mem fun hc hd hlt => ?_), fun c hc => ?_⟩
  · have hc := (List.mem_filter.1 hc).2
    have hd := (List.mem_filter.1 hd).2
    simp only [Bool.and_eq_true, decide_eq_true_eq] at hc hd ⊢
    omega
  · obtain ⟨d, hd, rfl⟩ := List.mem_map.1 hc
    exact h.2 d (List.mem_filter.1 hd).1

theorem read_slice (m : Memory) (a n x : Nat) : read (slice m a n) x = if x < n then read m (a + x) else 0 := by
  induction m with
  | nil => simp [slice]
  | cons c m ih =>
    have hs : slice (c :: m) a n = if a ≤ c.1 ∧ c.1 < a + n then (c.1 - a, c.2) :: slice m a n else slice m a n := by
      simp only [slice, List.filter_cons, Bool.and_eq_true, decide_eq_true_eq]
      split <;> simp_all
    rw [hs, read_cons]
    split
    · next h =>
      rw [read_cons, ih]
      simp only
      by_cases hx : c.1 = a + x
      · rw [if_pos (by omega), if_pos (by omega), if_pos (by omega)]
      · rw [if_neg (by omega)]
        split <;> rfl
    · next h =>
      rw [ih]
      split
      · rw [if_neg (by omega)]
      · rfl

/-- The memory of a byte list reads them by their index. -/
theorem read_ofBytesFrom (bs : List Byte) (i x : Nat) :
    read (ofBytesFrom i bs) x = if i ≤ x then bs.getD (x - i) 0 else 0 := by
  induction bs generalizing i with
  | nil => simp [ofBytesFrom]
  | cons b bs ih =>
    have hstep : read (ofBytesFrom i (b :: bs)) x = if i = x then b else read (ofBytesFrom (i + 1) bs) x := by
      simp only [ofBytesFrom]
      split
      · next hb =>
        split
        · next hx => rw [ih, if_neg (by omega), hb]
        · rfl
      · rw [read_cons]
    rw [hstep, ih]
    by_cases hx : i = x
    · subst hx; simp
    · rw [if_neg hx]
      by_cases hlt : i ≤ x
      · rw [if_pos (by omega), if_pos hlt]
        have : x - i = x - (i + 1) + 1 := by omega
        rw [this, List.getD_cons_succ]
      · rw [if_neg (by omega), if_neg hlt]

theorem read_ofBytes (bs : List Byte) (x : Nat) : read (ofBytes bs) x = bs.getD x 0 := by
  rw [ofBytes, read_ofBytesFrom]; simp

theorem wf_write {m : Memory} (h : wf m) (a : Nat) (bs : List Byte) : wf (write m a bs) := wf_paste h a _ _

/-- Bytes written read back, and no other byte changes. -/
theorem read_write (m : Memory) (a : Nat) (bs : List Byte) (x : Nat) :
    read (write m a bs) x = if a ≤ x ∧ x < a + bs.length then bs.getD (x - a) 0 else read m x := by
  rw [write, read_paste, read_ofBytes]

end Sys2Proof.Machine.Memory
end

