-- ==== Sys2Proof/Laws/Ops.lean ====
section
/-! SUPPORT. The shared operations: what an event, a record, a store in memory and an operation's end change, each said once. -/

namespace Sys2Proof.Machine

/-! ### Events change keyways, the operator's sessions and what leaves the machine -/

/-- Everything but keyways, the operator channel and the packets out is as it was. -/
def EventsOnly (s t : State) : Prop := t = { s with kws := t.kws, opr := t.opr, out := t.out }

namespace EventsOnly

variable {s t u : State}

theorem refl (s : State) : EventsOnly s s := rfl

theorem trans (h : EventsOnly s t) (g : EventsOnly t u) : EventsOnly s u := by
  unfold EventsOnly at *
  rw [g, h]

theorem emit (s : State) (o : Out) : EventsOnly s (s.emit o) := rfl

theorem modEp (s : State) (e : Ep) (f : Keyway → Keyway) : EventsOnly s (s.modEp e f) := by cases e <;> rfl

theorem modSession (s : State) (e : Ep) (n : SessRef) (f : Session → Session) : EventsOnly s (s.modSession e n f) :=
  modEp s e _

theorem enterEvent (s : State) (e : Ep) (ev : Event) : EventsOnly s (s.enterEvent e ev) := modEp s e _

theorem foldl {α : Type} (f : State → α → State) (h : ∀ s a, EventsOnly s (f s a)) (l : List α) (s : State) :
    EventsOnly s (l.foldl f s) := by
  induction l generalizing s with
  | nil => exact refl s
  | cons a l ih => exact (h s a).trans (ih _)

theorem deliver (s : State) (e : Ep) (n : SessRef) (ev : Event) (keep : Bool) : EventsOnly s (s.deliver e n ev keep) := by
  unfold State.deliver
  split
  · exact refl s
  · split
    · dsimp only
      split
      · exact (emit s _).trans (modSession _ _ _ _)
      · split
        · exact ((emit s _).trans (modSession _ _ _ _)).trans (modEp _ _ _)
        · exact ((((emit s _).trans (modSession _ _ _ _)).trans (modEp _ _ _)).trans (emit _ _)).trans (modSession _ _ _ _)
    · exact emit s _

theorem raiseS (s : State) (e : Ep) (n : SessRef) (c : Nat) (b : List Byte) (k : Bool) : EventsOnly s (s.raiseS e n c b k) := by
  unfold State.raiseS
  dsimp only
  split
  · exact refl s
  · exact (enterEvent s e _).trans (deliver _ _ _ _ _)

theorem raiseAlso (s : State) (e : Ep) (a : Option SessRef) (c : Nat) (b : List Byte) : EventsOnly s (s.raiseAlso e a c b) := by
  unfold State.raiseAlso
  dsimp only
  split
  · exact refl s
  · exact (enterEvent s e _).trans (foldl _ (fun s _ => deliver s _ _ _ _) _ _)

theorem raiseK (s : State) (k : KwId) (c : Nat) (b : List Byte) : EventsOnly s (s.raiseK k c b) := raiseAlso ..

theorem raisePart (s : State) (p : PartId) (c : Nat) (b : List Byte) : EventsOnly s (s.raisePart p c b) :=
  foldl _ (fun s _ => raiseK s _ _ _) _ _

theorem raiseOpen (s : State) (c : Nat) (b : List Byte) : EventsOnly s (s.raiseOpen c b) :=
  foldl _ (fun s _ => raiseK s _ _ _) _ _

section Fields

variable (h : EventsOnly s t)
include h

theorem hbm : t.hbm = s.hbm := by rw [h]
theorem parts : t.parts = s.parts := by rw [h]
theorem chips : t.chips = s.chips := by rw [h]
theorem clk : t.clk = s.clk := by rw [h]
theorem cfg : t.cfg = s.cfg := by rw [h]
theorem rmu : t.rmu = s.rmu := by rw [h]
theorem ops : t.ops = s.ops := by rw [h]
theorem reqs : t.reqs = s.reqs := by rw [h]
theorem kr : t.kr = s.kr := by rw [h]
theorem trays : t.trays = s.trays := by rw [h]
theorem chan : t.chan = s.chan := by rw [h]
theorem pw : t.pw = s.pw := by rw [h]
theorem turn : t.turn = s.turn := by rw [h]
theorem resets : t.resets = s.resets := by rw [h]
theorem resetReqs : t.resetReqs = s.resetReqs := by rw [h]
theorem pending : t.pending = s.pending := by rw [h]
theorem lockedChips : t.lockedChips = s.lockedChips := by rw [h]
theorem lockedTrays : t.lockedTrays = s.lockedTrays := by rw [h]
theorem serviceDue : t.serviceDue = s.serviceDue := by rw [h]

end Fields

end EventsOnly

/-! ### Safety loops: events and records -/

/-- An override changes keyways, packets out and the records that wait, and nothing else (R267). -/
theorem override_frame (s : State) (p : PartId) (c a b : Nat) :
    EventsOnly (s.log Ev.policyOverridden (unitPart p) (le 1 c ++ le 1 p.val ++ le 4 a ++ le 4 b)) (s.override p c a b) :=
  EventsOnly.raisePart ..

/-- A detector adds one request and changes nothing else (R317). -/
theorem fire_eq (s : State) (d l : Nat) (x : Scope) (n : Option ChipId) (bs : List Byte) (o : Option Nat) :
    s.fire d l x n bs o = { s with resetReqs := s.resetReqs ++
      [{ level := l, scope := x, detector := d, chip := n, op := o, firedAt := s.osc, detail := bs }] } := rfl

/-- A record waits with the rest; nothing else changes (R288). -/
theorem log_frame (s : State) (c : Nat) (u : BitVec 16) (bs : List Byte) :
    ∃ r, s.log c u bs = s.modRmu (fun m => { m with logWait := m.logWait ++ [r] }) ∧ r.code = c ∧ r.unit = u := ⟨_, rfl, rfl, rfl⟩

/-- A channel that trips is latched with its cause, and a record waits (R251, R255). -/
theorem trip_frame (s : State) (c : ChanId) (cause : Nat) (peak : Int) :
    s.trip c cause peak = { s with chan := (s.trip c cause peak).chan, rmu := (s.trip c cause peak).rmu,
                                   fresh := (s.trip c cause peak).fresh } := rfl

theorem trip_channel (s : State) (c d : ChanId) (cause : Nat) (peak : Int) :
    (s.trip c cause peak).channel d =
      if d = c then { s.channel c with st := .latched, cause := some cause } else s.channel d :=
  State.channel_modChan s c d fun x => { x with st := .latched, cause := some cause }

/-! ### Memory of quadrants -/

theorem hbmPaste_wf {s : State} (h : Memory.wf s.hbm) (a n : Nat) (m : Memory) : Memory.wf (s.hbmPaste a n m).hbm :=
  Memory.wf_paste h a n m

theorem read_hbmPaste (s : State) (a n : Nat) (m : Memory) (x : Nat) :
    Memory.read (s.hbmPaste a n m).hbm x = if a ≤ x ∧ x < a + n then Memory.read m (x - a) else Memory.read s.hbm x :=
  Memory.read_paste ..

/-- A byte of a copied range is the byte that HBM returns there. -/
theorem read_hbmSlice (s : State) (a n x : Nat) :
    Memory.read (s.hbmSlice a n) x = if x < n then s.hbmByte (a + x) else 0 := by
  simp only [State.hbmSlice, Memory.read_canon, Memory.read_slice]
  split
  · next hx =>
    have key : ∀ l : List Nat, Memory.read
        ((l.flatMap fun w => (List.range 32).map fun i => (32 * w + i, Config.poisonByte (32 * w + i))) ++ s.hbm) (a + x) =
          if l.contains ((a + x) / 32) then Config.poisonByte (a + x) else Memory.read s.hbm (a + x) := by
      intro l
      induction l with
      | nil => simp
      | cons w l ih =>
        rw [List.flatMap_cons, List.append_assoc]
        by_cases hw : (a + x) / 32 = w
        · have h1 : ∀ m : Nat, ∀ r : Memory, 32 * w + m ≤ a + x → ∀ k, a + x < 32 * w + m + k →
              Memory.read (((List.range' m k).map fun i => (32 * w + i, Config.poisonByte (32 * w + i))) ++ r) (a + x) =
                Config.poisonByte (a + x) := by
            intro m r hm k
            induction k generalizing m with
            | zero => intro h; omega
            | succ k ihk =>
              intro h
              simp only [List.range'_succ, List.map_cons, List.cons_append, Memory.read_cons]
              by_cases he : 32 * w + m = a + x
              · rw [if_pos he, he]
              · rw [if_neg he]
                exact ihk (m + 1) (by omega) (by omega)
          have h2 := h1 0 ((l.flatMap fun w => (List.range 32).map fun i => (32 * w + i, Config.poisonByte (32 * w + i))) ++ s.hbm)
            (by omega) 32 (by omega)
          rw [← List.range_eq_range'] at h2
          rw [h2]
          simp [hw]
        · rw [Memory.read_append_right, ih]
          · simp [hw]
          · intro c hc
            obtain ⟨i, hi, rfl⟩ := List.mem_map.1 hc
            have := List.mem_range.1 hi
            dsimp only
            omega
    rw [key]
    rfl
  · rfl

theorem hbmSlice_wf (s : State) (a n : Nat) : Memory.wf (s.hbmSlice a n) := Memory.wf_canon _

theorem twrite_wf {s : State} (h : Memory.wf s.hbm) (p : PartId) (a : Addr) (bs : List Byte) :
    Memory.wf (s.twrite p a bs).hbm := Memory.wf_paste h ..

/-- A tenant store changes the bytes of its range and no other. -/
theorem read_twrite (s : State) (p : PartId) (a : Addr) (bs : List Byte) (x : Nat) :
    Memory.read (s.twrite p a bs).hbm x =
      if s.phys p a ≤ x ∧ x < s.phys p a + bs.length then bs.getD (x - s.phys p a) 0 else Memory.read s.hbm x :=
  Memory.read_write ..

theorem zeroQuad_wf {s : State} (h : Memory.wf s.hbm) (q : QuadId) : Memory.wf (s.zeroQuad q).hbm := Memory.wf_paste h ..

theorem zeroQuads_wf {s : State} (h : Memory.wf s.hbm) (qs : List QuadId) : Memory.wf (s.zeroQuads qs).hbm :=
  foldl_invariant (fun t => Memory.wf t.hbm) _ (fun _ q ht => zeroQuad_wf ht q) qs s h

theorem read_zeroQuad (s : State) (q : QuadId) (x : Nat) :
    Memory.read (s.zeroQuad q).hbm x = if hbmAddr q 0 ≤ x ∧ x < hbmAddr q 0 + 2 ^ 36 then 0 else Memory.read s.hbm x :=
  Memory.read_clear ..

/-- Zeroing keeps a zero byte zero. -/
theorem read_zeroQuads_zero (qs : List QuadId) (s : State) (x : Nat) (h : Memory.read s.hbm x = 0) :
    Memory.read (s.zeroQuads qs).hbm x = 0 :=
  foldl_invariant (fun t => Memory.read t.hbm x = 0) _ (fun t q ht => by
    rw [read_zeroQuad]; split
    · rfl
    · exact ht) qs s h

/-- A zeroed quadrant reads zero throughout. -/
theorem read_zeroQuads (qs : List QuadId) (s : State) (q : QuadId) (hq : q ∈ qs) (off : Nat) (ho : off < 2 ^ 36) :
    Memory.read (s.zeroQuads qs).hbm (hbmAddr q off) = 0 := by
  induction qs generalizing s with
  | nil => simp at hq
  | cons r qs ih =>
    rcases List.mem_cons.1 hq with rfl | hq
    · refine read_zeroQuads_zero qs _ _ ?_
      rw [read_zeroQuad, if_pos]
      simp only [hbmAddr]
      omega
    · exact ih _ hq

theorem scramble_wf {s : State} (h : Memory.wf s.hbm) (a n : Nat) : Memory.wf (s.scramble a n).hbm := Memory.wf_paste h ..

theorem moveHbm_wf {m : Memory} (h : Memory.wf m) (ms : List Move) : Memory.wf (moveHbm m ms) := by
  refine foldl_invariant Memory.wf _ (fun m e hm => Memory.wf_paste hm ..) _ _ ?_
  exact foldl_invariant Memory.wf _ (fun m e hm => Memory.wf_clear hm ..) _ _ h

/-! ### Operations of a session -/

/-- An operation opened is the one its number finds; those before it stay. -/
theorem op?_addOp (s : State) (e : Ep) (n : SessRef) (seq epoch : BitVec 32) (k : OpKind) (i : Nat) :
    (s.addOp e n seq epoch k).op? i = (s.op? i).or
      (if s.nextOp = i then some { id := s.nextOp, ep := e, session := n, seq := seq, epoch := epoch, kind := k } else none) := by
  simp only [State.addOp, State.op?, List.find?_append, List.find?_cons, List.find?_nil]
  by_cases h : s.nextOp = i <;> simp [h]

/-- The end of a transfer: its operation is gone and its session is told (R373). -/
theorem xferEnd_frame (s : State) (o : Op) (status : Nat) : EventsOnly (s.endOp o.id) (s.xferEnd o status) :=
  EventsOnly.raiseS ..

end Sys2Proof.Machine
end

