-- ==== Sys2Proof/Laws/Receive.lean ====
section
/-! SUPPORT. A command packet from its arrival on: admission leaves the state as it was, and a command in its turn is taken at once. -/

namespace Sys2Proof.Machine

open Sys2Proof.Safety

/-- A packet that is admitted changes nothing by its admission. -/
theorem State.letIn_state {s : State} {h : Hdr} {e : Ep} (g : (s.letIn h).2 = some e) : s.letIn h = (s, some e) := by
  unfold State.letIn at *
  cases hv : h.via with
  | host p =>
    simp only [hv] at *
    split at g
    · cases g
    · split at g
      · next hk =>
        split at g
        · next hb =>
          cases g
          simp_all
        · cases g
      · cases g
  | mgmt p =>
    simp only [hv] at *
    split at g
    · cases g
    · split at g
      · cases g
        simp_all
      · cases g

/-- The row of an opcode is the arrival of its packet. -/
theorem exec_packet {i : Instr} {t : Nat} {h : Hdr} {b : Body} (s : State) (g : packetOf i = some (t, h, b)) :
    exec i s = receive t h b s := by
  cases i <;> first
    | (simp only [packetOf, Option.some.injEq, Prod.mk.injEq] at g
       obtain ⟨rfl, rfl, rfl⟩ := g
       rfl)
    | (simp only [packetOf] at g; cases g)

/-- The session found under a number bears it, and is found by its own name. -/
theorem State.bearing_num {s : State} {e : Ep} {n : Nat} {q : Session} (g : s.bearing? e n = some q) : q.num = n := by
  have := List.find?_some g
  simpa using this

theorem State.session_of_bearing {s : State} {e : Ep} {n : Nat} {q : Session} (g : s.bearing? e n = some q) :
    s.session? e q.ref = some q := by
  have hn := State.bearing_num g
  have key : ∀ l : List Session, l.find? (fun q => q.num = n) = some q → l.find? (fun x => x.ref = q.ref) = some q := by
    intro l
    induction l with
    | nil => simp
    | cons x l ih =>
      intro h
      by_cases hx : x.num = n
      · have : x = q := by simpa [List.find?_cons, hx] using h
        subst this
        simp
      · have hr : x.ref ≠ q.ref := fun hr => hx (by have := congrArg SessRef.num hr; simpa [Session.ref, hn] using this)
        simp only [List.find?_cons, hx, hr, decide_false] at h ⊢
        exact ih h
  exact key _ g

/-- A change that keeps what a session is called changes what is found under its name. -/
theorem State.session_modSession {s : State} {e : Ep} {n : SessRef} {q : Session} (f : Session → Session)
    (hf : ∀ x, (f x).ref = x.ref) (g : s.session? e n = some q) : (s.modSession e n f).session? e n = some (f q) := by
  have key : ∀ l : List Session, l.find? (fun q => q.ref = n) = some q →
      (l.map fun q => if q.ref = n then f q else q).find? (fun q => q.ref = n) = some (f q) := by
    intro l
    induction l with
    | nil => simp
    | cons x l ih =>
      intro h
      by_cases hx : x.ref = n
      · have : x = q := by simpa [List.find?_cons, hx] using h
        subst this
        simp [hx, hf]
      · simp only [List.find?_cons, hx, decide_false] at h
        simp only [List.map_cons, hx, if_false, List.find?_cons, decide_false]
        exact ih h
  cases e with
  | op => exact key _ g
  | kw k =>
    simp only [State.session?, State.modSession, State.modEp, State.endp, State.kw, Tab.set, Tab.get, if_true] at *
    exact key _ g

/-- The arrival of a command moves no clock. -/
@[simp] theorem arrived_clk (s : State) (t : Nat) (h : Hdr) (b : Body) (e : Ep) (n : SessRef) :
    (arrived s t h b e n).clk = (s.tick t).clk := by
  cases e <;> rfl

theorem arrived_rackNs (s : State) (t : Nat) (h : Hdr) (b : Body) (e : Ep) (n : SessRef) :
    (arrived s t h b e n).rackNs = (s.tick t).rackNs := by
  simp [State.rackNs]

/-- A command in its turn runs on the state it arrives in, and nothing runs after it. -/
theorem exec_inTurn {i : Instr} {s : State} {t : Nat} {h : Hdr} {b : Body} {e : Ep} {q : Session}
    (g : packetOf i = some (t, h, b)) (r : InTurn s t h e q) :
    exec i s = .next ((arrived s t h b e q.ref).runAnswer e q.ref h b (s.tick t).rackNs) := by
  have h1 := State.session_modSession (fun q => { q with lastCmd := (s.tick t).osc, lastVia := h.via }) (fun _ => rfl)
    (State.session_of_bearing r.session)
  have h2 : ∃ x, (arrived s t h b e q.ref).session? e q.ref = some x ∧ x.waiting = q.waiting := by
    rw [arrived, State.taking, State.heard]
    exact ⟨_, State.session_modSession _ (fun _ => rfl) h1, rfl⟩
  obtain ⟨x, h2, hw⟩ := h2
  have h4 : ((s.tick t).heard e q.ref h).rackNs = (s.tick t).rackNs := by cases e <;> rfl
  have h3 : ((s.tick t).heard e q.ref h).take e q.ref h b (s.tick t).rackNs =
      (arrived s t h b e q.ref).runAnswer e q.ref h b (s.tick t).rackNs := by
    unfold State.take
    rw [show ((s.tick t).heard e q.ref h).taking e q.ref h b = arrived s t h b e q.ref from rfl]
    dsimp only
    rw [h2]
    simp [State.mustWait, hw, r.noneWaiting, r.unfenced]
  rw [exec_packet s g, receive, r.admitted]
  simp only [State.handle, r.header, Bool.not_true, Bool.false_eq_true, if_false, r.numbered, r.session]
  simp only [State.sequence, r.due, h4, r.noneHeld]
  simp [State.takeHeld, Session.ref]
  exact h3

/-- A command that fails a check of its arrival is answered so, and does nothing else. -/
theorem replies_refused {i : Instr} {s : State} {t : Nat} {h : Hdr} {b : Body} {e : Ep} {q : Session} {st : Nat}
    (g : packetOf i = some (t, h, b)) (r : InTurn s t h e q)
    (no : (arrived s t h b e q.ref).early (ctxAt s t h b e q) b = some st) (fault : st ≠ St.internalError)
    (lookup : ∀ a n m, b ≠ .krLookup a n m) :
    Replies i s t h b e q (arrived s t h b e q.ref) st [] := by
  rw [Replies, exec_inTurn g r]
  have hb : runBody (ctxAt s t h b e q) b (arrived s t h b e q.ref) = Res.fail (arrived s t h b e q.ref) st := by
    cases b <;> first | exact absurd rfl (lookup _ _ _) | simp [runBody, no, dumpFault, Res.fail, fault, equalise]
  have hl : (Res.fail (arrived s t h b e q.ref) st).later = false := rfl
  show Host.Outcome.next _ = _
  simp only [State.runAnswer]
  rw [show ctxOf (arrived s t h b e q.ref) e q.ref h (s.tick t).rackNs = ctxAt s t h b e q from rfl, hb]
  rfl

end Sys2Proof.Machine
end

