-- ==== Sys2Proof/Tests/Slice0.lean ====
section
/-! SUPPORT. Tests of the model: a witness that meets the hypotheses of each statement, well-formedness refusing ill-formed
commands, and the worked examples of the spec with the values the spec gives. -/

set_option autoImplicit false

open Sys2Proof Sys2Proof.Machine Sys2Proof.Safety

namespace Sys2Proof.Tests

set_option Elab.async false

/-! ### A small rack: two chips, one partition over both, a keyway bound to it as OWNER, one session each -/

def lk : KwId := 0
def lp : PartId := 0
def lc0 : ChipId := 0
def lc1 : ChipId := 1

def labShape : Shape := { cls := 3, ex := 2, ey := 1, ez := 1, chip := 0, kmask := 0xF }

def labPart : Part := Part.fresh labShape 0

def labSession : Session :=
  { num := 1, serial := 0, nonce := 7, openedAt := 0, model := 1, cut := 0x02000004, evAddr := 9, evPort := 8000, eventsAll := true,
    next := 1, replies := [], lastCmd := 0, lastVia := .host 0, unacked := [], base := none, latches := [], held := [],
    waiting := [] }

def labKw : Keyway := { Keyway.init with sessions := [labSession], lastNum := 1, opened := 1 }

def anySource (n : Nat) : List Byte := 1 :: List.replicate (17 * n) 0

def labSettings : Tab SetKey (List Byte) :=
  [((0x0A20#16, .rack), [1]), ((0x0102#16, .kw lk), [1]), ((0x0103#16, .kw lk), anySource 4), ((0x0101#16, .kw lk), [0, 1]),
   ((0x0A10#16, .rack), anySource 8)]

def upSwitch : SwTray := { SwTray.init with up := true }
def upChip : Chip := { Chip.init with power := .up }

def lab : State :=
  { State.reset with
    ready := true
    clk := { Clock.init with quality := .lockedPtp, ptpLocked := true }
    ports := [(0, { HostPort.init with up := true })]
    sw := [(0, upSwitch), (1, upSwitch), (2, upSwitch), (3, upSwitch)]
    chips := [(lc0, upChip), (lc1, upChip)]
    kws := [(lk, labKw)]
    opr := labKw
    cfg := { State.reset.cfg with running := labSettings }
    parts := [(lp, some labPart)]
    rmu := { Rmu.init with up := true } }

/-- A packet of the keyway's session on host port 0. -/
def khdr (b : Body) : Hdr :=
  { via := .host 0, src := 5, udp := 7431, keyway := 0, session := 1, seq := 1, epoch := 0, retry := false, fence := false,
    force := false, len := bodyLength b }

/-- A packet of the operator's session on MGMT0. -/
def ohdr (b : Body) : Hdr := { khdr b with via := .mgmt 0, udp := 7432 }

/-- The checks of `InTurn` as one value. -/
def inTurnAt (s : State) (t : Nat) (h : Hdr) (e : Ep) (q : Session) : Bool :=
  decide (((s.tick t).letIn h).2 = some e) && headerOk e h && decide (h.session ≠ 0) &&
    decide ((s.tick t).bearing? e h.session.toNat = some q) && decide (h.seq = q.next) && decide (q.held = []) &&
    decide (q.waiting = []) && decide (h.fence = false)

theorem inTurn_of {s : State} {t : Nat} {h : Hdr} {e : Ep} {q : Session} (g : inTurnAt s t h e q = true) : InTurn s t h e q := by
  simp only [inTurnAt, Bool.and_eq_true, decide_eq_true_eq] at g
  obtain ⟨⟨⟨⟨⟨⟨⟨h1, h2⟩, h3⟩, h4⟩, h5⟩, h6⟩, h7⟩, h8⟩ := g
  exact ⟨State.letIn_state h1, h2, h3, h4, h5, h6, h7, h8⟩

/-- The checks of `Ready` as one value. -/
def readyAt (s : State) (t : Nat) (h : Hdr) (b : Body) (e : Ep) (q : Session) : Bool :=
  inTurnAt s t h e q && decide ((arrived s t h b e q.ref).early (ctxAt s t h b e q) b = none) && decide (h.epoch = 0) &&
    decide ((arrived s t h b e q.ref).unavailable (ctxAt s t h b e q) b = none)

theorem ready_of {s : State} {t : Nat} {h : Hdr} {b : Body} {e : Ep} {q : Session} (g : readyAt s t h b e q = true) :
    Ready s t h b e q := by
  simp only [readyAt, Bool.and_eq_true, decide_eq_true_eq] at g
  exact ⟨inTurn_of g.1.1.1, g.1.1.2, g.1.2, g.2⟩

/-- The same on session 0. -/
def readyZeroAt (s : State) (t : Nat) (h : Hdr) (b : Body) (e : Ep) : Bool :=
  decide (((s.tick t).letIn h).2 = some e) && headerOk e h && decide (h.session = 0) && isSessionless b &&
    decide ((s.tick t).early (ctxZero s t h e) b = none) && decide (h.epoch = 0) &&
    decide ((s.tick t).unavailable (ctxZero s t h e) b = none)

theorem readyZero_of {s : State} {t : Nat} {h : Hdr} {b : Body} {e : Ep} (g : readyZeroAt s t h b e = true) :
    ReadyZero s t h b e := by
  simp only [readyZeroAt, Bool.and_eq_true, decide_eq_true_eq] at g
  obtain ⟨⟨⟨⟨⟨⟨h1, h2⟩, h3⟩, h4⟩, h5⟩, h6⟩, h7⟩ := g
  exact ⟨State.letIn_state h1, h2, h3, h4, h5, h6, h7⟩

/-- A keyway command of the lab is ready, at instant 1. -/
abbrev KwReady (s : State) (b : Body) (q : Session := labSession) : Prop := Ready s 1 (khdr b) b (.kw lk) q
/-- An operator command of the lab is ready. -/
abbrev OpReady (s : State) (b : Body) (q : Session := labSession) : Prop := Ready s 1 (ohdr b) b .op q
/-- The state in which it runs. -/
abbrev kwAt (s : State) (b : Body) (q : Session := labSession) : State := arrived s 1 (khdr b) b (.kw lk) q.ref
abbrev opAt (s : State) (b : Body) (q : Session := labSession) : State := arrived s 1 (ohdr b) b .op q.ref
/-- What it runs with. -/
abbrev kwCtx (s : State) (b : Body) (q : Session := labSession) : Ctx := ctxAt s 1 (khdr b) b (.kw lk) q
abbrev opCtx (s : State) (b : Body) (q : Session := labSession) : Ctx := ctxAt s 1 (ohdr b) b .op q

/-! ### Witnesses: states and operands that meet each statement's hypotheses -/

theorem witness_StepRunsFrontCommand :
    ({ lab with pending := [.ping 1 (khdr .ping)] } : State).pending = .ping 1 (khdr .ping) :: [] ∧ lab.pending = [] := ⟨rfl, rfl⟩

theorem witness_CommandRunsAndIsAnswered :
    packetOf (.ping 1 (khdr .ping)) = some (1, khdr .ping, .ping) ∧ KwReady lab .ping ∧
      (runOp (kwCtx lab .ping) .ping (kwAt lab .ping)).later = false ∧
      (runOp (kwCtx lab .ping) .ping (kwAt lab .ping)).status ≠ St.internalError ∧
      ∀ a n m, Body.ping ≠ .krLookup a n m :=
  ⟨rfl, ready_of (by decide +kernel), by decide +kernel, by decide +kernel, by simp⟩

/-- A host packet of another keyway, and one whose KEYWAY is no keyway. -/
theorem witness_BadPacketsAreCounted :
    (∀ n ∈ [1#8, 64#8], packetOf (.ping 1 { khdr .ping with keyway := n }) = some (1, { khdr .ping with keyway := n }, .ping) ∧
      (lab.tick 1).portLive 0 = true ∧ (khdr .ping).udp.toNat = (lab.tick 1).rackSet 0x0104#16 ∧
      ∀ k : KwId, n.toNat = k.val → ((lab.tick 1).admits && (lab.tick 1).speaksFor 0 (khdr .ping).src k) = false) ∧
    (lab.tick 1).letIn (khdr .ping) = (lab.tick 1, some (.kw lk)) :=
  ⟨by decide +kernel, State.letIn_state (by decide +kernel)⟩

/-- A session whose next SEQ is 301 and whose oldest cached reply is that of SEQ 45. -/
def oldReply : CachedReply := { seq := 45, status := some 0, epoch := 1, op := 5, qual := 0, body := [] }
def oldSession : Session := { labSession with next := 301, replies := [oldReply] }
def labOld : State := { lab with kws := [(lk, { labKw with sessions := [oldSession] })] }

theorem witness_SequenceOutOfTurn :
    (∀ n ∈ [302#32, 364#32, 365#32, 0x8000012C#32, 0x8000012D#32, 44#32, 45#32],
      let h := { khdr .ping with seq := n }
      (labOld.tick 1).letIn h = (labOld.tick 1, some (.kw lk)) ∧ headerOk (.kw lk) h = true ∧ h.session ≠ 0 ∧
        (labOld.tick 1).bearing? (.kw lk) h.session.toNat = some oldSession ∧ ∀ x ∈ oldSession.held, x.hdr.seq ≠ h.seq) ∧
      oldSession.next = 301 ∧ (oldSession.replies.find? fun r => r.seq = 45) = some oldReply ∧
      (302#32 - 301#32).toNat = 1 ∧ (364#32 - 301#32).toNat = 63 ∧ (365#32 - 301#32).toNat = 64 ∧
      (0x8000012C#32 - 301#32).toNat = 2 ^ 31 - 1 ∧ (0x8000012D#32 - 301#32).toNat = 2 ^ 31 ∧
      (44#32 - 301#32).toNat = 2 ^ 32 - 257 ∧ (45#32 - 301#32).toNat = 2 ^ 32 - 256 := by
  have key : ([302#32, 364#32, 365#32, 0x8000012C#32, 0x8000012D#32, 44#32, 45#32].all fun n =>
      decide (((labOld.tick 1).letIn { khdr .ping with seq := n }).2 = some (.kw lk))) = true := by decide +kernel
  rw [List.all_eq_true] at key
  refine ⟨fun n hn => ⟨State.letIn_state (of_decide_eq_true (key n hn)), rfl, ?_, ?_, fun x hx => ?_⟩, by decide +kernel⟩
  · simp [khdr]
  · exact (by decide +kernel : (labOld.tick 1).bearing? (.kw lk) 1 = some oldSession)
  · simp [oldSession, labSession] at hx

def labOpen : OpenArgs := { nonce := 8, model := 1, cut := 0x01000001, evAddr := 9, evPort := 8000, flags := 0 }
/-- A SESSION_OPEN or PING of session 0. -/
def zhdr (b : Body) : Hdr := { khdr b with session := 0 }

theorem witness_SessionZeroCompletes :
    ReadyZero lab 1 (zhdr (.sessionOpen labOpen)) (.sessionOpen labOpen) (.kw lk) ∧
    (((lab.tick 1).kw lk).sessions.find? fun q => q.nonce = labOpen.nonce && decide ((lab.tick 1).osc - q.openedAt ≤ 10000000000)) =
      none ∧ labOpen.cut ≠ 0 ∧ cutWellFormed labOpen.cut = true ∧ Config.cuts.contains labOpen.cut = true ∧ ((lab.tick 1).kw lk).sessions.length < 1024 ∧
      ((lab.tick 1).kw lk).nextNumber = some 2 ∧ ((lab.tick 1).kw lk).resetOwed = false ∧
    ReadyZero lab 10000000000 (zhdr (.sessionOpen { labOpen with nonce := 7 })) (.sessionOpen { labOpen with nonce := 7 }) (.kw lk) ∧
    (((lab.tick 10000000000).kw lk).sessions.find? fun q =>
      q.nonce = 7 && decide ((lab.tick 10000000000).osc - q.openedAt ≤ 10000000000)) = some labSession ∧
    (ReadyZero lab 1 { zhdr (.sessionOpen labOpen) with via := .mgmt 0, udp := 7432 } (.sessionOpen labOpen) .op ∧
      ((lab.tick 1).endp .op).nextNumber = some 2) ∧
    ((lab.tick 1).letIn (zhdr .sessionClose) = (lab.tick 1, some (.kw lk)) ∧ headerOk (.kw lk) (zhdr .sessionClose) = true ∧
      (zhdr .sessionClose).session = 0 ∧ opcodeKnown (.kw lk) .sessionClose = true ∧ isSessionless .sessionClose = false) :=
  ⟨readyZero_of (by decide +kernel), by decide +kernel, by decide, by decide +kernel, by decide +kernel, by decide +kernel, by decide +kernel,
    by decide +kernel, readyZero_of (by decide +kernel), by decide +kernel, ⟨readyZero_of (by decide +kernel), by decide +kernel⟩,
    State.letIn_state (by decide +kernel), by decide +kernel, by decide, by decide +kernel, by decide +kernel⟩

theorem witness_SessionCommandsComplete :
    KwReady lab .hello ∧ KwReady lab .ping ∧ KwReady lab (.eventAck 0xFFFFFFFF) ∧ KwReady lab .sessionClose ∧ OpReady lab .ping ∧
      OpReady lab (.eventAck 0) ∧ OpReady lab .sessionClose ∧ OpReady lab .hello :=
  ⟨ready_of (by decide +kernel), ready_of (by decide +kernel), ready_of (by decide +kernel), ready_of (by decide +kernel), ready_of (by decide +kernel),
    ready_of (by decide +kernel), ready_of (by decide +kernel), ready_of (by decide +kernel)⟩

def oldEvent : Event := { code := Ev.fenceDone, seq := 3, epoch := 1, session := 1, qual := 0, rtime := 0, body := [] }
def heldPing (n : BitVec 32) : HeldCmd := { hdr := { khdr .ping with seq := n }, body := .ping, since := 0, arrived := 0 }
/-- A session with a held command, an event sent seven times, and a fenced PING that waits. -/
def busySession : Session :=
  { labSession with held := [heldPing 9], waiting := [heldPing 1], unacked := [{ ev := oldEvent, sends := 7, lastSend := 0 }] }
def labBusy : State := { lab with kws := [(lk, { labKw with sessions := [busySession] })] }

theorem witness_SessionTimersComplete :
    ((labBusy.tick 60000000000).bearing? (.kw lk) 1 = some busySession ∧
      busySession.lastCmd + (labBusy.tick 60000000000).idleNs (.kw lk) ≤ (labBusy.tick 60000000000).osc) ∧
    ((labBusy.tick 2000000).bearing? (.kw lk) 1 = some busySession ∧
      ∀ x ∈ busySession.held, x.since + 2000000 ≤ (labBusy.tick 2000000).osc) ∧
    ((busySession.unacked.find? fun u => u.ev.seq = 3#32) = some { ev := oldEvent, sends := 7, lastSend := 0 } ∧
      0 + 10000000 ≤ (labBusy.tick 10000000).osc) ∧
    (busySession.waiting = [heldPing 1] ∧ (heldPing 1).body = .ping ∧ (heldPing 1).hdr.len = 0 ∧ (heldPing 1).hdr.epoch = 0 ∧
      (labBusy.tick 1).opsOf (.kw lk) busySession.ref = []) :=
  ⟨⟨rfl, by decide +kernel⟩, ⟨rfl, by decide +kernel⟩, ⟨rfl, by decide +kernel⟩, rfl, rfl, rfl, rfl, rfl⟩

def labQp : QpArgs := { gid := 3, hostQpn := 4, hostPsn := 5, mtu := 5, retry := 7, timeout := 31 }
/-- A queue pair and a region of the keyway. -/
def onePair : Qp := newPair 17 18 labQp 0
def oneRegion : MemReg := newRegion 19 0 4096 3
def labPair : State := { lab with kws := [(lk, { labKw with qps := [onePair], regs := [oneRegion] })] }

theorem witness_RegistrationsComplete :
    (KwReady lab (.memRegister 0 4096 3) ∧ ((kwAt lab (.memRegister 0 4096 3)).kw lk).regs.length < 1024) ∧
    (KwReady labPair (.memDeregister 19) ∧ ((kwAt labPair (.memDeregister 19)).kw lk).regs.any (fun r => r.rkey = 19) = true) ∧
    (KwReady lab (.qpCreate labQp) ∧ ((kwAt lab (.qpCreate labQp)).kw lk).qps.length < 64) ∧
    (KwReady labPair (.qpDestroy 17) ∧ (((kwAt labPair (.qpDestroy 17)).kw lk).qp? 17).isSome = true) :=
  ⟨⟨ready_of (by decide +kernel), by decide +kernel⟩, ⟨ready_of (by decide +kernel), by decide +kernel⟩,
    ⟨ready_of (by decide +kernel), by decide +kernel⟩, ready_of (by decide +kernel), by decide +kernel⟩

/-- Reads that stand on the queue pair. -/
def readOps (n : Nat) : List Op :=
  (List.range n).map fun i =>
    { id := i, ep := .kw lk, session := labSession.ref, seq := 1, epoch := 1,
      kind := .xferIn lp { qpn := 17, addr := 64, len := 32, remoteVa := 0, remoteRkey := 1 } }
def labReads (n : Nat) : State := { labPair with ops := readOps n, nextOp := n }

/-- The most a transfer moves, and the last quadrant. -/
def labXfer : XferArgs := { qpn := 17, addr := 0x7000000000, len := 0x80000000, remoteVa := 0, remoteRkey := 1 }

theorem witness_TransfersAreAccepted :
    (KwReady lab (.memFill 0x7000000000 0 1) ∧ (kwAt lab (.memFill 0x7000000000 0 1)).kwPart lk = some lp) ∧
    (KwReady lab (.memCopy 0 4096 4096) ∧ (kwAt lab (.memCopy 0 4096 4096)).kwPart lk = some lp) ∧
    (KwReady labPair (.xferOut labXfer) ∧ (kwAt labPair (.xferOut labXfer)).kwPart lk = some lp ∧
      ((kwAt labPair (.xferOut labXfer)).kw lk).qp? labXfer.qpn = some onePair ∧ onePair.error = false) ∧
    (KwReady labPair (.xferIn labXfer) ∧ (kwAt labPair (.xferIn labXfer)).kwPart lk = some lp ∧
      ((kwAt labPair (.xferIn labXfer)).kw lk).qp? labXfer.qpn = some onePair) ∧
    (KwReady (labReads 16) (.xferIn labXfer) ∧ ((kwAt (labReads 16) (.xferIn labXfer)).qpReads (.kw lk) 17).length = 16 ∧
      ((kwAt (labReads 15) (.xferIn labXfer)).qpReads (.kw lk) 17).length < 16) :=
  ⟨⟨ready_of (by decide +kernel), by decide +kernel⟩, ⟨ready_of (by decide +kernel), by decide +kernel⟩,
    ⟨ready_of (by decide +kernel), by decide +kernel, by decide +kernel, rfl⟩,
    ⟨ready_of (by decide +kernel), by decide +kernel, by decide +kernel⟩, ready_of (by decide +kernel), by decide +kernel⟩

def fillOp : Op := { id := 0, ep := .kw lk, session := labSession.ref, seq := 1, epoch := 1, kind := .fill lp 0 20 0x0807060504030201 }
def copyOp : Op := { id := 1, ep := .kw lk, session := labSession.ref, seq := 2, epoch := 1, kind := .copy lp 0 4 20 }
def labFilled : State := { lab with ops := [fillOp, copyOp], nextOp := 2 }

theorem witness_FillAndCopyDone :
    (labFilled.op? 0 = some fillOp ∧ fillOp.kind = .fill lp 0 20 0x0807060504030201 ∧
      (labFilled.tick 1).opInTenant fillOp.kind = true) ∧
    (labFilled.op? 1 = some copyOp ∧ copyOp.kind = .copy lp 0 4 20 ∧ (labFilled.tick 1).opInTenant copyOp.kind = true) ∧
    (∀ o, o = (readOps 1).headD fillOp → (labReads 1).op? 0 = some o ∧ ((labReads 1).tick 1).opInTenant o.kind = true ∧
      ((labReads 1).tick 1).opQp o 17 = some (lk, onePair) ∧ ((labReads 1).tick 1).requested o = true) ∧
    (({ labFilled with parts := [] } : State).op? 0 = some fillOp ∧
      (({ labFilled with parts := [] } : State).tick 1).opInTenant fillOp.kind = false) := by
  refine ⟨by decide +kernel, by decide +kernel, ?_, by decide +kernel⟩
  rintro o rfl
  decide +kernel

def labRdma : RdmaReq := { port := 0, src := 3, qpn := 17, va := 4096 - 32, rkey := 19, dmaLen := 32, marked := 1 }

/-- The last bytes of a region. -/
theorem witness_HostRdmaCompletes :
    (labPair.tick 1).rdmaAdmit labRdma.port labRdma.src labRdma.qpn = .admitted lk onePair ∧ labRdma.dmaLen ≤ 2 ^ 31 ∧
    (labPair.tick 1).rdmaRange lk labRdma (List.replicate 32 7#8).length true = some (lp, 4064) ∧
    (labPair.tick 1).rdmaRange lk labRdma labRdma.dmaLen false = some (lp, 4064) := by decide +kernel

/-- A pair whose timeout runs, with a transfer outstanding. -/
def timedPair (n : Nat) : Qp := { onePair with timeout := 14, retriesUsed := n }
def labWorn (n : Nat) : State := { labReads 1 with kws := [(lk, { labKw with qps := [timedPair n] })] }
/-- All links of chip 0 in service. -/
def labUplinks : State :=
  { lab with links := (List.finRange 8).map fun p => (({ chip := 0, port := p } : LinkId), { Link.init with inService := true }) }
def fullPort : HostPort := { HostPort.init with up := true, queue := [(10, 33554432)] }

theorem witness_HostRdmaEventsComplete :
    ((labWorn 6).tick 1).rdmaAdmit 0 3 17 = .admitted lk (timedPair 6) ∧
    (∀ n ∈ [6, 7], ((labWorn n).kw lk).qp? 17 = some (timedPair n) ∧ (timedPair n).error = false ∧ (timedPair n).timeout ≠ 0 ∧
      ((labWorn n).qpXfers (.kw lk) 17).isEmpty = false ∧
      (timedPair n).since + 4096 * 2 ^ (timedPair n).timeout ≤ ((labWorn n).tick 67108864).osc) ∧
    ((timedPair 6).retriesUsed < (timedPair 6).retry ∧ (timedPair 7).retry ≤ (timedPair 7).retriesUsed) ∧
    ((lab.tick 1).portLive 0 = true ∧ (lab.port 0).fill (lab.tick 1).osc + [7#8].length ≤ 33554432 ∧
      (lab.tick 1).switchSend (hostPortSwitch 0) lp 0 true (firmwarePkts .host 0 0 lp 0 [7]) = none ∧
      ((labUplinks.tick 1).switchSend (hostPortSwitch 0) lp 0 true (firmwarePkts .host 0 0 lp 0 [7])).isSome = true ∧
      ((labPart.ingestChip : ChipId) = 0) ∧ (lab.port 0).fill (lab.tick 1).osc * 100 ≤ 33554432 * lab.rackSet 0x0303#16) ∧
    (33554432 < fullPort.fill 1 + [7#8].length ∧ fullPort.fill 1 + ([] : List Byte).length ≤ 33554432 ∧
      33554432 * lab.rackSet 0x0303#16 < fullPort.fill 1 * 100) := by decide +kernel

/-! ### Programs and the Keyring -/

/-- A program of no cells, for a TAGGED partition. -/
def labImage : ProgramImage :=
  { intact := true, mode := 1, cut := 0x02000004, formats := [.bf16, .mxfp4], cells := [], entries := [], ringAddr := 0, ringLen := 0,
    classes := [], recv := [] }
def labConfig : Configuration := { num := 0, prog := some labImage, cal := none }

/-- The lab with its partition changed. -/
def labWith (f : Part → Part) : State := { lab with parts := [(lp, some (f labPart))] }

def runningPart : Part := { labPart with configs := [labConfig], running := some labConfig, prog := .running, hinges := 1 }
def labRunning : State := { lab with parts := [(lp, some runningPart)] }

/-- A cell with more match rules than it holds. -/
def fullCell : CellCfg :=
  { vchip := 0, c := 0, r := 0, outs := [], ins := [], rules := List.replicate 17 [0], sched := [], period := 0, notifyQ := none,
    abortQ := none }

theorem witness_ProgramCommandsComplete :
    (KwReady lab (.progLoad 0xFFFE 0 0 labImage) ∧ (kwAt lab (.progLoad 0xFFFE 0 0 labImage)).kwPart lk = some lp ∧
      (kwAt lab (.progLoad 0xFFFE 0 0 labImage)).part lp = some labPart ∧ labImage.intact = true ∧
      labImage.formats.all formatOk = true ∧ labImage.cells.all cellFits = true ∧
      labImage.mode.toNat = (kwAt lab (.progLoad 0xFFFE 0 0 labImage)).partSet lp 0x0203#16 ∧
      Config.cuts.contains labImage.cut = true) ∧
    (KwReady lab (.progLoad 0 0 0 { labImage with intact := false }) ∧ ({ labImage with intact := false } : ProgramImage).intact = false ∧
      KwReady lab (.progLoad 0 0 0 { labImage with cells := [fullCell] }) ∧ [fullCell].all cellFits = false ∧
      KwReady lab (.progLoad 0 0 0 { labImage with formats := [.otherBlock] }) ∧ [NumFormat.otherBlock].all formatOk = false) ∧
    (KwReady lab (.calLoad 0 0 20) ∧ (kwAt lab (.calLoad 0 0 20)).part lp = some labPart) ∧
    (KwReady lab (.progStop 0) ∧ labPart.prog = .idle ∧ KwReady labRunning (.progStop 0) ∧ KwReady labRunning (.progStop 1) ∧
      (kwAt labRunning (.progStop 1)).part lp = some runningPart ∧ runningPart.prog = .running) ∧
    (KwReady labRunning .progStatus ∧ (kwAt labRunning .progStatus).kwPart lk = some lp) :=
  ⟨⟨ready_of (by decide +kernel), by decide +kernel, by decide +kernel, by decide +kernel, by decide +kernel, by decide +kernel,
      by decide +kernel⟩,
    ⟨ready_of (by decide +kernel), rfl, ready_of (by decide +kernel), by decide +kernel, ready_of (by decide +kernel), by decide +kernel⟩,
    ⟨ready_of (by decide +kernel), by decide +kernel⟩, ⟨ready_of (by decide +kernel), rfl, ready_of (by decide +kernel), ready_of (by decide +kernel), by decide +kernel, rfl⟩,
    ready_of (by decide +kernel), by decide +kernel⟩

/-- A request with one source, at a stage. -/
def reqAt (st : Stage) : Request :=
  { tag := 5, kw := lk, session := labSession.ref, seq := 1, part := lp, epoch := 1, model := 1, cut := 0x02000004, declared := 1, flags := 1,
    maxTokens := 400, temperature := 0, topP := 0x3F80, seed := 0,
    sources := [{ index := 0, flags := 1, stamp := 0, arrived := 0, text := .text [97, 98, 32], via := .host 0, accepted := true }],
    rx := 0, window := 2000000, batchTokens := 65536, batchWait := 200000, fixedRows := 8, fixedTokens := 4096,
    slots := [(0, 1, true)], insertKey := some (0, 1), quota := 16, copies := 1, stage := st, fusing := true, prompt := [3, 2],
    keys := [], hadBase := false, d := 1, p := 0, found := [], resident := false, chunk := 0, pinned := false, marks := [0, 0, 0, 0],
    reread := [], holes := [], generated := [], status := none, tokenAt := 0, resetBy := none, endedAt := 0 }
def openReq : Request := reqAt .receiving

/-- A configuration of another cut beside the running one, with a request open or none. -/
def otherConfig : Configuration := { num := 1, prog := some { labImage with cut := 0x01000001 }, cal := none }
def otherPart : Part := { runningPart with configs := [labConfig, otherConfig] }
def idlePart : Part := { labPart with configs := [labConfig] }

theorem witness_ProgramStartsByHinge :
    (KwReady labRunning (.progStart 0) ∧ (kwAt labRunning (.progStart 0)).kwPart lk = some lp ∧
      (kwAt labRunning (.progStart 0)).part lp = some runningPart ∧ runningPart.config? 0 = some labConfig ∧
      labConfig.prog = some labImage ∧ runningPart.latest.map Wave.config = some labConfig) ∧
    (∀ s, s = ({ lab with parts := [(lp, some otherPart)], reqs := [openReq] } : State) →
      KwReady s (.progStart 1) ∧ otherPart.config? 1 = some otherConfig ∧ otherPart.latest.map Wave.config ≠ some otherConfig ∧
      otherPart.startable = true ∧ merges labPart.shape otherConfig.cal = true ∧ (kwAt s (.progStart 1)).openReqs lp ≠ [] ∧
      ∃ w, (otherPart.runningWave <|> otherPart.waves.head?) = some w ∧ w.config.cut ≠ some 0x01000001) ∧
    (∀ s, s = ({ lab with parts := [(lp, some idlePart)] } : State) →
      KwReady s (.progStart 0) ∧ (kwAt s (.progStart 0)).part lp = some idlePart ∧ idlePart.latest = none ∧
      labImage.mode.toNat = (kwAt s (.progStart 0)).partSet lp 0x0203#16 ∧ idlePart.startable = true ∧
      merges labPart.shape labConfig.cal = true ∧ (idlePart.runningWave <|> idlePart.waves.head?) = none) := by
  refine ⟨⟨ready_of (by decide +kernel), by decide +kernel, by decide +kernel, by decide +kernel, rfl, by decide +kernel⟩, ?_, ?_⟩
  · rintro s rfl
    exact ⟨ready_of (by decide +kernel), by decide +kernel, by decide +kernel, by decide +kernel, by decide +kernel, by decide +kernel,
      _, rfl, by decide +kernel⟩
  · rintro s rfl
    exact ⟨ready_of (by decide +kernel), by decide +kernel⟩

theorem witness_ProgramStops :
    (labWith fun v => { v with prog := .stopping 0 none }).part lp = some { labPart with prog := .stopping 0 none } ∧
    (labWith fun v => { v with prog := .draining 0 none }).part lp = some { labPart with prog := .draining 0 none } :=
  ⟨rfl, rfl⟩

/-- A table with four tokens and blocks of 512 bytes. -/
def labTable : TokTable :=
  { model := 1, vocab := [[97#8], [98#8], [32#8], [97#8, 98#8]], merges := [(0, 1, 3)], specials := [], pad := 2, kvb := 512,
    eos := 0xFFFFFFFF, classes := [1, 1, 2, 1], imageLen := 400, crc := 0, chips := [lc0, lc1] }

def warmBlock : WarmBlock :=
  { idx := 0, gen := 1, key := 77, kvb := 512, copies := 1, r := 1, data := [(0, 5)], committed := true, by_ := lp, usedAt := 0,
    lostOn := [] }
def labHandle : Handle := { num := 21, session := labSession.ref, blocks := [(0, 77)], expires := 10000000000, ended := false }
def fetchOp : Op := { id := 0, ep := .kw lk, session := labSession.ref, seq := 1, epoch := 1, kind := .fetch lp 21 0 512 [] [] }
def doneLookup (st : Nat) : Lookup :=
  { kw := lk, part := some lp, session := labSession.ref, hdr := khdr .ping, arrived := 0, epoch := 1, due := 20700, blocks := 1,
    found := [], status := st, reached := true, lateOp := none }
/-- A table, a warm block, a handle on it and a fetch of it; a lookup that waits; a block still claimed. -/
def labKr (st : Nat) : State :=
  { lab with
    parts := [(lp, some { labPart with tables := [labTable] })]
    kws := [(lk, { labKw with handles := [labHandle] })]
    ops := [fetchOp]
    lookups := [doneLookup st]
    kr := { State.reset.kr with dir := [warmBlock, { warmBlock with key := 78, committed := false }] } }

theorem witness_KeyringCommandsComplete :
    (KwReady lab (.krLookup 0 1024 1) ∧ KwReady lab (.krLookup 0 1 0) ∧ (kwAt lab (.krLookup 0 1024 1)).kwPart lk = some lp ∧
      (kwAt lab (.krLookup 0 1024 1)).part lp = some labPart ∧
      ((kwAt lab (.krLookup 0 1024 1)).kw lk).handles.length + ((kwAt lab (.krLookup 0 1024 1)).lookups.filter fun l => l.kw = lk && !l.found.isEmpty).length < 256 ∧
      (kwAt lab (.krLookup 0 1024 1)).maskKeys lk 1 = some [0] ∧ (kwAt lab (.krLookup 0 1 0)).maskKeys lk 0 = some [] ∧
      KwReady lab (.krLookup 0 1 0x8000) ∧ (kwAt lab (.krLookup 0 1 0x8000)).maskKeys lk 0x8000 = none) ∧
    (KwReady (labKr 0) (.krInsert 0 0 0 0 0) ∧ (kwAt (labKr 0) (.krInsert 0 0 0 0 0)).slotKey lk 0 = some (0, true) ∧
      (kwAt (labKr 0) (.krInsert 0 0 0 0 0)).kvbOf lp 1 = some 512 ∧
      (kwAt (labKr 0) (.krInsert 0 0 0 0 0)).rangeOk lp 0 0 = true ∧
      ((kwAt (labKr 0) (.krInsert 0 0 0 0 0)).insertBlocks lp 0 512 ((kwAt (labKr 0) (.krInsert 0 0 0 0 0)).krCopies 0)
        ((kwAt (labKr 0) (.krInsert 0 0 0 0 0)).krQuota 0)
        (insertedBlocks (kwAt (labKr 0) (.krInsert 0 0 0 0 0)) lp { labPart with tables := [labTable] } labSession 0 0 0 0 0 512)).isSome =
          true) ∧
    (KwReady (labKr 0) (.krFetch 21 0) ∧
      (((kwAt (labKr 0) (.krFetch 21 0)).kw lk).handles.find? fun z => z.num = 21 && !z.ended) = some labHandle ∧
      handleKvb (kwAt (labKr 0) (.krFetch 21 0)) lp labHandle = 512 ∧ (kwAt (labKr 0) (.krFetch 21 0)).rangeOk lp 0 512 = true) ∧
    (KwReady (labKr 0) (.krRelease 21) ∧
      (((kwAt (labKr 0) (.krRelease 21)).kw lk).handles.any fun z => z.num = 21 && !z.ended) = true) ∧
    (KwReady lab (.krUsage 0) ∧ (kwAt lab (.krUsage 0)).slotKey lk 0 = some (0, true)) :=
  ⟨⟨ready_of (by decide +kernel), ready_of (by decide +kernel), by decide +kernel, by decide +kernel, by decide +kernel,
      by decide +kernel, by decide +kernel, ready_of (by decide +kernel), by decide +kernel⟩, ⟨ready_of (by decide +kernel), by decide +kernel⟩,
    ⟨ready_of (by decide +kernel), by decide +kernel⟩, ⟨ready_of (by decide +kernel), by decide +kernel⟩,
    ready_of (by decide +kernel), by decide +kernel⟩

theorem labHandle_held : ∀ b ∈ labHandle.blocks, ((labKr 0).blockData lp b.1 b.2).isSome = true := by
  have key : (labHandle.blocks.all fun b => ((labKr 0).blockData lp b.1 b.2).isSome) = true := by decide +kernel
  exact List.all_eq_true.mp key

def rereadOp (re : List (Nat × Fin 64)) : Op := { fetchOp with kind := .fetch lp 21 0 512 re [] }
def labReread (re : List (Nat × Fin 64)) : State := { labKr 0 with ops := [rereadOp re] }

theorem witness_KeyringEventsComplete :
    (∀ st ∈ [St.ok, St.shareDenied], nextDue (labKr st).lookups = some (doneLookup st) ∧
      (doneLookup st).due ≤ ((labKr st).tick 20200).osc + 500 ∧ (doneLookup st).status = st) ∧
    (((labKr 0).kr.dir.find? fun b => b.idx = 0 && b.key = 78 && !b.committed) = some { warmBlock with key := 78, committed := false } ∧
      (labKr 0).genLive 0 1 = true ∧ (labKr 0).kr.lowering = [] ∧ ∀ x : SwId, ((labKr 0).swt x).up = true) ∧
    (∀ re ∈ [[], [((0, 63) : Nat × Fin 64)]], (labReread re).op? 0 = some (rereadOp re) ∧ (rereadOp re).ep = .kw lk ∧
      (((labReread re).kw lk).handles.find? fun z => z.num = 21) = some labHandle ∧
      (((labReread re).warmOf lp labHandle.blocks).find? fun e => e.1 = 0) = some (0, warmBlock)) ∧
    ((labKr 0).op? 0 = some fetchOp ∧ fetchOp.ep = .kw lk ∧ fetchOp.kind = .fetch lp 21 0 512 [] []) ∧
    ((((labKr 0).kw lk).handles.find? fun z => z.num = 21) = some labHandle ∧
      (∀ b ∈ labHandle.blocks, ((labKr 0).blockData lp b.1 b.2).isSome = true)) ∧
    labHandle.expires ≤ ((labKr 0).tick 10000000000).osc :=
  ⟨by decide +kernel, by decide +kernel, by decide +kernel, by decide +kernel, ⟨by decide +kernel, labHandle_held⟩, by decide +kernel⟩

/-! ### Requests and batches -/

def labReq : ReqArgs :=
  { tag := 5, sources := 4, flags := 1, insertSlot := 0, maxTokens := 0, temperature := 0x4180, topP := 0x3F80, seed := 0, stamp := 0,
    text := .text [97] }
def labSrc : SourceArgs := { tag := 6, index := 3, flags := 1, stamp := 0, text := .text [98] }

/-- A running program, a table and nothing else of ingest. -/
def readyPart : Part := { runningPart with tables := [labTable] }
def labIngest : State := { lab with parts := [(lp, some readyPart)] }

/-- A source held for tag 5, one for tag 6, and a request of tag 6 that receives, with its sources 0 and 3. -/
def heldOf (g : BitVec 64) : HeldSource :=
  { tag := g, src := { index := 3, flags := 1, stamp := 0, arrived := 0, text := .text [98], via := .host 0, accepted := false },
    rx := 0, window := 2000000, batchTokens := 65536, batchWait := 200000, maxOpen := 4, part := lp }
def labJoin (r : Request) (x : List HeldSource) : State :=
  { labIngest with reqs := [r], kws := [(lk, { labKw with heldSources := x })] }
def wideReq : Request := { reqAt .receiving with tag := 6, declared := 4, fusing := false, stage := .receiving }
def doneReq : Request := { reqAt .complete with tag := 6 }

theorem witness_RequestsAreSubmitted :
    (∀ s ∈ [labIngest, labJoin { reqAt .complete with status := some 0 } [heldOf 5]],
      KwReady s (.reqSubmit labReq) ∧ (kwAt s (.reqSubmit labReq)).kwPart lk = some lp ∧
      (kwAt s (.reqSubmit labReq)).part lp = some readyPart ∧
      ((kwAt s (.reqSubmit labReq)).request? lk 5).all (fun r => !r.isOpen) = true ∧
      readyPart.startedCut labSession.cut = true ∧ ((kwAt s (.reqSubmit labReq)).kvbOf lp 1).isSome = true ∧
      ((kwAt s (.reqSubmit labReq)).insertKeyOf lk 0).isSome = true ∧
      ((kwAt s (.reqSubmit labReq)).openReqs lp).length <
        (((((kwAt s (.reqSubmit labReq)).dropStale lk 1).heldFor lk 5).head?).map HeldSource.maxOpen).getD
          ((kwAt s (.reqSubmit labReq)).partSet lp 0x0507#16)) ∧
    (KwReady labIngest (.reqSource labSrc) ∧ (kwAt labIngest (.reqSource labSrc)).kwPart lk = some lp ∧
      ((kwAt labIngest (.reqSource labSrc)).request? lk 6).all (fun r => !r.isOpen) = true ∧
      (((kwAt labIngest (.reqSource labSrc)).dropStale lk 1).heldFor lk 6).find? (fun z => z.src.index = 3) = none ∧
      (((kwAt labIngest (.reqSource labSrc)).dropStale lk 1).kw lk).heldSources.length < 64) ∧
    (KwReady (labJoin doneReq [heldOf 6]) (.reqSource labSrc) ∧
      ((kwAt (labJoin doneReq [heldOf 6]) (.reqSource labSrc)).request? lk 6).all (fun r => !r.isOpen) = true ∧
      (((kwAt (labJoin doneReq [heldOf 6]) (.reqSource labSrc)).dropStale lk 1).heldFor lk 6).find? (fun z => z.src.index = 3) =
        some (heldOf 6)) ∧
    (KwReady (labJoin wideReq []) (.reqSource labSrc) ∧
      (kwAt (labJoin wideReq []) (.reqSource labSrc)).request? lk 6 = some wideReq ∧ wideReq.stage = .receiving ∧
      labSrc.index.toNat < wideReq.declared ∧ (wideReq.sources.find? fun z => z.index = 3) = none ∧ wideReq.fusing = false ∧
      (kwAt (labJoin wideReq []) (.reqSource labSrc)).rackNs ≤ wideReq.rx + wideReq.window) ∧
    (KwReady (labJoin { wideReq with sources := wideReq.sources ++ [(heldOf 6).src] } []) (.reqSource labSrc) ∧
      ((wideReq.sources ++ [(heldOf 6).src]).find? fun z => z.index = 3) = some (heldOf 6).src) := by
  refine ⟨?_, ⟨ready_of (by decide +kernel), by decide +kernel⟩, ⟨ready_of (by decide +kernel), by decide +kernel⟩,
    ⟨ready_of (by decide +kernel), by decide +kernel⟩, ready_of (by decide +kernel), by decide +kernel⟩
  intro s hs
  simp only [List.mem_cons, List.not_mem_nil, or_false] at hs
  rcases hs with rfl | rfl <;> exact ⟨ready_of (by decide +kernel), by decide +kernel⟩

/-- A state with the request, and one with a part of its own. -/
def labReqs (r : Request) (v : Part := readyPart) : State := { labIngest with reqs := [r], parts := [(lp, some v)] }

/-- A table image of 256 one-byte tokens, its CRC computed from R209's polynomial. -/
def tableBytes : List Byte :=
  [0x54, 0x4B, 1, 0, 1, 0, 0, 0, 0, 1, 0, 0, 0, 0, 0, 0, 0, 0, 0, 0, 0, 0, 0, 0, 0, 8, 0, 0, 255, 255, 255, 255] ++ List.replicate 256 1 ++
    ((List.range 256).flatMap fun b => [1#8, BitVec.ofNat 8 b]) ++ [134, 208, 150, 82]
def labImg : State := { lab with hbm := Memory.ofBytes tableBytes }

theorem bytes_ofBytes (bs : List Byte) : Memory.bytes (Memory.ofBytes bs) 0 bs.length = bs := by
  apply List.ext_getElem (by simp [Memory.bytes])
  intro i h1 h2
  simp [Memory.bytes, Memory.read_ofBytes, List.getElem?_eq_getElem h2]

theorem tableBytes_length : tableBytes.length = 804 := by decide +kernel

set_option maxRecDepth 100000 in
theorem witness_tableParses :
    (match parseTable tableBytes 1 with
     | some x => tablesFit labPart [{ x with chips := ((kwAt labImg (.tokLoad 1 0 804)).serviceChips labPart).take 2 }]
     | none => false) = true := by decide +kernel

theorem witness_RequestQueriesComplete :
    (∀ st ∈ [Stage.decoding, Stage.complete, Stage.receiving],
      KwReady (labReqs (reqAt st)) (.reqCancel 5) ∧ KwReady (labReqs (reqAt st)) (.reqStatus 5) ∧
      KwReady (labReqs (reqAt st)) (.reqTokens 5 0xFFFFFFFF 2000) ∧
      (kwAt (labReqs (reqAt st)) (.reqStatus 5)).request? lk 5 = some (reqAt st)) ∧
    ((reqAt .decoding).isOpen = true ∧ (reqAt .complete).isOpen = false ∧ (reqAt .complete).resetBy = none ∧ (reqAt .receiving).chunk = 0 ∧ (∀ v, (kwAt (labReqs (reqAt .receiving)) (.reqStatus 5)).part lp = some v →
        v.takenChunk lk 5 = none)) ∧
    KwReady lab .deltaForget ∧
    (KwReady lab (.tokLoad 1 0 0) ∧ (kwAt lab (.tokLoad 1 0 0)).part lp = some labPart ∧
      (labPart.tables.find? fun x => x.model = 1) = none) ∧
    (KwReady labImg (.tokLoad 1 0 804) ∧ (kwAt labImg (.tokLoad 1 0 804)).kwPart lk = some lp ∧
      (kwAt labImg (.tokLoad 1 0 804)).tread lp 0 804 = tableBytes) := by
  refine ⟨?_, ⟨by decide +kernel, by decide +kernel, by decide +kernel, by decide +kernel, ?_⟩, ready_of (by decide +kernel), ⟨ready_of (by decide +kernel), by decide +kernel, by decide +kernel⟩,
    ready_of (by decide +kernel), by decide +kernel, ?_⟩
  on_goal 3 =>
    have h0 : (kwAt labImg (.tokLoad 1 0 804)).phys lp 0 = 0 := by decide +kernel
    have h1 : (kwAt labImg (.tokLoad 1 0 804)).hbm = Memory.ofBytes tableBytes := rfl
    have h2 : (kwAt labImg (.tokLoad 1 0 804)).poison = [] := rfl
    have h3 : (kwAt labImg (.tokLoad 1 0 804)).tread lp 0 804 = Memory.bytes (Memory.ofBytes tableBytes) 0 804 := by
      simp only [State.tread, State.hbmByte, h0, h1, h2, List.contains_nil, Bool.false_eq_true, if_false]
      rfl
    rw [h3, ← tableBytes_length]
    exact bytes_ofBytes tableBytes
  on_goal 2 =>
    intro v hv
    have h : (kwAt (labReqs (reqAt .receiving)) (.reqStatus 5)).part lp = some readyPart := by decide +kernel
    rw [h] at hv
    cases hv
    rfl
  intro st hst
  have h : st = .decoding ∨ st = .complete ∨ st = .receiving := by simpa using hst
  rcases h with rfl | rfl | rfl <;>
    exact ⟨ready_of (by decide +kernel), ready_of (by decide +kernel), ready_of (by decide +kernel), by decide +kernel⟩

def labBase : DeltaBase := { keys := [5, 6], model := 1, usedAt := 0 }

theorem witness_RequestStagesComplete :
    (∀ st ∈ [Stage.receiving, .assembled, .tokenised, .deltaDone, .queued],
      (labReqs (reqAt st)).request? lk 5 = some (reqAt st) ∧ (reqAt st).stage = st ∧ (labReqs (reqAt st)).ingestRuns lp = true) ∧
    ((reqAt .receiving).rx + (reqAt .receiving).window ≤ ((labReqs (reqAt .receiving)).tick 2000000).rackNs ∧
      ({ reqAt .receiving with fusing := false }).fusing = false ∧ (reqAt .receiving).fusing = true ∧
      (reqAt .receiving).allAccepted = true) ∧
    ((labReqs (reqAt .assembled)).table? lp 1 = some labTable ∧ (labReqs (reqAt .assembled)).part lp = some readyPart ∧
      fusePrompt labTable (reqAt .assembled).sources ≠ [] ∧ (fusePrompt labTable (reqAt .assembled).sources).length ≤ 262144) ∧
    ((labReqs (reqAt .tokenised)).deltaBlocked (reqAt .tokenised) = false ∧
      (labReqs (reqAt .tokenised)).baseOf (reqAt .tokenised) = none ∧
      ({ labReqs (reqAt .tokenised) with
          kws := [(lk, { labKw with sessions := [{ labSession with base := some labBase }] })] } : State).baseOf (reqAt .tokenised) =
        some labBase) ∧
    (reqAt .deltaDone).marks.getD 3 0 + lookupNs (reqAt .deltaDone).lookupBlocks ≤ ((labReqs (reqAt .deltaDone)).tick 19500).rackNs + 500 ∧
    (reqAt .queued).resident = false := by decide +kernel

def chunkOf (last : Bool) : BatchChunk := { kw := lk, tag := 5, tokens := 2, pad := 62, last := last, cancelled := false }
def batchOf (last : Bool) : Batch :=
  { id := 3, bucket := 64, fixed := false, chunks := [chunkOf last], opened := 0, limit := 65536, wait := 200000, rows := 8,
    closed := false }
/-- A former behind n prepared batches. -/
def formerPart (n : Nat) : Part := { readyPart with former := [batchOf true], prepared := List.replicate n { batchOf true with id := 9 } }
def preparedPart : Part := { readyPart with prepared := [{ batchOf true with closed := true }] }
def takenPart (last : Bool) : Part := { readyPart with taken := some (batchOf last) }
def residentReq : Request := { reqAt .queued with resident := true, pinned := true }

theorem witness_BatchesComplete :
    (∀ n ∈ [31, 32], (labReqs residentReq (formerPart n)).part lp = some (formerPart n) ∧
      ((formerPart n).former.find? fun b => b.id = 3) = some (batchOf true) ∧ (batchOf true).closed = false ∧
      (batchOf true).opened + (batchOf true).wait ≤ ((labReqs residentReq (formerPart n)).tick 200000).osc ∧
      (formerPart n).prepared.length = n) ∧
    ((preparedPart.prepared.find? fun b => b.chunks.all fun c =>
        (labReqs residentReq preparedPart).chunkReady c &&
          ((labReqs residentReq preparedPart).request? c.kw c.tag).all fun r => preparedPart.runsCut r.cut) =
      some { batchOf true with closed := true } ∧ preparedPart.takesBatches = true ∧ preparedPart.taken = none) ∧
    (∀ last, (takenPart last).takenChunk lk 5 = some (chunkOf last) ∧ (chunkOf last).last = last ∧
      (takenPart last).gridRuns ((labReqs residentReq (takenPart last)).tick 1).osc = true ∧
      (takenPart last).runsCut residentReq.cut = true) ∧
    ((labReqs residentReq (takenPart true)).request? lk 5 = some residentReq ∧ residentReq.part = lp ∧
      (labReqs residentReq (takenPart true)).session? (.kw lk) residentReq.session = some labSession) ∧
    ((labReqs (reqAt .decoding)).table? lp 1 = some labTable ∧ (reqAt .decoding).stage = .decoding ∧
      (reqAt .decoding).generated.length + 1 < (reqAt .decoding).maxTokens ∧ labTable.eos = 0xFFFFFFFF ∧
      ({ reqAt .decoding with maxTokens := 1 } : Request).maxTokens ≤ (reqAt .decoding).generated.length + 1) ∧
    ((labJoin (reqAt .complete) [heldOf 6]).request? lk 5 = some (reqAt .complete) ∧
      (reqAt .complete).endedAt + 10000000000 ≤ ((labJoin (reqAt .complete) [heldOf 6]).tick 10000000000).rackNs) ∧
    (((labJoin (reqAt .complete) [heldOf 6]).heldFor lk 6).any fun x =>
      decide (x.rx + x.window ≤ ((labJoin (reqAt .complete) [heldOf 6]).tick 2000000).rackNs)) = true := by
  decide +kernel

/-! ### Collectives, settings and the power of partitions -/

/-- A group of the two chips. -/
def labGroup (is : List Instance) : Group :=
  { num := 9, members := [0, 1], gx := 2, gy := 1, gz := 1, timeoutUs := 5000, memberSeq := [is.length, is.length], lastSeq := 0,
    lastStatus := 0, insts := is, dying := false }
def labArgs : FusedArgs :=
  { decode := false, blocks := [], input := 0, len := 16, inputB := 0, outputs := [0, 0], outLen := 16, fmt := .bf16, m := 1, k := 1,
    n := 1, tag := 0 }
/-- A member that has received what its step needs. -/
def memberOf (i : Nat) (st : MemberState) : Member :=
  { index := i, st := st, args := some labArgs, bitmap := [i], data := [], dataB := [], launch := none, got := [] }
def labInst (a b : MemberState) : Instance :=
  { seq := 1, kind := .ar, members := [memberOf 0 a, memberOf 1 b], cut := 0x02000004, reported := false, reqs := [] }
def groupPart (is : List Instance) : Part := { runningPart with groups := [labGroup is] }
def labGroups (is : List Instance) : State := { lab with parts := [(lp, some (groupPart is))] }

theorem witness_GroupCommandsComplete :
    (KwReady lab (.cgCreate [0, 1] 10000000) ∧ (kwAt lab (.cgCreate [0, 1] 10000000)).part lp = some labPart ∧
      (∀ m ∈ [0#16, 1#16], m.toNat < labPart.shape.nChips) ∧
      boxOf labPart.shape ([0#16, 1#16].map BitVec.toNat) = some ((0, 0, 0), (2, 1, 1)) ∧ labPart.groups.length < 64) ∧
    (KwReady (labGroups []) (.cgDestroy 9) ∧ (kwAt (labGroups []) (.cgDestroy 9)).part lp = some (groupPart []) ∧
      (groupPart []).group? 9 = some (labGroup []) ∧ (labGroup []).live = false) ∧
    (KwReady (labGroups [labInst (.running 0 0) .waiting]) (.cgDestroy 9) ∧
      (labGroup [labInst (.running 0 0) .waiting]).live = true ∧ (khdr (.cgDestroy 9)).force = false) ∧
    (KwReady (labGroups []) (.cgStatus 9) ∧ (kwAt (labGroups []) (.cgStatus 9)).kwPart lk = some lp) :=
  ⟨⟨ready_of (by decide +kernel), by decide +kernel, by simp [labPart, labShape, Part.fresh, Shape.nChips], by decide +kernel,
      by decide +kernel⟩,
    ⟨ready_of (by decide +kernel), by decide +kernel⟩, ⟨ready_of (by decide +kernel), by decide +kernel⟩,
    ready_of (by decide +kernel), by decide +kernel⟩

/-- A group whose member 0 holds a notice for its next instance. -/
def warnedGroup : Group := { labGroup [labInst (.aborting 0 0x31) .waiting] with memberSeq := [0, 0] }

theorem witness_CollectivesComplete :
    ((labGroups []).part lp = some (groupPart []) ∧ ((groupPart []).groups.find? fun x => x.num = 9) = some (labGroup []) ∧
      (labGroup []).dying = false ∧ (groupPart []).running.bind Configuration.cut = some 0x02000004 ∧
      (groupPart []).gridRuns ((labGroups []).tick 1).osc = true ∧ formatOk labArgs.fmt = true ∧
      (∀ k ∈ [Fused.mmRs, .mmAr, .agMm, .ar, .ag], (labGroup []).steps k 0x02000004 ≠ []) ∧
      ∀ i < 2, i < (labGroup []).members.length ∧ i < (labGroup []).memberSeq.length ∧
        (labGroup []).inst? ((labGroup []).memberSeq.getD i 0 + 1) = none) ∧
    (warnedGroup.inst? (warnedGroup.memberSeq.getD 0 0 + 1) = some (labInst (.aborting 0 0x31) .waiting) ∧
      (labInst (.aborting 0 0x31) .waiting).members[0]? = some (memberOf 0 (.aborting 0 0x31))) ∧
    ((labGroups [labInst (.running 0 0) .waiting]).member? lp 9 1 0 =
      some (labGroup [labInst (.running 0 0) .waiting], labInst (.running 0 0) .waiting, memberOf 0 (.running 0 0)) ∧
      0 < ((labGroup [labInst (.running 0 0) .waiting]).steps .ar 0x02000004).length ∧
      (labGroup [labInst (.running 0 0) .waiting]).received (labInst (.running 0 0) .waiting) 0 0 = true) ∧
    ((labGroups [labInst .done .done]).member? lp 9 1 0 = some (labGroup [labInst .done .done], labInst .done .done, memberOf 0 .done) ∧
      (∀ j < (labGroup [labInst .done .done]).members.length, j ∈ (memberOf 0 .done).bitmap ∨
        j ∈ [1] ∧ ∃ y, (labInst .done .done).members[j]? = some y ∧ (y.st = .done ∨ y.st = .completed)) ∧
      1 < (labGroup [labInst .done .done]).members.length ∧ 1 ∉ (memberOf 0 .done).bitmap ∧ 1 ∉ ([] : List Nat)) ∧
    0 + (labGroup []).timeoutUs * 1000 ≤ ((labGroups []).tick 5000000).osc ∧
    ((groupPart []).memberChip (labGroup []) 0 = some lc0 ∧ (groupPart []).memberChip (labGroup []) 1 = some lc1 ∧
      ({ labGroups [labInst (.running 0 0) .waiting] with chips := [(lc0, upChip)] } : State).chipUp lc1 = false) ∧
    ((labGroups [labInst (.aborting 0 0x31) .waiting]).member? lp 9 1 0 =
      some (labGroup [labInst (.aborting 0 0x31) .waiting], labInst (.aborting 0 0x31) .waiting, memberOf 0 (.aborting 0 0x31)) ∧
      0 + 10000 ≤ ((labGroups []).tick 10000).osc ∧ (memberOf 0 (.aborting 0 0x31)).args = some labArgs) ∧
    ((labGroups []).group? lp 9 = some (labGroup []) ∧ (labGroup []).inst? 1 = none ∧ (labGroup []).memberSeq.getD 0 0 < 1) := by
  refine ⟨by decide +kernel, by decide +kernel, by decide +kernel, ⟨by decide +kernel, ?_, by decide +kernel⟩, by decide +kernel,
    by decide +kernel, by decide +kernel, by decide +kernel⟩
  intro j hj
  have h : j = 0 ∨ j = 1 := by
    have : j < 2 := hj
    omega
  rcases h with rfl | rfl
  · exact .inl (by decide)
  · exact .inr ⟨by decide, _, rfl, .inl rfl⟩

/-- The operator names no keyway. -/
def rhdr (b : Body) : Hdr := { ohdr b with keyway := 0xFF }

/-- A value the operator has changed and not stored. -/
def labUnstored : State := { lab with cfg := { lab.cfg with running := ((0x0601#16, .rack), [80]) :: labSettings } }
theorem witness_SettingCommandsComplete :
    (KwReady lab (.setGet 0x0107) ∧ (∃ i, setInfo 0x0107 = some i ∧ (kwAt lab (.setGet 0x0107)).mayRead (.kw lk) 0x0107 i = true ∧
        (kwAt lab (.setGet 0x0107)).address (kwCtx lab (.setGet 0x0107)) 0x0107 i = .ok (.kw lk))) ∧
    (KwReady lab (.setLatch 0x0107 [255, 255]) ∧
      (kwAt lab (.setLatch 0x0107 [255, 255])).checkWrite (kwCtx lab (.setLatch 0x0107 [255, 255])) 0x0107 [255, 255] =
          .ok (0x0107#16, .kw lk) ∧ (labSession.latches.filter fun l => l.key ≠ (0x0107#16, .kw lk)).length < 64) ∧
    (KwReady lab .setDiscard ∧ OpReady lab .setDiscard) ∧
    (∀ b, b = Body.setStore 0x0601 →
      ∃ i, setInfo 0x0601 = some i ∧ i.cls = .stored ∧ ∀ s ∈ [lab, labUnstored], Ready s 1 (rhdr b) b .op labSession ∧
        (arrived s 1 (rhdr b) b .op labSession.ref).mayWrite .op i = true ∧
        (arrived s 1 (rhdr b) b .op labSession.ref).address (ctxAt s 1 (rhdr b) b .op labSession) 0x0601 i = .ok .rack ∧
        ((arrived s 1 (rhdr b) b .op labSession.ref).unstored (0x0601#16, .rack) i = false ∨
          (arrived s 1 (rhdr b) b .op labSession.ref).unstored (0x0601#16, .rack) i = true ∧
            Image.length { gen := 0, records := (Tab.set (arrived s 1 (rhdr b) b .op labSession.ref).image.records (0x0601#16, .rack)
              ((arrived s 1 (rhdr b) b .op labSession.ref).setVal (0x0601#16, .rack))) } ≤ 112 * 1024)) ∧
    (∀ b, b = Body.setStore 0 → Ready labUnstored 1 (rhdr b) b .op labSession ∧
      (arrived labUnstored 1 (rhdr b) b .op labSession.ref).storable (ctxAt labUnstored 1 (rhdr b) b .op labSession) ≠ [] ∧
      KwReady lab b ∧ (kwAt lab b).storable (kwCtx lab b) = []) := by
  refine ⟨⟨ready_of (by decide +kernel), _, rfl, by decide +kernel, by decide +kernel⟩,
    ⟨ready_of (by decide +kernel), by decide +kernel, by decide +kernel⟩, ⟨ready_of (by decide +kernel), ready_of (by decide +kernel)⟩, ?_, ?_⟩
  · rintro b rfl
    refine ⟨_, rfl, rfl, ?_⟩
    intro s hs
    simp only [List.mem_cons, List.not_mem_nil, or_false] at hs
    rcases hs with rfl | rfl
    · exact ⟨ready_of (by decide +kernel), by decide +kernel, by decide +kernel, .inl (by decide +kernel)⟩
    · exact ⟨ready_of (by decide +kernel), by decide +kernel, by decide +kernel, .inr (by decide +kernel)⟩
  · rintro b rfl
    exact ⟨ready_of (by decide +kernel), by decide +kernel, ready_of (by decide +kernel), by decide +kernel⟩

/-- The conditions of `Calm` as one value. -/
def calmAt (a : State) : Bool :=
  decide (a.turn = none) && decide (a.partTurns = []) && decide (a.resets = []) && decide (∀ p, (a.liveEpochs p).length < 16)

theorem calm_of {a : State} (g : calmAt a = true) : Calm a := by
  simp only [calmAt, Bool.and_eq_true, decide_eq_true_eq] at g
  exact ⟨g.1.1.1, g.1.1.2, g.1.2, g.2⟩

def idleSession : Session := { labSession with latches := [{ key := (0x0107#16, .kw lk), value := [255, 255] }] }
def labIdle : State := { lab with kws := [(lk, { labKw with sessions := [idleSession] })] }
/-- A rack not yet accepted, and one on which no keyway is open. -/
def labNew : State := { lab with cfg := { lab.cfg with running := ((0x0A20#16, .rack), [0]) :: labSettings } }
def labShut : State := { lab with kws := [] }

/-- KW_BINDING, KW_SHARE_SLOT_15 and KW_SESSION_IDLE by the operator, a latched one by the keyway; acceptance started and taken back. -/
theorem witness_ValuesTurnAtOnce :
    (∀ x ∈ [(0x0101#16, [0#8, 2#8]), (0x011F#16, [0#8, 0#8, 0#8, 0#8, 0#8]), (0x0106#16, [14#8, 16#8])],
      OpReady lab (.setSet x.1 x.2) ∧ Calm (opAt lab (.setSet x.1 x.2)) ∧ (∃ i, setInfo x.1 = some i ∧ i.turn = .keyway) ∧
        (opAt lab (.setSet x.1 x.2)).checkWrite (opCtx lab (.setSet x.1 x.2)) x.1 x.2 =
          .ok (x.1, .kw lk)) ∧
    writeRow (.setSet 1 (ohdr .setTurn) 0x0106 [14, 16]) 1 (ohdr .setTurn) 0x0106 [14, 16] ∧
    ((∃ i, setInfo 0x0107 = some i ∧ i.turn = .keyway) ∧ KwReady labIdle .setTurn idleSession ∧ Calm (kwAt labIdle .setTurn idleSession) ∧
      (kwAt labIdle .setTurn idleSession).mayTurn (.kw lk) (0x0107#16, .kw lk) = true ∧
      (kwAt labIdle .setTurn idleSession).changesOk [.val (0x0107#16, .kw lk) [255, 255]] = true) ∧
    (∀ b, b = Body.setSet 0x0304 [1] → Ready labNew 1 (rhdr b) b .op labSession ∧
      (arrived labNew 1 (rhdr b) b .op labSession.ref).checkWrite (ctxAt labNew 1 (rhdr b) b .op labSession) 0x0304 [1] =
        .ok (0x0304#16, .rack) ∧ Calm (arrived labNew 1 (rhdr b) b .op labSession.ref) ∧
      (∀ p w, (arrived labNew 1 (rhdr b) b .op labSession.ref).part p = some w → w.prog = .idle) ∧ (arrived labNew 1 (rhdr b) b .op labSession.ref).accept.phase = 0) ∧
    (∀ b, b = Body.setSet 0x0A20 [0] → Ready labShut 1 (rhdr b) b .op labSession ∧
      (arrived labShut 1 (rhdr b) b .op labSession.ref).checkWrite (ctxAt labShut 1 (rhdr b) b .op labSession) 0x0A20 [0] =
        .ok (0x0A20#16, .rack) ∧ Calm (arrived labShut 1 (rhdr b) b .op labSession.ref) ∧ fieldBe [0#8] 0 1 = 0 ∧
      (∀ k, (arrived labShut 1 (rhdr b) b .op labSession.ref).kwOpen k = false) ∧ Ready lab 1 (rhdr b) b .op labSession ∧
      (arrived lab 1 (rhdr b) b .op labSession.ref).kwOpen lk = true) := by
  have one : ∀ (s : State), s.parts = lab.parts → ∀ p w, s.part p = some w → w.prog = .idle := by
    intro s hs p w h
    rw [State.part, hs] at h
    have h' : (if p = lp then some labPart else none) = some w := h
    split at h' <;> cases h'
    rfl
  refine ⟨?_, .inl rfl, ⟨⟨_, rfl, rfl⟩, ready_of (by decide +kernel), calm_of (by decide +kernel), by decide +kernel, by decide +kernel⟩, ?_, ?_⟩
  · intro x hx
    simp only [List.mem_cons, List.not_mem_nil, or_false] at hx
    rcases hx with rfl | rfl | rfl <;>
      exact ⟨ready_of (by decide +kernel), calm_of (by decide +kernel), ⟨_, rfl, rfl⟩, rfl⟩
  · rintro b rfl
    exact ⟨ready_of (by decide +kernel), rfl, calm_of (by decide +kernel), one _ rfl, rfl⟩
  · rintro b rfl
    exact ⟨ready_of (by decide +kernel), rfl, calm_of (by decide +kernel), rfl, by decide +kernel, ready_of (by decide +kernel),
      by decide +kernel⟩

/-- The first write of PART_SHAPE for a number without a partition: one chip. -/
def shapeAsk : List Byte := [3, 1, 1, 1, 0, 0, 0, 0, 0]
def labNoPart : State := { lab with parts := [] }

/-- The same with its only chip out of service, and where that shape stands. -/
def labNoChips : State := { labNoPart with chips := [] }
def labThere : State := { lab with parts := [(lp, some { labPart with shape := { labShape with ex := 1 } })] }

theorem witness_PartShapeWriteWaitsForPlace :
    (∀ s ∈ [labNoPart, labNoChips, labThere], OpReady s (.setSet 0x0201 shapeAsk) ∧
      (opAt s (.setSet 0x0201 shapeAsk)).checkWrite (opCtx s (.setSet 0x0201 shapeAsk)) 0x0201 shapeAsk = .ok (0x0201#16, .part lp) ∧
      Calm (opAt s (.setSet 0x0201 shapeAsk))) ∧
    ((opAt labNoPart (.setSet 0x0201 shapeAsk)).part lp = none ∧ fieldBe shapeAsk 0 1 ≠ 0 ∧
      ((candidates (fieldBe shapeAsk 0 1) (fieldBe shapeAsk 1 1) (fieldBe shapeAsk 2 1) (fieldBe shapeAsk 3 1)).any
        (opAt labNoPart (.setSet 0x0201 shapeAsk)).placeable) = true ∧
      (opAt labNoPart (.setSet 0x0201 shapeAsk)).roomFor [(lp, 3, 1, 1, 1)] [] = true) ∧
    ((candidates (fieldBe shapeAsk 0 1) (fieldBe shapeAsk 1 1) (fieldBe shapeAsk 2 1) (fieldBe shapeAsk 3 1)).any
      (opAt labNoChips (.setSet 0x0201 shapeAsk)).placeable) = false ∧
    (opAt labThere (.setSet 0x0201 shapeAsk)).part lp = some { labPart with shape := { labShape with ex := 1 } } := by
  refine ⟨?_, by decide +kernel, by decide +kernel, by decide +kernel⟩
  intro s hs
  simp only [List.mem_cons, List.not_mem_nil, or_false] at hs
  rcases hs with rfl | rfl | rfl <;> exact ⟨ready_of (by decide +kernel), rfl, calm_of (by decide +kernel)⟩

def powerOpOf : Op := { id := 0, ep := .kw lk, session := labSession.ref, seq := 1, epoch := 1, kind := .pwrState lp 2 true }
def labPowering : State := { lab with ops := [powerOpOf], nextOp := 1 }

theorem witness_PowerCommandsComplete :
    (KwReady lab (.pwrState 2 1) ∧ (kwAt lab (.pwrState 2 1)).kwPart lk = some lp ∧ (kwAt lab (.pwrState 2 1)).part lp = some labPart ∧
      labPart.hasProgram = false ∧ (kwAt lab (.pwrState 2 1)).partRuns lp = false) ∧
    (KwReady labRunning (.pwrState 2 0) ∧ runningPart.hasProgram = true ∧ (khdr (.pwrState 2 0)).force = false ∧
      Ready labRunning 1 { khdr (.pwrState 2 0) with force := true } (.pwrState 2 0) (.kw lk) labSession) ∧
    (KwReady lab (.pwrCap 0) ∧ KwReady lab (.pwrCap 0xFFFFFFFF) ∧ Calm (kwAt lab (.pwrCap 0))) ∧
    (KwReady lab (.policySet 4 0 1000) ∧ KwReady lab (.policySet 6 1 10) ∧ Calm (kwAt lab (.policySet 4 0 1000))) ∧
    KwReady lab .pwrRead ∧
    (labPowering.part lp = some labPart ∧ labPowering.powerOp lp = some (powerOpOf, 2, true) ∧ labPart.hasProgram = false) :=
  ⟨⟨ready_of (by decide +kernel), by decide +kernel⟩,
    ⟨ready_of (by decide +kernel), by decide +kernel, by decide +kernel, ready_of (by decide +kernel)⟩,
    ⟨ready_of (by decide +kernel), ready_of (by decide +kernel), calm_of (by decide +kernel)⟩,
    ⟨ready_of (by decide +kernel), ready_of (by decide +kernel), calm_of (by decide +kernel)⟩, ready_of (by decide +kernel), by decide +kernel⟩

/-! ### The Tumbler, diagnostics and the operator -/

/-- A problem of one spin without couplings; its CRC computed from R229's polynomial. -/
def problemBytes : List Byte :=
  [0x4D, 0x54, 1, 0, 1, 0, 0, 0, 0, 0, 0, 0, 1, 0, 0, 0] ++ List.replicate 8 0 ++ [64, 0, 0, 0, 0, 0, 0, 0] ++ List.replicate 8 0 ++
    [65, 0, 0, 0, 0, 0, 0, 0, 73, 0, 0, 0, 0, 0, 0, 0, 0, 16, 0, 0, 0, 0, 0, 0] ++ List.replicate 9 0 ++ [60, 119, 130, 97]
def labProblemImg : State := { lab with hbm := Memory.ofBytes problemBytes }
def labProblem : Problem :=
  { num := 33, part := lp, chip := lc0, vchip := 0, spins := 1, classes := 1, fields := [0], clamp := [false], rows := [[]],
    colours := [0], stateAddr := 0x1000 }
def labRun (done : Bool) : TmbRun :=
  { kw := lk, op := 0, problem := 33, part := lp, seed := 1, sweeps := 1, cut := 0x02000004, init := 0, wsweeps := 64, xevery := 1,
    betas := List.replicate 32 0, t := if done then 1 else 0, replicas := if done then [0] else [],
    bestE := if done then some 0 else none, bestAt := 0, best := if done then [false] else [], done := done }
def runOpRec : Op := { id := 0, ep := .kw lk, session := labSession.ref, seq := 1, epoch := 1, kind := .tmbRun lp lc0 33 }
def labTumbler (rs : List TmbRun) : State :=
  { lab with
    kws := [(lk, { labKw with problems := [labProblem] })]
    chips := [(lc0, { upChip with runs := rs, slice := 4 }), (lc1, upChip)]
    ops := [runOpRec]
    nextOp := 1 }

set_option maxRecDepth 100000 in
theorem witness_TumblerCommandsComplete :
    (∀ fl ∈ [0#8, 1#8], KwReady labProblemImg (.tmbLoad 0 77 fl)) ∧
    ((kwAt labProblemImg (.tmbLoad 0 77 0)).tread lp 0 77 = problemBytes ∧
      labPart.chips[labPart.shape.vqChip (addrVq 0)]? = some lc0 ∧
      (kwAt labProblemImg (.tmbLoad 0 77 0)).rangeOk lp (tmbState problemBytes) (stateLen (tmbN problemBytes)) = true ∧
      (∀ n, (parseProblem problemBytes n lp lc0 0).isSome = true) ∧ addrVq (tmbState problemBytes) = 0 ∧
      ((kwAt labProblemImg (.tmbLoad 0 77 0)).kw lk).problems.length < 16) ∧
    (KwReady (labTumbler []) (.tmbRun 33 1 1 0) ∧ ((kwAt (labTumbler []) (.tmbRun 33 1 1 0)).kw lk).problem? 33 = some labProblem ∧
      (kwAt (labTumbler []) (.tmbRun 33 1 1 0)).runOf lk labProblem = none) ∧
    (KwReady (labTumbler []) (.tmbResult 33 0x7000000000) ∧
      (kwAt (labTumbler []) (.tmbResult 33 0x7000000000)).rangeOk lp 0x7000000000 ((labProblem.spins + 7) / 8) = true) ∧
    (∀ s ∈ [labTumbler [], labTumbler [labRun false]], KwReady s (.tmbFree 33) ∧
      ((kwAt s (.tmbFree 33)).kw lk).problem? 33 = some labProblem) ∧
    ((kwAt (labTumbler []) (.tmbFree 33)).runOf lk labProblem = none ∧
      (kwAt (labTumbler [labRun false]) (.tmbFree 33)).runOf lk labProblem = some (labRun false) ∧
      Ready (labTumbler [labRun false]) 1 { khdr (.tmbFree 33) with force := true } (.tmbFree 33) (.kw lk) labSession) := by
  refine ⟨?_, ⟨by decide +kernel, by decide +kernel, by decide +kernel, ?_, by decide +kernel, by decide +kernel⟩,
    ⟨ready_of (by decide +kernel), by decide +kernel⟩, ⟨ready_of (by decide +kernel), by decide +kernel⟩, ?_,
    by decide +kernel, by decide +kernel, ready_of (by decide +kernel)⟩
  · intro fl h
    simp only [List.mem_cons, List.not_mem_nil, or_false] at h
    rcases h with rfl | rfl <;> exact ready_of (by decide +kernel)
  · intro n
    have h : (tmbHeaderOk problemBytes && rowStartsOk problemBytes) = true := by decide +kernel
    have g : ((((List.range (tmbN problemBytes)).map (tmbRow problemBytes)).zipIdx.all fun e =>
        rowOk ((List.range (tmbN problemBytes)).map (tmbRow problemBytes)) e.2 e.1) &&
        ((List.range (tmbN problemBytes)).map (tmbColour problemBytes)).all fun c => decide (c < tmbClasses problemBytes)) = true := by
      decide +kernel
    simp only [parseProblem, h, g, if_true, Option.isSome_some]
  · intro s hs
    simp only [List.mem_cons, List.not_mem_nil, or_false] at hs
    rcases hs with rfl | rfl <;> exact ⟨ready_of (by decide +kernel), by decide +kernel⟩

theorem witness_TumblerRunsAdvance :
    ((labTumbler [labRun false]).sliceOwner lc0 = some lp ∧ (labTumbler [labRun false]).liveRun lc0 lp = some (labRun false) ∧
      ((labTumbler [labRun false]).kw lk).problem? 33 = some labProblem ∧ (labRun false).done = false ∧
      ((labTumbler [labRun false]).tick 100000).osc ≤ ((labTumbler [labRun false]).chip lc0).sliceAt + sliceNs) ∧
    ((labTumbler []).chipUp lc0 = true ∧
      ((labTumbler []).chip lc0).sliceAt + sliceNs ≤ ((labTumbler []).tick 100000).osc) ∧
    (((labTumbler [labRun true]).chip lc0).runs.find? TmbRun.done = some (labRun true) ∧
      (labTumbler [labRun true]).op? 0 = some runOpRec) := by decide +kernel

/-- Two blocks of quadrant 3 that one rotation class names. -/
def rotImage : ProgramImage := { labImage with classes := [{ blocks := [0, 1], buf := [], sram := [] }] }
def rotConfig : Configuration := { num := 0, prog := some rotImage, cal := none }
def rotPart : Part := { labPart with configs := [rotConfig], running := some rotConfig, prog := .running, hinges := 1 }
def labRot : State := { lab with parts := [(lp, some rotPart)] }
def swapPlan : List (Fin 640 × Fin 640) :=
  [(labShape.homeBlock 0, labShape.homeBlock 1), (labShape.homeBlock 1, labShape.homeBlock 0)]

theorem witness_FirmwareRunsComplete :
    (lab.chip lc0).slice = 0 ∧ lab.lowestChip = some lc0 ∧ (List.replicate 256 (3 : Fin 4)).length = 256 ∧
    lab.place.shardAt + firmwarePeriod ≤ (lab.tick 600000000000).osc ∧
    labRot.part lp = some rotPart ∧ labRot.rotates lp = true ∧ rotPart.hasProgram = true ∧ labRot.chipUp lc0 = true ∧
    rotPart.chips.contains lc0 = true ∧
    (swapPlan.all fun m => rotPart.shape.quads.contains (quadOf lc0 (blockK m.1))) = true ∧
    rotationOk rotPart.shape (((rotPart.latest.bind fun w => w.config.prog).map ProgramImage.classes).getD []) swapPlan = true := by
  decide +kernel

def labDump : Dump :=
  { rackNum := 1, partNum := 1, part := some lp, kind := 0, level := 1, detector := 4, unit := 0, rtime := 0, epoch := 1, cut := 0,
    config := 0xFFFF, detail := [], body := [], bound := [lk] }
def labDumped : State := { lab with rmu := { Rmu.init with up := true, dumps := [labDump] } }

theorem witness_DiagnosticsComplete :
    (∀ cls ∈ [0x0009#16, 0x000B#16, 0x0006#16, 0x0007#16, 0x000A#16, 0x000C#16], KwReady lab (.diagCounters cls 0) ∧
      (kwCtx lab (.diagCounters cls 0)).kw? = some lk ∧ (kwAt lab (.diagCounters cls 0)).kwPart lk = some lp ∧
      (kwAt lab (.diagCounters cls 0)).part lp = some labPart) ∧
    (OpReady lab (.diagCounters 9 0) ∧ (opCtx lab (.diagCounters 9 0)).kw? = some lk) ∧
    (KwReady lab (.diagCounters 5 0) ∧ (kwAt lab (.diagCounters 5 0)).kwPart lk = some lp ∧
      (kwAt lab (.diagCounters 5 0)).part lp = some labPart) ∧
    (∀ cls ∈ [5#16, 8#16], Ready lab 1 (rhdr (.diagCounters cls 1)) (.diagCounters cls 1) .op labSession ∧
      (arrived lab 1 (rhdr (.diagCounters cls 1)) (.diagCounters cls 1) .op labSession.ref).chipLocked lc1 = false ∧
      (arrived lab 1 (rhdr (.diagCounters cls 1)) (.diagCounters cls 1) .op labSession.ref).resettingChip lc1 = false) ∧
    (KwReady lab (.diagEventsRead 0 0xFFFF) ∧ KwReady lab (.diagEcho []) ∧ OpReady lab (.diagEcho [])) ∧
    (KwReady labDumped (.diagDumpRead 0 0 8000) ∧ KwReady labDumped (.diagDumpRead 1 63 8000) ∧
      (kwAt labDumped (.diagDumpRead 1 63 8000)).dump? (kwCtx labDumped (.diagDumpRead 1 63 8000)) 1 = some labDump ∧
      (kwAt labDumped (.diagDumpRead 0 0 8000)).dump? (kwCtx labDumped (.diagDumpRead 0 0 8000)) 0 = some labDump ∧
      63 < labDump.length) := by
  refine ⟨?_, ⟨ready_of (by decide +kernel), by decide +kernel⟩, ⟨ready_of (by decide +kernel), by decide +kernel⟩, ?_,
    ⟨ready_of (by decide +kernel), ready_of (by decide +kernel), ready_of (by decide +kernel)⟩,
    ready_of (by decide +kernel), ready_of (by decide +kernel), by decide +kernel⟩
  · intro cls h
    simp only [List.mem_cons, List.not_mem_nil, or_false] at h
    rcases h with rfl | rfl | rfl | rfl | rfl | rfl <;> exact ⟨ready_of (by decide +kernel), by decide +kernel⟩
  · intro cls h
    simp only [List.mem_cons, List.not_mem_nil, or_false] at h
    rcases h with rfl | rfl <;> exact ⟨ready_of (by decide +kernel), by decide +kernel⟩

theorem witness_OperatorCommandsComplete :
    (OpReady lab .opKeywayReset ∧ (ohdr .opKeywayReset).keyway.toNat = lk.val) ∧
    (∀ b, b = Body.opReset (unitChip lc1) 4 → OpReady lab b ∧
      (opAt lab b).resetTarget (opCtx lab b) (unitChip lc1) 4 = .ok (.chip lc1)) ∧
    (∀ b, b = Body.opReset unitRack 6 → Ready lab 1 (rhdr b) b .op labSession ∧
      (arrived lab 1 (rhdr b) b .op labSession.ref).resetTarget (ctxAt lab 1 (rhdr b) b .op labSession) unitRack 6 = .ok .rack) ∧
    OpReady lab (.opLogRead 0 1) ∧ OpReady lab (.opLogRead 0xFFFFFFFFFFFFFFFF 16) ∧ OpReady lab .opServiceStatus := by
  refine ⟨⟨ready_of (by decide +kernel), by decide +kernel⟩, ?_, ?_, ready_of (by decide +kernel), ready_of (by decide +kernel),
    ready_of (by decide +kernel)⟩
  · rintro b rfl
    exact ⟨ready_of (by decide +kernel), rfl⟩
  · rintro b rfl
    exact ⟨ready_of (by decide +kernel), rfl⟩

/-- A team key, and a clock with an offset still to correct. -/
def teamKey : ShareKey := { gen := 1, live := true, label := 0, value := 0 }
def labTeam : State := { lab with kr := { State.reset.kr with keys := [(64, teamKey)] } }
def labTheta (n : Int) : State :=
  { lab with clk := { Clock.init with quality := .slewing, ptpLocked := true, theta := some (n * 2 ^ 40), rate := 0 } }

theorem witness_KeysAndTimeSteps :
    (OpReady lab (.opShareKeyCreate 0) ∧ ((List.finRange 128).find? (opAt lab (.opShareKeyCreate 0)).freeIndex) = some 64 ∧
      Calm (opAt lab (.opShareKeyCreate 0))) ∧
    (OpReady labTeam (.opShareKeyDelete (shareRef 64 1)) ∧
      (opAt labTeam (.opShareKeyDelete (shareRef 64 1))).liveRef (shareRef 64 1) = some 64 ∧
      Calm (opAt labTeam (.opShareKeyDelete (shareRef 64 1)))) ∧
    (OpReady lab (.opShareKeyDelete (shareRef 0 1)) ∧ (opAt lab (.opShareKeyDelete (shareRef 0 1))).liveRef (shareRef 0 1) = some 0 ∧
      Calm (opAt lab (.opShareKeyDelete (shareRef 0 1)))) ∧
    (OpReady (labTheta 1000) .opTimeStep ∧ (opAt (labTheta 1000) .opTimeStep).thetaNs.natAbs ≤ 1000) ∧
    (OpReady (labTheta 1001) .opTimeStep ∧ 1000 < (opAt (labTheta 1001) .opTimeStep).thetaNs.natAbs ∧
      0 < (opAt (labTheta 1001) .opTimeStep).thetaNs) ∧
    (OpReady (labTheta (-1001)) .opTimeStep ∧ (opAt (labTheta (-1001)) .opTimeStep).thetaNs < -1000 ∧
      (opAt (labTheta (-1001)) .opTimeStep).anyOpen = true ∧ (ohdr .opTimeStep).force = false) ∧
    (opAt { labTheta (-1001) with kws := [] } .opTimeStep).anyOpen = false :=
  ⟨⟨ready_of (by decide +kernel), by decide +kernel, calm_of (by decide +kernel)⟩,
    ⟨ready_of (by decide +kernel), by decide +kernel, calm_of (by decide +kernel)⟩,
    ⟨ready_of (by decide +kernel), by decide +kernel, calm_of (by decide +kernel)⟩, ⟨ready_of (by decide +kernel), by decide +kernel⟩,
    ⟨ready_of (by decide +kernel), by decide +kernel⟩, ⟨ready_of (by decide +kernel), by decide +kernel⟩, by decide +kernel⟩

/-! ### Cells and the fabric -/

def cellA : CellId := { chip := 0, c := 0, r := 0 }
def cellB : CellId := { chip := 0, c := 1, r := 0 }
def cfgA : CellCfg :=
  { vchip := 0, c := 0, r := 0, outs := [(0, .cell 1 0 0), (1, .fabric)], ins := [(1, [(1, 0)])], rules := [[1]], sched := [4],
    period := 8, notifyQ := none, abortQ := none }
def cfgB : CellCfg :=
  { vchip := 0, c := 1, r := 0, outs := [(0, .cell 0 0 1)], ins := [(0, [(0, 0)])], rules := [[0]], sched := [], period := 0,
    notifyQ := none, abortQ := none }
def msgOf (n : Nat) : Msg := { kind := 0, tag := 7, imm := 0, data := List.replicate n 1, poisoned := false }
/-- A cell with messages on one input queue, blocked or not with a message on output queue 0. -/
def cellWith (g : CellCfg) (ms : List Msg) (q : Fin 4) (b : Option Blocked) (o : List Msg := []) : CellState :=
  { CellState.init with active := some g, inq := [(q, ms)], blocked := b, outq := [(0, o)] }
def flightAB : InFlight := { src := cellA, srcQ := 0, dst := cellB, dstQ := 0, msg := msgOf 0, sentAt := 0 }
/-- Cell A with messages on queue 1, cell B with messages on queue 0. -/
def labCells (a b : List Msg) (ba : Option Blocked) (o : List Msg := []) (mesh : List InFlight := []) : State :=
  { labRunning with cells := [(cellA, cellWith cfgA a 1 ba o), (cellB, cellWith cfgB b 0 none)], mesh := mesh }
/-- Cell B of another partition. -/
def edgeChip : CellId := { chip := 2, c := 0, r := 0 }

/-- A queue with room for the whole message to the word, and one word short; cell A blocked either way; a message that has arrived. -/
theorem witness_CellMessagesComplete :
    (∀ s ∈ [labCells [] [msgOf 7] none, labCells [] [msgOf 8] none], (s.tick 1).cellRuns cellA = some (lp, runningPart, cfgA) ∧
      (s.cell cellA).blocked = none ∧ (s.tick 1).crosses lp cellA cellB = false) ∧
    outOf cfgA 0 = some (.cell 1 0 0) ∧ (msgOf 7).kind.toNat < 3 ∧
    ((labCells [] [msgOf 7] none).tick 1).canTake cellB 0 (msgOf 7) (((labCells [] [msgOf 7] none).tick 1).inFlightWords cellB 0) = true ∧
    ((labCells [] [msgOf 8] none).tick 1).canTake cellB 0 (msgOf 7) (((labCells [] [msgOf 8] none).tick 1).inFlightWords cellB 0) = false ∧
    (((labCells [] [] (some (.send 0)) [msgOf 7]).tick 1).cellRuns cellA = some (lp, runningPart, cfgA) ∧
      ((labCells [] [] (some (.send 0)) [msgOf 7]).cell cellA).blocked = some (.send 0) ∧
      ((labCells [] [] (some (.send 0)) [msgOf 7]).cell cellA).sent 0 = [msgOf 7] ∧
      ((labCells [] [] (some (.send 0)) [msgOf 7]).tick 1).canTake cellB 0 (msgOf 7)
        (((labCells [] [] (some (.send 0)) [msgOf 7]).tick 1).inFlightWords cellB 0) = true) ∧
    (insOf cfgA 1 = some [(1, 0)] ∧ ((labCells [msgOf 0] [] none).tick 1).cellRuns cellA = some (lp, runningPart, cfgA) ∧
      ((labCells [msgOf 0] [] none).cell cellA).ready 1 = true ∧ ((labCells [] [] none).cell cellA).ready 1 = false) ∧
    (((labCells [msgOf 0] [] (some (.recv 1))).tick 1).cellRuns cellA = some (lp, runningPart, cfgA) ∧
      ((labCells [msgOf 0] [] (some (.recv 1))).cell cellA).blocked = some (.recv 1) ∧
      ((labCells [msgOf 0] [] (some (.recv 1))).cell cellA).ready 1 = true) ∧
    ((labCells [] [] none [] [flightAB]).quadOwner (cellQuad cellA) = some lp ∧
      ((labCells [] [] none [] [flightAB]).mesh.find? fun x => decide (x.src = cellA) && decide (x.srcQ = 0)) = some flightAB ∧
      flightAB.sentAt + meshCycles cellA flightAB.dst ≤ ((labCells [] [] none [] [flightAB]).tick 2).cycleOn 0 ∧
      ((labCells [] [] none [] [flightAB]).tick 2).crosses lp cellA cellB = false ∧
      ((labCells [] [] none [] [flightAB]).tick 2).canTake cellB 0 (msgOf 0) 0 = true ∧
      ((labCells [] [] none [] [flightAB]).cell cellB).extended.contains 0 = false) ∧
    ((labCells [] [] none [] [{ flightAB with dst := edgeChip }]).part lp = some runningPart ∧
      ((labCells [] [] none [] [{ flightAB with dst := edgeChip }]).tick 2).crosses lp cellA edgeChip = true) :=
  ⟨by decide +kernel, by decide +kernel, by decide +kernel, by decide +kernel, by decide +kernel, by decide +kernel, by decide +kernel,
    by decide +kernel, by decide +kernel, by decide +kernel⟩

def swapConfig : Configuration := { num := 0, prog := some { labImage with cells := [cfgA] }, cal := none }
def waveOf : Wave := { config := swapConfig, op := none, rot := [], carried := [] }
/-- A wave that the cell has not swapped in, with its shadow loaded. -/
def wavePart : Part := { runningPart with waves := [waveOf] }
def labSwap : State :=
  { lab with parts := [(lp, some wavePart)], cells := [(cellA, { cellWith cfgA [hingeMsg] 1 none with shadow := some none })] }
def labStatic : State :=
  { labCells [] [] none with cfg := { lab.cfg with running := ((0x0203#16, .part lp), [0]) :: labSettings } }

theorem witness_CellsFireAndSwap :
    ((labStatic.tick 100).cellRuns cellA = some (lp, runningPart, cfgA) ∧ (labStatic.tick 100).partSet lp 0x0203#16 = 0 ∧
      cfgA.sched ≠ [] ∧ (labStatic.cell cellA).blocked = none ∧
      (labStatic.cell cellA).entryDue cfgA ≤ (labStatic.tick 100).cycleOn 0) ∧
    (((labCells [msgOf 0] [] none).tick 1).cellRuns cellA = some (lp, runningPart, cfgA) ∧
      ((labCells [msgOf 0] [] none).tick 1).partSet lp 0x0203#16 = 1 ∧
      (cfgA.rules.any fun r => r.any fun q => (((labCells [msgOf 0] [] none).cell cellA).eligible q).any fun m =>
        decide (32767 < tagAge ((labCells [msgOf 0] [] none).cell cellA).base m.tag)) = false ∧
      ((labCells [msgOf 0] [] none).cell cellA).pick cfgA.rules = some ([1], 7)) ∧
    (labSwap.quadOwner (cellQuad cellA) = some lp ∧ labSwap.part lp = some wavePart ∧ (labSwap.cell cellA).shadow = some none ∧
      wavePart.gridRuns (labSwap.tick 1).osc = true ∧ (wavePart.wave? (labSwap.nextWave wavePart cellA)).isSome = true ∧
      (labSwap.cell cellA).hingesHead = true ∧ (labSwap.cell cellA).mayRetire = true ∧ (labSwap.cell cellA).trapped = false) :=
  ⟨by decide +kernel, by decide +kernel, by decide +kernel⟩

/-- A tag more than 32,767 ahead of the cell's base, and an input queue without a source. -/
def farMsg : Msg := { msgOf 0 with tag := 0x8000 }
def cfgBare : CellCfg := { cfgA with ins := [(1, [(1, 0)]), (2, [])] }
def labBare : State := { labRunning with cells := [(cellA, cellWith cfgBare [] 1 none)] }

theorem witness_CellsTrap :
    ((labCells [] [] none).tick 1).cellRuns cellA = some (lp, runningPart, cfgA) ∧ ((labCells [] [] none).cell cellA).blocked = none ∧
    outOf cfgA 3 = none ∧ 3 ≤ ({ msgOf 0 with kind := 3 } : Msg).kind.toNat ∧ insOf cfgA 0 = none ∧ runningPart.prog = .running ∧
    ((labBare.tick 1).cellRuns cellA = some (lp, runningPart, cfgBare) ∧ insOf cfgBare 2 = some [] ∧ cfgBare.notifyQ ≠ some 2) ∧
    (((labCells [farMsg] [] none).tick 1).cellRuns cellA = some (lp, runningPart, cfgA) ∧
      ((labCells [farMsg] [] none).tick 1).partSet lp 0x0203#16 = 1 ∧
      farMsg ∈ ((labCells [farMsg] [] none).cell cellA).eligible 1 ∧
      32767 < tagAge ((labCells [farMsg] [] none).cell cellA).base farMsg.tag) := by
  decide +kernel

/-- Two cells that wait for each other, reported; a queue in its backlog. -/
def labDead : State :=
  { labRunning with
    cells := [(cellA, cellWith cfgA [msgOf 15] 1 (some (.send 0)) [msgOf 0]), (cellB, cellWith cfgB [msgOf 15] 0 (some (.send 0)) [msgOf 0])]
    deadbolts := [{ part := lp, chip := lc0, edges := [], next := 0, window := 0, reports := [[cellA, cellB]], rounds := [] }] }
def labBacklog : State :=
  { labRunning with
    cells := [(cellA, { cellWith cfgA [] 1 none with backlog := [(1, { msgs := [msgOf 15, msgOf 0], written := 17, read := 0 })], extended := [1] })] }

theorem witness_DeadboltCompletes :
    (labDead.part lp = some runningPart ∧ runningPart.gridRuns (labDead.tick 1).osc = true ∧ runningPart.chips.contains lc0 = true ∧
      (labDead.deadbolt lp lc0).next ≤ (labDead.tick 1).cycleOn lc0) ∧
    ((labDead.deadbolt lp lc0).reports = [[cellA, cellB]] ∧ (labDead.tick 1).victims [cellA, cellB] = [(cellA, 1), (cellB, 0)]) ∧
    ((labBacklog.cell cellA).extended.contains 1 = true ∧ (labBacklog.cell cellA).queue 1 = [] ∧
      ∀ e ∈ labBacklog.waitIn, (e.1, e.2.1) ≠ (cellA, 1)) := by decide +kernel

def periodPart (n : Option (Nat × Nat)) : Part := { runningPart with perStart := 0, perEnd := 1000, perLen := 1000, perNew := n }

theorem witness_HingesAndPeriods :
    (labRunning.part lp = some runningPart ∧ runningPart.latest = some { config := labConfig, op := none, rot := [], carried := [] } ∧
      labRunning.partSet lp 0x0203#16 = 1 ∧ labRunning.rotates lp = true ∧ runningPart.prog = .running ∧
      runningPart.perHinge = false ∧ runningPart.perGap = false) ∧
    (∀ n ∈ [none, some (1, 1000), some (500, 1001)],
      ({ labRunning with parts := [(lp, some (periodPart n))] } : State).part lp = some (periodPart n) ∧
      (periodPart n).perEnd ≤ (({ labRunning with parts := [(lp, some (periodPart n))] } : State).tick 1000).rackNs) ∧
    ({ runningPart with perDue := true } : Part).perDue = true ∧ labRunning.sends = [] := by decide +kernel

/-- A link in service with a packet on its receive side. -/
def goodLink : Link := { Link.init with inService := true }
def pktOf (t : PktType) (d : ChipId) (l : Bool) : NetPkt :=
  { type := t, last := l, notify := false, forced := false, dchip := d, schip := 0, dpart := lp, fw := false, raddr := 0, xseq := 0,
    tag := 0, imm := 0, frame := 0, slot := 1, payload := List.replicate 32 9 }
def linkIn : LinkId := { chip := 1, port := 1 }
def labLink (k : Link) : State := { labRunning with links := [(linkIn, k), (reverseLink linkIn, goodLink)] }
def descMsg (len : BitVec 64) : Msg := { kind := 2, tag := 0, imm := 0, data := [1 <<< 48, 0, len], poisoned := false }

/-- A packet at its destination, chip 1: the first bytes of its first quadrant. -/
def homePkt : NetPkt := { pktOf .data 1 true with raddr := 0x4000000000 }

theorem witness_FabricPacketsComplete :
    ((((labCells [] [] none).tick 1).cellRuns cellA = some (lp, runningPart, cfgA) ∧ outOf cfgA 1 = some .fabric ∧
      (descriptor lp cellA (descMsg 32) 0).lengthOk = true ∧ (descriptor lp cellA (descMsg 16777216) 0).lengthOk = true ∧
      (descMsg 32).data.length = 3 ∧ (descMsg 32).kind = 2)) ∧
    ((labLink goodLink).chipUp linkIn.chip = true ∧ ((labLink goodLink).link linkIn).inService = true ∧
      ((labLink goodLink).link linkIn).stage = none ∧ uncorrectable [16] = true ∧ uncorrectable [15, 0] = false ∧
      crcGood homePkt (netCrc homePkt + 1) = false ∧ crcGood homePkt (netCrc homePkt) = true ∧
      ((labLink goodLink).tick 1).netOff linkIn.chip = false ∧ (pktOf .data 0 true).dchip ≠ linkIn.chip ∧
      (labLink goodLink).part lp = some runningPart ∧ runningPart.shape.quad? (addrVq homePkt.raddr) = some (quadOf 1 0) ∧
      quadChip (quadOf 1 0) = linkIn.chip ∧
      addrOff homePkt.raddr + homePkt.payload.length ≤ ((labLink goodLink).tick 1).tenantLimit lp ∧
      ((labLink goodLink).tick 1).quadShut (quadOf 1 0) = false ∧ (labLink goodLink).landings = []) ∧
    ((lab.swt 0).up = true ∧ (pktOf .vault 0 true).type = .vault ∧ portTo 0 0 = some 0 ∧ (portTo 0 lc1).isSome = true) := by
  decide +kernel

/-- A host packet that switch 0 relays to a chip of another z: it waits at chip 0 for slot 1 of the next link up. -/
def relayPkt : NetPkt := pktOf .host 16 true
def uplinkIn : LinkId := { chip := 0, port := 6 }
def labStage (k : NetPkt) : State :=
  { labUplinks with
      links := [(uplinkIn, { goodLink with stage := some (k, 1) }), ({ chip := 0, port := 4 }, goodLink),
                ({ chip := 16, port := 5 }, goodLink)]
      chips := [(lc0, upChip), (16, upChip)] }

theorem witness_packetForward :
    ((labStage relayPkt).link uplinkIn).stage = some (relayPkt, 1) ∧ 1 ≤ absSlot ((labStage relayPkt).tick 10000).osc ∧
    (match ((labStage relayPkt).tick 10000).nextHop uplinkIn relayPkt (1 % 256) with
     | some m => ((labStage relayPkt).tick 10000).mayForward m (1 % 256) relayPkt && ((labStage relayPkt).tick 10000).carries m
     | none => false) = true ∧
    (labStage (pktOf .data 16 true)).part lp = some labPart ∧
    (match ((labStage (pktOf .data 16 true)).tick 10000).nextHop uplinkIn (pktOf .data 16 true) (1 % 256) with
     | some m => ((labStage (pktOf .data 16 true)).tick 10000).mayForward m (1 % 256) (pktOf .data 16 true)
     | none => false) = false := by decide +kernel

/-- A switch with its ports' links in service: packets for a chip of its own, of the partition or not. -/
theorem witness_switchForward :
    (∀ ty ∈ [PktType.host, .vault, .prio0, .data], (labUplinks.swt 0).up = true ∧
      crcGood (pktOf ty 0 true) (netCrc (pktOf ty 0 true)) = true ∧ portTo 0 0 = some 0 ∧
      (labUplinks.tick 1).carries (switchPortLink 0 0) = true) ∧
    ((labUplinks.tick 1).slotOwner (switchPortLink 0 0) ((slotAt (labUplinks.tick 1).osc + 243) % 256) = some lp ∧
      labUplinks.part lp = some labPart ∧ (labPart.shape.vchip 0).isSome = true ∧ labPart.shape.vchip 2 = none) := by decide +kernel

def failedLink (n : Nat) : Link := { goodLink with uncTimes := List.replicate 16 0, quarAt := List.replicate n 0 }
def quarLink : Link := { goodLink with quarantined := true, quarAt := [0] }
def testedLink (b : Option Nat) : Link := { goodLink with test := some { lane := 7, since := 2048, until_ := b } }
def sparedLink (r : Bool) : Link := { goodLink with spared := 0x01, retrained := r }

/-- 16 events within the second, twice before in 24 h; 60 s of clean codewords; the last lane's test after its time; a spared link. -/
theorem witness_LinkCareCompletes :
    (((labLink (failedLink 2)).link linkIn).burst = true ∧ ((labLink (failedLink 2)).link linkIn).quarantined = false ∧
      nextFrame ((labLink (failedLink 2)).link linkIn).uncAt ≤ ((labLink (failedLink 2)).tick 2048).osc ∧
      2 ≤ (((labLink (failedLink 2)).link linkIn).quarAt.filter fun x =>
        decide (((labLink (failedLink 2)).tick 86400000000000).rackNs ≤ x + 86400000000000)).length) ∧
    (((labLink quarLink).link linkIn).quarantined = true ∧
      ((labLink quarLink).link linkIn).quarAt.getLastD 0 + 60000000000 ≤ ((labLink quarLink).tick 60000000000).rackNs ∧
      (List.replicate 8 1000000).length = 8 ∧ (∀ b ∈ List.replicate 8 1000000, b ≤ 1000000) ∧
      ((labLink quarLink).link linkIn).stuck = false) ∧
    (((labLink goodLink).tick 1).carries linkIn = true ∧ ((labLink goodLink).link linkIn).spared = 0 ∧
      ((labLink goodLink).link linkIn).test = none ∧ ((labLink goodLink).link linkIn).testHeldUntil ≤ ((labLink goodLink).tick 1).osc) ∧
    (((labLink (testedLink none)).tick 1).carries linkIn = true ∧
      ((labLink (testedLink none)).link linkIn).test = some { lane := 7, since := 2048, until_ := none } ∧
      frameUp (2048 + ((labLink (testedLink none)).tick 1).rackSet 0x0302#16 * 1000000000) ≤ ((labLink (testedLink none)).tick 2000004096).osc ∧
      ((labLink (testedLink (some 4096))).tick 4096).carries linkIn = true ∧
      ((labLink (testedLink (some 4096))).link linkIn).test = some { lane := 7, since := 2048, until_ := some 4096 }) ∧
    (∀ r, ((labLink (sparedLink r)).tick 1).carries linkIn = true ∧ ((labLink (sparedLink r)).link linkIn).spared ≠ 0 ∧
      ((labLink (sparedLink r)).link linkIn).testHeldUntil ≤ ((labLink (sparedLink r)).tick 1).osc ∧
      ((labLink (sparedLink r)).link linkIn).spared.getLsbD 1 = false) :=
  ⟨by decide +kernel, by decide +kernel, by decide +kernel, by decide +kernel, by decide +kernel⟩

def prioMsg : Prio0Msg := { xseq := 0, dst := lc1, body := .leak none }
/-- Links of chips 0 and 1 in service, a message waiting: all of them, the torus' or the uplinks' alone, or none. -/
def labPrio (ports : List PortId) : State :=
  { lab with
    chips := [(lc0, { upChip with prio0 := [prioMsg], seen := [(5, 3)] }), (lc1, upChip)]
    links := ([0, 1] : List ChipId).flatMap fun n => ports.map fun p => (({ chip := n, port := p } : LinkId), goodLink) }

theorem witness_PriorityMessagesComplete :
    (((labPrio (List.finRange 8)).chip lc0).prio0 = [prioMsg] ∧
      (match (labPrio (List.finRange 8)).torusPath lc0 lc1, (labPrio (List.finRange 8)).switchWay lc0 lc1 with
       | some (x :: _), some (y :: _) => decide (x ≠ y)
       | _, _ => false) = true) ∧
    (((labPrio [0, 1, 2, 3, 4, 5]).torusPath lc0 lc1).any (fun x => !x.isEmpty) = true ∧
      (labPrio [0, 1, 2, 3, 4, 5]).switchWay lc0 lc1 = none ∧ (labPrio [6, 7]).torusPath lc0 lc1 = none ∧
      ((labPrio [6, 7]).switchWay lc0 lc1).any (fun x => !x.isEmpty) = true) ∧
    ((labPrio []).torusPath lc0 lc1 = none ∧ (labPrio []).switchWay lc0 lc1 = none ∧
      (routeLinks lc0 (torusRoute [0, 1, 2] lc0 lc1)).isEmpty = false) ∧
    (((labPrio []).chip lc0).seen.contains ((5 : ChipId), 3#32) = true ∧ ((labPrio []).chip lc0).seen.contains ((5 : ChipId), 4#32) = false) :=
  ⟨by decide +kernel, by decide +kernel, by decide +kernel, by decide +kernel⟩

/-! ### Turns, power, cooling and supervision -/

def drainPart : Part := { runningPart with drainStart := some 0, drainHinge := 0, waves := [] }
def retryPart : Part := { runningPart with drainRetry := some 5000000 }
def quiesceTurn : PartTurn :=
  { parts := [lp], ep := .op, session := labSession.ref, op := 0, changes := [], scopeByte := 1, needQuiesce := true, needDrain := false, startOsc := 0 }
def unitTurnOf : Turn :=
  { ep := .op, session := labSession.ref, op := some 0, changes := [.val (0x0601#16, .rack) [30]], before := [], keysBefore := [], shapes := [],
    epochsBefore := [], laterTurn := [], laterKeys := [], units := [.rmu], turned := [], todo := [.val (0x0601#16, .rack) [30]],
    turnedParts := [], partsBefore := [], lost := [], startOsc := 0, placing := [], latches := [] }
def labTurn : State := { lab with turn := some unitTurnOf }
/-- Plans that leave partition 0 where it stands, put it at chip 2, which is out of service, and at chips 1 and 2. -/
def stayPlan : List (PartId × Place) := [(lp, { chip := lc0, kmask := 0xF })]
def badPlan : List (PartId × Place) := [(lp, { chip := 2, kmask := 0xF })]
/-- A partition of chip 0 alone, which chip 1 can take. -/
def smallPart : Part := Part.fresh { labShape with ex := 1 } 0
def movePlan : List (PartId × Place) := [(lp, { chip := lc1, kmask := 0xF })]
/-- A placement run is due, after n that gave no map. -/
def labPlacing (n : Nat) : State := { lab with place := { due := true, fails := n, ranAt := 0, shardAt := 0 } }
def labSmall : State := { labPlacing 0 with parts := [(lp, some smallPart)] }
/-- A turn that waits for quadrants for partition 0. -/
def placeTurnOf : Turn := { unitTurnOf with placing := [(lp, 3, 1, 1, 1)], changes := [], todo := [], units := [] }
def labAwaits (n : Nat) : State := { labPlacing n with turn := some placeTurnOf, parts := [] }

theorem witness_TurnEventsComplete :
    (({ lab with parts := [(lp, some drainPart)] } : State).part lp = some drainPart ∧ drainPart.drainStart = some 0 ∧
      0 + 5000000 ≤ (lab.tick 5000000).osc) ∧
    (({ lab with parts := [(lp, some retryPart)], partTurns := [quiesceTurn] } : State).part lp = some retryPart ∧
      retryPart.drainStart = none ∧ retryPart.drainRetry = some 5000000 ∧
      (({ lab with parts := [(lp, some retryPart)], partTurns := [quiesceTurn] } : State).tick 5000000).quiesceWanted lp = true ∧
      retryPart.prog = .running) ∧
    (labPart.hasProgram = false ∧ drainPart.hasProgram = true ∧ drainPart.drainStart.isSome = true ∧
      drainPart.drainHinge < drainPart.hinges ∧ lab.sends = []) ∧
    (labTurn.turn = some unitTurnOf ∧ unitTurnOf.placing = [] ∧ TurnUnit.rmu ∈ unitTurnOf.units ∧ TurnUnit.rmu ∉ unitTurnOf.turned ∧
      (labTurn.tick 1).unitReady unitTurnOf .rmu = true ∧ unitTurnOf.turned.length + 1 = unitTurnOf.units.length ∧
      unitTurnOf.startOsc + labTurn.rackSet 0x0903#16 * 1000000 ≤ (labTurn.tick 100000000).osc) ∧
    ((labPlacing 0).lowestChip = some lc0 ∧ (labPlacing 0).accept.phase = 0 ∧ ((labPlacing 0).tick 1).firmwareSlice lc0 = true ∧
      ((labPlacing 0).tick 1).placementDue = true ∧ (labPlacing 0).turn = none ∧ ((labPlacing 0).tick 1).planOk stayPlan = true ∧
      ((labPlacing 0).tick 1).planChanges stayPlan = []) ∧
    ((labSmall.tick 1).planOk movePlan = true ∧ labSmall.lowestChip = some lc0 ∧ (labSmall.tick 1).planChanges movePlan ≠ [] ∧
      (labSmall.tick 1).periodicOk ((labSmall.tick 1).planChanges movePlan) 5 = true ∧ labSmall.resets = []) ∧
    ((labAwaits 0).turn = some placeTurnOf ∧ placeTurnOf.placing ≠ [] ∧ ((labAwaits 0).tick 1).turnPlacing = true ∧
      ((labAwaits 0).tick 1).planOk movePlan = true ∧ ((labAwaits 3).tick 1).planOk badPlan = false ∧ 3 ≤ (labAwaits 3).place.fails) ∧
    (((labPlacing 0).tick 1).planOk badPlan = false ∧ (labPlacing 0).place.fails < 3 ∧ ((labPlacing 3).tick 1).planOk badPlan = false ∧
      3 ≤ (labPlacing 3).place.fails) ∧
    ({ lab with accept := { phase := 1, since := 0 } } : State).accept.phase ≠ 0 :=
  ⟨by decide +kernel, by decide +kernel, by decide +kernel, by decide +kernel, by decide +kernel, by decide +kernel, by decide +kernel,
    by decide +kernel, by decide +kernel⟩

def chOf (st : ChanState) (r : Nat) : Channel := { st := st, retries := r, cause := none, since := 0 }
def ch00 : ChanId := { shelf := 0, ch := 0 }
def spare : ChanId := { shelf := 3, ch := 5 }
def labCh (st : ChanState) (r : Nat := 0) : State := { lab with chan := [(ch00, chOf st r)] }

theorem witness_ChannelsOpen :
    (((labCh .off).channel ch00).st = .off ∧ spareChannel ch00 = false ∧ (lab.tick 1).heldOut (unitShelf ch00.shelf) = false) ∧
    (spareChannel spare = true ∧
      (({ lab with mismatched := [unitShelf 0] } : State).tick 1).heldOut (unitShelf ch00.shelf) = true ∧ ch00 ≠ rmuChannel) ∧
    (((labCh .on).channel ch00).st = .on ∧ 3 * nominalMa ch00 < 3 * nominalMa ch00 + 1 ∧ ((labCh .inrush).channel ch00).st = .inrush ∧
      ((labCh .inrush).channel ch00).since + 20000000 ≤ ((labCh .inrush).tick 20000000).osc) ∧
    (channelTray ch00 = some 0 ∧ channelSwitch { shelf := 3, ch := 4 } = some 3 ∧ channelTray rmuChannel = none) ∧
    (({ labCh .on with rackLeak := .wet } : State).tick 1).leakCut 0 = true := by decide +kernel

theorem witness_SoftStartsEnd :
    ((labCh .inrush 2).channel ch00).st = .inrush ∧ ((labCh .inrush 2).channel ch00).retries < 3 ∧
    3 ≤ ((labCh .inrush 3).channel ch00).retries ∧ ((labCh .on).channel ch00).st = .on ∧ 100 < 101 ∧ (47999 : Int) < 48000 ∧
    ((labCh .inrush).channel ch00).since + 20000000 ≤ ((labCh .inrush).tick 20000000).osc := by decide +kernel

theorem witness_ChannelClear :
    (∀ st ∈ [ChanState.latched, .fault, .off, .inrush, .on], Ready (labCh st) 1 (rhdr (.opChannelClear 0 0)) (.opChannelClear 0 0) .op labSession ∧
      ((arrived (labCh st) 1 (rhdr (.opChannelClear 0 0)) (.opChannelClear 0 0) .op labSession.ref).channel ch00).st = st) ∧
    (InTurn lab 1 (rhdr (.opChannelClear 3 5)) .op labSession ∧ (rhdr (.opChannelClear 3 5)).len = bodyLength (.opChannelClear 3 5) ∧
      spareChannel spare = true ∧ (3 : BitVec 8).toNat = spare.shelf.val ∧ (5 : BitVec 8).toNat = spare.ch.val) := by
  refine ⟨?_, inTurn_of (by decide +kernel), by decide +kernel⟩
  intro st h
  simp only [List.mem_cons, List.not_mem_nil, or_false] at h
  rcases h with rfl | rfl | rfl | rfl | rfl <;> exact ⟨ready_of (by decide +kernel), by decide +kernel⟩

def goodShelf : Shelf := { ac := true, conv := true }
def labShelf : State := { lab with shelf := [(0, goodShelf)] }
def labRide : State := { lab with pw := { Power.init with rideStart := some 0 } }

theorem witness_SupplyCompletes :
    ((labShelf.shelfOf 0).ac = true ∧ (labShelf.shelfOf 0).conv = true) ∧
    (((lab.shelfOf 0).ac && (lab.shelfOf 0).conv) = false ∧ (lab.tick 1).heldOut (unitShelf 0) = false) ∧
    (({ lab with mismatched := [unitShelf 0] } : State).tick 1).heldOut (unitShelf 0) = true ∧
    (labRide.pw.rideStart = some 0 ∧ 0 + (labRide.tick 30000000000).rackSet 0x0603#16 * 1000000000 ≤ (labRide.tick 30000000000).osc) ∧
    ((labRide.tick 1).readUnits ((List.finRange 16).map fun i => (i, 0, 100))).storedWh ≤ 150 := by decide +kernel

def badBattery : Battery := { Battery.init with disputed := true }
def labBatt : State := { lab with batt := [(0, badBattery)], clk := { Clock.init with quality := .lockedPtp, rackQ := 10800000000000 * 2 ^ 40 } }
def labCal : State := { lab with batt := [(1, { badBattery with calibrating := true })] }

theorem witness_BatteriesAndLoadComplete :
    ((labBatt.battery 0).disputed = true ∧ (labBatt.tick 0).inCalWindow = true ∧ (∀ j, (labBatt.battery j).calibrating = false) ∧
      labBatt.pw.rideStart = none ∧
      (labBatt.tick 0).rackSet 0x0603#16 * (labBatt.tick 0).rackSet 0x0602#16 * 1000 / 3600 + 150 ≤ labBatt.storedWh [0]) ∧
    (∃ j, (labCal.battery j).calibrating = true) ∧ (labCal.battery 1).calibrating = true ∧ 0 + 15 < 16 := by
  refine ⟨by decide +kernel, ⟨1, by decide +kernel⟩, by decide +kernel, by decide⟩

/-- A chip with what it has read, and a quadrant. -/
def labChipIs (c : Chip) (q : Quad := Quad.init) : State := { lab with chips := [(lc0, c)], quads := [(quadOf lc0 0, q)] }
/-- A chip two steps down; one gated at /6; one in LOCKED with a sensor that tripped; a quadrant throttled. -/
def stepChip : Chip := { upChip with thermSteps := 2, divider := 6 }
def gatedChip : Chip := { upChip with mtxGate := true, thermSteps := 2, divider := 6 }
def tripChip : Chip := { upChip with power := .locked, tripped := [.stack lc0 7] }
def hotQuad : Quad := { Quad.init with hbmThrottled := true }

theorem witness_ChipCoolingCompletes :
    ((labChipIs upChip).chipUp lc0 = true ∧
      reaches ((((labChipIs upChip).tick 1).sample lc0 (.junction lc0 3) 95000).chip lc0).governing
        (((labChipIs upChip).tick 1).milli 0x0701#16) = true ∧
      ((labChipIs upChip).chip lc0).mtxGate = false ∧ ((labChipIs upChip).chip lc0).thermSteps = 0) ∧
    ((labChipIs stepChip).chipUp lc0 = true ∧ 0 < ((labChipIs stepChip).chip lc0).thermSteps ∧
      ((labChipIs stepChip).chip lc0).mtxGate = false ∧
      reaches ((((labChipIs stepChip).tick 10000000).sample lc0 (.junction lc0 3) 95000).chip lc0).governing
        (((labChipIs stepChip).tick 10000000).milli 0x0701#16) = true ∧
      ((labChipIs stepChip).chip lc0).lastStep + 10000000 ≤ ((labChipIs stepChip).tick 10000000).osc) ∧
    (∀ c ∈ [stepChip, gatedChip], (89999 : Int) < ((labChipIs c).tick 100000000).milli 0x0701#16 - ((labChipIs c).tick 100000000).milli 0x0703#16 ∧
      max ((labChipIs c).chip lc0).lastStep ((labChipIs c).chip lc0).hotAt + 100000000 ≤ ((labChipIs c).tick 100000000).osc ∧
      ((labChipIs c).chip lc0).junctions = []) ∧
    (((labChipIs gatedChip).chip lc0).mtxGate = true ∧ 0 < ((labChipIs stepChip).chip lc0).thermSteps) ∧
    (((labChipIs upChip hotQuad).quad (quadOf lc0 0)).hbmThrottled = true ∧
      (82999 : Int) < ((labChipIs upChip hotQuad).tick 100000000).milli 0x0702#16 - ((labChipIs upChip hotQuad).tick 100000000).milli 0x0703#16 ∧
      max ((labChipIs upChip hotQuad).quad (quadOf lc0 0)).hbmStep ((labChipIs upChip hotQuad).quad (quadOf lc0 0)).hotAt + 100000000 ≤
        ((labChipIs upChip hotQuad).tick 100000000).osc ∧ ((labChipIs upChip hotQuad).chip lc0).stackTemps = []) ∧
    (reaches ((((labChipIs upChip).tick 1).sample lc0 (.stack lc0 1) 95000).chip lc0 |>.governingHbm 0)
        (((labChipIs upChip).tick 1).milli 0x0702#16) = true ∧ ((labChipIs upChip).quad (quadOf lc0 0)).hbmThrottled = false) ∧
    (sensorChip (.stack lc0 7) = some lc0 ∧ ((labChipIs upChip).chip lc0).power = .up ∧ ((labChipIs tripChip).chip lc0).power ≠ .up ∧
      reaches (((((labChipIs upChip).tick 1).sample lc0 (.stack lc0 7) 95000).chip lc0).governingOf (.stack lc0 7))
        (tripValue (.stack lc0 7)) = true) ∧
    (((labChipIs tripChip).chip lc0).tripped ≠ [] ∧ (labChipIs tripChip).chipLocked lc0 = false ∧
      ∀ y ∈ ((labChipIs tripChip).chip lc0).tripped, ((labChipIs tripChip).chip lc0).failed.contains y = true ∨
        ∃ r ∈ [(sensorIx (.stack lc0 7), (70000 : Int))], r.1 = sensorIx y ∧ r.2 ≤ tripValue y - 25000) := by
  refine ⟨by decide +kernel, by decide +kernel, by decide +kernel, by decide +kernel, by decide +kernel, by decide +kernel,
    by decide +kernel, by decide +kernel, by decide +kernel, ?_⟩
  intro y hy
  have h : y = .stack lc0 7 := List.mem_singleton.mp hy
  subst h
  exact .inr ⟨_, List.mem_singleton.mpr rfl, rfl, by decide +kernel⟩

def trayOn : Tray := { Tray.init with powered := true }
def labTray (x : Tray) : State := { lab with trays := [(0, x)] }
/-- A stopped tray whose level 5 has been requested. -/
def stoppedTray : Tray := { Tray.init with stopped := true, normalSince := some 0 }

theorem witness_TrayCoolingCompletes :
    ((labTray trayOn).tray 0).fansFailed.contains 5 = false ∧
    (∀ x ∈ [({ trayOn with lowFlowSince := some 0 } : Tray), { trayOn with hotSince := some 0 }, { trayOn with fansFailed := [0, 1, 2, 3] }],
      (((labTray x).tray 0).stopCause ((labTray x).tick 10000000000).osc).isSome = true ∧ ((labTray x).tray 0).stopped = false ∧
        ((labTray x).tray 0).powered = true) ∧
    (((labTray stoppedTray).tray 0).normalSince = some 0 ∧ ((labTray stoppedTray).tray 0).stopped = true ∧
      0 + 60000000000 ≤ ((labTray stoppedTray).tick 60000000000).osc ∧ ((labTray stoppedTray).tick 60000000000).leakCut 0 = false ∧
      (labTray stoppedTray).lockedTrays.contains 0 = false ∧ ((labTray stoppedTray).tick 60000000000).heldOut (unitTray 0) = false ∧
      ((labTray stoppedTray).tick 60000000000).level5Due 0 = false ∧
      (({ labTray stoppedTray with retry5 := [(0, 0)] } : State).tick 60000000000).level5Due 0 = true) := by
  refine ⟨by decide +kernel, ?_, by decide +kernel⟩
  intro x h
  simp only [List.mem_cons, List.not_mem_nil, or_false] at h
  rcases h with rfl | rfl | rfl <;> decide +kernel

theorem witness_LeaksComplete :
    ((labTray trayOn).tray 0).powered = true ∧ ((labTray Tray.init).tray 0).powered = false := by decide +kernel

/-! ### Supervision, rack time, start and recovery -/

/-- The identity memory of end A of harness 0: tray 0 to tray 1 on y. -/
def cable0 : CableId :=
  { readable := true, crcOk := true, kind := 0, end_ := 0, harness := 0, aUnit := unitCode 1 0, aPort := 2, bUnit := unitCode 1 1,
    bPort := 3, serialOk := true, rackOk := true, laneOrderOk := true }
def waitRec : LogRec :=
  { lseq := 0, rtime := 0, qual := 0, sev := 0, code := Lg.unitSilent, unit := 0, rflags := 0, tBefore := 0, tAfter := 0, detail := [],
    readings := [], forSession := none }
def labLog : State := { lab with rmu := { Rmu.init with up := true, logWait := [waitRec] } }

/-- An account without the administrator's rights. -/
def labAccounts : State :=
  { lab with rmu := { Rmu.init with up := true, accounts := Rmu.init.accounts ++ [{ name := "guest", admin := false, password := "g" }] } }

theorem witness_SupervisionCompletes :
    cableFault 0 true { cable0 with readable := false } = some 0xFE ∧ cableFault 0 true cable0 = none ∧ cable0.laneOrderOk = true ∧
    (∀ x ∈ (harnessLinks 0 true).zipIdx,
      (((harnessLinks 0 true).map fun l => ((farExpect 0 true l).1, (farExpect 0 true l).2, 100))[x.2]?).map
        (fun y => (y.1, y.2.1)) = some (farExpect 0 true x.1)) ∧
    (firstDue labLog.rmu.logWait = some waitRec ∧ waitRec.due ≤ (((labLog.tick 60000000000).rackNs : Nat) : Int) ∧ labLog.rmu.up = true ∧
      labLog.rmu.absentUntil ≤ (labLog.tick 60000000000).osc ∧ labLog.rmu.log.length < logRing) ∧
    ((lab.tick 1).managed = true ∧ (lab.tick 1).account? { user := "admin", password := "x" } = none ∧
      ((lab.tick 1).account? { user := "admin", password := Config.factoryPassword }).any Account.admin = true ∧
      (labAccounts.tick 1).managed = true ∧
      ((labAccounts.tick 1).account? { user := "guest", password := "g" }).any (fun x => !x.admin) = true ∧
      (putAccount lab.rmu.accounts { name := "new", admin := false, password := "p" }).length ≤ 16) ∧ (lab.swt 3).up = true := by
  refine ⟨by decide +kernel, by decide +kernel, by decide +kernel, ?_, by decide +kernel, by decide +kernel, by decide +kernel⟩
  intro x hx
  rw [List.getElem?_map, List.mem_zipIdx_iff_getElem?.mp hx]
  rfl

def clkIs (c : Clock) : State := { lab with clk := c }
def lockedClk : Clock := { Clock.init with quality := .lockedPtp, ptpLocked := true }

/-- A message that a receiver can read, and one of a reserved quality. -/
def timeRx (n : BitVec 4) : TimeRx := { tNext := 5, rate := -1, quality := n, seq := 0, missed := 0, lost := false }

theorem witness_RackTimeCompletes :
    ((lab.tick 1).sourceUsed true = true ∧ (lab.tick 1).sourceUsed false = true ∧ (clkIs Clock.init).clk.quality = .unset ∧
      (clkIs lockedClk).clk.quality ≠ .unset ∧ (clkIs lockedClk).clk.ptpLocked = true) ∧
    (∀ n ∈ [(1000 : Int), -1000], n.natAbs ≤ 1000) ∧ (∀ n ∈ [(1001 : Int), -10000000], 1000 < n.natAbs ∧ n.natAbs ≤ 10000000) ∧
    ((10000001 : Int).natAbs > 10000000 ∧ (({ clkIs lockedClk with kws := [] } : State).tick 1).anyOpen = false ∧
      ((clkIs lockedClk).tick 1).anyOpen = true ∧ (lab.tick 1).rackSet 0x0804#16 ≠ 0 ∧
      (({ lab with cfg := { lab.cfg with running := [((0x0804#16, .rack), [0])] } } : State).tick 1).rackSet 0x0804#16 = 0) ∧
    ((clkIs { lockedClk with quality := .slewing }).clk.quality = .slewing ∧ (maxSlew : Int).natAbs ≤ maxSlew) ∧
    ((clkIs lockedClk).clk.ppsLocked = false ∧ (clkIs lockedClk).clk.quality ≠ .starting) ∧
    (let c : Clock := { Clock.init with quality := .holdover, lossAt := some 0, uLock := 1000 }
     (clkIs c).clk.lossAt = some 0 ∧ (clkIs c).clk.quality = .holdover ∧ 86400000000000 ≤ ((clkIs c).tick 86400000000000).osc - 0 ∧
       ((clkIs c).tick 86399999999999).osc - 0 < 86400000000000 ∧
       10000 < 1000 + (((clkIs c).tick 86399999999999).osc - 0) * 1000 / 3600000000000 ∧
       1000 + (((clkIs c).tick 0).osc - 0) * 1000 / 3600000000000 ≤ 10000) ∧
    ((timeRx 6).tNext < 2 ^ 64 ∧ (timeRx 6).quality.toNat < 7 ∧ (timeRx 15).quality = 15 ∧
      timeBytes 0x52540106 0 5 (BitVec.ofNat 64 (fieldBe (timeMessage (timeRx 6)) 16 8)) = timeMessage (timeRx 6) ∧
      7 ≤ fieldBe (timeBytes 0x52540107 0 0 0) 3 1 % 16 ∧ fieldBe (timeBytes 0x5254010E 0 0 0) 3 1 % 16 < 15) ∧
    (let c : Clock := { Clock.init with rx := [(0, { rxInit with missed := 15 }), (1, { rxInit with missed := 0 })] }
     (Tab.get (clkIs c).clk.rx rxInit 0).missed = 15 ∧ (Tab.get (clkIs c).clk.rx rxInit 1).missed ≠ 15) :=
  ⟨by decide +kernel, by decide +kernel, by decide +kernel, by decide +kernel, by decide +kernel, by decide +kernel, by decide +kernel,
    by decide +kernel, by decide +kernel⟩

def allOn : PowerUpReadings :=
  { ac := [true, false, false, false], rtc := none, wet := List.replicate 16 false, open_ := List.replicate 16 0,
    flow := List.replicate 16 16000, fansFailed := List.replicate 16 0, badLinks := [], rejectedEnds := [], mismatched := [], fwOk := true,
    rmuAok := true, rmuBok := true, chipsOk := true, trims := [], plan := [] }
def labAccept (n : Nat) : State := { lab with accept := { phase := n, since := 0 } }

theorem witness_StartCompletes :
    (State.reset.ready = false ∧ allOn.ac.any id = true ∧ State.reset.opened rmuChannel = false) ∧ lab.ready = true ∧
    ((labAccept 1).accept.phase = 1 ∧ (labAccept 2).accept.phase = 2 ∧
      (labAccept 1).accept.since + 60000000000 ≤ ((labAccept 1).tick 60000000000).osc) := by decide +kernel

theorem witness_DetectorsRequestResets :
    ((labReqs residentReq (takenPart true)).part lp = some (takenPart true) ∧ (takenPart true).taken.isSome = true ∧
      lc1 ∈ (takenPart true).chips) ∧
    quadOf lc1 (blockK 639) ∈ lab.partQuads lp ∧
    (lab.part lp = some labPart ∧ labPart.shape.quad? (addrVq 0x7000000000) = some (quadOf lc1 3)) ∧ lab.chipUp lc1 = true := by
  decide +kernel

def askOf (n : Nat) (x : Scope) : ResetReq :=
  { level := n, scope := x, detector := 0, chip := none, op := none, firedAt := 0, detail := [] }
def runOfReset (n : Nat) (x : Scope) : ResetRun :=
  { level := n, scope := x, detector := 0, chip := none, startOsc := 0, startRack := 0, op := none }
def labAsk (n : Nat) (x : Scope) : State := { lab with resetReqs := [askOf n x] }
def labReset (n : Nat) (x : Scope) : State := { lab with resets := [runOfReset n x] }

theorem witness_ResetsRun :
    (∀ x ∈ [(1, Scope.part lp), (2, .block lp lc0 0), (3, .part lp), (4, .chip lc0), (5, .tray 0), (6, .rack)],
      (labAsk x.1 x.2).resets = [] ∧ ((labAsk x.1 x.2).resetReqs.find? ((labAsk x.1 x.2).tick 1).takeable) = some (askOf x.1 x.2) ∧
        ((labAsk x.1 x.2).tick 1).recurs (askOf x.1 x.2) = none) ∧
    (lab.scopeParts (.part lp) = [lp] ∧ lab.scopeParts (.block lp lc0 0) = [lp] ∧ lab.chipLocked lc0 = false ∧ (lab.chip lc0).power ≠ .off ∧ lab.lockedTrays.contains 0 = false) ∧
    (((labReset 4 (.chip lc0)).resets.find? fun r => r.scope = .chip lc0) = some (runOfReset 4 (.chip lc0)) ∧
      ((labReset 4 (.chip lc0)).tick 1).resetHeld (runOfReset 4 (.chip lc0)) = false ∧
      ((labReset 4 (.chip lc0)).tick (resetDeadlineNs 4)).osc ≤ 0 + resetDeadlineNs 4 ∧
      0 + resetDeadlineNs 4 < ((labReset 4 (.chip lc0)).tick (resetDeadlineNs 4 + 1)).osc) ∧
    ((labReset 4 (.chip lc0)).resets = [runOfReset 4 (.chip lc0)] ∧ ((labReset 4 (.chip lc0)).chip lc0).tripped = [] ∧
      0 + 30000000000 ≤ ((labReset 4 (.chip lc0)).tick 30000000000).osc ∧
      (labReset 4 (.chip lc0)).lockedTrays.contains (trayOf lc0) = false) ∧
    ((({ lab with retry5 := [(0, 0)] } : State).retry5.find? fun e => e.1 = 0) = some (0, 0) ∧
      0 + 60000000000 ≤ (lab.tick 60000000000).osc) ∧ lab.resetReqs = [] := by
  refine ⟨?_, by decide +kernel, by decide +kernel, by decide +kernel, by decide +kernel, rfl⟩
  intro x h
  simp only [List.mem_cons, List.not_mem_nil, or_false] at h
  rcases h with rfl | rfl | rfl | rfl | rfl | rfl <;> exact ⟨rfl, by decide +kernel, by decide +kernel⟩

/-- A step of each kind that the invariants speak of. -/
theorem witness_ObservingRowsKeepTenants :
    observes (.loadRise 1 5) = true ∧ (match exec (.loadRise 1 5) lab with | .next _ => true | _ => false) = true := by decide +kernel

theorem witness_MemoryStaysCanonical :
    Memory.wf ({ lab with hbm := [(0, 5), (9, 1)] } : State).hbm ∧
    (match step { lab with hbm := [(0, 5), (9, 1)], pending := [.loadRise 1 5] } with | .next _ => true | _ => false) = true := by
  decide +kernel

theorem witness_LockoutsNeverClear :
    (match step { lab with lockedChips := [lc1], serviceDue := true } with
     | .next u => u.chipLocked lc1 && u.serviceDue
     | _ => false) = true := by decide +kernel

/-! ### Well-formedness refuses what cannot reach the machine -/

def longHdr : Hdr := { khdr .ping with len := 8193 }
def rawPkt : NetPkt :=
  { type := .data, last := true, notify := false, forced := false, dchip := 22, schip := 20, dpart := 12, fw := false,
    raddr := 0x008010000000#48, xseq := 0, tag := 0, imm := 0, frame := 0, slot := 8, payload := [] }
def rawMsg (n : Nat) : Msg := { kind := 0, tag := 0, imm := 0, data := List.replicate n 0, poisoned := false }
def rawReq (flags : BitVec 8) (x : SrcText) : ReqArgs :=
  { tag := 0x2A31, sources := 2, flags := flags, insertSlot := 0, maxTokens := 400, temperature := 0, topP := 0x3F80, seed := 0,
    stamp := 0, text := x }
def rawSource (flags : BitVec 8) (x : SrcText) : SourceArgs := { tag := 0x2A31, index := 1, flags := flags, stamp := 0, text := x }
def rawRdma (n : Nat) : RdmaReq := { port := 2, src := 5, qpn := 3, va := 0x40000000, rkey := 1, dmaLen := n, marked := 0 }

theorem test_wf_header : (Instr.ping 1 longHdr).wf = false ∧ (Instr.ping 1 (khdr .ping)).wf = true := by decide +kernel
theorem test_wf_source_text :
    (Instr.reqSubmit 1 (khdr .ping) (rawReq 0 (.text []))).wf = false ∧
    (Instr.reqSubmit 1 (khdr .ping) (rawReq 1 (.text []))).wf = true ∧
    (Instr.reqSource 1 (khdr .ping) (rawSource 1 (.ref 0 9800))).wf = false ∧
    (Instr.reqSource 1 (khdr .ping) (rawSource 0 (.ref 0 9800))).wf = true := by decide +kernel
theorem test_wf_packet :
    ({ rawPkt with payload := List.replicate 1281 0 } : NetPkt).wf = false ∧ ({ rawPkt with payload := List.replicate 33 0 } : NetPkt).wf = false ∧
    ({ rawPkt with payload := List.replicate 1280 0 } : NetPkt).wf = true := by decide +kernel
theorem test_wf_message : (rawMsg 16).wf = false ∧ (rawMsg 15).wf = true := by decide +kernel
theorem test_wf_readings :
    (Instr.powerUp 1 { allOn with ac := [true] }).wf = false ∧ (Instr.powerUp 1 { allOn with flow := [] }).wf = false ∧
    (Instr.powerUp 1 allOn).wf = true := by decide +kernel
theorem test_wf_rdma_length :
    (Instr.rdmaWrite 1 (rawRdma 2) [0]).wf = false ∧ (Instr.rdmaWriteImmediate 1 (rawRdma 0) [0] 0).wf = false ∧
    (Instr.rdmaWrite 1 (rawRdma 1) [0]).wf = true := by decide +kernel
theorem test_wf_members :
    (Instr.cgCreate 1 (khdr .ping) (List.replicate 256 0) 0).wf = false ∧ (Instr.cgCreate 1 (khdr .ping) [0, 1] 0).wf = true := by
  decide +kernel
theorem test_wf_values :
    (Instr.setSet 1 (khdr .ping) 0x0405 (List.replicate 8191 0)).wf = false ∧ (Instr.setLatch 1 (khdr .ping) 0x0405 (List.replicate 8191 0)).wf = false ∧
    (Instr.partShapeWrite 1 (khdr .ping) (List.replicate 8191 0)).wf = false ∧ (Instr.diagEcho 1 (khdr .ping) (List.replicate 8193 0)).wf = false ∧
    (Instr.setSet 1 (khdr .ping) 0x0405 [0, 200]).wf = true := by decide +kernel

/-! ### Worked examples of the spec: expected values are its own -/

/-- 00_scope.md: chip (2, 1, 3) is chip 54 of T13 in slot 2, with quadrants 216 to 219, fed by PS3.1. -/
theorem test_chip_54 :
    chipAt 2 1 3 = 54 ∧ trayOf 54 = 13 ∧ chipX 54 = 2 ∧ chipQuads 54 = [216, 217, 218, 219] ∧
    trayChannel 13 = { shelf := 3, ch := 1 } := by decide +kernel

/-- 01_the_machine.md: tray T05. -/
theorem test_tray_05 :
    trayChips 5 = [20, 21, 22, 23] ∧ trayChannel 5 = { shelf := 1, ch := 1 } ∧
    uplinkSwitch 20 0 = 1 ∧ uplinkPort 20 0 = 4 ∧ uplinkPort 23 0 = 7 ∧ uplinkSwitch 20 1 = 3 ∧ uplinkPort 20 1 = 20 ∧ uplinkPort 23 1 = 23 ∧
    trayOf (neighbour 20 4) = 9 ∧ trayOf (neighbour 20 5) = 1 ∧ trayOf (neighbour 20 2) = 6 ∧ trayOf (neighbour 20 3) = 4 ∧
    neighbour 23 0 = 20 := by decide +kernel

/-- 02_path_of_a_request.md and 11_ingest.md: 2,600 and 560 tokens. -/
theorem test_buckets : bucketOf 2600 = 4096 ∧ bucketOf 560 = 1024 := by decide +kernel

/-- 03_keyways_and_wards.md: P12 on T05, and the address 0x0060_0000_1000. -/
def p12 : Shape := { cls := 3, ex := 4, ey := 1, ez := 1, chip := 20, kmask := 0xF }
theorem test_translation :
    addrVq 0x006000001000#48 = 6 ∧ addrOff 0x006000001000#48 = 4096 ∧ p12.quad? 6 = some 86 ∧ p12.quad? 16 = none ∧
    p12.word 0x02000004 = 0x03040101 := by decide +kernel

/-- 05_grarin_accelerator.md: the cell at column 47, row 40. -/
theorem test_cell_47_40 :
    cellBlock 47 40 = 411 ∧ cellK 47 40 = 3 ∧ blockLocal 411 = 41 ∧ blockK 411 = 3 ∧ stackOf 3 0 = 6 ∧ bufferBank 0x05A40 = 11 := by
  decide +kernel

/-- 06_cell_grid_programs.md: the victim order of cells A and B. -/
theorem test_victim_order :
    cellOrder { chip := 21, c := 44, r := 34 } = 2764 ∧ cellOrder { chip := 21, c := 45, r := 34 } = 2765 := by decide +kernel

/-- 07_numerics_and_sameness.md: the MXFP4 block that begins 0.047, -0.0117, 0.0215, 0.0020, 0.01953125. -/
def mxExample : List Machine.Num :=
  [fp32.decode 0x3D408312, fp32.decode 0xBC3FB15B, fp32.decode 0x3CB020C5, fp32.decode 0x3B03126F, fp32.decode 0x3CA00000] ++
    List.replicate 27 (.fin false 0 0)
theorem test_mxfp4_block :
    ((tensorOf .mxfp4 mxExample).take 3 = [0xB7, 0x15, 0x04]) ∧ (tensorOf .mxfp4 mxExample).drop 16 = [0x78] := by decide +kernel

/-- 08_neton_fabric.md: chip 20 to chip 22, the landing slot of packet 3, the relay of chip 20. -/
theorem test_fabric_example :
    addrVq 0x008010000000#48 = 8 ∧ addrOff 0x008010000000#48 = 0x10000000 ∧ p12.route 0 2 = [0, 0] ∧ landingSlot 8 2 = 35 ∧
    relayChip 20 = 4 := by decide +kernel

/-- 09_collectives.md: the two chains of chunk 2 on a ring of 4. -/
theorem test_chains : chainOrder 4 2 true = [3, 0, 1, 2] ∧ chainOrder 4 2 false = [1, 0, 3, 2] := by decide +kernel

/-- 10_keyring_prefix_store.md and 20_trust_and_undefined.md: references of key 65, the reply time of 120 blocks. -/
theorem test_keyring_example :
    shareRef 65 1 = 0x00000141 ∧ shareRef 65 2 = 0x00000241 ∧ lookupNs 120 = 44000 ∧ granuleShare 4 1 = 16 := by decide +kernel

/-- 12_tumbler_annealer.md: two spins of one class with J = +5 and no fields both flip; in two classes only the first does. -/
def pair (cb : Nat) : Problem :=
  { num := 1, part := lp, chip := lc0, vchip := 0, spins := 2, classes := 2, fields := [0, 0], clamp := [false, false],
    rows := [[(1, 5)], [(0, 5)]], colours := [0, cb], stateAddr := 0 }
def coldRun : TmbRun :=
  { kw := lk, op := 0, problem := 1, part := lp, seed := 0, sweeps := 1, cut := 0x02000004, init := 1, wsweeps := 1, xevery := 0,
    betas := List.replicate 32 betaInf, t := 0, replicas := [1, 0], bestE := none, bestAt := 0, best := [], done := false }
theorem test_two_spins :
    energy (pair 0) [1, 0] 0 = 5 ∧
    (updateClass (pair 0) coldRun [0, 1] [1, 0] 0).map (·.getLsbD 0) = [false, true] ∧
    (updateClass (pair 1) coldRun [0, 1] (updateClass (pair 1) coldRun [0, 1] [1, 0] 0) 1).map (·.getLsbD 0) = [false, false] ∧
    energy (pair 1) [0, 0] 0 = -5 := by decide +kernel
/-- R234: each default beta is the integer nearest to 2^(12 + 14 r / 31), so (2 b - 1)^31 and (2 b + 1)^31 enclose 2^(403 + 14 r). -/
theorem test_default_betas :
    ((List.range 32).all fun r =>
      decide ((2 * (defaultBeta r).toNat - 1) ^ 31 ≤ 2 ^ (403 + 14 * r)) && decide (2 ^ (403 + 14 * r) < (2 * (defaultBeta r).toNat + 1) ^ 31)) = true ∧
    defaultBeta 0 = 4096 ∧ defaultBeta 31 = 0x04000000 := by decide +kernel
theorem test_state_area : stateLen 300000 = 1387532 ∧ windowCount 300000 = 3 := by decide +kernel

/-- 14_cooling_and_heat.md: 9 L/min derates to 0.75. -/
theorem test_flow_factor : flowFactor 9000 = 750 ∧ flowFactor 16000 = 1000 := by decide +kernel

/-- 15_tray_controllers_and_rack_time.md: uncertainty after 9 h 51 min and 24 h, the rate of a 100 ppm slew. -/
theorem test_rack_time_example :
    holdoverNs 150 35460000000000 = 10000 ∧ holdoverNs 150 86400000000000 = 24150 ∧ ratePpm (-109951163) = -100000 := by decide +kernel

/-- 18_settings_and_persistence.md: the classes-lost bytes and the class byte. -/
theorem test_classes_lost :
    classesLost 2 = 0x00 ∧ classesLost 3 = 0x19 ∧ classesLost 4 = 0x1B ∧ classesLost 6 = 0x1F ∧ classByte 1 false false = 0x01 := by
  decide +kernel

/-- Published check values of the three public algorithms the spec names (PRESUMED: outside the spec). -/
theorem test_crc32c : crc32c [0x31, 0x32, 0x33, 0x34, 0x35, 0x36, 0x37, 0x38, 0x39] = 0xE3069283 := by decide +kernel
theorem test_blake2b : (blake2b [0x61, 0x62, 0x63] 64 []).take 4 = [0xBA, 0x80, 0xA5, 0x3F] := by decide +kernel
theorem test_philox : philox 0 0 0 0 0 = 0x6627E8D5 := by decide +kernel

end Sys2Proof.Tests
end

section
/-! SUPPORT. Wire bytes: a value written most significant byte first (R6) is read back from its field. -/

namespace Sys2Proof.Machine

@[simp] theorem length_le (n v : Nat) : (le n v).length = n := by
  induction n generalizing v with
  | zero => rfl
  | succ n ih => simp [le, ih]

@[simp] theorem length_be (n v : Nat) : (be n v).length = n := by simp [be]

theorem ofLe_le (n v : Nat) : ofLe (le n v) = v % 256 ^ n := by
  induction n generalizing v with
  | zero => simp [le, ofLe, Nat.mod_one]
  | succ n ih => simp [le, ofLe, ih, Nat.pow_succ', Nat.mod_mul]

@[simp] theorem ofBe_be (n v : Nat) : ofBe (be n v) = v % 256 ^ n := by simp [ofBe, be, ofLe_le]

/-- A field that ends within the first part of a packet is a field of that part. -/
theorem field_append_left {xs : List Byte} {i n : Nat} (h : i + n ≤ xs.length) (ys : List Byte) :
    field (xs ++ ys) i n = field xs i n := by
  rw [field, field, List.drop_append_of_le_length (by omega), List.take_append_of_le_length (by simp; omega)]

/-- A field that begins past the first part of a packet is a field of the rest. -/
theorem field_append_right {xs : List Byte} {i : Nat} (h : xs.length ≤ i) (ys : List Byte) (n : Nat) :
    field (xs ++ ys) i n = field ys (i - xs.length) n := by
  simp [field, List.drop_append, List.drop_of_length_le h]

theorem field_whole {xs : List Byte} {n : Nat} (h : xs.length = n) : field xs 0 n = xs := by simp [field, ← h]

@[simp] theorem field_be (n v : Nat) : field (be n v) 0 n = be n v := field_whole (length_be n v)

end Sys2Proof.Machine
end

section
/-! SUPPORT. Rack time (R294 to R298): what a change of quality, a step, a slew, a lock and a lost source each do to the clock, and
what they leave as it was; a time-of-day message is read back as it was written. -/

namespace Sys2Proof.Machine

/-! ### Changes of the clock alone -/

namespace State

variable (s : State)

/-! `tick` moves the oscillator, rack time and the offset left to slew. -/

@[simp] theorem tickClock_rate (c : Clock) (t : Nat) : (tickClock c t).rate = c.rate := rfl
@[simp] theorem tickClock_quality (c : Clock) (t : Nat) : (tickClock c t).quality = c.quality := rfl
@[simp] theorem tickClock_ptpLocked (c : Clock) (t : Nat) : (tickClock c t).ptpLocked = c.ptpLocked := rfl
@[simp] theorem tickClock_ppsLocked (c : Clock) (t : Nat) : (tickClock c t).ppsLocked = c.ppsLocked := rfl
@[simp] theorem tickClock_rx (c : Clock) (t : Nat) : (tickClock c t).rx = c.rx := rfl

/-- A change of quality sets it, and raises events (R297). -/
theorem setQuality_frame (q : Quality) :
    EventsOnly { s with clk := { s.clk with quality := q } } (s.setQuality q) := by
  unfold setQuality
  split
  · next h => subst h; exact EventsOnly.refl s
  · exact EventsOnly.raiseOpen ..

@[simp] theorem setQuality_clk (q : Quality) : (s.setQuality q).clk = { s.clk with quality := q } := (s.setQuality_frame q).clk
@[simp] theorem setQuality_hbm (q : Quality) : (s.setQuality q).hbm = s.hbm := (s.setQuality_frame q).hbm
@[simp] theorem setQuality_parts (q : Quality) : (s.setQuality q).parts = s.parts := (s.setQuality_frame q).parts
@[simp] theorem setQuality_rmu (q : Quality) : (s.setQuality q).rmu = s.rmu := (s.setQuality_frame q).rmu

@[simp] theorem stepTime_clk (theta : Int) (c : Byte) :
    (s.stepTime theta c).clk = { s.clk with rackQ := ((s.clk.rackQ : Int) + theta * 2 ^ 40).toNat, theta := none, rate := 0,
                                            quality := s.lockedQuality } := by
  simp [stepTime, lockedQuality]

@[simp] theorem stepTime_hbm (theta : Int) (c : Byte) : (s.stepTime theta c).hbm = s.hbm := by simp [stepTime]

/-- The rate at which an offset is slewed (R298). -/
def slewRate (theta : Int) : Int :=
  if theta < 0 then -((Config.freeReading s.fresh % maxSlew + 1 : Nat) : Int)
  else ((Config.freeReading s.fresh % maxSlew + 1 : Nat) : Int)

/-- A slew has the direction of its offset and at most 100 ppm. -/
theorem slewRate_bounds {theta : Int} (h : theta ≠ 0) :
    s.slewRate theta ≠ 0 ∧ (0 < s.slewRate theta ↔ 0 < theta) ∧ (s.slewRate theta).natAbs ≤ maxSlew := by
  have hm : Config.freeReading s.fresh % maxSlew < maxSlew := Nat.mod_lt _ (by decide)
  unfold slewRate
  split <;> omega

@[simp] theorem startSlew_clk (theta : Int) :
    (s.startSlew theta).clk =
      { s.clk with theta := some (theta * 2 ^ 40), rate := s.slewRate theta, quality := .slewing } := by
  simp [startSlew, slewRate]

@[simp] theorem startSlew_hbm (theta : Int) : (s.startSlew theta).hbm = s.hbm := by simp [startSlew]
@[simp] theorem startSlew_parts (theta : Int) : (s.startSlew theta).parts = s.parts := by simp [startSlew]

/-! ### A source locks (R295, R298) -/

/-- The lock of a source, recorded, before its offset is corrected. -/
def lockSource (pps : Bool) (theta : Int) : State :=
  { s with clk := { s.clk with ptpLocked := s.clk.ptpLocked || !pps, ppsLocked := s.clk.ppsLocked || pps, lossAt := none } }.log
    Lg.timeSourceLocked unitRmu ([if pps then 1 else 0] ++ leInt 8 theta)

@[simp] theorem lockSource_clk (pps : Bool) (theta : Int) :
    (s.lockSource pps theta).clk =
      { s.clk with ptpLocked := s.clk.ptpLocked || !pps, ppsLocked := s.clk.ppsLocked || pps, lossAt := none } := rfl

@[simp] theorem lockSource_hbm (pps : Bool) (theta : Int) : (s.lockSource pps theta).hbm = s.hbm := rfl
@[simp] theorem lockSource_parts (pps : Bool) (theta : Int) : (s.lockSource pps theta).parts = s.parts := rfl
@[simp] theorem lockSource_anyOpen (pps : Bool) (theta : Int) : (s.lockSource pps theta).anyOpen = s.anyOpen := rfl
@[simp] theorem lockSource_rackSet (pps : Bool) (theta : Int) (id : BitVec 16) :
    (s.lockSource pps theta).rackSet id = s.rackSet id := rfl

end State

theorem exec_timeSourceLocked {s : State} {t : Nat} {pps : Bool} {theta : Int} {n : Nat}
    (used : (s.tick t).sourceUsed pps = true) (steady : 16 ≤ n) :
    exec (.timeSourceLocked t pps theta n) s = .next (((s.tick t).lockSource pps theta).correct pps theta) :=
  if_pos ⟨used, steady⟩

/-! ### How the offset of a lock is corrected (R298) -/

namespace State

variable {s : State} {pps : Bool} {theta : Int}

theorem correct_unset (h : s.clk.quality = .unset) : s.correct pps theta = s.stepTime theta 0 := if_pos h

theorem correct_beside (h : s.clk.quality ≠ .unset) (hp : pps = true) (hl : s.clk.ptpLocked = true) :
    s.correct pps theta = s := by
  rw [correct, if_neg h, if_pos ⟨hp, hl⟩]

section

variable (set : s.clk.quality ≠ .unset) (alone : ¬(pps = true ∧ s.clk.ptpLocked = true))
include set alone

theorem correct_small (h : theta.natAbs ≤ 1000) :
    s.correct pps theta =
      ({ s with clk := { s.clk with theta := none } }).setQuality (if pps then .lockedPps else .lockedPtp) := by
  rw [correct, if_neg set, if_neg alone, if_pos h]

theorem correct_slew (h : 1000 < theta.natAbs)
    (hs : theta.natAbs ≤ 10000000 ∨ s.anyOpen = true ∨ s.rackSet 0x0804#16 = 0) : s.correct pps theta = s.startSlew theta := by
  rw [correct, if_neg set, if_neg alone, if_neg (by omega), if_pos hs]

theorem correct_step (h : 10000000 < theta.natAbs) (ho : s.anyOpen = false) (ha : s.rackSet 0x0804#16 ≠ 0) :
    s.correct pps theta = s.stepTime theta 0 := by
  rw [correct, if_neg set, if_neg alone, if_neg (by omega), if_neg (by simp [ho, ha, h])]

end

end State

/-! ### A source is lost (R295, R297) -/

namespace State

variable (s : State)

/-- The loss of a source, recorded, before the quality follows. -/
def dropSource (pps : Bool) : State :=
  { s with clk := { s.clk with ptpLocked := s.clk.ptpLocked && pps, ppsLocked := s.clk.ppsLocked && !pps } }.log
    Lg.timeSourceLost unitRmu [if pps then 1 else 0]

@[simp] theorem dropSource_clk (pps : Bool) :
    (s.dropSource pps).clk =
      { s.clk with ptpLocked := s.clk.ptpLocked && pps, ppsLocked := s.clk.ppsLocked && !pps } := rfl

@[simp] theorem dropSource_hbm (pps : Bool) : (s.dropSource pps).hbm = s.hbm := rfl

theorem dropSource_logWait (pps : Bool) : ∃ r, (s.dropSource pps).rmu.logWait = s.rmu.logWait ++ [r] := ⟨_, rfl⟩

variable {s} {pps : Bool} {n : Nat}

/-- With the other source still locked, only a PTP lost under LOCKED_PTP changes the quality. -/
theorem loseSource_other (h : (if pps then s.clk.ptpLocked else s.clk.ppsLocked) = true) :
    s.loseSource pps n =
      if pps = false ∧ s.clk.quality = .lockedPtp then (s.dropSource pps).setQuality .lockedPps else s.dropSource pps := by
  cases pps with
  | false =>
    have other : s.clk.ppsLocked = true := h
    simp [loseSource, dropSource, other]
  | true =>
    have other : s.clk.ptpLocked = true := h
    simp [loseSource, dropSource, other]

/-- With the last source lost, the quality goes to HOLDOVER, unless no source has locked since power-up. -/
theorem loseSource_last (h : (if pps then s.clk.ptpLocked else s.clk.ppsLocked) = false) (started : s.clk.quality ≠ .starting)
    (set : s.clk.quality ≠ .unset) :
    s.loseSource pps n =
      ({ s.dropSource pps with clk := { (s.dropSource pps).clk with lossAt := some s.clk.osc, uLock := n, theta := none } }).setQuality
        .holdover := by
  cases pps with
  | false =>
    have other : s.clk.ppsLocked = false := h
    simp [loseSource, dropSource, other, started, set]
  | true =>
    have other : s.clk.ptpLocked = false := h
    simp [loseSource, dropSource, other, started, set]

end State

theorem exec_timeSourceLost {s : State} {t : Nat} {pps : Bool} {n : Nat}
    (locked : (if pps then s.clk.ppsLocked else s.clk.ptpLocked) = true) :
    exec (.timeSourceLost t pps n) s = .next ((s.tick t).loseSource pps n) := if_pos locked

/-- A pulse near a locked PTP, or beside none, does nothing (R295). -/
theorem exec_ppsPulse_near {s : State} {t : Nat} {d : Int} (h : d.natAbs ≤ 1000 ∨ s.clk.ptpLocked = false) :
    exec (.ppsPulse t d) s = .next (s.tick t) := by
  refine if_neg fun hf => ?_
  obtain ⟨hl, hd⟩ := hf
  rcases h with h | h
  · omega
  · exact Bool.false_ne_true (h.symm.trans hl)

/-- A pulse too far from a locked PTP is logged, and PPS is lost where it was locked (R295). -/
theorem exec_ppsPulse_far {s : State} {t : Nat} {d : Int} (hl : s.clk.ptpLocked = true) (hd : 1000 < d.natAbs) :
    exec (.ppsPulse t d) s =
      .next (if s.clk.ppsLocked then ((s.tick t).log Lg.ppsRejected unitRmu (leInt 8 d)).loseSource true s.clk.uLock
        else (s.tick t).log Lg.ppsRejected unitRmu (leInt 8 d)) :=
  (if_pos ⟨hl, hd⟩).trans (apply_ite Host.Outcome.next ..).symm

/-! ### Holdover decays (R297) -/

/-- 24 h after the loss the quality is FREE_RUNNING, before that DEGRADED beyond 10 us. -/
theorem exec_timeQualityDecay {s : State} {t l : Nat} (lost : s.clk.lossAt = some l)
    (held : s.clk.quality = .holdover ∨ s.clk.quality = .degraded) :
    exec (.timeQualityDecay t) s =
      .next (if 86400000000000 ≤ (s.tick t).osc - l then (s.tick t).setQuality .freeRunning
        else if 10000 < holdoverNs s.clk.uLock ((s.tick t).osc - l) then (s.tick t).setQuality .degraded
        else s.tick t) := by
  have hl : (s.tick t).clk.lossAt = some l := lost
  have hq : (s.tick t).clk.quality = .holdover ∨ (s.tick t).clk.quality = .degraded := held
  change execTimeQualityDecay t s = _
  simp only [execTimeQualityDecay, hl, if_pos hq, apply_ite Host.Outcome.next]
  rfl

/-! ### Receivers (R296) -/

@[simp] theorem length_timeFields (r : TimeRx) : (timeFields r).length = 20 := by simp [timeFields]

/-- A quality that a message carries, as its byte is read (R294). -/
theorem readable_quality {q : BitVec 4} (h : q.toNat < 7 ∨ q = 15) : q.toNat % 256 % 16 = q.toNat ∧ (q.toNat < 7 ∨ q.toNat = 15) := by
  refine ⟨by omega, h.imp_right fun hq => ?_⟩
  subst hq
  rfl

/-- A rate of 32 bits comes back from its bytes with its sign. -/
theorem toInt_ofInt_rate {x : Int} (lo : -2 ^ 31 ≤ x) (hi : x < 2 ^ 31) :
    (BitVec.ofNat 32 ((BitVec.ofInt 32 x).toNat % 256 ^ 4)).toInt = x := by
  rw [show (256 : Nat) ^ 4 = 2 ^ 32 from rfl, Nat.mod_eq_of_lt (BitVec.ofInt 32 x).isLt, BitVec.ofNat_toNat, BitVec.setWidth_eq,
    BitVec.toInt_ofInt]
  exact Int.bmod_eq_of_le (by omega) (by omega)

/-- A message within the widths of its fields is read back as it was written. -/
theorem parseTime_timeMessage {r : TimeRx} (ht : r.tNext < 2 ^ 64) (lo : -2 ^ 31 ≤ r.rate) (hi : r.rate < 2 ^ 31)
    (hq : r.quality.toNat < 7 ∨ r.quality = 15) : parseTime (timeMessage r) = some { r with missed := 0, lost := false } := by
  obtain ⟨hmod, hread⟩ := readable_quality hq
  have hcrc : field (timeMessage r) 0 20 = timeFields r := by
    rw [timeMessage, field_append_left (by simp), field_whole (by simp)]
  have htail : fieldBe (timeMessage r) 20 4 = (crc32c (timeFields r)).toNat := by
    simp [fieldBe, timeMessage, field_append_right, Nat.mod_eq_of_lt (crc32c (timeFields r)).isLt]
  have magic : fieldBe (timeMessage r) 0 2 = 0x5254 := by
    simp [fieldBe, timeMessage, timeFields, field_append_left]
  have ver : fieldBe (timeMessage r) 2 1 = 1 := by
    simp [fieldBe, timeMessage, timeFields, field_append_left, field_append_right]
  have qual : fieldBe (timeMessage r) 3 1 = r.quality.toNat % 256 := by
    simp [fieldBe, timeMessage, timeFields, field_append_left, field_append_right]
  have seq : fieldBe (timeMessage r) 4 4 = r.seq.toNat := by
    simp [fieldBe, timeMessage, timeFields, field_append_left, field_append_right, Nat.mod_eq_of_lt r.seq.isLt]
  have tNext : fieldBe (timeMessage r) 8 8 = r.tNext := by
    simpa [fieldBe, timeMessage, timeFields, field_append_left, field_append_right] using ht
  have rate : fieldBe (timeMessage r) 16 4 = (BitVec.ofInt 32 r.rate).toNat % 256 ^ 4 := by
    simp [fieldBe, timeMessage, timeFields, field_append_left, field_append_right]
  simp only [parseTime, magic, ver, qual, seq, tNext, rate, htail, hcrc, hmod, hread, toInt_ofInt_rate lo hi, BitVec.ofNat_toNat,
    BitVec.setWidth_eq, and_self, if_true]

/-- A wrong MAGIC, VER or CRC, or a reserved quality: the message is not one (R7, R8; log 149). -/
theorem parseTime_unreadable {bs : List Byte}
    (h : fieldBe bs 0 2 ≠ 0x5254 ∨ fieldBe bs 2 1 ≠ 1 ∨ fieldBe bs 20 4 ≠ (crc32c (field bs 0 20)).toNat ∨
      (7 ≤ fieldBe bs 3 1 % 16 ∧ fieldBe bs 3 1 % 16 < 15)) : parseTime bs = none := by
  refine if_neg fun ⟨magic, ver, qual, crc⟩ => ?_
  rcases h with h | h | h | h
  · exact h magic
  · exact h ver
  · exact h crc
  · omega

theorem exec_timeOfDayMessage_read {s : State} {t : Nat} {unit : BitVec 16} {head seq : BitVec 32} {tNext tail : BitVec 64}
    {r : TimeRx} (h : parseTime (timeBytes head seq tNext tail) = some r) :
    exec (.timeOfDayMessage t unit head seq tNext tail) s = .next ((s.tick t).setRx unit r) := by
  change execTimeOfDayMessage t unit head seq tNext tail s = _
  simp only [execTimeOfDayMessage, h]

theorem exec_timeOfDayMessage_unread {s : State} {t : Nat} {unit : BitVec 16} {head seq : BitVec 32} {tNext tail : BitVec 64}
    (h : parseTime (timeBytes head seq tNext tail) = none) :
    exec (.timeOfDayMessage t unit head seq tNext tail) s = exec (.timeMessageMissed t unit) s := by
  change execTimeOfDayMessage t unit head seq tNext tail s = execTimeMessageMissed t unit s
  simp only [execTimeOfDayMessage, execTimeMessageMissed, h]

theorem exec_timeMessageMissed (s : State) (t : Nat) (unit : BitVec 16) :
    exec (.timeMessageMissed t unit) s = .next ((s.tick t).missTime unit) := rfl

@[simp] theorem State.rx_setRx (s : State) (unit : BitVec 16) (r : TimeRx) :
    Tab.get (s.setRx unit r).clk.rx rxInit unit = r := Tab.get_set_self ..

/-- The sixteenth miss in a row: the receiver free-runs, and logs it. -/
theorem State.missTime_sixteenth {s : State} {unit : BitVec 16} (h : (Tab.get s.clk.rx rxInit unit).missed = 15) :
    s.missTime unit =
      (s.setRx unit { Tab.get s.clk.rx rxInit unit with missed := 16, quality := 4, lost := true }).log Lg.timeSourceLost unit [2] := by
  simp [State.missTime, h]

/-- Any other miss is counted. -/
theorem State.missTime_counts {s : State} {unit : BitVec 16} (h : (Tab.get s.clk.rx rxInit unit).missed ≠ 15) :
    s.missTime unit =
      s.setRx unit { Tab.get s.clk.rx rxInit unit with missed := (Tab.get s.clk.rx rxInit unit).missed + 1 } :=
  if_neg fun h16 => h (Nat.succ.inj h16)

end Sys2Proof.Machine
end

section
/-! SUPPORT. The statement about rack time: its clauses, each from what the command does to the clock. -/

namespace Sys2Proof.Machine

section

variable {s : State} {t : Nat}

/-- A lock from UNSET, and one far off with no keyway open, steps rack time (R298). -/
theorem timeSourceLocked_steps {pps : Bool} {theta : Int} {n : Nat} (used : (s.tick t).sourceUsed pps = true) (steady : 16 ≤ n)
    (h : ((s.tick t).lockSource pps theta).correct pps theta = ((s.tick t).lockSource pps theta).stepTime theta 0) :
    ∃ u, exec (.timeSourceLocked t pps theta n) s = .next u ∧
      u.clk.rackQ = (((s.tick t).clk.rackQ : Int) + theta * 2 ^ 40).toNat ∧ u.clk.rate = 0 ∧
      u.clk.quality = (if s.clk.ptpLocked || !pps then .lockedPtp else .lockedPps) ∧ u.hbm = s.hbm := by
  refine ⟨_, exec_timeSourceLocked used steady, ?_⟩
  simp [h, State.lockedQuality]

/-- A lock from another quality than UNSET, of a source that disciplines rack time: the three ranges of its offset (R298). -/
theorem timeSourceLocked_corrects {pps : Bool} {theta : Int} {n : Nat} (used : (s.tick t).sourceUsed pps = true) (steady : 16 ≤ n)
    (set : s.clk.quality ≠ .unset) (alone : pps = true → s.clk.ptpLocked = false) :
    (theta.natAbs ≤ 1000 → ∃ u, exec (.timeSourceLocked t pps theta n) s = .next u ∧ u.clk.rackQ = (s.tick t).clk.rackQ ∧
      u.clk.quality = (if pps then .lockedPps else .lockedPtp) ∧ u.clk.theta = none ∧ u.parts = s.parts ∧ u.hbm = s.hbm) ∧
    (1000 < theta.natAbs → theta.natAbs ≤ 10000000 ∨ (s.tick t).anyOpen = true ∨ (s.tick t).rackSet 0x0804#16 = 0 →
      ∃ u, exec (.timeSourceLocked t pps theta n) s = .next u ∧ u.clk.rackQ = (s.tick t).clk.rackQ ∧ u.clk.quality = .slewing ∧
        u.clk.theta = some (theta * 2 ^ 40) ∧ u.clk.rate ≠ 0 ∧ (0 < u.clk.rate ↔ 0 < theta) ∧ u.clk.rate.natAbs ≤ maxSlew ∧
        u.parts = s.parts ∧ u.hbm = s.hbm) ∧
    (10000000 < theta.natAbs → (s.tick t).anyOpen = false → (s.tick t).rackSet 0x0804#16 ≠ 0 →
      ∃ u, exec (.timeSourceLocked t pps theta n) s = .next u ∧
        u.clk.rackQ = (((s.tick t).clk.rackQ : Int) + theta * 2 ^ 40).toNat ∧ u.clk.rate = 0 ∧
        u.clk.quality = (if s.clk.ptpLocked || !pps then .lockedPtp else .lockedPps) ∧ u.hbm = s.hbm) := by
  have alone' : ¬(pps = true ∧ ((s.tick t).lockSource pps theta).clk.ptpLocked = true) := by
    rintro ⟨rfl, hl⟩
    simp [alone] at hl
  refine ⟨fun small => ?_, fun far slow => ?_, fun far closed auto => ?_⟩
  · refine ⟨_, exec_timeSourceLocked used steady, ?_⟩
    simp [State.correct_small (s := (s.tick t).lockSource pps theta) set alone' small]
  · refine ⟨_, exec_timeSourceLocked used steady, ?_⟩
    obtain ⟨moves, dir, bound⟩ := ((s.tick t).lockSource pps theta).slewRate_bounds (theta := theta) (by omega)
    simp [State.correct_slew (s := (s.tick t).lockSource pps theta) set alone' far slow, moves, dir, bound]
  · exact timeSourceLocked_steps used steady (State.correct_step set alone' far closed auto)

/-- A PPS lock beside a locked PTP is noted and changes nothing else of rack time (R294). -/
theorem timeSourceLocked_beside {pps : Bool} {theta : Int} {n : Nat} (used : (s.tick t).sourceUsed pps = true) (steady : 16 ≤ n)
    (set : s.clk.quality ≠ .unset) (hp : pps = true) (hl : s.clk.ptpLocked = true) :
    ∃ u, exec (.timeSourceLocked t pps theta n) s = .next u ∧ u.clk.ppsLocked = true ∧ u.clk.quality = s.clk.quality ∧
      u.clk.rackQ = (s.tick t).clk.rackQ ∧ u.clk.rate = s.clk.rate ∧ u.parts = s.parts ∧ u.hbm = s.hbm := by
  refine ⟨_, exec_timeSourceLocked used steady, ?_⟩
  have hl' : ((s.tick t).lockSource pps theta).clk.ptpLocked = true := by simp [hl]
  rw [State.correct_beside (s := (s.tick t).lockSource pps theta) set hp hl']
  simp [hp]

theorem timeSlewEnd_locks {theta rate : Int} (slewing : s.clk.quality = .slewing) (near : theta.natAbs ≤ 1000)
    (bound : rate.natAbs ≤ maxSlew) :
    ∃ u, exec (.timeSlewEnd t theta rate) s = .next u ∧ u.clk.quality = (s.tick t).lockedQuality ∧ u.clk.rate = rate ∧
      u.clk.rackQ = (s.tick t).clk.rackQ ∧ u.parts = s.parts ∧ u.hbm = s.hbm := by
  refine ⟨_, if_pos ⟨slewing, near, bound⟩, ?_⟩
  simp [State.lockedQuality]

/-- A source lost while the other stays locked (R295). -/
theorem timeSourceLost_other {pps : Bool} {n : Nat} (locked : (if pps then s.clk.ppsLocked else s.clk.ptpLocked) = true)
    (other : (if pps then s.clk.ptpLocked else s.clk.ppsLocked) = true) :
    ∃ u, exec (.timeSourceLost t pps n) s = .next u ∧ u.clk.rate = s.clk.rate ∧
      u.clk.quality = (if pps = false ∧ s.clk.quality = .lockedPtp then .lockedPps else s.clk.quality) ∧
      (if pps then u.clk.ppsLocked else u.clk.ptpLocked) = false ∧ u.hbm = s.hbm := by
  refine ⟨_, exec_timeSourceLost locked, ?_⟩
  rw [State.loseSource_other (s := s.tick t) other]
  by_cases h : pps = false ∧ s.clk.quality = .lockedPtp
  · obtain ⟨rfl, hq⟩ := h
    simp [hq]
  · rw [if_neg h, if_neg (c := pps = false ∧ (s.tick t).clk.quality = .lockedPtp) h]
    cases pps <;> simp

/-- The last source lost: HOLDOVER at once, RATE held (R297). -/
theorem timeSourceLost_last {pps : Bool} {n : Nat} (locked : (if pps then s.clk.ppsLocked else s.clk.ptpLocked) = true)
    (other : (if pps then s.clk.ptpLocked else s.clk.ppsLocked) = false) (started : s.clk.quality ≠ .starting)
    (set : s.clk.quality ≠ .unset) :
    ∃ u, exec (.timeSourceLost t pps n) s = .next u ∧ u.clk.quality = .holdover ∧ u.clk.rate = s.clk.rate ∧
      u.clk.lossAt = some (s.tick t).osc ∧ u.clk.uLock = n ∧ u.clk.ptpLocked = false ∧ u.clk.ppsLocked = false ∧
      u.hbm = s.hbm := by
  refine ⟨_, exec_timeSourceLost locked, ?_⟩
  rw [State.loseSource_last (s := s.tick t) other started set]
  cases pps with
  | false =>
    have other : s.clk.ppsLocked = false := other
    simp [State.osc, other]
  | true =>
    have other : s.clk.ptpLocked = false := other
    simp [State.osc, other]

/-- A pulse rejected: PPS is not locked after it, PTP and the quality stand, and the rejection waits to be logged (R295). -/
theorem ppsPulse_rejected {d : Int} (hl : s.clk.ptpLocked = true) (hd : 1000 < d.natAbs) :
    ∃ u, exec (.ppsPulse t d) s = .next u ∧ u.clk.ppsLocked = false ∧ u.clk.ptpLocked = true ∧
      u.clk.quality = s.clk.quality ∧ (∃ r ∈ u.rmu.logWait, r.code = Lg.ppsRejected) ∧ u.hbm = s.hbm := by
  refine ⟨_, exec_ppsPulse_far hl hd, ?_⟩
  obtain ⟨r, hr, code, -⟩ := log_frame (s.tick t) Lg.ppsRejected unitRmu (leInt 8 d)
  have wait : r ∈ ((s.tick t).log Lg.ppsRejected unitRmu (leInt 8 d)).rmu.logWait := by simp [hr]
  cases hp : s.clk.ppsLocked with
  | false => exact ⟨hp, hl, rfl, ⟨r, wait, code⟩, rfl⟩
  | true =>
    rw [if_pos rfl, State.loseSource_other (by simpa using hl), if_neg (by simp)]
    obtain ⟨x, hx⟩ := ((s.tick t).log Lg.ppsRejected unitRmu (leInt 8 d)).dropSource_logWait true
    exact ⟨by simp, by simpa using hl, rfl, ⟨r, hx ▸ List.mem_append_left _ wait, code⟩, rfl⟩

/-- The three ages of a holdover (R297). -/
theorem timeQualityDecay_follows {l : Nat} (lost : s.clk.lossAt = some l)
    (held : s.clk.quality = .holdover ∨ s.clk.quality = .degraded) :
    (86400000000000 ≤ (s.tick t).osc - l → ∃ u, exec (.timeQualityDecay t) s = .next u ∧ u.clk.quality = .freeRunning ∧
      u.clk.rate = s.clk.rate ∧ u.hbm = s.hbm) ∧
    ((s.tick t).osc - l < 86400000000000 → 10000 < holdoverNs s.clk.uLock ((s.tick t).osc - l) →
      ∃ u, exec (.timeQualityDecay t) s = .next u ∧ u.clk.quality = .degraded ∧ u.clk.rate = s.clk.rate ∧ u.hbm = s.hbm) ∧
    ((s.tick t).osc - l < 86400000000000 → holdoverNs s.clk.uLock ((s.tick t).osc - l) ≤ 10000 →
      exec (.timeQualityDecay t) s = .next (s.tick t)) := by
  rw [exec_timeQualityDecay lost held]
  refine ⟨fun day => ?_, fun young wide => ?_, fun young close => ?_⟩
  · rw [if_pos day]
    exact ⟨_, rfl, by simp⟩
  · rw [if_neg (Nat.not_le.mpr young), if_pos wide]
    exact ⟨_, rfl, by simp⟩
  · rw [if_neg (Nat.not_le.mpr young), if_neg (Nat.not_lt.mpr close)]

theorem timeOfDayMessage_loads {unit : BitVec 16} {r : TimeRx} {head seq : BitVec 32} {tNext tail : BitVec 64}
    (ht : r.tNext < 2 ^ 64) (lo : -2 ^ 31 ≤ r.rate) (hi : r.rate < 2 ^ 31) (hq : r.quality.toNat < 7 ∨ r.quality = 15)
    (sent : timeBytes head seq tNext tail = timeMessage r) :
    ∃ u, exec (.timeOfDayMessage t unit head seq tNext tail) s = .next u ∧
      Tab.get u.clk.rx rxInit unit = { r with missed := 0, lost := false } ∧ u.rmu = s.rmu ∧ u.hbm = s.hbm :=
  ⟨_, exec_timeOfDayMessage_read (sent ▸ parseTime_timeMessage ht lo hi hq), State.rx_setRx .., rfl, rfl⟩

theorem timeMessageMissed_freeRuns {unit : BitVec 16} (h : (Tab.get s.clk.rx rxInit unit).missed = 15) :
    ∃ u, exec (.timeMessageMissed t unit) s = .next u ∧ (Tab.get u.clk.rx rxInit unit).quality = 4 ∧
      (Tab.get u.clk.rx rxInit unit).lost = true ∧
      (Tab.get u.clk.rx rxInit unit).rate = (Tab.get s.clk.rx rxInit unit).rate ∧
      (∃ x, u.rmu.logWait = s.rmu.logWait ++ [x] ∧ x.code = Lg.timeSourceLost) ∧ u.hbm = s.hbm := by
  refine ⟨_, exec_timeMessageMissed s t unit, ?_⟩
  rw [State.missTime_sixteenth (s := s.tick t) h]
  exact ⟨by simp, by simp, by simp, ⟨_, rfl, rfl⟩, rfl⟩

theorem timeMessageMissed_counts {unit : BitVec 16} (h : (Tab.get s.clk.rx rxInit unit).missed ≠ 15) :
    ∃ u, exec (.timeMessageMissed t unit) s = .next u ∧
      (Tab.get u.clk.rx rxInit unit).missed = (Tab.get s.clk.rx rxInit unit).missed + 1 ∧
      (Tab.get u.clk.rx rxInit unit).quality = (Tab.get s.clk.rx rxInit unit).quality ∧
      (Tab.get u.clk.rx rxInit unit).rate = (Tab.get s.clk.rx rxInit unit).rate ∧ u.rmu = s.rmu ∧ u.hbm = s.hbm := by
  refine ⟨_, exec_timeMessageMissed s t unit, ?_⟩
  rw [State.missTime_counts (s := s.tick t) h]
  exact ⟨by simp, by simp, by simp, rfl, rfl⟩

end

/-- Settles O52: each clause is what its command does to the clock, from the lemmas above. -/
theorem rackTimeCompletes : Obligations.RackTimeCompletes := by
  intro s t
  refine ⟨fun pps theta n used steady => ⟨fun unset => ?_, fun set hp hl => ?_, fun set alone => ?_⟩,
    fun theta rate => timeSlewEnd_locks, fun pps n locked => ⟨timeSourceLost_other locked, timeSourceLost_last locked⟩,
    fun d => ppsPulse_rejected, fun d => exec_ppsPulse_near, fun l => timeQualityDecay_follows,
    fun unit r head seq tNext tail => timeOfDayMessage_loads,
    fun unit head seq tNext tail bad => exec_timeOfDayMessage_unread (parseTime_unreadable bad),
    fun unit => ⟨timeMessageMissed_freeRuns, timeMessageMissed_counts⟩⟩
  · exact timeSourceLocked_steps used steady (State.correct_unset unset)
  · exact timeSourceLocked_beside used steady set hp hl
  · exact timeSourceLocked_corrects used steady set alone

end Sys2Proof.Machine
end

section
/-! SUPPORT. The map of the machine (R14, R17) and the machine as delivered (R26, R250, R304, R331). -/

namespace Sys2Proof.Machine

/-! ### Chips by their coordinates (R14) -/

@[simp] theorem chipX_chipAt (x y z : Nat) : chipX (chipAt x y z) = x % 4 := by simp only [chipX, chipAt]; omega
@[simp] theorem chipY_chipAt (x y z : Nat) : chipY (chipAt x y z) = y % 4 := by simp only [chipY, chipAt]; omega
@[simp] theorem chipZ_chipAt (x y z : Nat) : chipZ (chipAt x y z) = z % 4 := by simp only [chipZ, chipAt]; omega

theorem chipX_lt (n : ChipId) : chipX n < 4 := by simp only [chipX]; omega
theorem chipY_lt (n : ChipId) : chipY n < 4 := by simp only [chipY]; omega
theorem chipZ_lt (n : ChipId) : chipZ n < 4 := by simp only [chipZ]; omega

/-- The number of a chip is given by its coordinates. -/
theorem chip_val (n : ChipId) : n.val = chipX n + 4 * chipY n + 16 * chipZ n := by
  simp only [chipX, chipY, chipZ]
  omega

theorem chipAt_coordinates (n : ChipId) : chipAt (chipX n) (chipY n) (chipZ n) = n := by
  apply Fin.ext
  rw [chip_val (chipAt _ _ _), chip_val n, chipX_chipAt, chipY_chipAt, chipZ_chipAt, Nat.mod_eq_of_lt (chipX_lt n),
    Nat.mod_eq_of_lt (chipY_lt n), Nat.mod_eq_of_lt (chipZ_lt n)]

theorem trayOf_val (n : ChipId) : (trayOf n).val = chipY n + 4 * chipZ n := by
  simp only [trayOf, chipY, chipZ]
  omega

theorem mem_trayChips_trayOf (n : ChipId) : n ∈ trayChips (trayOf n) := by
  simp only [trayChips, trayOf, List.mem_cons, Fin.ext_iff, List.not_mem_nil, or_false]
  omega

/-! ### Uplinks (R17) -/

theorem uplinkSwitch_zero_val (n : ChipId) : (uplinkSwitch n 0).val = chipZ n := Nat.mod_eq_of_lt (chipZ_lt n)
theorem uplinkSwitch_one_val (n : ChipId) : (uplinkSwitch n 1).val = (chipZ n + 2) % 4 := rfl
theorem uplinkPort_zero (n : ChipId) : uplinkPort n 0 = 4 * chipY n + chipX n := rfl
theorem uplinkPort_one (n : ChipId) : uplinkPort n 1 = 16 + 4 * chipY n + chipX n := rfl

/-- A switch port is the end of one uplink at most. -/
theorem uplink_unique {n m : ChipId} {u v : Nat} (hu : u < 2) (hv : v < 2) (hs : uplinkSwitch m u = uplinkSwitch n v)
    (hp : uplinkPort m u = uplinkPort n v) : m = n ∧ u = v := by
  have hs := congrArg Fin.val hs
  have := chipX_lt m
  have := chipY_lt m
  have := chipZ_lt m
  have := chipX_lt n
  have := chipY_lt n
  have := chipZ_lt n
  have hm := chip_val m
  have hn := chip_val n
  obtain rfl | rfl : u = 0 ∨ u = 1 := by omega
  all_goals obtain rfl | rfl : v = 0 ∨ v = 1 := by omega
  all_goals
    simp only [uplinkSwitch_zero_val, uplinkSwitch_one_val, uplinkPort_zero, uplinkPort_one] at hs hp
    refine ⟨Fin.ext ?_, ?_⟩ <;> omega

/-- Ports 0 to 15 of a switch are the ends of the first uplinks of its own layer. -/
theorem uplink_first (w : SwId) {p : Nat} (h : p < 16) :
    ∃ n, uplinkSwitch n 0 = w ∧ uplinkPort n 0 = p ∧ chipZ n = w.val := by
  have hz : chipZ (chipAt p (p / 4) w.val) = w.val := by rw [chipZ_chipAt, Nat.mod_eq_of_lt w.isLt]
  refine ⟨_, Fin.ext ((uplinkSwitch_zero_val _).trans hz), ?_, hz⟩
  rw [uplinkPort_zero, chipX_chipAt, chipY_chipAt]
  omega

/-- Ports 16 to 31 are the ends of the second uplinks of the layer two away. -/
theorem uplink_second (w : SwId) {p : Nat} (lo : 16 ≤ p) (hi : p < 32) :
    ∃ n, uplinkSwitch n 1 = w ∧ uplinkPort n 1 = p ∧ chipZ n = (w.val + 2) % 4 := by
  have hz : chipZ (chipAt p (p / 4) (w.val + 2)) = (w.val + 2) % 4 := chipZ_chipAt ..
  refine ⟨_, Fin.ext ?_, ?_, hz⟩
  · rw [uplinkSwitch_one_val, hz]
    omega
  · rw [uplinkPort_one, chipX_chipAt, chipY_chipAt]
    omega

/-- Settles O56: a chip's number and its coordinates give one another, and each switch port is the end of exactly one uplink. -/
theorem machineMap : Obligations.MachineMap := by
  refine ⟨fun x y z hx hy hz => ?_, fun n => ⟨(chipAt_coordinates n).symm, mem_trayChips_trayOf n⟩,
    fun n => ⟨uplinkSwitch_zero_val n, rfl, uplinkSwitch_one_val n, rfl⟩, fun w p => ⟨fun h => ?_, fun lo hi => ?_⟩⟩
  · have hX : chipX (chipAt x y z) = x := (chipX_chipAt x y z).trans (Nat.mod_eq_of_lt hx)
    have hY : chipY (chipAt x y z) = y := (chipY_chipAt x y z).trans (Nat.mod_eq_of_lt hy)
    have hZ : chipZ (chipAt x y z) = z := (chipZ_chipAt x y z).trans (Nat.mod_eq_of_lt hz)
    have hval := chip_val (chipAt x y z)
    have htray := trayOf_val (chipAt x y z)
    rw [hX, hY, hZ] at hval
    rw [hY, hZ] at htray
    exact ⟨hval, htray, by omega, by omega, hX, hY, hZ⟩
  · obtain ⟨n, hs, hp, hz⟩ := uplink_first w h
    exact ⟨n, hs, hp, hz, fun m u hu hm hq => uplink_unique hu (by decide) (hm.trans hs.symm) (hq.trans hp.symm)⟩
  · obtain ⟨n, hs, hp, hz⟩ := uplink_second w lo hi
    exact ⟨n, hs, hp, hz, fun m u hu hm hq => uplink_unique hu (by decide) (hm.trans hs.symm) (hq.trans hp.symm)⟩

/-! ### The machine as delivered -/

namespace State

theorem reset_part (p : PartId) : State.reset.part p = none := rfl

/-- No keyway serves a partition, for there is none. -/
theorem reset_kwPart (k : KwId) : State.reset.kwPart k = none := by
  unfold kwPart
  split <;> rfl

theorem reset_kwRole (k : KwId) : State.reset.kwRole k = 0 := by
  rw [kwRole, reset_kwPart]
  rfl

theorem reset_rackSet (id : BitVec 16) : State.reset.rackSet id = ofBe (setDefault id) := rfl

end State

/-- Settles O57: each value as the reset state holds it. -/
theorem resetState : Obligations.ResetState :=
  ⟨⟨Memory.wf_nil, fun _ => rfl⟩, rfl, rfl, State.reset_part, fun _ => ⟨rfl, rfl⟩, fun _ => ⟨rfl, rfl⟩,
    fun k => ⟨rfl, State.reset_kwPart k, State.reset_kwRole k⟩, rfl, rfl, rfl, State.reset_rackSet, rfl⟩

end Sys2Proof.Machine
end

section
/-! SUPPORT. What the losses of power, the records and the safety loops change: the Keyring when handles and vault content are lost,
links and chips when a tray goes off, the RMU's lists when records are kept, dividers and gates when the power loops act. -/

namespace Sys2Proof.Machine

/-! ### A unit looked up in a state whose table is the same -/

namespace State

variable {s t : State}

theorem channel_of_chan (h : t.chan = s.chan) (c : ChanId) : t.channel c = s.channel c := by rw [channel, h, channel]
theorem tray_of_trays (h : t.trays = s.trays) (y : TrayId) : t.tray y = s.tray y := by rw [tray, h, tray]
theorem swt_of_sw (h : t.sw = s.sw) (i : SwId) : t.swt i = s.swt i := by rw [swt, h, swt]
theorem chip_of_chips (h : t.chips = s.chips) (n : ChipId) : t.chip n = s.chip n := by rw [chip, h, chip]
theorem shelfOf_of_shelf (h : t.shelf = s.shelf) (i : ShelfId) : t.shelfOf i = s.shelfOf i := by rw [shelfOf, h, shelfOf]

theorem capacityW_of_shelf (h : t.shelf = s.shelf) : t.capacityW = s.capacityW := by
  simp only [capacityW, shelfOf_of_shelf h]

end State

/-! ### The Keyring: handles, blocks, second reads -/

/-- Everything but keyways, the Keyring, the hot tiers, operations and requests is as it was. -/
def KeyringOnly (s t : State) : Prop :=
  t = { s with kws := t.kws, kr := t.kr, parts := t.parts, ops := t.ops, reqs := t.reqs }

namespace KeyringOnly

variable {s t u : State}

theorem refl (s : State) : KeyringOnly s s := rfl

theorem trans (h : KeyringOnly s t) (g : KeyringOnly t u) : KeyringOnly s u := by
  unfold KeyringOnly at *
  rw [g, h]

theorem foldl {α : Type} (f : State → α → State) (h : ∀ s a, KeyringOnly s (f s a)) (l : List α) (s : State) :
    KeyringOnly s (l.foldl f s) :=
  foldl_invariant (KeyringOnly s) f (fun b a hb => hb.trans (h b a)) l s (refl s)

theorem modKw (s : State) (k : KwId) (f : Keyway → Keyway) : KeyringOnly s (s.modKw k f) := rfl

theorem evictTo (i : Fin 128) (limit n : Nat) (s : State) : KeyringOnly s (s.evictTo i limit n) := by
  induction n generalizing s with
  | zero => exact refl s
  | succ n ih =>
    unfold State.evictTo
    split
    · exact refl s
    · split
      · exact refl s
      · exact trans (t := s.dropWarm i _) rfl (ih _)

theorem fitQuota (s : State) (i : Fin 128) : KeyringOnly s (s.fitQuota i) := (evictTo i _ _ s).trans rfl

theorem krSweep (s : State) : KeyringOnly s s.krSweep := by
  unfold State.krSweep
  dsimp only
  refine trans (t := { s with kr := { s.kr with dir := _ }, parts := _ }) rfl (foldl _ fitQuota _ _)

theorem endHandle (s : State) (k : KwId) (n : Nat) : KeyringOnly s (s.endHandle k n) := by
  unfold State.endHandle
  dsimp only
  split
  · exact modKw ..
  · exact (modKw s k _).trans (krSweep _)

theorem endHandles (s : State) (k : KwId) (n : SessRef) : KeyringOnly s (s.endHandles k n) :=
  foldl _ (fun s _ => endHandle s _ _) _ _

/-- A keyway that loses its endpoint loses what hangs on it, and nothing else changes (R76). -/
theorem loseEndpoint (s : State) (k : KwId) (level : Nat) : KeyringOnly s (s.loseEndpoint k level) :=
  (foldl _ (fun s _ => endHandles s _ _) _ _).trans (modKw ..)

theorem noteFetch (s : State) (o : Op) (new : List (Nat × Fin 64) × List Nat) : KeyringOnly s (s.noteFetch o new) := by
  unfold State.noteFetch
  split
  · rfl
  · exact refl s

theorem noteRequest (s : State) (r : Request) (new : List (Nat × Fin 64) × List Nat) : KeyringOnly s (s.noteRequest r new) := rfl

theorem noteLoss (s : State) (gone : WarmBlock → Fin 64 → SwId → Bool) : KeyringOnly s (s.noteLoss gone) := by
  refine trans (foldl _ (fun s o => ?_) _ _) (foldl _ (fun s r => noteRequest ..) _ _)
  split
  · split
    · exact noteFetch ..
    · exact refl s
  · exact refl s

theorem loseVault (s : State) (x : SwId) : KeyringOnly s (s.loseVault x) := (noteLoss s _).trans rfl

end KeyringOnly

/-! ### Chips, links and host ports of a unit that loses power -/

/-- Everything but chips, links and host ports is as it was. -/
def PortsOnly (s t : State) : Prop := t = { s with chips := t.chips, links := t.links, ports := t.ports }

namespace PortsOnly

variable {s t u : State}

theorem refl (s : State) : PortsOnly s s := rfl

theorem trans (h : PortsOnly s t) (g : PortsOnly t u) : PortsOnly s u := by
  unfold PortsOnly at *
  rw [g, h]

theorem foldl {α : Type} (f : State → α → State) (h : ∀ s a, PortsOnly s (f s a)) (l : List α) (s : State) :
    PortsOnly s (l.foldl f s) :=
  foldl_invariant (PortsOnly s) f (fun b a hb => hb.trans (h b a)) l s (refl s)

theorem setLink (s : State) (l : LinkId) (up : Bool) : PortsOnly s (s.setLink l up) := by
  unfold State.setLink State.modBoth
  split <;> rfl

theorem setPorts (s : State) (n : ChipId) (up : Bool) : PortsOnly s (s.setPorts n up) :=
  foldl _ (fun s _ => setLink s _ _) _ _

end PortsOnly

/-! ### Records: the action log and its copies -/

/-- Everything but the RMU's lists, keyways, the operator channel, the packets out and the count of free values is as it was. -/
structure RecordsOnly (s t : State) : Prop where
  frame : t = { s with rmu := t.rmu, kws := t.kws, opr := t.opr, out := t.out, fresh := t.fresh }
  rmuUp : t.rmu.up = s.rmu.up

namespace RecordsOnly

variable {s t u : State}

theorem refl (s : State) : RecordsOnly s s := ⟨rfl, rfl⟩

theorem trans (h : RecordsOnly s t) (g : RecordsOnly t u) : RecordsOnly s u :=
  ⟨by rw [g.frame, h.frame], g.rmuUp.trans h.rmuUp⟩

theorem foldl {α : Type} (f : State → α → State) (h : ∀ s a, RecordsOnly s (f s a)) (l : List α) (s : State) :
    RecordsOnly s (l.foldl f s) :=
  foldl_invariant (RecordsOnly s) f (fun b a hb => hb.trans (h b a)) l s (refl s)

theorem of_eventsOnly (h : EventsOnly s t) : RecordsOnly s t := ⟨by rw [h], by rw [h]⟩

theorem modRmu (s : State) {f : Rmu → Rmu} (h : (f s.rmu).up = s.rmu.up) : RecordsOnly s (s.modRmu f) := ⟨rfl, h⟩

theorem log (s : State) (c : Nat) (u : BitVec 16) (bs : List Byte) : RecordsOnly s (s.log c u bs) := ⟨rfl, rfl⟩

theorem logShelf (s : State) (c : Nat) (u : BitVec 16) (bs : List Byte) : RecordsOnly s (s.logShelf c u bs) := ⟨rfl, rfl⟩

theorem override (s : State) (p : PartId) (c a b : Nat) : RecordsOnly s (s.override p c a b) :=
  (log s _ _ _).trans (of_eventsOnly (override_frame s p c a b))

theorem copyBoxes (s : State) (ns : List ChipId) : RecordsOnly s (s.copyBoxes ns) := by
  unfold State.copyBoxes
  exact modRmu s rfl

end RecordsOnly

/-- The log with a record under the next LSEQ (R288). -/
def State.storeRec (s : State) (r : LogRec) : State :=
  s.modRmu fun m => { m with lseq := m.lseq + 1
                             log := (m.log ++ [{ r with lseq := s.rmu.lseq }]).drop (m.log.length + 1 - logRing) }

theorem State.storeRec_logWait (s : State) (r : LogRec) : (s.storeRec r).rmu.logWait = s.rmu.logWait := by
  rw [storeRec, modRmu_rmu]

theorem RecordsOnly.storeRec (s : State) (r : LogRec) : RecordsOnly s (s.storeRec r) := by
  unfold State.storeRec
  exact RecordsOnly.modRmu s rfl

/-- A record stored goes out to the operator: syslog, console and event (R74, R291, R292). -/
theorem State.commitRec_frame (s : State) (r : LogRec) : EventsOnly (s.storeRec r) (s.commitRec r) := by
  have syslog (s : State) (r : LogRec) : EventsOnly s (s.syslog r) := by
    unfold State.syslog
    split
    · exact EventsOnly.emit ..
    · exact EventsOnly.refl s
  have consoleLine (s : State) (r : LogRec) : EventsOnly s (s.consoleLine r) := by
    unfold State.consoleLine
    split
    · exact EventsOnly.emit ..
    · exact EventsOnly.refl s
  exact ((syslog _ _).trans (consoleLine _ _)).trans (EventsOnly.raiseAlso ..)

theorem RecordsOnly.commitRec (s : State) (r : LogRec) : RecordsOnly s (s.commitRec r) :=
  (RecordsOnly.storeRec s r).trans (RecordsOnly.of_eventsOnly (s.commitRec_frame r))

@[simp] theorem State.commitRec_logWait (s : State) (r : LogRec) : (s.commitRec r).rmu.logWait = s.rmu.logWait := by
  rw [(s.commitRec_frame r).rmu, s.storeRec_logWait]

theorem RecordsOnly.commitAll (s : State) : RecordsOnly s s.commitAll :=
  (RecordsOnly.modRmu s rfl).trans (RecordsOnly.foldl _ (fun s _ => RecordsOnly.commitRec s _) _ _)

/-- No record waits any longer. -/
theorem State.commitAll_logWait (s : State) : s.commitAll.rmu.logWait = [] :=
  foldl_keeps _ (fun s : State => s.rmu.logWait) (fun s _ => s.commitRec_logWait _) _ _

/-! ### The power loops -/

/-- What the power loops change: dividers and gates of chips and quadrants, the budget, and records; chips stay in power, the RMU up
and a ride-through as it runs. -/
structure LoopsOnly (s t : State) : Prop where
  frame : t = { s with rmu := t.rmu, kws := t.kws, opr := t.opr, out := t.out, fresh := t.fresh, chips := t.chips, quads := t.quads,
                       pw := t.pw }
  rmuUp : t.rmu.up = s.rmu.up
  power : ∀ n, (t.chip n).power = (s.chip n).power
  rideStart : t.pw.rideStart = s.pw.rideStart

namespace LoopsOnly

variable {s t u : State}

theorem refl (s : State) : LoopsOnly s s := ⟨rfl, rfl, fun _ => rfl, rfl⟩

theorem trans (h : LoopsOnly s t) (g : LoopsOnly t u) : LoopsOnly s u :=
  ⟨by rw [g.frame, h.frame], g.rmuUp.trans h.rmuUp, fun n => (g.power n).trans (h.power n), g.rideStart.trans h.rideStart⟩

theorem foldl {α : Type} (f : State → α → State) (h : ∀ s a, LoopsOnly s (f s a)) (l : List α) (s : State) :
    LoopsOnly s (l.foldl f s) :=
  foldl_invariant (LoopsOnly s) f (fun b a hb => hb.trans (h b a)) l s (refl s)

theorem of_recordsOnly (h : RecordsOnly s t) : LoopsOnly s t :=
  ⟨by rw [h.frame], h.rmuUp, fun n => congrArg Chip.power (State.chip_of_chips (by rw [h.frame]) n), by rw [h.frame]⟩

theorem useFresh (s : State) (k : Nat) : LoopsOnly s (s.useFresh k) := ⟨rfl, rfl, fun _ => rfl, rfl⟩

theorem modQuad (s : State) (q : QuadId) (f : Quad → Quad) : LoopsOnly s (s.modQuad q f) := ⟨rfl, rfl, fun _ => rfl, rfl⟩

theorem modChip (s : State) (n : ChipId) {f : Chip → Chip} (h : (f (s.chip n)).power = (s.chip n).power) :
    LoopsOnly s (s.modChip n f) := by
  refine ⟨rfl, rfl, fun m => ?_, rfl⟩
  rw [State.chip_modChip]
  split
  · next e => rw [h, e]
  · rfl

theorem askDivider (s : State) (n : ChipId) (d : Nat) : LoopsOnly s (s.askDivider n d) := by
  have power : ∀ (c : Chip) (d now : Nat), (c.requestDivider d now).power = c.power := fun c d now => by
    unfold Chip.requestDivider
    split
    · rfl
    · split <;> rfl
  unfold State.askDivider
  dsimp only
  split
  · exact modChip s n (power ..)
  · exact (modChip s n (power ..)).trans (modChip _ n rfl)

theorem holdPart (s : State) (p : PartId) (v : Part) : LoopsOnly s (s.holdPart p v) := by
  have gate (s : State) : LoopsOnly s (v.shape.quads.foldl (fun s q => s.modQuad q fun x => { x with powerGate := true }) s) :=
    foldl _ (fun s _ => modQuad s _ _) _ s
  have divide (d : ChipId → Nat) : LoopsOnly s (v.chips.foldl (fun s n => s.askDivider n (d n)) (s.useFresh 1)) :=
    (useFresh s 1).trans (foldl _ (fun s _ => askDivider s _ _) _ _)
  unfold State.holdPart
  dsimp only
  split
  · split
    · exact (divide _).trans (gate _)
    · exact divide _
  · exact gate s

theorem releasePart (s : State) (v : Part) : LoopsOnly s (s.releasePart v) := by
  unfold State.releasePart
  refine trans ?_ (foldl _ (fun s _ => modQuad s _ _) _ _)
  split
  · exact foldl _ (fun s _ => askDivider s _ _) _ _
  · exact refl s

theorem regulate (s : State) : LoopsOnly s s.regulate := by
  refine foldl _ (fun s p => ?_) _ _
  split
  · split
    · exact holdPart ..
    · exact releasePart ..
  · exact refl s

theorem overrideShares (s : State) (cause : Nat) (qs : List QuadId) (shares : List (PartId × Nat)) :
    LoopsOnly s (s.overrideShares cause qs shares) := by
  refine foldl _ (fun t e => ?_) _ _
  dsimp only
  split
  · exact of_recordsOnly (RecordsOnly.override ..)
  · exact refl t

theorem enforceBudget (s : State) (cause : Nat) : LoopsOnly s (s.enforceBudget cause) :=
  (overrideShares s cause _ _).trans (regulate _)

/-- The budget taken afresh acts through the power loops alone (R256, R262). -/
theorem rebudget (s : State) : LoopsOnly s s.rebudget := by
  have budget (w n : Nat) : LoopsOnly s { s with pw := { s.pw with budgetW := w, budgetTerm := n } } :=
    ⟨rfl, rfl, fun _ => rfl, rfl⟩
  unfold State.rebudget
  dsimp only
  split
  · exact refl s
  · exact ((budget _ _).trans (of_recordsOnly (RecordsOnly.log ..))).trans (enforceBudget ..)

end LoopsOnly

end Sys2Proof.Machine
end

section
/-! SUPPORT. Channels (R250, R251, R253): a soft start begins, a channel trips, the unit on it loses power. -/

namespace Sys2Proof.Machine

namespace State

variable (s : State)

/-- A soft start begins now, on its channel alone. -/
theorem channel_softStart (c d : ChanId) :
    (s.softStart c).channel d = if d = c then { s.channel c with st := .inrush, since := s.osc } else s.channel d :=
  s.channel_modChan c d fun x => { x with st := .inrush, since := s.osc }

/-- A trip is recorded with the channel as its unit (R251). -/
theorem trip_logged (c : ChanId) (cause : Nat) (peak : Int) :
    ∃ r ∈ (s.trip c cause peak).rmu.logWait, r.code = Lg.channelTripped ∧ r.unit = unitChan c ∧ r.rtime = s.rackNs :=
  ⟨_, List.mem_append_right _ (List.mem_singleton_self _), rfl, rfl, rfl⟩

/-! ### The unit on a channel loses power -/

/-- Copies of black boxes are added, and nothing else changes (R328). -/
theorem copyBoxes_frame (ns : List ChipId) : ∃ cs, s.copyBoxes ns = { s with rmu := { s.rmu with bbCopies := cs } } := ⟨_, rfl⟩

theorem copyBoxes_logWait (ns : List ChipId) : (s.copyBoxes ns).rmu.logWait = s.rmu.logWait := by
  obtain ⟨cs, h⟩ := s.copyBoxes_frame ns
  rw [h]

/-- A tray that goes off is unpowered once its black boxes are copied; its chips go off with it. -/
theorem trayOff_frame (y : TrayId) :
    ∃ t, RecordsOnly s t ∧ t.rmu.logWait = s.rmu.logWait ∧
      PortsOnly { t.modTray y fun x => { x with powered := false } with place := { s.place with due := true } } (s.trayOff y) := by
  refine ⟨_, RecordsOnly.copyBoxes s (trayChips y), s.copyBoxes_logWait _, ?_⟩
  unfold trayOff
  generalize s.copyBoxes (trayChips y) = t
  exact PortsOnly.foldl _ (fun t n => PortsOnly.trans (t := t.modChip n _) rfl (PortsOnly.setPorts ..)) _ _

/-- A switch tray that goes off is down; its ports, uplinks and vault content go with it. -/
theorem switchDown_frame (i : SwId) :
    ∃ t, KeyringOnly (s.modSw i fun x => { x with up := false }) t ∧ PortsOnly t.askPlacement (s.switchDown i) := by
  refine ⟨_, KeyringOnly.loseVault _ i, ?_⟩
  refine PortsOnly.trans (PortsOnly.foldl _ (fun t h => (rfl : PortsOnly t (t.modPort h _))) _ _) (PortsOnly.foldl _ (fun t n => ?_) _ _)
  refine PortsOnly.foldl _ (fun t u => ?_) _ _
  split
  · rfl
  · exact PortsOnly.refl t

/-- What the loss of power on a channel leaves as it was: channels, memory, and the records that wait. -/
structure KeepsRecords (s t : State) : Prop where
  chan : t.chan = s.chan
  hbm : t.hbm = s.hbm
  logWait : t.rmu.logWait = s.rmu.logWait

variable {s} {c : ChanId}

/-! The unit on a channel: a compute tray, a switch tray or the RMU. -/

theorem unitLost_tray {y : TrayId} (h : channelTray c = some y) : s.unitLost c = s.trayLost y 13 := by
  simp only [unitLost, h]

theorem unitLost_switch {i : SwId} (h : channelTray c = none) (hi : channelSwitch c = some i) :
    s.unitLost c = s.switchDown i := by
  simp only [unitLost, h, hi]

theorem unitLost_rmu :
    s.unitLost rmuChannel = { s.modRmu fun m => { m with up := false } with leakContact := false } := rfl

/-- A channel that feeds a switch tray feeds no compute tray. -/
theorem channelTray_of_switch {i : SwId} (h : channelSwitch c = some i) : channelTray c = none := by
  unfold channelSwitch at h
  split at h
  · next hc => simp [channelTray, hc]
  · cases h

theorem trayLost_keeps (y : TrayId) : KeepsRecords s (s.trayLost y 13) := by
  obtain ⟨t, hr, hw, hp⟩ := s.trayOff_frame y
  refine ⟨?_, ?_, ?_⟩
  · rw [trayLost, fire_eq, hp, hr.frame]
    rfl
  · rw [trayLost, fire_eq, hp, hr.frame]
    rfl
  · rw [trayLost, fire_eq, hp]
    exact hw

theorem switchDown_keeps (i : SwId) : KeepsRecords s (s.switchDown i) := by
  obtain ⟨t, hk, hp⟩ := s.switchDown_frame i
  exact ⟨by rw [hp, hk]; rfl, by rw [hp, hk]; rfl, by rw [hp, hk]; rfl⟩

theorem unitLost_keeps (s : State) (c : ChanId) : KeepsRecords s (s.unitLost c) := by
  unfold unitLost
  split
  · exact trayLost_keeps _
  · split
    · exact switchDown_keeps _
    · split <;> exact ⟨rfl, rfl, rfl⟩

/-- A compute tray that loses power is unpowered, and detector 13 requests its level 5 (R317). -/
theorem trayLost_requests (y : TrayId) :
    ((s.trayLost y 13).tray y).powered = false ∧
      ∃ r, (s.trayLost y 13).resetReqs = s.resetReqs ++ [r] ∧ r.level = 5 ∧ r.scope = .tray y ∧ r.detector = 13 := by
  obtain ⟨t, hr, -, hp⟩ := s.trayOff_frame y
  have trays : (s.trayLost y 13).trays = (t.modTray y fun x => { x with powered := false }).trays := by
    rw [trayLost, fire_eq, hp]
  have reqs : (s.trayOff y).resetReqs = s.resetReqs := by
    rw [hp, hr.frame]
    rfl
  refine ⟨?_, _, congrArg (· ++ _) reqs, rfl, rfl, rfl⟩
  rw [tray_of_trays trays, tray_modTray_self]

/-- A switch tray that loses power leaves service, with no reset (R325). -/
theorem switchDown_leaves (i : SwId) :
    ((s.switchDown i).swt i).up = false ∧ (s.switchDown i).resetReqs = s.resetReqs := by
  obtain ⟨t, hk, hp⟩ := s.switchDown_frame i
  refine ⟨?_, by rw [hp, hk]; rfl⟩
  rw [swt_of_sw (show _ = (s.modSw i fun x => { x with up := false }).sw by rw [hp, hk]; rfl), swt_modSw, if_pos rfl]

end State

/-! ### The rows of a channel -/

section

variable {s : State} {t : Nat} {c : ChanId}

theorem exec_channelPowerOn_starts (off : (s.channel c).st = .off) (fed : spareChannel c = false)
    (free : (s.tick t).heldOut (unitShelf c.shelf) = false ∨ c = rmuChannel) :
    exec (.channelPowerOn t c) s = .next ((s.tick t).softStart c) := by
  have hoff : ((s.tick t).channel c).st = .off := off
  refine if_pos ?_
  rcases free with h | h
  · simp [hoff, fed, h]
  · simp [hoff, fed, decide_eq_true h]

theorem exec_channelPowerOn_held
    (h : spareChannel c = true ∨ ((s.tick t).heldOut (unitShelf c.shelf) = true ∧ c ≠ rmuChannel)) :
    exec (.channelPowerOn t c) s = .next (s.tick t) :=
  if_neg (by
    rcases h with spare | ⟨held, other⟩
    · simp [spare]
    · simp [held, other])

theorem exec_channelTripped {low : Bool} {peak : Int} (fed : (s.channel c).st = .on ∨ (s.channel c).st = .inrush)
    (high : low = false → 3 * nominalMa c < peak)
    (weak : low = true → (s.channel c).st = .on ∨ (s.channel c).since + 20000000 ≤ (s.tick t).osc) :
    exec (.channelTripped t c low peak) s =
      .next (((s.tick t).trip c (if low then 1 else 0) peak).unitLost c) := by
  refine if_pos ⟨fed, ?_⟩
  cases low with
  | false => exact decide_eq_true (high rfl)
  | true => exact decide_eq_true (weak rfl)

theorem exec_channelLeakCut {y : TrayId} (tray : channelTray c = some y) (leaks : (s.tick t).leakCut y = true)
    (unlatched : (s.channel c).st ≠ .latched) (sound : (s.channel c).st ≠ .fault) :
    exec (.channelLeakCut t c) s =
      .next (((s.tick t).useFresh 1).trip c 2 ((Config.freeReading (s.tick t).fresh % 2 ^ 31 : Nat) : Int)) := by
  have h1 : ((s.tick t).channel c).st ≠ .latched := unlatched
  have h2 : ((s.tick t).channel c).st ≠ .fault := sound
  change execChannelLeakCut t c s = _
  simp [execChannelLeakCut, tray, leaks, h1, h2]

/-- A channel that trips latches with its cause, alone, and its record waits; the unit on it loses power. -/
theorem channelTripped_opens {low : Bool} {peak : Int} (fed : (s.channel c).st = .on ∨ (s.channel c).st = .inrush)
    (high : low = false → 3 * nominalMa c < peak)
    (weak : low = true → (s.channel c).st = .on ∨ (s.channel c).since + 20000000 ≤ (s.tick t).osc) :
    ∃ u, exec (.channelTripped t c low peak) s = .next u ∧ (u.channel c).st = .latched ∧
      (u.channel c).cause = some (if low then 1 else 0) ∧ (∀ d, d ≠ c → u.channel d = s.channel d) ∧
      (∃ r ∈ u.rmu.logWait, r.code = Lg.channelTripped ∧ r.unit = unitChan c ∧ r.rtime = (s.tick t).rackNs) ∧
      (∀ tr, channelTray c = some tr → (u.tray tr).powered = false ∧
        ∃ r, u.resetReqs = s.resetReqs ++ [r] ∧ r.level = 5 ∧ r.scope = .tray tr ∧ r.detector = 13) ∧
      (∀ i, channelSwitch c = some i → (u.swt i).up = false ∧ u.resetReqs = s.resetReqs) ∧
      (c = rmuChannel → u.rmu.up = false) ∧ u.hbm = s.hbm := by
  have keeps := ((s.tick t).trip c (if low then 1 else 0) peak).unitLost_keeps c
  have chan (d : ChanId) := (State.channel_of_chan keeps.chan d).trans (trip_channel (s.tick t) c d _ peak)
  refine ⟨_, exec_channelTripped fed high weak, by rw [chan, if_pos rfl], by rw [chan, if_pos rfl],
    fun d hd => by rw [chan, if_neg hd]; rfl, ?_, fun y hy => ?_, fun i hi => ?_, fun hc => ?_, keeps.hbm⟩
  · rw [keeps.logWait]
    exact (s.tick t).trip_logged ..
  · rw [State.unitLost_tray hy]
    exact State.trayLost_requests y
  · rw [State.unitLost_switch (State.channelTray_of_switch hi) hi]
    exact State.switchDown_leaves i
  · rw [hc, State.unitLost_rmu]
    rfl

end

/-- Settles O43: each row's meaning on its channel, and what the unit on it loses. -/
theorem channelsOpen : Obligations.ChannelsOpen := by
  intro s t c
  refine ⟨fun off fed free => ⟨_, exec_channelPowerOn_starts off fed free, ?_⟩, exec_channelPowerOn_held,
    fun low peak => channelTripped_opens, fun y tray leaks unlatched sound =>
      ⟨_, exec_channelLeakCut tray leaks unlatched sound, ?_⟩⟩
  · refine ⟨?_, ?_, fun d hd => ?_, rfl, rfl⟩
    · rw [State.channel_softStart, if_pos rfl]
    · rw [State.channel_softStart, if_pos rfl]
    · rw [State.channel_softStart, if_neg hd]
      rfl
  · refine ⟨?_, ?_, fun d hd => ?_, rfl, rfl⟩
    · rw [trip_channel, if_pos rfl]
    · rw [trip_channel, if_pos rfl]
    · rw [trip_channel, if_neg hd]
      rfl

end Sys2Proof.Machine
end

section
/-! SUPPORT. Conversions, the ride-through and the dump (R256 to R259): what a shelf's conversion adds to the capacity, how a
ride-through begins and ends, and what the rack is once it is down. -/

namespace Sys2Proof.Machine

/-! ### Capacity (R256) -/

/-- Does a shelf convert? -/
def Shelf.converts (x : Shelf) : Bool := x.ac && x.conv

namespace State

theorem capacityW_eq_card (s : State) : s.capacityW = 28000 * (Finset.univ.filter fun i => (s.shelfOf i).converts = true).card := by
  have h : (Finset.univ.filter fun i => (s.shelfOf i).converts = true).card =
      ((List.finRange 4).filter fun i => decide ((s.shelfOf i).converts = true)).length := rfl
  rw [h]
  simp only [Bool.decide_eq_true]
  rfl

/-- A shelf that converts in one of two states, alone, is worth 28 kW. -/
theorem capacityW_of_one {s t : State} {sh : ShelfId} (on : (s.shelfOf sh).converts = true) (off : (t.shelfOf sh).converts = false)
    (rest : ∀ d, d ≠ sh → t.shelfOf d = s.shelfOf d) : t.capacityW + 28000 = s.capacityW := by
  have h : (Finset.univ.filter fun i => (s.shelfOf i).converts = true) =
      insert sh (Finset.univ.filter fun i => (t.shelfOf i).converts = true) := by
    ext i
    by_cases hi : i = sh
    · simp [hi, on]
    · simp [hi, rest i hi]
  rw [capacityW_eq_card, capacityW_eq_card, h, Finset.card_insert_of_notMem (by simp [off])]
  omega

end State

/-! ### What the supply's rows leave as it was -/

/-- Shelves, channels, partitions, memory and the clock are as they were. -/
structure SupplyKeeps (s t : State) : Prop where
  shelf : t.shelf = s.shelf
  chan : t.chan = s.chan
  parts : t.parts = s.parts
  hbm : t.hbm = s.hbm
  clk : t.clk = s.clk

namespace SupplyKeeps

variable {s t u : State}

theorem refl (s : State) : SupplyKeeps s s := ⟨rfl, rfl, rfl, rfl, rfl⟩

theorem trans (h : SupplyKeeps s t) (g : SupplyKeeps t u) : SupplyKeeps s u :=
  ⟨g.shelf.trans h.shelf, g.chan.trans h.chan, g.parts.trans h.parts, g.hbm.trans h.hbm, g.clk.trans h.clk⟩

theorem of_recordsOnly (h : RecordsOnly s t) : SupplyKeeps s t := by
  constructor <;> rw [h.frame]

theorem of_loopsOnly (h : LoopsOnly s t) : SupplyKeeps s t := by
  constructor <;> rw [h.frame]

theorem abandonCalibrations (s : State) : SupplyKeeps s s.abandonCalibrations := by
  refine foldl_invariant (SupplyKeeps s) _ (fun t i h => h.trans ?_) _ s (refl s)
  exact trans (t := t.modBatt i fun b => { b with calibrating := false }) ⟨rfl, rfl, rfl, rfl, rfl⟩
    (of_recordsOnly (RecordsOnly.logShelf ..))

end SupplyKeeps

namespace State

/-- A ride-through begun, before the early dump copies anything (R258, R261). -/
def rideFrom (s : State) : State :=
  let s := s.abandonCalibrations
  let s := s.log Lg.rideThrough unitRack (le 1 0 ++ le 4 s.storedWh)
  { s with pw := { s.pw with rideStart := some s.osc } }

theorem rideFrom_keeps (s : State) : SupplyKeeps s s.rideFrom :=
  (SupplyKeeps.abandonCalibrations s).trans ⟨rfl, rfl, rfl, rfl, rfl⟩

theorem rideFrom_rideStart (s : State) : s.rideFrom.pw.rideStart = some s.osc :=
  congrArg (fun c : Clock => some c.osc) (SupplyKeeps.abandonCalibrations s).clk

/-- The early dump copies black boxes and records, and nothing else changes (R260). -/
def dumpEarly (s : State) : State :=
  let t := (s.log Lg.dumpStarted unitRack (le 1 2)).copyBoxes allChips
  { t.commitAll with pw := { t.pw with earlyDumped := true } }

theorem beginRide_eq (s : State) :
    s.beginRide = if s.rideFrom.pw.earlyArmed && !s.rideFrom.pw.earlyDumped then s.rideFrom.dumpEarly else s.rideFrom := rfl

theorem copied_recordsOnly (s : State) :
    RecordsOnly s ((s.log Lg.dumpStarted unitRack (le 1 2)).copyBoxes allChips) :=
  (RecordsOnly.log ..).trans (RecordsOnly.copyBoxes ..)

theorem dumpEarly_keeps (s : State) : SupplyKeeps s s.dumpEarly := by
  have h := SupplyKeeps.of_recordsOnly ((copied_recordsOnly s).trans (RecordsOnly.commitAll _))
  exact ⟨h.shelf, h.chan, h.parts, h.hbm, h.clk⟩

theorem dumpEarly_rideStart (s : State) : s.dumpEarly.pw.rideStart = s.pw.rideStart := by
  change ((s.log Lg.dumpStarted unitRack (le 1 2)).copyBoxes allChips).pw.rideStart = _
  rw [s.copied_recordsOnly.frame]

theorem beginRide_keeps (s : State) : SupplyKeeps s s.beginRide := by
  rw [beginRide_eq]
  split
  · exact s.rideFrom_keeps.trans (dumpEarly_keeps _)
  · exact s.rideFrom_keeps

theorem beginRide_rideStart (s : State) : s.beginRide.pw.rideStart = some s.osc := by
  rw [beginRide_eq]
  split
  · rw [dumpEarly_rideStart, rideFrom_rideStart]
  · exact s.rideFrom_rideStart

/-- The budget is taken afresh while the rack is ready; only the power loops act. -/
theorem rebudget_ready (s : State) : LoopsOnly s (if s.ready then s.rebudget else s) := by
  split
  · exact LoopsOnly.rebudget s
  · exact LoopsOnly.refl s

end State

/-! ### A conversion is lost (R256) -/

/-- A shelf that loses AC, or whose converter fails. -/
def Shelf.lose (bad : Bool) (x : Shelf) : Shelf := if bad then { x with conv := false } else { x with ac := false }

theorem Shelf.converts_lose (bad : Bool) (x : Shelf) : (x.lose bad).converts = false := by
  cases bad <;> simp [lose, converts]

/-- The loss of a conversion, recorded. -/
def State.loseConversion (s : State) (sh : ShelfId) (bad : Bool) : State :=
  (s.modShelf sh (Shelf.lose bad)).logShelf Lg.conversionLost (unitShelf sh)
    (le 2 (unitShelf sh).toNat ++ le 1 (if bad then 1 else 0))

theorem State.shelfOf_loseConversion (s : State) (sh d : ShelfId) (bad : Bool) :
    (s.loseConversion sh bad).shelfOf d = if d = sh then (s.shelfOf sh).lose bad else s.shelfOf d :=
  s.shelfOf_modShelf sh d _

/-- With no capacity left in a running rack, a ride-through begins, unless one runs (R258). -/
def State.rideIfDark (s : State) : State := if s.capacityW = 0 ∧ s.ready = true ∧ s.pw.rideStart = none then s.beginRide else s

theorem State.rideIfDark_keeps (s : State) : SupplyKeeps s s.rideIfDark := by
  unfold rideIfDark
  split
  · exact s.beginRide_keeps
  · exact SupplyKeeps.refl s

section

variable {s : State} {t : Nat} {sh : ShelfId}

theorem exec_conversionLost {bad : Bool} (ac : (s.shelfOf sh).ac = true) (conv : (s.shelfOf sh).conv = true) :
    exec (.conversionLost t sh bad) s =
      .next (if ((s.tick t).loseConversion sh bad).rideIfDark.ready then ((s.tick t).loseConversion sh bad).rideIfDark.rebudget
        else ((s.tick t).loseConversion sh bad).rideIfDark) := by
  have had : (((s.tick t).shelfOf sh).ac && ((s.tick t).shelfOf sh).conv) = true := by
    rw [show (s.tick t).shelfOf sh = s.shelfOf sh from rfl, ac, conv]
    rfl
  exact if_pos had

/-- A conversion lost takes 28 kW; where none is left the ride-through begins (R256, R258). -/
theorem conversionLost_takes {bad : Bool} (ac : (s.shelfOf sh).ac = true) (conv : (s.shelfOf sh).conv = true) :
    ∃ u, exec (.conversionLost t sh bad) s = .next u ∧ ((u.shelfOf sh).ac && (u.shelfOf sh).conv) = false ∧
      (∀ d, d ≠ sh → u.shelfOf d = s.shelfOf d) ∧ u.capacityW + 28000 = s.capacityW ∧
      (u.capacityW = 0 → s.ready = true → s.pw.rideStart = none → u.pw.rideStart = some (s.tick t).osc) ∧
      (u.capacityW ≠ 0 → u.pw.rideStart = s.pw.rideStart) ∧ u.chan = s.chan ∧ u.parts = s.parts ∧ u.hbm = s.hbm := by
  let l := (s.tick t).loseConversion sh bad
  have loops : LoopsOnly l.rideIfDark _ := State.rebudget_ready _
  have keeps := l.rideIfDark_keeps.trans (SupplyKeeps.of_loopsOnly loops)
  have shelf (d : ShelfId) := (State.shelfOf_of_shelf keeps.shelf d).trans ((s.tick t).shelfOf_loseConversion sh d bad)
  have cap := State.capacityW_of_shelf keeps.shelf
  refine ⟨_, exec_conversionLost ac conv, ?off, fun d hd => ?rest, ?cap, fun dark ready none => ?begins, fun lit => ?runs,
    keeps.chan, keeps.parts, keeps.hbm⟩
  case off =>
    rw [shelf, if_pos rfl]
    exact Shelf.converts_lose ..
  case rest =>
    rw [shelf, if_neg hd]
    rfl
  case cap =>
    refine State.capacityW_of_one (sh := sh) (by rw [Shelf.converts, ac, conv]; rfl) ?_ fun d hd => ?_
    · rw [shelf, if_pos rfl]
      exact Shelf.converts_lose ..
    · rw [shelf, if_neg hd]
      rfl
  case begins =>
    rw [loops.rideStart, State.rideIfDark, if_pos ⟨cap.symm.trans dark, ready, none⟩]
    exact l.beginRide_rideStart
  case runs =>
    rw [loops.rideStart, State.rideIfDark, if_neg fun h => lit (cap.trans h.1)]
    rfl

/-! ### A conversion is restored (R256, R258) -/

/-- The return of a conversion, recorded. -/
def State.restoreConversion (s : State) (sh : ShelfId) : State :=
  (s.modShelf sh fun x => { x with ac := true, conv := !s.heldOut (unitShelf sh) }).logShelf Lg.conversionRestored (unitShelf sh)
    (le 2 (unitShelf sh).toNat)

/-- The end of a ride-through, recorded. -/
def State.endRide (s : State) : State :=
  let s := s.log Lg.rideThrough unitRack (le 1 1 ++ le 4 s.storedWh)
  { s with pw := { s.pw with rideStart := none, earlyDumped := false } }

theorem State.endRide_keeps (s : State) : SupplyKeeps s s.endRide := ⟨rfl, rfl, rfl, rfl, rfl⟩

theorem State.shelfOf_restoreConversion (s : State) (sh d : ShelfId) :
    (s.restoreConversion sh).shelfOf d =
      if d = sh then { ac := true, conv := !s.heldOut (unitShelf sh) } else s.shelfOf d :=
  s.shelfOf_modShelf sh d fun _ => { ac := true, conv := !s.heldOut (unitShelf sh) }

/-- A restored conversion ends the ride-through, if one runs, and the budget is taken afresh. -/
theorem exec_conversionRestored (lost : ((s.shelfOf sh).ac && (s.shelfOf sh).conv) = false)
    (free : (s.tick t).heldOut (unitShelf sh) = false) :
    ∃ l u, SupplyKeeps ((s.tick t).restoreConversion sh) l ∧ l.pw.rideStart = none ∧ LoopsOnly l u ∧
      exec (.conversionRestored t sh) s = .next u := by
  have had : (((s.tick t).shelfOf sh).ac && ((s.tick t).shelfOf sh).conv || (s.tick t).heldOut (unitShelf sh)) = false :=
    congrArg₂ or lost free
  have restored : exec (.conversionRestored t sh) s =
      match ((s.tick t).restoreConversion sh).pw.rideStart with
      | some _ => .next ((s.tick t).restoreConversion sh).endRide.rebudget
      | none => .next (if ((s.tick t).restoreConversion sh).ready then ((s.tick t).restoreConversion sh).rebudget
          else (s.tick t).restoreConversion sh) :=
    if_neg (Bool.eq_false_iff.1 had)
  cases ride : ((s.tick t).restoreConversion sh).pw.rideStart with
  | some b => exact ⟨_, _, State.endRide_keeps _, rfl, LoopsOnly.rebudget _, by rw [restored, ride]⟩
  | none => exact ⟨_, _, SupplyKeeps.refl _, ride, State.rebudget_ready _, by rw [restored, ride]⟩

/-- A conversion restored adds 28 kW and ends the ride-through (R256, R258). -/
theorem conversionRestored_adds (lost : ((s.shelfOf sh).ac && (s.shelfOf sh).conv) = false)
    (free : (s.tick t).heldOut (unitShelf sh) = false) :
    ∃ u, exec (.conversionRestored t sh) s = .next u ∧ (u.shelfOf sh).ac = true ∧ (u.shelfOf sh).conv = true ∧
      u.capacityW = s.capacityW + 28000 ∧ (∀ d, d ≠ sh → u.shelfOf d = s.shelfOf d) ∧ u.pw.rideStart = none ∧
      u.chan = s.chan ∧ u.parts = s.parts ∧ u.hbm = s.hbm := by
  obtain ⟨l, u, hl, ended, loops, run⟩ := exec_conversionRestored lost free
  have keeps := hl.trans (SupplyKeeps.of_loopsOnly loops)
  have shelf (d : ShelfId) := (State.shelfOf_of_shelf keeps.shelf d).trans ((s.tick t).shelfOf_restoreConversion sh d)
  have here : u.shelfOf sh = { ac := true, conv := true } := by
    rw [shelf, if_pos rfl, free]
    rfl
  have rest (d : ShelfId) (hd : d ≠ sh) : u.shelfOf d = s.shelfOf d := by
    rw [shelf, if_neg hd]
    rfl
  refine ⟨u, run, by rw [here], by rw [here], ?_, rest, loops.rideStart.trans ended, keeps.chan, keeps.parts, keeps.hbm⟩
  exact (State.capacityW_of_one (by rw [here]; rfl) lost fun d hd => (rest d hd).symm).symm

/-- A shelf held out converts nothing (R25; log 135). -/
theorem exec_conversionRestored_held (held : (s.tick t).heldOut (unitShelf sh) = true) :
    exec (.conversionRestored t sh) s =
      .next ((s.tick t).modShelf sh fun x => { x with ac := true, conv := !(s.tick t).heldOut (unitShelf sh) }) :=
  if_pos (by
    rw [Bool.or_eq_true]
    exact Or.inr held)

end

/-! ### The rack goes down (R257, R258, R318) -/

/-- A table read gives its default or one of its entries. -/
theorem Tab.get_of_forall {κ α : Type} [DecidableEq κ] (P : α → Prop) {d : α} (hd : P d) (k : κ) :
    ∀ {m : Tab κ α}, (∀ e ∈ m, P e.2) → P (Tab.get m d k)
  | [], _ => hd
  | (j, v) :: m, h => by
    rw [Tab.get]
    split
    · exact h (j, v) (List.mem_cons_self ..)
    · exact Tab.get_of_forall P hd k fun e he => h e (List.mem_cons_of_mem _ he)

/-- What a rack without power keeps, and what it loses. -/
structure IsDown (s u : State) : Prop where
  ready : u.ready = false
  rmuUp : u.rmu.up = false
  logWait : u.rmu.logWait = []
  hbm : u.hbm = []
  part : ∀ p, u.part p = none
  channel : ∀ c, (u.channel c).st = .off ∨ (u.channel c).st = .latched ∨ (u.channel c).st = .fault
  cfg : u.cfg = s.cfg
  lockedChips : u.lockedChips = s.lockedChips
  lockedTrays : u.lockedTrays = s.lockedTrays
  bb : ∀ n, (u.chip n).bb = (s.chip n).bb

namespace State

/-- Chips that go off keep their black boxes, and nothing but chips changes (R258). -/
structure ChipsOff (s t : State) : Prop where
  frame : t = { s with chips := t.chips }
  bb : ∀ n, (t.chip n).bb = (s.chip n).bb

theorem ChipsOff.refl (s : State) : ChipsOff s s := ⟨rfl, fun _ => rfl⟩

theorem ChipsOff.modChip {s t : State} (h : ChipsOff s t) (n : ChipId) {f : Chip → Chip} (hf : (f (t.chip n)).bb = (t.chip n).bb) :
    ChipsOff s (t.modChip n f) := by
  refine ⟨by rw [State.modChip, h.frame], fun m => ?_⟩
  rw [chip_modChip]
  split
  · next e => rw [hf, e, h.bb]
  · exact h.bb m

/-- Of the channels, only opened ones are kept (R250, R253). -/
theorem channel_keptLatches (s : State) (c : ChanId) :
    let x := Tab.get s.keptLatches Channel.init c
    x.st = .off ∨ x.st = .latched ∨ x.st = .fault := by
  refine Tab.get_of_forall (fun x : Channel => x.st = .off ∨ x.st = .latched ∨ x.st = .fault) (Or.inl rfl) c fun e he => ?_
  have h := (List.mem_filter.1 he).2
  simp only [Bool.or_eq_true, decide_eq_true_eq] at h
  exact Or.inr h

theorem rackOff_isDown (s : State) : IsDown s s.rackOff := by
  unfold rackOff
  extract_lets c e _ v
  have records : RecordsOnly s c := (RecordsOnly.copyBoxes ..).trans (RecordsOnly.commitAll _)
  have committed : c.rmu.logWait = [] := commitAll_logWait _
  have ends : KeyringOnly c e := KeyringOnly.foldl _ (fun s k => KeyringOnly.loseEndpoint s k 6) _ _
  clear_value e c
  have off : ChipsOff e v := foldl_invariant (ChipsOff e) _ (fun _ n h => h.modChip n rfl) _ e (ChipsOff.refl e)
  clear_value v
  have rmu : v.rmu = c.rmu := by rw [off.frame, ends]
  have cfg : v.cfg = s.cfg := by rw [off.frame, ends, records.frame]
  have lockedChips : v.lockedChips = s.lockedChips := by rw [off.frame, ends, records.frame]
  have lockedTrays : v.lockedTrays = s.lockedTrays := by rw [off.frame, ends, records.frame]
  have bb (n : ChipId) : (v.chip n).bb = (s.chip n).bb := by
    rw [off.bb, chip_of_chips (show e.chips = s.chips by rw [ends, records.frame])]
  exact ⟨rfl, rfl, (congrArg Rmu.logWait rmu).trans committed, rfl, fun _ => rfl, v.channel_keptLatches, cfg, lockedChips,
    lockedTrays, bb⟩

/-- A dump takes the rack down (R257). -/
theorem startDump_isDown (s : State) (reason : Nat) : IsDown s (s.startDump reason) := by
  have dumped (u : State) (h : IsDown (s.log Lg.dumpStarted unitRack (le 1 reason)) u) :
      IsDown s { u with pw := { u.pw with rideStart := none } } :=
    ⟨h.ready, h.rmuUp, h.logWait, h.hbm, h.part, h.channel, h.cfg, h.lockedChips, h.lockedTrays, h.bb⟩
  exact dumped _ (rackOff_isDown _)

end State

section

variable {s : State} {t : Nat}

theorem exec_rideThroughEnd {b : Nat} (ride : s.pw.rideStart = some b)
    (past : b + (s.tick t).rackSet 0x0603#16 * 1000000000 ≤ (s.tick t).osc) :
    exec (.rideThroughEnd t) s = .next ((s.tick t).startDump 0) := by
  have hride : (s.tick t).pw.rideStart = some b := ride
  change execRideThroughEnd t s = _
  simp only [execRideThroughEnd, hride, if_pos past]

/-- Estimates read change the battery units alone. -/
theorem State.readUnits_frame (s : State) (us : List (Fin 16 × Nat × Nat)) :
    s.readUnits us = { s with batt := (s.readUnits us).batt } := by
  refine foldl_invariant (fun t : State => t = { s with batt := t.batt }) _ (fun t u h => ?_) us s rfl
  rw [State.modBatt, h]

theorem exec_energyFloor {us : List (Fin 16 × Nat × Nat)} (ride : s.pw.rideStart.isSome = true)
    (low : ((s.tick t).readUnits us).storedWh ≤ 150) :
    exec (.energyFloor t us) s = .next (((s.tick t).readUnits us).startDump 1) := by
  refine if_pos ⟨?_, low⟩
  rw [State.readUnits_frame]
  exact ride

end

/-- Settles O46: the capacity follows the shelves that convert, and each dump takes the rack down. -/
theorem supplyCompletes : Obligations.SupplyCompletes := by
  intro s t
  refine ⟨fun sh bad => conversionLost_takes, fun sh => conversionRestored_adds, fun sh held => ?held, fun b ride past => ?ends,
    fun us ride low => ?floor⟩
  case held =>
    refine ⟨_, exec_conversionRestored_held held, ?_, rfl, rfl, rfl⟩
    rw [State.shelfOf_modShelf, if_pos rfl, held]
    rfl
  case ends =>
    have h := (s.tick t).startDump_isDown 0
    exact ⟨_, exec_rideThroughEnd ride past, h.ready, h.rmuUp, h.logWait, h.hbm, h.part, h.channel, h.cfg, h.lockedChips,
      h.lockedTrays, h.bb⟩
  case floor =>
    have h := ((s.tick t).readUnits us).startDump_isDown 1
    have frame := (s.tick t).readUnits_frame us
    exact ⟨_, exec_energyFloor ride low, h.ready, h.rmuUp, h.logWait, h.hbm, h.part, h.channel, h.cfg.trans (by rw [frame]; rfl),
      h.lockedChips.trans (by rw [frame]; rfl), h.lockedTrays.trans (by rw [frame]; rfl),
      fun n => (h.bb n).trans (by rw [frame]; rfl)⟩

end Sys2Proof.Machine
end

section
/-! SUPPORT. The start from AC (R25, R250, R253, R294, R304): what stays of channels, trays, chips and switch trays through each stage
of it. -/

namespace Sys2Proof.Machine

/-- Once its turn has come, what a step of a fold reaches stays. -/
theorem foldl_reaches {α β : Type} {P Q : β → Prop} {f : β → α → β} {l : List α} {a : α} (mem : a ∈ l)
    (keeps : ∀ b, ∀ x ∈ l, P b → P (f b x)) (reaches : ∀ b, P b → Q (f b a))
    (stays : ∀ b, ∀ x ∈ l, P b → Q b → Q (f b x)) {b : β} (start : P b) : Q (l.foldl f b) := by
  obtain ⟨l₁, l₂, rfl⟩ := List.append_of_mem mem
  rw [List.foldl_append, List.foldl_cons]
  have before : P (l₁.foldl f b) := List.foldlRecOn l₁ f start fun b hb x hx => keeps b x (by simp [hx]) hb
  refine (List.foldlRecOn (motive := fun b => P b ∧ Q b) l₂ f ⟨keeps _ a mem before, reaches _ before⟩ fun b hb x hx => ?_).2
  exact ⟨keeps b x (by simp [hx]) hb.1, stays b x (by simp [hx]) hb.1 hb.2⟩

/-! ### What the start keeps once the channels are on -/

/-- Shelves, channels, units, the RMU and the quality of time as they were. -/
structure UnitsSame (s t : State) : Prop where
  shelf : t.shelf = s.shelf
  chan : t.chan = s.chan
  trays : t.trays = s.trays
  chips : t.chips = s.chips
  sw : t.sw = s.sw
  rmuUp : t.rmu.up = s.rmu.up
  mismatched : t.mismatched = s.mismatched
  quality : t.clk.quality = s.clk.quality
  lockedChips : t.lockedChips = s.lockedChips
  lockedTrays : t.lockedTrays = s.lockedTrays

/-- From the channels' start on: a channel may be cut for a leak, and units held out by their identity or locked out stay as they are. -/
structure Started (s t : State) : Prop where
  shelf : t.shelf = s.shelf
  rmuUp : t.rmu.up = s.rmu.up
  mismatched : t.mismatched = s.mismatched
  quality : t.clk.quality = s.clk.quality
  lockedChips : t.lockedChips = s.lockedChips
  lockedTrays : t.lockedTrays = s.lockedTrays
  channel : ∀ c, t.channel c = s.channel c ∨
    (s.opened c = false ∧ (t.channel c).st = .latched ∧ (t.channel c).cause = some 2)
  powered : ∀ y, s.heldOut (unitTray y) = true ∨ y ∈ s.lockedTrays → (t.tray y).powered = (s.tray y).powered
  chipPower : ∀ n, s.heldOut (unitChip n) = true → (t.chip n).power = (s.chip n).power
  switchDown : ∀ i, s.heldOut (unitSwitch i) = true → (s.swt i).up = false → (t.swt i).up = false

namespace State

theorem heldOut_of_mismatched {s t : State} (h : t.mismatched = s.mismatched) (u : BitVec 16) : t.heldOut u = s.heldOut u := by
  rw [heldOut, h, heldOut]

theorem opened_of_channel {s t : State} {c : ChanId} (h : t.channel c = s.channel c) : t.opened c = s.opened c := by
  rw [opened, h, opened]

/-- A latched channel is opened. -/
theorem opened_of_latched {s : State} {c : ChanId} (h : (s.channel c).st = .latched) : s.opened c = true := by simp [opened, h]

end State

theorem UnitsSame.started {s t : State} (h : UnitsSame s t) : Started s t :=
  ⟨h.shelf, h.rmuUp, h.mismatched, h.quality, h.lockedChips, h.lockedTrays, fun c => Or.inl (State.channel_of_chan h.chan c),
    fun y _ => by rw [State.tray_of_trays h.trays], fun n _ => by rw [State.chip_of_chips h.chips],
    fun i _ hi => by rw [State.swt_of_sw h.sw, hi]⟩

namespace UnitsSame

variable {s t u : State}

/-- What is the same, as one value: where every part of it is, by unfolding, one equation says so. -/
def view (s : State) :=
  (s.shelf, s.chan, s.trays, s.chips, s.sw, s.rmu.up, s.mismatched, s.clk.quality, s.lockedChips, s.lockedTrays)

theorem of_view (h : view t = view s) : UnitsSame s t := by
  simp only [view, Prod.mk.injEq] at h
  obtain ⟨shelf, chan, trays, chips, sw, rmuUp, mismatched, quality, lockedChips, lockedTrays⟩ := h
  exact ⟨shelf, chan, trays, chips, sw, rmuUp, mismatched, quality, lockedChips, lockedTrays⟩

theorem refl (s : State) : UnitsSame s s := of_view rfl

theorem trans (h : UnitsSame s t) (g : UnitsSame t u) : UnitsSame s u :=
  ⟨g.shelf.trans h.shelf, g.chan.trans h.chan, g.trays.trans h.trays, g.chips.trans h.chips, g.sw.trans h.sw, g.rmuUp.trans h.rmuUp,
    g.mismatched.trans h.mismatched, g.quality.trans h.quality, g.lockedChips.trans h.lockedChips, g.lockedTrays.trans h.lockedTrays⟩

theorem foldl {α : Type} (f : State → α → State) (h : ∀ s a, UnitsSame s (f s a)) (l : List α) (s : State) :
    UnitsSame s (l.foldl f s) :=
  foldl_invariant (UnitsSame s) f (fun b a hb => hb.trans (h b a)) l s (refl s)

theorem of_recordsOnly (h : RecordsOnly s t) : UnitsSame s t :=
  ⟨by rw [h.frame], by rw [h.frame], by rw [h.frame], by rw [h.frame], by rw [h.frame], h.rmuUp, by rw [h.frame], by rw [h.frame],
    by rw [h.frame], by rw [h.frame]⟩

theorem log (s : State) (c : Nat) (u : BitVec 16) (bs : List Byte) : UnitsSame s (s.log c u bs) :=
  of_recordsOnly (RecordsOnly.log ..)

theorem logTray (s : State) (c : Nat) (y : TrayId) (bs : List Byte) : UnitsSame s (s.logTray c y bs) :=
  of_recordsOnly ⟨rfl, rfl⟩

theorem modPort (s : State) (h : HostPortId) (f : HostPort → HostPort) : UnitsSame s (s.modPort h f) :=
  of_view rfl

theorem modLink (s : State) (l : LinkId) (f : Link → Link) : UnitsSame s (s.modLink l f) :=
  of_view rfl

theorem zeroQuad (s : State) (q : QuadId) : UnitsSame s (s.zeroQuad q) :=
  of_view rfl

theorem createPart (s : State) (p : PartId) (sh : Shape) : UnitsSame s (s.createPart p sh) := by
  have place (s : State) : UnitsSame s (s.placePart p sh) :=
    (foldl _ zeroQuad sh.quads s).trans (of_view rfl)
  unfold State.createPart
  split
  · exact (place s).trans (of_view rfl)
  · refine (trans (t := s.dropPartSettings p) ?_ (place _)).trans (log ..)
    exact of_view rfl

theorem placeStored (s : State) (plan : List (PartId × Place)) : UnitsSame s (s.placeStored plan) := by
  have listed : UnitsSame s { s with unplaced := s.storedShapes } := of_view rfl
  unfold State.placeStored
  dsimp only
  split
  · refine listed.trans (foldl _ (fun s e => ?_) _ _)
    split
    · exact createPart ..
    · exact refl s
  · exact listed

theorem enterReset6 (s : State) (lost : Bool) : UnitsSame s (s.enterReset6 lost) := by
  unfold State.enterReset6
  split
  · exact refl s
  · refine trans (foldl _ (fun s k => ?_) _ _) (of_recordsOnly (RecordsOnly.modRmu _ rfl))
    exact (of_recordsOnly (RecordsOnly.of_eventsOnly (EventsOnly.enterEvent ..))).trans
      (of_view rfl)

theorem closeContact (s : State) : UnitsSame s s.closeContact := by
  unfold State.closeContact
  dsimp only
  split
  · exact of_view rfl
  · exact refl s

theorem setTrims (s : State) (r : PowerUpReadings) : UnitsSame s (s.setTrims r) := by
  refine foldl _ (fun s e => ?_) _ _
  have trimmed : UnitsSame s { s with clk := { s.clk with trims := Tab.set s.clk.trims e.1 e.2 } } :=
    of_view rfl
  dsimp only
  split
  · exact trimmed.trans (log ..)
  · exact trimmed

end UnitsSame

namespace Started

variable {s t u : State}

theorem refl (s : State) : Started s s := (UnitsSame.refl s).started

/-- A channel cut once is opened, and no later stage touches it. -/
theorem trans (h : Started s t) (g : Started t u) : Started s u where
  shelf := g.shelf.trans h.shelf
  rmuUp := g.rmuUp.trans h.rmuUp
  mismatched := g.mismatched.trans h.mismatched
  quality := g.quality.trans h.quality
  lockedChips := g.lockedChips.trans h.lockedChips
  lockedTrays := g.lockedTrays.trans h.lockedTrays
  channel c := by
    rcases g.channel c with same | ⟨shut, cut⟩
    · rw [same]
      exact h.channel c
    · rcases h.channel c with same | ⟨-, latched, -⟩
      · exact Or.inr ⟨(State.opened_of_channel same).symm.trans shut, cut⟩
      · exact absurd (State.opened_of_latched latched) (by simp [shut])
  powered y hy := by
    refine (g.powered y ?_).trans (h.powered y hy)
    rwa [State.heldOut_of_mismatched h.mismatched, h.lockedTrays]
  chipPower n hn := by
    refine (g.chipPower n ?_).trans (h.chipPower n hn)
    rwa [State.heldOut_of_mismatched h.mismatched]
  switchDown i hi down := by
    refine g.switchDown i ?_ (h.switchDown i hi down)
    rwa [State.heldOut_of_mismatched h.mismatched]

theorem foldl {α : Type} (f : State → α → State) (h : ∀ s a, Started s (f s a)) (l : List α) (s : State) :
    Started s (l.foldl f s) :=
  foldl_invariant (Started s) f (fun b a hb => hb.trans (h b a)) l s (refl s)

theorem of_loopsOnly (h : LoopsOnly s t) : Started s t where
  shelf := by rw [h.frame]
  rmuUp := h.rmuUp
  mismatched := by rw [h.frame]
  quality := by rw [h.frame]
  lockedChips := by rw [h.frame]
  lockedTrays := by rw [h.frame]
  channel c := Or.inl (State.channel_of_chan (by rw [h.frame]) c)
  powered y _ := congrArg Tray.powered (State.tray_of_trays (by rw [h.frame]) y)
  chipPower n _ := h.power n
  switchDown i _ down := (congrArg SwTray.up (State.swt_of_sw (by rw [h.frame]) i)).trans down

theorem modTray (s : State) (y : TrayId) {f : Tray → Tray}
    (h : s.heldOut (unitTray y) = true ∨ y ∈ s.lockedTrays → (f (s.tray y)).powered = (s.tray y).powered) :
    Started s (s.modTray y f) where
  shelf := rfl
  rmuUp := rfl
  mismatched := rfl
  quality := rfl
  lockedChips := rfl
  lockedTrays := rfl
  channel _ := Or.inl rfl
  powered z hz := by
    rw [State.tray_modTray]
    split
    · next e => rw [h (e ▸ hz), e]
    · rfl
  chipPower _ _ := rfl
  switchDown _ _ down := down

theorem modChip (s : State) (n : ChipId) {f : Chip → Chip}
    (h : s.heldOut (unitChip n) = true → (f (s.chip n)).power = (s.chip n).power) : Started s (s.modChip n f) where
  shelf := rfl
  rmuUp := rfl
  mismatched := rfl
  quality := rfl
  lockedChips := rfl
  lockedTrays := rfl
  channel _ := Or.inl rfl
  powered _ _ := rfl
  chipPower m hm := by
    rw [State.chip_modChip]
    split
    · next e => rw [h (e ▸ hm), e]
    · rfl
  switchDown _ _ down := down

theorem modSw (s : State) (i : SwId) {f : SwTray → SwTray}
    (h : s.heldOut (unitSwitch i) = true → (s.swt i).up = false → (f (s.swt i)).up = false) : Started s (s.modSw i f) where
  shelf := rfl
  rmuUp := rfl
  mismatched := rfl
  quality := rfl
  lockedChips := rfl
  lockedTrays := rfl
  channel _ := Or.inl rfl
  powered _ _ := rfl
  chipPower _ _ := rfl
  switchDown j hj down := by
    rw [State.swt_modSw]
    split
    · next e => exact h (e ▸ hj) (e ▸ down)
    · exact down

/-- A channel cut for a leak. -/
theorem trip (s : State) (c : ChanId) (peak : Int) (shut : s.opened c = false) : Started s (s.trip c 2 peak) where
  shelf := rfl
  rmuUp := rfl
  mismatched := rfl
  quality := rfl
  lockedChips := rfl
  lockedTrays := rfl
  channel d := by
    rw [trip_channel]
    split
    · next e => exact Or.inr ⟨e ▸ shut, rfl, rfl⟩
    · exact Or.inl rfl
  powered _ _ := rfl
  chipPower _ _ := rfl
  switchDown _ _ down := down

theorem fire (s : State) (d l : Nat) (x : Scope) (n : Option ChipId) : Started s (s.fire d l x n) :=
  UnitsSame.started (t := s.fire d l x n) (UnitsSame.of_view rfl)

/-! ### Trays (R306) -/

theorem readTray (s : State) (r : PowerUpReadings) (y : TrayId) : Started s (s.readTray r y) := by
  unfold State.readTray
  dsimp only
  split
  · exact (modTray s y fun _ => rfl).trans (UnitsSame.logTray ..).started
  · exact modTray s y fun _ => rfl

/-- The chips of a tray that starts are powered, but those held out. -/
theorem powerChips (s : State) (ns : List ChipId) (h : ∀ n ∈ ns, s.chipHeldOut n = false) :
    Started s (ns.foldl (fun s n => s.modChip n fun c => { c with power := .up, bbFirmware := Config.firmware s.rmu.fwB }) s) := by
  refine List.foldlRecOn ns _ (refl s) fun t ht n hn => ht.trans (modChip t n fun held => ?_)
  have free := h n hn
  rw [State.chipHeldOut, Bool.or_eq_false_iff] at free
  rw [State.heldOut_of_mismatched ht.mismatched, free.1] at held
  cases held

/-- A tray that passes its pre-checks is powered, with the chips of it that may be. -/
theorem powerTray (s : State) (y : TrayId) (unlocked : s.lockedTrays.contains y = false) (free : s.heldOut (unitTray y) = false) :
    Started s (((trayChips y).filter fun n => !s.lockedChips.contains n && !s.chipHeldOut n).foldl
      (fun s n => s.modChip n fun c => { c with power := .up, bbFirmware := Config.firmware s.rmu.fwB })
      (s.modTray y fun x => { x with powered := true, efuseOpen := false, stopped := false })) := by
  refine (modTray s y fun out => ?_).trans (powerChips _ _ fun n hn => ?_)
  · rcases out with held | locked
    · exact absurd held (by simp [free])
    · exact absurd locked (by simpa using unlocked)
  · have may := (List.mem_filter.1 hn).2
    rw [Bool.and_eq_true, Bool.not_eq_true', Bool.not_eq_true'] at may
    exact may.2

theorem startTray (s : State) (r : PowerUpReadings) (y : TrayId) : Started s (s.startTray r y) := by
  refine (readTray s r y).trans ?_
  unfold State.startTray
  generalize s.readTray r y = s
  dsimp only
  split
  · exact refl s
  next unlocked =>
  split
  · have fused : Started s (s.modTray y fun x => { x with efuseOpen := true }) := modTray s y fun _ => rfl
    refine (fused.trans ?_).trans (fire ..)
    split
    · exact refl _
    · next shut => exact trip _ _ 0 (by simpa using shut)
  split
  · exact fire ..
  split
  · exact modTray s y fun _ => rfl
  split
  · exact refl s
  · next free =>
    simp only [Bool.or_eq_true, not_or, Bool.not_eq_true] at free
    exact powerTray s y (by simpa using unlocked) free.1

/-! ### Switch trays and links (R286, R307) -/

theorem startSwitches (s : State) : Started s s.startSwitches := by
  refine trans (foldl _ (fun s i => modSw s i fun held _ => ?_) _ _) (foldl _ (fun s h => (UnitsSame.modPort ..).started) _ _)
  simp [held]

theorem modFar (s : State) (l : LinkId) (f : Link → Link) : Started s (s.modFar l f) := by
  unfold State.modFar
  split
  · exact (UnitsSame.modLink ..).started
  · exact modSw s _ fun _ down => down

theorem modSides (s : State) (l : LinkId) (f : Link → Link) : Started s (s.modSides l f) :=
  (UnitsSame.modLink s l f).started.trans (modFar ..)

theorem startLinks (s : State) (r : PowerUpReadings) : Started s (s.startLinks r) := by
  have setLink (s : State) (l : LinkId) (b : Bool) : UnitsSame s (s.setLink l b) := by
    unfold State.setLink State.modBoth
    split
    · exact (UnitsSame.modLink ..).trans (UnitsSame.modLink ..)
    · exact UnitsSame.modLink ..
  have rejected : UnitsSame s { s with rejectedEnds := r.rejectedEnds.map fun e => (e.1, e.2.1) } :=
    UnitsSame.of_view rfl
  refine trans (rejected.started.trans (foldl _ (fun s l => ?_) _ _))
    (trans (foldl _ (fun s e => (UnitsSame.log ..).started) _ _) (foldl _ (fun s e => ?_) _ _))
  · exact ((modSides s l _).trans ((UnitsSame.modLink ..).started.trans (modFar ..))).trans (setLink ..).started
  · split
    · exact (UnitsSame.log ..).started
    · exact refl s

end Started

end Sys2Proof.Machine
end

section
/-! SUPPORT. The statement about the start: POWER_UP's stages put together, and the acceptance test (R304, R310, R311). -/

namespace Sys2Proof.Machine

/-! ### The RMU's start (R25, R294, R304) -/

namespace State

/-- AC is read, and every shelf that is not held out converts it (R25). -/
def applyAc (s : State) (r : PowerUpReadings) : State :=
  (List.finRange 4).foldl (fun s (i : Fin 4) =>
    s.modShelf i fun _ => { ac := r.ac.getD i.val false, conv := r.ac.getD i.val false && !s.heldOut (unitShelf i) })
    { s with mismatched := r.mismatched.map Prod.fst }

/-- The RMU boots, with the other firmware copy where a level 6 was commanded, and starts its clock (R294, R314). -/
def bootRmu (s : State) (r : PowerUpReadings) : State :=
  let s := s.modRmu fun m => { m with up := true, bootAt := s.osc, recoverySelected := false, absentUntil := 0 }
  let s := if s.rmu.commanded && r.fwOk then s.switchFirmware else s
  (s.modRmu fun m => { m with commanded := false }).startClock r.rtc

/-- The RMU's start, as far as the settings. -/
def startRmu (s : State) (r : PowerUpReadings) : State := ((((s.applyAc r).bootRmu r).discardTorn r.torn).holdUnits r)

/-- Every channel that may is switched on (R250). -/
def startChannels (s : State) : State :=
  (fedChannels.filter fun c => !s.opened c && !s.channelHeld c).foldl (fun s c => s.modChan c fun _ => { Channel.init with st := .on }) s

/-- Trims, switch trays, compute trays and links. -/
def startUnits (s : State) (r : PowerUpReadings) : State :=
  let s := (s.setTrims r).startSwitches
  let s := (List.finRange 16).foldl (fun s t => s.startTray r t) s
  (s.startLinks r).mapCheck

/-- Partitions, the keyways' histories, and the budget; the rack is ready. -/
def startParts (s : State) (r : PowerUpReadings) (lost : Bool) : State :=
  let s := { s with kr := { s.kr with dir := [] }, pw := { s.pw with drawW := idleW } }
  let s := (s.placeStored r.plan).enterReset6 lost
  ({ s with ready := true }.rebudget).closeContact

theorem start_eq (s : State) (r : PowerUpReadings) :
    s.start r = ((((s.startRmu r).loadSettings r).1.startChannels.startUnits r).startParts r ((s.startRmu r).loadSettings r).2) := rfl

/-! #### Shelves -/

theorem applyAc_frame (s : State) (r : PowerUpReadings) :
    s.applyAc r = { s with mismatched := r.mismatched.map Prod.fst, shelf := (s.applyAc r).shelf } := by
  refine foldl_invariant (fun t : State => t = { s with mismatched := r.mismatched.map Prod.fst, shelf := t.shelf }) _
    (fun t i h => ?_) _ _ rfl
  rw [modShelf, h]

theorem shelfOf_applyAc (s : State) (r : PowerUpReadings) (i : ShelfId) :
    (s.applyAc r).shelfOf i =
      { ac := r.ac.getD i.val false, conv := r.ac.getD i.val false && !(r.mismatched.map Prod.fst).contains (unitShelf i) } := by
  refine foldl_reaches (P := fun t : State => t.mismatched = r.mismatched.map Prod.fst)
    (Q := fun t : State => t.shelfOf i =
      { ac := r.ac.getD i.val false, conv := r.ac.getD i.val false && !(r.mismatched.map Prod.fst).contains (unitShelf i) })
    (List.mem_finRange i) ?_ (fun t h => ?_) (fun t j _ h hi => ?_) ?_
  · exact fun _ _ _ h => h
  · rw [shelfOf_modShelf, if_pos rfl, heldOut, h]
  · rw [shelfOf_modShelf]
    split
    · next e => rw [← e, heldOut, h]
    · exact hi
  · rfl

/-! #### The RMU and its clock -/

theorem startClock_frame (s : State) (rtc : Option Nat) :
    s.startClock rtc = { s with clk := (s.startClock rtc).clk, fresh := (s.startClock rtc).fresh } := by
  cases rtc <;> rfl

theorem startClock_quality (s : State) (rtc : Option Nat) :
    (s.startClock rtc).clk.quality = if rtc.isSome then .starting else .unset := by
  cases rtc <;> rfl

theorem switchFirmware_recordsOnly (s : State) : RecordsOnly s s.switchFirmware := ⟨rfl, rfl⟩

theorem discardTorn_recordsOnly (s : State) (torn : Option Nat) : RecordsOnly s (s.discardTorn torn) := by
  unfold discardTorn
  split
  · exact RecordsOnly.refl s
  · exact (RecordsOnly.modRmu s rfl).trans (RecordsOnly.log ..)

/-- The RMU's boot changes the RMU, the clock and what records change. -/
theorem bootRmu_frame (s : State) (r : PowerUpReadings) :
    s.bootRmu r = { s with rmu := (s.bootRmu r).rmu, kws := (s.bootRmu r).kws, opr := (s.bootRmu r).opr, out := (s.bootRmu r).out,
                           fresh := (s.bootRmu r).fresh, clk := (s.bootRmu r).clk } ∧ (s.bootRmu r).rmu.up = true := by
  have booted : ∃ t, RecordsOnly
      (s.modRmu fun m => { m with up := true, bootAt := s.osc, recoverySelected := false, absentUntil := 0 }) t ∧
      s.bootRmu r = t.startClock r.rtc := by
    refine ⟨_, RecordsOnly.trans ?_ (RecordsOnly.modRmu _ rfl), rfl⟩
    split
    · exact switchFirmware_recordsOnly _
    · exact RecordsOnly.refl _
  obtain ⟨t, records, boot⟩ := booted
  have clock := t.startClock_frame r.rtc
  rw [← boot] at clock
  generalize s.bootRmu r = b at *
  exact ⟨by rw [clock, records.frame]; rfl, by rw [clock]; exact records.rmuUp⟩

theorem bootRmu_quality (s : State) (r : PowerUpReadings) :
    (s.bootRmu r).clk.quality = if r.rtc.isSome then .starting else .unset := startClock_quality ..

end State

/-- Units held out are logged, those the readings name. -/
theorem UnitsSame.holdUnits {s : State} {r : PowerUpReadings} (h : s.mismatched = r.mismatched.map Prod.fst) :
    UnitsSame s (s.holdUnits r) :=
  trans (t := { s with mismatched := r.mismatched.map Prod.fst }) ⟨rfl, rfl, rfl, rfl, rfl, rfl, h.symm, rfl, rfl, rfl⟩
    (foldl _ (fun _ _ => log ..) _ _)

theorem UnitsSame.loadSettings (s : State) (r : PowerUpReadings) : UnitsSame s (s.loadSettings r).1 := by
  have settings (s : State) (c : Settings) : UnitsSame s { s with cfg := c } := UnitsSame.of_view rfl
  unfold State.loadSettings
  dsimp only
  split
  · refine ((settings s _).trans (settings _ _)).trans (foldl _ (fun s n => ?_) _ _)
    exact (settings s _).trans (log ..)
  · exact ((settings s _).trans (settings _ _)).trans (log ..)

/-- The RMU runs with its settings: shelves by their AC, the units held out listed, its clock started; channels, trays and chips are
as they were. -/
structure RmuRuns (s : State) (r : PowerUpReadings) (t : State) : Prop where
  shelf : ∀ i, t.shelfOf i =
    { ac := r.ac.getD i.val false, conv := r.ac.getD i.val false && !(r.mismatched.map Prod.fst).contains (unitShelf i) }
  rmuUp : t.rmu.up = true
  mismatched : t.mismatched = r.mismatched.map Prod.fst
  quality : t.clk.quality = if r.rtc.isSome then .starting else .unset
  chan : t.chan = s.chan
  trays : t.trays = s.trays
  chips : t.chips = s.chips
  lockedChips : t.lockedChips = s.lockedChips
  lockedTrays : t.lockedTrays = s.lockedTrays

theorem RmuRuns.unitsSame {s t u : State} {r : PowerUpReadings} (h : RmuRuns s r t) (g : UnitsSame t u) : RmuRuns s r u where
  shelf i := (State.shelfOf_of_shelf g.shelf i).trans (h.shelf i)
  rmuUp := g.rmuUp.trans h.rmuUp
  mismatched := g.mismatched.trans h.mismatched
  quality := g.quality.trans h.quality
  chan := g.chan.trans h.chan
  trays := g.trays.trans h.trays
  chips := g.chips.trans h.chips
  lockedChips := g.lockedChips.trans h.lockedChips
  lockedTrays := g.lockedTrays.trans h.lockedTrays

theorem bootRmu_runs (s : State) (r : PowerUpReadings) : RmuRuns s r ((s.applyAc r).bootRmu r) := by
  have ac := s.applyAc_frame r
  have shelf := s.shelfOf_applyAc r
  generalize s.applyAc r = a at *
  obtain ⟨boot, up⟩ := a.bootRmu_frame r
  have quality := a.bootRmu_quality r
  generalize a.bootRmu r = b at *
  exact
    { shelf := fun i => (State.shelfOf_of_shelf (by rw [boot]) i).trans (shelf i)
      rmuUp := up
      mismatched := by rw [boot, ac]
      quality := quality
      chan := by rw [boot, ac]
      trays := by rw [boot, ac]
      chips := by rw [boot, ac]
      lockedChips := by rw [boot, ac]
      lockedTrays := by rw [boot, ac] }

theorem startRmu_runs (s : State) (r : PowerUpReadings) : RmuRuns s r ((s.startRmu r).loadSettings r).1 := by
  have torn := (bootRmu_runs s r).unitsSame (UnitsSame.of_recordsOnly (State.discardTorn_recordsOnly _ r.torn))
  exact (torn.unitsSame (UnitsSame.holdUnits torn.mismatched)).unitsSame (UnitsSame.loadSettings ..)

/-! ### Channels on (R250) -/

namespace State

theorem startChannels_frame (s : State) : s.startChannels = { s with chan := s.startChannels.chan } := by
  refine foldl_invariant (fun t : State => t = { s with chan := t.chan }) _ (fun t c h => ?_) _ _ rfl
  rw [modChan, h]

theorem mem_fedChannels {c : ChanId} (h : spareChannel c = false) : c ∈ fedChannels := by
  refine List.mem_filter.2 ⟨List.mem_flatMap.2 ⟨c.shelf, List.mem_finRange _, ?_⟩, by rw [h]; rfl⟩
  exact List.mem_map.2 ⟨c.ch, List.mem_finRange _, rfl⟩

/-- A channel that may is on. -/
theorem channel_startChannels_on {s : State} {c : ChanId} (fed : spareChannel c = false) (shut : s.opened c = false)
    (free : s.channelHeld c = false) : (s.startChannels.channel c).st = .on := by
  have mem : c ∈ fedChannels.filter fun c => !s.opened c && !s.channelHeld c :=
    List.mem_filter.2 ⟨mem_fedChannels fed, by simp [shut, free]⟩
  refine foldl_reaches (P := fun _ => True) (Q := fun t : State => (t.channel c).st = .on) mem ?_ (fun t _ => ?_)
    (fun t d _ _ h => ?_) trivial
  · exact fun _ _ _ h => h
  · rw [channel_modChan_self]
  · rw [channel_modChan]
    split
    · rfl
    · exact h

/-- An opened channel stays opened. -/
theorem channel_startChannels_opened {s : State} {c : ChanId} (h : s.opened c = true) : s.startChannels.channel c = s.channel c := by
  refine List.foldlRecOn (motive := fun t : State => t.channel c = s.channel c) _ _ rfl fun t ht d hd => ?_
  have shut := (List.mem_filter.1 hd).2
  rw [channel_modChan, if_neg, ht]
  rintro rfl
  simp [h] at shut

end State

/-! ### Units, and the rack ready -/

theorem Started.startUnits (s : State) (r : PowerUpReadings) : Started s (s.startUnits r) :=
  (((UnitsSame.setTrims s r).started.trans (startSwitches _)).trans (foldl _ (fun s y => startTray s r y) _ _)).trans
    ((startLinks _ r).trans (UnitsSame.log ..).started)

/-- The switch trays as their channels and identities leave them, before the host ports follow (R286). -/
def State.readSwitches (s : State) : State :=
  allSwitches.foldl (fun s i => s.modSw i fun _ =>
    { SwTray.init with up := !s.heldOut (unitSwitch i) && decide ((s.channel (switchChannel i)).st = .on) }) s

theorem State.startSwitches_eq (s : State) : s.startSwitches = (List.finRange 8).foldl State.portUp s.readSwitches := rfl

/-- Switch trays held out are down (R25). -/
theorem startSwitches_down {s : State} {i : SwId} (held : s.heldOut (unitSwitch i) = true) : (s.startSwitches.swt i).up = false := by
  rw [State.startSwitches_eq, State.swt_of_sw (foldl_keeps State.portUp State.sw (fun _ _ => rfl) _ s.readSwitches)]
  refine foldl_reaches (P := fun t : State => t.mismatched = s.mismatched) (Q := fun t : State => (t.swt i).up = false)
    (List.mem_finRange i) ?_ (fun t h => ?_) (fun t j _ h hi => ?_) ?_
  · exact fun _ _ _ h => h
  · rw [State.swt_modSw, if_pos rfl, State.heldOut_of_mismatched h, held]
    rfl
  · rw [State.swt_modSw]
    split
    · next e =>
      rw [← e, State.heldOut_of_mismatched h, held]
      rfl
    · exact hi
  · rfl

/-- The switch trays held out are down once the units have started. -/
theorem startUnits_switchDown {s : State} {i : SwId} (r : PowerUpReadings) (held : s.heldOut (unitSwitch i) = true) :
    ((s.startUnits r).swt i).up = false := by
  have trims := UnitsSame.setTrims s r
  have held : (s.setTrims r).heldOut (unitSwitch i) = true := (State.heldOut_of_mismatched trims.mismatched _).trans held
  have switches := Started.startSwitches (s.setTrims r)
  have rest : Started (s.setTrims r).startSwitches (s.startUnits r) :=
    (Started.foldl _ (fun s y => Started.startTray s r y) _ _).trans ((Started.startLinks _ r).trans (UnitsSame.log ..).started)
  exact rest.switchDown i ((State.heldOut_of_mismatched switches.mismatched _).trans held) (startSwitches_down held)

/-- The rack's parts start with its units as they are, and it is ready. -/
theorem startParts_frame (s : State) (r : PowerUpReadings) (lost : Bool) :
    Started s (s.startParts r lost) ∧ (s.startParts r lost).ready = true := by
  have idle : UnitsSame s { s with kr := { s.kr with dir := [] }, pw := { s.pw with drawW := idleW } } := UnitsSame.of_view rfl
  have placed := (idle.trans (UnitsSame.placeStored _ r.plan)).trans (UnitsSame.enterReset6 _ lost)
  have contact (s : State) : s.closeContact.ready = s.ready := by
    unfold State.closeContact
    dsimp only
    split <;> rfl
  unfold State.startParts
  dsimp only
  generalize (State.placeStored _ r.plan).enterReset6 lost = t at *
  have loops := LoopsOnly.rebudget { t with ready := true }
  have ready : UnitsSame t { t with ready := true } := UnitsSame.of_view rfl
  refine ⟨((placed.trans ready).started.trans (Started.of_loopsOnly loops)).trans (UnitsSame.closeContact _).started, ?_⟩
  rw [contact, loops.frame]

section

variable {s : State} {t : Nat} {r : PowerUpReadings}

theorem exec_powerUp_starts (down : s.ready = false) (ac : r.ac.any id = true) (shut : s.opened rmuChannel = false) :
    exec (.powerUp t r) s = .next ((s.tick t).start r) := if_pos ⟨down, ac, shut⟩

/-- A rack that runs, one whose RMU channel has opened, and one without AC do not start (R304). -/
theorem exec_powerUp_idle (h : s.ready = true ∨ s.opened rmuChannel = true ∨ r.ac.any id = false) :
    exec (.powerUp t r) s = .next (s.tick t) := by
  refine if_neg fun ⟨down, ac, shut⟩ => ?_
  have down : s.ready = false := down
  have shut : s.opened rmuChannel = false := shut
  rcases h with h | h | h
  · simp [down] at h
  · simp [shut] at h
  · simp [ac] at h

/-- The rack started: what holds of it follows from the RMU's start, the channels' and what the rest keeps. -/
theorem powerUp_starts (down : s.ready = false) (ac : r.ac.any id = true) (shut : s.opened rmuChannel = false) :
    let out := fun (x : BitVec 16) => (r.mismatched.map Prod.fst).contains x
    ∃ u, exec (.powerUp t r) s = .next u ∧ u.ready = true ∧ u.rmu.up = true ∧ u.mismatched = r.mismatched.map Prod.fst ∧
      (∀ i, (u.shelfOf i).ac = r.ac.getD i.val false ∧ (u.shelfOf i).conv = (r.ac.getD i.val false && !out (unitShelf i))) ∧
      (∀ c, spareChannel c = false → s.opened c = false → out (unitShelf c.shelf) = false ∨ c = rmuChannel →
        (u.channel c).st = .on ∨ ((u.channel c).st = .latched ∧ (u.channel c).cause = some 2)) ∧
      (∀ c, s.opened c = true → u.channel c = s.channel c) ∧
      (∀ n, out (unitChip n) = true → (u.chip n).power = (s.chip n).power) ∧
      (∀ i, out (unitSwitch i) = true → (u.swt i).up = false) ∧
      (∀ y, out (unitTray y) = true → (u.tray y).powered = (s.tray y).powered) ∧
      u.clk.quality = (if r.rtc.isSome then .starting else .unset) ∧ u.lockedChips = s.lockedChips ∧
      u.lockedTrays = s.lockedTrays ∧ ∀ y ∈ s.lockedTrays, (u.tray y).powered = (s.tray y).powered := by
  intro out
  have runs := startRmu_runs (s.tick t) r
  have run := (exec_powerUp_starts (t := t) down ac shut).trans (congrArg _ ((s.tick t).start_eq r))
  generalize (((s.tick t).startRmu r).loadSettings r).1 = a at *
  have held (x : BitVec 16) : a.heldOut x = out x := by rw [State.heldOut, runs.mismatched]
  have chan (c : ChanId) : a.channel c = s.channel c := State.channel_of_chan runs.chan c
  have opened (c : ChanId) : a.opened c = s.opened c := State.opened_of_channel (chan c)
  have on := a.startChannels_frame
  have onHeld (x : BitVec 16) : a.startChannels.heldOut x = out x := by rw [on]; exact held x
  have onChips : a.startChannels.chips = s.chips := by rw [on]; exact runs.chips
  have onTrays : a.startChannels.trays = s.trays := by rw [on]; exact runs.trays
  have parts := startParts_frame (a.startChannels.startUnits r) r (((s.tick t).startRmu r).loadSettings r).2
  have rest := (Started.startUnits a.startChannels r).trans parts.1
  refine ⟨_, run, parts.2, ?rmu, ?mismatched, fun i => ?shelf, fun c fed shut free => ?on, fun c shut => ?kept, fun n hn => ?chip,
    fun i hi => ?switch, fun y hy => ?tray, ?quality, ?chips, ?trays, fun y hy => ?locked⟩
  case rmu => exact rest.rmuUp.trans (by rw [on]; exact runs.rmuUp)
  case mismatched => exact rest.mismatched.trans (by rw [on]; exact runs.mismatched)
  case shelf =>
    have here := (State.shelfOf_of_shelf rest.shelf i).trans ((State.shelfOf_of_shelf (by rw [on]) i).trans (runs.shelf i))
    exact ⟨congrArg Shelf.ac here, congrArg Shelf.conv here⟩
  case on =>
    have may : a.channelHeld c = false := by
      rw [State.channelHeld, held]
      rcases free with h | h <;> simp [h]
    rcases rest.channel c with same | ⟨-, cut⟩
    · rw [same]
      exact Or.inl (State.channel_startChannels_on fed ((opened c).trans shut) may)
    · exact Or.inr cut
  case kept =>
    have before := State.channel_startChannels_opened ((opened c).trans shut)
    rcases rest.channel c with same | ⟨unopened, -⟩
    · exact same.trans (before.trans (chan c))
    · rw [State.opened_of_channel before, opened, shut] at unopened
      cases unopened
  case chip =>
    rw [rest.chipPower n ((onHeld _).trans hn), State.chip_of_chips onChips]
  case switch =>
    exact parts.1.switchDown i
      (by rw [State.heldOut_of_mismatched (Started.startUnits a.startChannels r).mismatched, onHeld]; exact hi)
      (startUnits_switchDown r ((onHeld _).trans hi))
  case tray =>
    rw [rest.powered y (Or.inl ((onHeld _).trans hy)), State.tray_of_trays onTrays]
  case quality => exact rest.quality.trans (by rw [on]; exact runs.quality)
  case chips => exact rest.lockedChips.trans (by rw [on]; exact runs.lockedChips)
  case trays => exact rest.lockedTrays.trans (by rw [on]; exact runs.lockedTrays)
  case locked =>
    have here : y ∈ a.startChannels.lockedTrays := by
      rw [on]
      exact runs.lockedTrays ▸ hy
    rw [rest.powered y (Or.inr here), State.tray_of_trays onTrays]

end

end Sys2Proof.Machine
end

section
/-! SUPPORT. The acceptance test (R310, R311): a phase works on both sides of every link that has not passed, and gives way to the
next. -/

namespace Sys2Proof.Machine

/-! ### One link's phase -/

theorem port_of_mem_allLinks {l : LinkId} (h : l ∈ allLinks) :
    l.port.val = 0 ∨ l.port.val = 2 ∨ l.port.val = 4 ∨ l.port.val = 6 ∨ l.port.val = 7 := by
  obtain ⟨n, -, hn⟩ := List.mem_flatMap.1 h
  obtain ⟨p, hp, rfl⟩ := List.mem_map.1 hn
  have listed : ∀ p ∈ ([0, 2, 4, 6, 7] : List PortId), p.val = 0 ∨ p.val = 2 ∨ p.val = 4 ∨ p.val = 6 ∨ p.val = 7 := by decide
  exact listed p hp

/-- A link is named by its + end: the far end of a torus link is no link of the list. -/
theorem reverseLink_ne {l k : LinkId} (hl : l ∈ allLinks) (hk : k ∈ allLinks) (torus : k.port.val < 6) : l ≠ reverseLink k := by
  rintro rfl
  have near := port_of_mem_allLinks hk
  have far := port_of_mem_allLinks hl
  simp only [reverseLink, oppositePort, if_pos torus] at far
  split at far <;> omega

namespace State

variable (s : State)

/-- A change on both sides of a link is, among the links, a change of that link. -/
theorem link_modSides {l k : LinkId} (hl : l ∈ allLinks) (hk : k ∈ allLinks) (f : Link → Link) :
    (s.modSides k f).link l = if l = k then f (s.link k) else s.link l := by
  have far : (s.modSides k f).link l = (s.modLink k f).link l := by
    unfold modSides modFar
    split
    · next torus => rw [link_modLink, if_neg (reverseLink_ne hl hk torus)]
    · rfl
  rw [far, link_modLink]

@[simp] theorem modSides_parts (l : LinkId) (f : Link → Link) : (s.modSides l f).parts = s.parts := by
  unfold modSides modFar
  split <;> rfl

@[simp] theorem modSides_clk (l : LinkId) (f : Link → Link) : (s.modSides l f).clk = s.clk := by
  unfold modSides modFar
  split <;> rfl

@[simp] theorem modSides_hbm (l : LinkId) (f : Link → Link) : (s.modSides l f).hbm = s.hbm := by
  unfold modSides modFar
  split <;> rfl

end State

/-! ### The phases -/

/-- A phase's result for a link among those given, or the result of a link without one (R311). -/
def resultOf (rs : List (LinkId × List Nat)) (none : List Nat) (l : LinkId) : List Nat :=
  ((rs.find? fun e => e.1 = l).map Prod.snd).getD none

theorem resultOf_found {rs : List (LinkId × List Nat)} {l : LinkId} {xs : List Nat}
    (h : (rs.find? fun e => e.1 = l) = some (l, xs)) (none : List Nat) : resultOf rs none l = xs := by
  rw [resultOf, h]
  rfl

namespace State

/-- The links that have not passed. -/
def toTest (s : State) : List LinkId := allLinks.filter fun l => !(s.link l).passed

/-- The lane phase's results. -/
def laneStep (rs : List (LinkId × List Nat)) (s : State) (l : LinkId) : State :=
  s.modSides l (Link.laneResult (resultOf rs (List.replicate 8 1000000000000) l))

/-- The codeword phase's results. -/
def codeStep (rs : List (LinkId × List Nat)) (s : State) (l : LinkId) : State :=
  (s.modSides l (Link.codeResult ((resultOf rs [1, 1] l).getD 0 0) ((resultOf rs [1, 1] l).getD 1 0))).logAccept l

theorem mem_allLinks_of_toTest {s : State} {l : LinkId} (h : l ∈ s.toTest) : l ∈ allLinks := List.mem_of_mem_filter h

theorem mem_toTest {s : State} {l : LinkId} (h : l ∈ allLinks) (open_ : (s.link l).passed = false) : l ∈ s.toTest :=
  List.mem_filter.2 ⟨h, by rw [open_]; rfl⟩

theorem link_codeStep (rs : List (LinkId × List Nat)) (s : State) (l k : LinkId) :
    (s.codeStep rs k).link l =
      (s.modSides k (Link.codeResult ((resultOf rs [1, 1] k).getD 0 0) ((resultOf rs [1, 1] k).getD 1 0))).link l := rfl

/-- A lane whose bit error rate is too high has failed, on every link tested (R311). -/
theorem laneFailed_tested {s : State} {rs : List (LinkId × List Nat)} {l : LinkId} {bers : List Nat} (hl : l ∈ allLinks)
    (untested : (s.link l).passed = false) (found : (rs.find? fun e => e.1 = l) = some (l, bers)) :
    ((s.toTest.foldl (laneStep rs) s).link l).laneFailed = (List.range 8).filter fun i => laneFails (bers.getD i 0) := by
  have result : ∀ k : Link, (k.laneResult (resultOf rs (List.replicate 8 1000000000000) l)).laneFailed =
      (List.range 8).filter fun i => laneFails (bers.getD i 0) := fun k => by
    rw [resultOf_found found]
    rfl
  refine foldl_reaches (P := fun _ => True)
    (Q := fun t : State => (t.link l).laneFailed = (List.range 8).filter fun i => laneFails (bers.getD i 0)) (mem_toTest hl untested)
    (fun _ _ _ _ => trivial) (fun t _ => ?_) (fun t k hk _ h => ?_) trivial
  · rw [laneStep, link_modSides t hl hl, if_pos rfl, result]
  · rw [laneStep, link_modSides t hl (mem_allLinks_of_toTest hk)]
    split
    · next e => rw [← e, result]
    · exact h

/-- A link without a failed lane, a wrong codeword or a failed CRC has passed (R311). -/
theorem accept_passed {s : State} {rs : List (LinkId × List Nat)} {l : LinkId} (hl : l ∈ allLinks)
    (untested : (s.link l).passed = false) (lanes : (s.link l).laneFailed = [])
    (found : (rs.find? fun e => e.1 = l) = some (l, [0, 0])) : ((s.toTest.foldl (codeStep rs) s).link l).accept = 1 := by
  have verdict : ∀ k : Link, k.laneFailed = [] →
      (k.codeResult ((resultOf rs [1, 1] l).getD 0 0) ((resultOf rs [1, 1] l).getD 1 0)).accept = 1 := fun k hk => by
    simp [resultOf_found found, Link.codeResult, Link.verdict, hk]
  have kept : ∀ (t : State) (k : LinkId), k ∈ s.toTest → (t.link l).laneFailed = [] → ((t.codeStep rs k).link l).laneFailed = [] :=
    fun t k hk h => by
      rw [link_codeStep, link_modSides t hl (mem_allLinks_of_toTest hk)]
      split
      · next e => exact (congrArg (fun j => (t.link j).laneFailed) e).symm.trans h
      · exact h
  refine foldl_reaches (P := fun t : State => (t.link l).laneFailed = []) (Q := fun t : State => (t.link l).accept = 1)
    (mem_toTest hl untested) kept (fun t h => ?_) (fun t k hk h passed => ?_) lanes
  · rw [link_codeStep, link_modSides t hl hl, if_pos rfl, verdict _ h]
  · rw [link_codeStep, link_modSides t hl (mem_allLinks_of_toTest hk)]
    split
    · next e => rw [← e, verdict _ h]
    · exact passed

theorem laneSteps_keep (s : State) (rs : List (LinkId × List Nat)) (ls : List LinkId) :
    (ls.foldl (laneStep rs) s).parts = s.parts ∧ (ls.foldl (laneStep rs) s).hbm = s.hbm ∧ (ls.foldl (laneStep rs) s).clk = s.clk :=
  ⟨foldl_keeps (laneStep rs) State.parts (fun t l => t.modSides_parts l _) ls s,
    foldl_keeps (laneStep rs) State.hbm (fun t l => t.modSides_hbm l _) ls s,
    foldl_keeps (laneStep rs) State.clk (fun t l => t.modSides_clk l _) ls s⟩

theorem codeSteps_keep (s : State) (rs : List (LinkId × List Nat)) (ls : List LinkId) :
    (ls.foldl (codeStep rs) s).parts = s.parts ∧ (ls.foldl (codeStep rs) s).hbm = s.hbm :=
  ⟨foldl_keeps (codeStep rs) State.parts (fun t l => t.modSides_parts l _) ls s,
    foldl_keeps (codeStep rs) State.hbm (fun t l => t.modSides_hbm l _) ls s⟩

/-- A rack-scope value written is in force. -/
theorem rackSet_writeRun (s : State) (id : BitVec 16) (v : List Byte) : (s.writeRun (id, .rack) v).rackSet id = ofBe v := by
  change ofBe (Tab.get (s.writeRun (id, .rack) v).cfg.running (setDefault id) (id, .rack)) = ofBe v
  rw [running_writeRun, if_pos rfl]

/-- The rack-wide verdict: 2 once every link has passed, else 3 (R311). -/
def acceptVerdict (s : State) : Byte := if allLinks.all fun l => (s.link l).passed then 2 else 3

theorem ofBe_acceptVerdict (s : State) : ofBe [s.acceptVerdict] = if allLinks.all fun l => (s.link l).passed then 2 else 3 := by
  unfold acceptVerdict
  split <;> rfl

end State

section

variable {s : State} {t : Nat} {rs : List (LinkId × List Nat)}

theorem exec_acceptTestPhaseEnd_lane (phase : s.accept.phase = 1) (past : s.accept.since + 60000000000 ≤ (s.tick t).osc) :
    exec (.acceptTestPhaseEnd t rs) s =
      .next { (s.tick t).toTest.foldl (State.laneStep rs) (s.tick t) with
        accept := { phase := 2, since := ((s.tick t).toTest.foldl (State.laneStep rs) (s.tick t)).osc } } := by
  have hphase : (s.tick t).accept.phase = 1 := phase
  refine (if_pos past).trans ?_
  simp only [hphase]
  rfl

theorem exec_acceptTestPhaseEnd_codeword (phase : s.accept.phase = 2) (past : s.accept.since + 60000000000 ≤ (s.tick t).osc) :
    exec (.acceptTestPhaseEnd t rs) s =
      .next { ((s.tick t).toTest.foldl (State.codeStep rs) (s.tick t)).writeRun (0x0304#16, .rack)
          [((s.tick t).toTest.foldl (State.codeStep rs) (s.tick t)).acceptVerdict] with
        accept := { phase := 0, since := ((s.tick t).toTest.foldl (State.codeStep rs) (s.tick t)).osc } } := by
  have hphase : (s.tick t).accept.phase = 2 := phase
  refine (if_pos past).trans ?_
  simp only [hphase]
  rfl

end

/-- Settles O53: POWER_UP from what its stages keep, and each phase of the acceptance test from what it does to one link. -/
theorem startCompletes : Obligations.StartCompletes := by
  intro s t
  refine ⟨fun r => powerUp_starts, fun r => exec_powerUp_idle, fun rs phase past => ?lane, fun rs phase past => ?codeword⟩
  case lane =>
    obtain ⟨parts, hbm, clk⟩ := State.laneSteps_keep (s.tick t) rs (s.tick t).toTest
    exact ⟨_, exec_acceptTestPhaseEnd_lane phase past, rfl, congrArg Clock.osc clk,
      fun l hl untested bers found => State.laneFailed_tested (s := s.tick t) hl untested found, parts, hbm⟩
  case codeword =>
    obtain ⟨parts, hbm⟩ := State.codeSteps_keep (s.tick t) rs (s.tick t).toTest
    exact ⟨_, exec_acceptTestPhaseEnd_codeword phase past, rfl, (State.rackSet_writeRun ..).trans (State.ofBe_acceptVerdict _),
      fun l hl untested lanes found => State.accept_passed (s := s.tick t) hl untested lanes found, parts, hbm⟩

end Sys2Proof.Machine
end

section
/-! SUPPORT. A command whose checks pass is answered with what its handler answers (R58, R61, R64), and the handlers that ask about a
request, forget a delta base or load a tokeniser table (R69, R71, R75, R209, R210, R219). -/

namespace Sys2Proof.Machine

open Sys2Proof.Safety

/-! ### From the handler to the reply -/

section

variable {i : Instr} {s : State} {t : Nat} {h : Hdr} {b : Body} {e : Ep} {q : Session}

/-- The arrival of a command changes its session, and the clock as it ticks. -/
theorem arrived_frame (s : State) (t : Nat) (h : Hdr) (b : Body) (e : Ep) (n : SessRef) : EventsOnly (s.tick t) (arrived s t h b e n) :=
  (EventsOnly.modSession _ e n _).trans (EventsOnly.modSession _ e n _)

/-- A command that passes its checks, its lookup aside, is answered as its handler answers (R58, R61). -/
theorem replies_of_runOp {r : Res} (packet : packetOf i = some (t, h, b)) (ready : Ready s t h b e q)
    (lookup : ∀ a n m, b ≠ .krLookup a n m) (run : runOp (ctxAt s t h b e q) b (arrived s t h b e q.ref) = r)
    (now : r.later = false) (sound : r.status ≠ St.internalError) : Replies i s t h b e q r.s r.status r.body := by
  have epoch : ¬((ctxAt s t h b e q).h.epoch ≠ 0 ∧ (ctxAt s t h b e q).h.epoch ≠ (ctxAt s t h b e q).epoch) :=
    fun x => x.1 ready.epoch
  have dumped : dumpFault r = r := if_neg sound
  have body : runBody (ctxAt s t h b e q) b (arrived s t h b e q.ref) = r := by
    simp only [runBody, ready.checked, if_neg epoch, ready.available, run, dumped]
    cases b with
    | krLookup a n m => exact absurd rfl (lookup a n m)
    | _ => rfl
  have context : ctxOf (arrived s t h b e q.ref) e q.ref h (s.tick t).rackNs = ctxAt s t h b e q := rfl
  rw [Replies, exec_inTurn packet ready.toInTurn, State.runAnswer]
  simp only [context, body, now]
  rfl

/-- A command whose handler ends it at once is answered OK. -/
theorem replies_ok {u : State} {body : List Byte} (packet : packetOf i = some (t, h, b)) (ready : Ready s t h b e q)
    (lookup : ∀ a n m, b ≠ .krLookup a n m)
    (run : runOp (ctxAt s t h b e q) b (arrived s t h b e q.ref) = Res.ok u body) : Replies i s t h b e q u St.ok body :=
  replies_of_runOp packet ready lookup run rfl (show St.ok ≠ St.internalError by decide)

end

/-! ### The handlers -/

section

variable {c : Ctx} {s : State} {k : KwId} {g : BitVec 64} {r : Request}

theorem runOp_reqCancel_open (kw : c.kw? = some k) (found : s.request? k g = some r) (isOpen : r.isOpen = true) :
    runOp c (.reqCancel g) s = Res.ok (s.endRequest k g St.cancelled) [0] := by
  simp only [runOp, opReqCancel, kw, found, isOpen, if_true]

theorem runOp_reqCancel_complete (kw : c.kw? = some k) (found : s.request? k g = some r) (isOpen : r.isOpen = false) :
    runOp c (.reqCancel g) s = Res.ok s [1] := by
  simp only [runOp, opReqCancel, kw, found, isOpen, Bool.false_eq_true, if_false]

theorem State.reqState_complete (h : r.stage = .complete) : s.reqState r = 3 := by simp only [State.reqState, h]

theorem State.reqState_decoding (h : r.stage = .decoding) : s.reqState r = 2 := by simp only [State.reqState, h]

/-- Before decoding, a request is in prefill once a chunk of it is done or in the batch that is taken (R71). -/
theorem State.reqState_before (complete : r.stage ≠ .complete) (decoding : r.stage ≠ .decoding) :
    s.reqState r =
      if decide (0 < r.chunk) || ((s.part r.part).bind fun v => v.takenChunk r.kw r.tag).isSome then 1 else 0 := by
  unfold State.reqState
  split
  · next h => exact absurd h complete
  · next h => exact absurd h decoding
  · rfl

theorem State.reqState_prefill (complete : r.stage ≠ .complete) (decoding : r.stage ≠ .decoding)
    (begun : 0 < r.chunk ∨ ∃ v x, s.part r.part = some v ∧ v.takenChunk r.kw r.tag = some x) : s.reqState r = 1 := by
  rw [State.reqState_before complete decoding, if_pos]
  obtain begun | ⟨v, x, part, taken⟩ := begun
  · simp [begun]
  · simp [part, taken]

theorem State.reqState_queued (complete : r.stage ≠ .complete) (decoding : r.stage ≠ .decoding) (fresh : r.chunk = 0)
    (untaken : ∀ v, s.part r.part = some v → v.takenChunk r.kw r.tag = none) : s.reqState r = 0 := by
  rw [State.reqState_before complete decoding, if_neg]
  cases part : s.part r.part with
  | none => simp [fresh]
  | some v => simp [fresh, untaken v part]

theorem runOp_reqStatus_of_state (kw : c.kw? = some k) (found : s.request? k g = some r) {n : Nat} (state : s.reqState r = n) :
    runOp c (.reqStatus g) s = Res.ok s (BitVec.ofNat 8 n :: (if n = 3 ∧ r.resetBy = none then r.record else [])) := by
  simp only [runOp, opReqStatus, kw, found, state]

theorem runOp_reqTokens_found (kw : c.kw? = some k) (found : s.request? k g = some r) (first : BitVec 32) (n : BitVec 16) :
    runOp c (.reqTokens g first n) s = Res.ok s (((r.generated.drop first.toNat).take n.toNat).flatMap fun x => be 4 x.toNat) := by
  simp only [runOp, opReqTokens, kw, found]

/-- The completion record is six 4-byte and two 2-byte counts, and eight 8-byte marks (R75). -/
theorem Request.record_length (r : Request) : r.record.length = 92 := by simp [Request.record]

end

/-! ### Tokeniser tables (R209, R210) -/

section

variable {c : Ctx} {s : State} {p : PartId} {v : Part} {m : BitVec 32} {addr : Addr}

theorem runOp_tokLoad_absent (owns : c.part? s = some p) (part : s.part p = some v)
    (absent : (v.tables.find? fun x => x.model = m) = none) : runOp c (.tokLoad m addr 0) s = Res.ok s (be 4 0) := by
  simp only [runOp, opTokLoad, owns, part, absent, if_true]

theorem runOp_tokLoad_unloads (owns : c.part? s = some p) (part : s.part p = some v) {x : TokTable}
    (present : (v.tables.find? fun x => x.model = m) = some x) (idle : s.modelReqs p m = []) :
    runOp c (.tokLoad m addr 0) s = Res.ok (s.retable p m none) (be 4 0) := by
  simp only [runOp, opTokLoad, owns, part, present, idle, List.isEmpty_nil, Bool.not_true, Bool.false_and, Bool.false_eq_true,
    if_true, if_false]

theorem runOp_tokLoad_loads {len : BitVec 64} {x : TokTable} (owns : c.part? s = some p) (part : s.part p = some v) (nonempty : len ≠ 0)
    (absent : (v.tables.find? fun y => y.model = m) = none) (sound : parseTable (s.tread p addr len.toNat) m = some x)
    (fits : tablesFit v ({ x with chips := (s.serviceChips v).take 2 } :: v.tables) = true) :
    runOp c (.tokLoad m addr len) s =
      Res.ok (s.setPart p (some { v with tables := v.tables ++ [{ x with chips := (s.serviceChips v).take 2 }] }))
        (be 4 x.vocab.length) := by
  simp only [runOp, opTokLoad, owns, part, absent, sound, fits, if_neg nonempty, if_true]

/-- The bases discarded with a model are sessions' own (R219). -/
theorem State.dropModelBases_frame (s : State) (p : PartId) (m : BitVec 32) :
    EventsOnly s (s.dropModelBases p m) :=
  EventsOnly.foldl _ (fun s k => EventsOnly.modEp s (.kw k) _) _ _

/-- A table unloaded while no request of its model is open leaves its partition's list, and no memory or request changes (R210). -/
theorem State.retable_unloads (part : s.part p = some v) (idle : s.modelReqs p m = []) :
    (s.retable p m none).part p = some { v with tables := v.tables.filter fun x => x.model ≠ m } ∧
      (s.retable p m none).hbm = s.hbm ∧ (s.retable p m none).reqs = s.reqs := by
  have frame := s.dropModelBases_frame p m
  have here : (s.dropModelBases p m).part p = some v := by rw [State.part, frame.parts, ← part, State.part]
  simp only [State.retable, idle, State.endRequests, List.foldl_nil, State.part_modPart_self, here, Option.map_some,
    State.modPart_hbm, State.modPart_reqs, frame.hbm, frame.reqs, Option.toList_none, List.append_nil, and_self]

end

/-! ### The statement about them -/

section

variable {s : State} {t : Nat} {h : Hdr} {k : KwId} {q : Session}

theorem reqStatus_replies {g : BitVec 64} {r : Request} (ready : Ready s t h (.reqStatus g) (.kw k) q)
    (found : (arrived s t h (.reqStatus g) (.kw k) q.ref).request? k g = some r) {n : Nat}
    (state : (arrived s t h (.reqStatus g) (.kw k) q.ref).reqState r = n) :
    Replies (.reqStatus t h g) s t h (.reqStatus g) (.kw k) q (arrived s t h (.reqStatus g) (.kw k) q.ref) St.ok
      (BitVec.ofNat 8 n :: (if n = 3 ∧ r.resetBy = none then r.record else [])) :=
  replies_ok rfl ready nofun (runOp_reqStatus_of_state rfl found state)

end

/-- Settles O19: each handler's answer, carried to the reply. -/
theorem requestQueriesComplete : Obligations.RequestQueriesComplete := by
  refine ⟨fun s t h k q => ⟨fun g r ready found => ⟨fun isOpen => ?_, fun isOpen => ?_⟩,
      fun g r ready found => ⟨?_, ?_, ?_, ?_⟩,
      fun g first n r ready found => replies_ok rfl ready nofun (runOp_reqTokens_found rfl found first n),
      fun ready => replies_ok rfl ready nofun rfl, fun m addr p v ready owns part => ⟨fun absent => ?_, fun x present idle => ?_⟩⟩,
    Request.record_length, fun s t h k q p v m addr len x ready owns part nonempty absent sound fits => ?_⟩
  · exact replies_ok rfl ready nofun (runOp_reqCancel_open rfl found isOpen)
  · exact replies_ok rfl ready nofun (runOp_reqCancel_complete rfl found isOpen)
  · intro decoding
    exact reqStatus_replies ready found (State.reqState_decoding decoding)
  · intro complete kept
    have reply := reqStatus_replies ready found (State.reqState_complete complete)
    rwa [if_pos ⟨rfl, kept⟩] at reply
  · intro complete lost
    have reply := reqStatus_replies ready found (State.reqState_complete complete)
    rwa [if_neg fun x => lost x.2] at reply
  · intro complete decoding
    exact ⟨fun fresh untaken => reqStatus_replies ready found (State.reqState_queued complete decoding fresh untaken),
      fun begun => reqStatus_replies ready found (State.reqState_prefill complete decoding begun)⟩
  · exact replies_ok rfl ready nofun (runOp_tokLoad_absent owns part absent)
  · obtain ⟨unloaded, hbm, reqs⟩ := State.retable_unloads part idle
    have same := arrived_frame s t h (.tokLoad m addr 0) (.kw k) q.ref
    exact ⟨_, _, replies_ok rfl ready nofun (runOp_tokLoad_unloads owns part present idle), unloaded, rfl, rfl, rfl,
      hbm.trans same.hbm, reqs.trans same.reqs⟩
  · exact replies_ok rfl ready nofun (runOp_tokLoad_loads owns part nonempty absent sound fits)

end Sys2Proof.Machine
end

section
/-! SUPPORT. Requests in their list: what is found under a tag after a request changes, and which of the shared operations leave every
request and HBM as they were. -/

namespace Sys2Proof.Machine

/-! ### A request under its tag -/

namespace State

variable {s u : State} {k : KwId} {g : BitVec 64} {r : Request}

theorem kw_of_request (found : s.request? k g = some r) : r.kw = k := by
  have h := List.find?_some found
  simp only [Bool.and_eq_true, decide_eq_true_eq] at h
  exact h.1

theorem tag_of_request (found : s.request? k g = some r) : r.tag = g := by
  have h := List.find?_some found
  simp only [Bool.and_eq_true, decide_eq_true_eq] at h
  exact h.2

theorem request_of_reqs (h : u.reqs = s.reqs) (k : KwId) (g : BitVec 64) : u.request? k g = s.request? k g := by
  rw [request?, h, request?]

/-- A change that keeps what a request is called changes what is found under its tag. -/
theorem request_modReq {f : Request → Request} (kw : ∀ x, (f x).kw = x.kw) (tag : ∀ x, (f x).tag = x.tag)
    (found : s.request? k g = some r) : (s.modReq k g f).request? k g = some (f r) := by
  have same : ∀ x : Request, ((if x.kw = k && x.tag = g then f x else x).kw = k && (if x.kw = k && x.tag = g then f x else x).tag = g) =
      (x.kw = k && x.tag = g) := fun x => by split <;> simp [kw, tag]
  have named : (r.kw = k && r.tag = g) = true := by rw [kw_of_request found, tag_of_request found]; simp
  simp only [request?, modReq, List.find?_map, Function.comp_def, same] at found ⊢
  rw [found, Option.map_some, if_pos named]

theorem modReq_reqs (f : Request → Request) :
    (s.modReq k g f).reqs = s.reqs.map fun r => if r.kw = k && r.tag = g then f r else r := rfl

/-- Second reads noted change the request's lists of them (R200). -/
theorem request_noteRequest (found : s.request? k g = some r) (new : List (Nat × Fin 64) × List Nat) :
    (s.noteRequest r new).request? k g =
      some { r with reread := addNew r.reread new.1, holes := addNew r.holes new.2 } := by
  obtain rfl := kw_of_request found
  obtain rfl := tag_of_request found
  exact request_modReq (f := fun x => { x with reread := addNew r.reread new.1, holes := addNew r.holes new.2 })
    (fun _ => rfl) (fun _ => rfl) found

end State

theorem addNew_nil {α : Type} [DecidableEq α] (xs : List α) : addNew xs [] = xs := by simp [addNew]

theorem mem_addNew {α : Type} [DecidableEq α] {xs ys : List α} {a : α} (h : a ∈ ys) : a ∈ addNew xs ys := by
  by_cases old : a ∈ xs <;> simp [addNew, h, old]

/-! ### What leaves requests and HBM alone -/

/-- Every request and HBM are as they were. -/
structure KeepsRequests (s t : State) : Prop where
  reqs : t.reqs = s.reqs
  hbm : t.hbm = s.hbm

namespace KeepsRequests

variable {s t u : State}

theorem refl (s : State) : KeepsRequests s s := ⟨rfl, rfl⟩

theorem trans (h : KeepsRequests s t) (g : KeepsRequests t u) : KeepsRequests s u :=
  ⟨g.reqs.trans h.reqs, g.hbm.trans h.hbm⟩

theorem foldl {α : Type} (f : State → α → State) (h : ∀ s a, KeepsRequests s (f s a)) (l : List α) (s : State) :
    KeepsRequests s (l.foldl f s) :=
  foldl_invariant (KeepsRequests s) f (fun b a hb => hb.trans (h b a)) l s (refl s)

theorem of_eventsOnly (h : EventsOnly s t) : KeepsRequests s t := ⟨h.reqs, h.hbm⟩

theorem modPart (s : State) (p : PartId) (f : Part → Part) : KeepsRequests s (s.modPart p f) :=
  ⟨s.modPart_reqs p f, s.modPart_hbm p f⟩

theorem ingestBump (s : State) (p : PartId) (i n : Nat) : KeepsRequests s (s.ingestBump p i n) := modPart ..

theorem krBump (s : State) (k : KwId) (i n : Nat) : KeepsRequests s (s.krBump k i n) := ⟨rfl, rfl⟩

theorem lateSources (s : State) (r : Request) : KeepsRequests s (s.lateSources r) :=
  foldl _ (fun s _ => (of_eventsOnly (EventsOnly.raiseS s ..)).trans (ingestBump ..)) _ _

theorem closeBatch (s : State) (p : PartId) (n : Nat) : KeepsRequests s (s.closeBatch p n) := modPart ..

theorem closeFull (s : State) (p : PartId) (n : Nat) (full : Bool) : KeepsRequests s (if full then s.closeBatch p n else s) := by
  split
  · exact closeBatch ..
  · exact refl s

theorem joinFormer (s : State) (k : KwId) (g : BitVec 64) : KeepsRequests s (s.joinFormer k g) := by
  unfold State.joinFormer
  split
  · exact refl s
  · dsimp only
    split
    · exact refl s
    · split
      · exact trans (t := s.setPart _ _) ⟨rfl, rfl⟩ (closeFull ..)
      · exact trans (t := s.setPart _ _) ⟨rfl, rfl⟩ (closeFull ..)

theorem useBlocks (s : State) (p : PartId) (fs : List (Fin 128 × BitVec 128 × Bool)) : KeepsRequests s (s.useBlocks p fs) :=
  ⟨by simp [State.useBlocks], by simp [State.useBlocks]⟩

theorem addHotN (p : PartId) (b : HotBlock) (n : Nat) (s : State) : KeepsRequests s (s.addHotN p b n) := by
  induction n generalizing s with
  | zero => exact refl s
  | succ n ih =>
    unfold State.addHotN
    split
    · exact refl s
    · split
      · exact ⟨rfl, rfl⟩
      · split
        · exact refl s
        · exact trans (t := s.setPart p _) ⟨rfl, rfl⟩ (ih _)

theorem addHot (s : State) (p : PartId) (b : HotBlock) : KeepsRequests s (s.addHot p b) := by
  unfold State.addHot
  split
  · exact refl s
  · split
    · exact refl s
    · exact addHotN ..

theorem warmToHot (s : State) (p : PartId) (bs : List (Fin 128 × BitVec 128)) : KeepsRequests s (s.warmToHot p bs) := by
  refine foldl _ (fun s b => ?_) bs s
  split
  · exact addHot ..
  · exact refl s

/-- Packets leave a switch; nothing a request holds changes (R149). -/
theorem switchSend {sw : SwId} {p : PartId} {n : ChipId} {host : Bool} {pkts : List NetPkt} {x : State × List Nat}
    (sent : s.switchSend sw p n host pkts = some x) : KeepsRequests s x.1 := by
  obtain ⟨w, -, sent⟩ := Option.bind_eq_some_iff.1 sent
  dsimp only at sent
  split at sent
  · cases sent
  · cases sent
    exact (foldl _ (fun s _ => of_eventsOnly (EventsOnly.emit s _)) _ _).trans ⟨rfl, rfl⟩

theorem sendGranule (s : State) (p : PartId) (n : ChipId) (raddr : Addr) (w : WarmBlock) (g : Fin 64) (trays : List SwId) :
    KeepsRequests s (s.sendGranule p n raddr w g trays) := by
  unfold State.sendGranule
  split
  · cases sent : s.switchSend _ p n false (firmwarePkts .vault n n p raddr (granuleBytes w.data w.kvb g.val)) with
    | none => exact refl s
    | some x => exact switchSend sent
  · exact refl s

theorem sendBlocks (s : State) (p : PartId) (dest : Nat → Fin 64 → ChipId × Addr) (bs : List (Nat × WarmBlock)) :
    KeepsRequests s (s.sendBlocks p dest bs) :=
  foldl _ (fun s _ => foldl _ (fun _ _ => sendGranule ..) _ s) bs s

end KeepsRequests

namespace State

/-- Tokens written to the ring change no request (R216). -/
theorem writeRing_reqs (s : State) (p : PartId) (toks : List (BitVec 32)) : (s.writeRing p toks).reqs = s.reqs := by
  unfold writeRing
  split
  · rfl
  · split
    · rfl
    · split
      · refine (useFresh_reqs _ 1).trans ?_
        refine foldl_keeps _ State.reqs ?_ toks.zipIdx s
        exact fun _ _ => rfl
      · rfl

theorem fetchWarm_hbm (s : State) (k : KwId) (g : BitVec 64) : (s.fetchWarm k g).hbm = s.hbm := by
  unfold fetchWarm
  split
  · rfl
  · split
    · rfl
    · exact (KeepsRequests.sendBlocks ..).hbm

/-- A request whose warm blocks are sent has at most its second reads noted (R29, R200). -/
theorem request_fetchWarm {s : State} {k : KwId} {g : BitVec 64} {r : Request} (found : s.request? k g = some r) :
    ∃ re ho, (s.fetchWarm k g).request? k g = some { r with reread := re, holes := ho } := by
  simp only [fetchWarm, found]
  split
  · exact ⟨_, _, found⟩
  · exact ⟨_, _, (request_of_reqs (KeepsRequests.sendBlocks ..).reqs k g).trans (request_noteRequest found _)⟩

end State

end Sys2Proof.Machine
end

section
/-! SUPPORT. The stages of a request up to its batch (R29, R30, R35, R213 to R218): what each row does to the request it names, and
the statement about them. -/

namespace Sys2Proof.Machine

section

variable {s : State} {t : Nat} {k : KwId} {g : BitVec 64} {r : Request}

/-! ### Alignment, assembly and tokenising (R213 to R216) -/

theorem exec_alignDeadline (found : s.request? k g = some r) (receiving : r.stage = .receiving) (waits : r.fusing = false)
    (due : r.rx + r.window ≤ (s.tick t).rackNs) :
    exec (.alignDeadline t k g) s = .next (((s.tick t).lateSources r).modReq k g fun r =>
      { r with fusing := true, sources := r.sources.filter fun x => x.accepted }) := by
  have found : (s.tick t).request? k g = some r := found
  change execAlignDeadline t k g s = _
  simp only [execAlignDeadline, found]
  exact if_pos ⟨receiving, waits, due⟩

theorem exec_asm (runs : s.ingestRuns r.part = true) (found : s.request? k g = some r) (receiving : r.stage = .receiving)
    (settled : r.fusing = true ∨ r.allAccepted = true) :
    exec (.asm t k g) s = .next ((s.tick t).modReq k g fun r =>
      { r.mark 1 (s.tick t).rackNs with
        stage := .assembled, sources := r.sources.map fun x => { x with text := .text ((s.tick t).sourceText r.part x.text) } }) := by
  have found : (s.tick t).request? k g = some r := found
  change execAsm t k g s = _
  simp only [execAsm, found]
  exact if_pos ⟨receiving, settled, runs⟩

theorem State.ingestBump_rackNs (s : State) (p : PartId) (i n : Nat) : (s.ingestBump p i n).rackNs = s.rackNs := by
  simp [State.rackNs, State.ingestBump]

theorem exec_tok (runs : s.ingestRuns r.part = true) (found : s.request? k g = some r) (assembled : r.stage = .assembled)
    {tb : TokTable} {v : Part} (table : s.table? r.part r.model = some tb) (part : s.part r.part = some v)
    (nonempty : fusePrompt tb r.sources ≠ []) (short : (fusePrompt tb r.sources).length ≤ 262144) :
    exec (.tok t k g) s = .next (State.writeRing (((s.tick t).ingestBump r.part 3 (invalidBytes r.sources)).modReq k g fun x =>
      { x.mark 2 (s.tick t).rackNs with
        prompt := fusePrompt tb r.sources, stage := .tokenised,
        keys := chainKeys r.model r.cut (v.shape.word r.cut) (fusePrompt tb r.sources) }) r.part (fusePrompt tb r.sources)) := by
  have found : (s.tick t).request? k g = some r := found
  have table : (s.tick t).table? r.part r.model = some tb := table
  have part : (s.tick t).part r.part = some v := part
  have cond : r.stage = .assembled ∧ (s.tick t).ingestRuns r.part = true := ⟨assembled, runs⟩
  change execTok t k g s = _
  simp only [execTok, found, table, part, if_pos cond, State.ingestBump_rackNs]
  exact if_neg (by simp [nonempty, short])

/-! ### The delta stage (R217) -/

/-- The session's base is used (R219). -/
def State.useBase (s : State) (k : KwId) (n : SessRef) : State :=
  s.modSession (.kw k) n fun q => { q with base := q.base.map fun b => { b with usedAt := s.rackNs } }

theorem exec_dlt_based (runs : s.ingestRuns r.part = true) (found : s.request? k g = some r) (tokenised : r.stage = .tokenised)
    (first : s.deltaBlocked r = false) {b : DeltaBase} (base : s.baseOf r = some b) :
    exec (.dlt t k g) s = .next (((s.tick t).useBase k r.session).modReq k g fun x =>
      { x.mark 3 (s.tick t).rackNs with stage := .deltaDone, hadBase := true, d := firstChange r.keys b.keys }) := by
  have found : (s.tick t).request? k g = some r := found
  have base : (s.tick t).baseOf r = some b := base
  have cond : r.stage = .tokenised ∧ (s.tick t).deltaBlocked r = false ∧ (s.tick t).ingestRuns r.part = true :=
    ⟨tokenised, first, runs⟩
  change execDlt t k g s = _
  simp only [execDlt, found, base, if_pos cond, Option.isSome_some, if_true]
  rfl

theorem exec_dlt_alone (runs : s.ingestRuns r.part = true) (found : s.request? k g = some r) (tokenised : r.stage = .tokenised)
    (first : s.deltaBlocked r = false) (base : s.baseOf r = none) :
    exec (.dlt t k g) s = .next ((s.tick t).modReq k g fun x =>
      { x.mark 3 (s.tick t).rackNs with stage := .deltaDone, hadBase := false, d := r.nb }) := by
  have found : (s.tick t).request? k g = some r := found
  have base : (s.tick t).baseOf r = none := base
  have cond : r.stage = .tokenised ∧ (s.tick t).deltaBlocked r = false ∧ (s.tick t).ingestRuns r.part = true :=
    ⟨tokenised, first, runs⟩
  change execDlt t k g s = _
  simp only [execDlt, found, base, if_pos cond, Option.isSome_none, Bool.false_eq_true, if_false]

/-- The base a request is compared with is its session's own. -/
theorem State.baseOf_useBase {b : DeltaBase} (base : s.baseOf r = some b) :
    (s.useBase r.kw r.session).baseOf r = some { b with usedAt := s.rackNs } := by
  unfold State.baseOf at base ⊢
  split at base
  · cases base
  · next wanted =>
    obtain ⟨q, opened, base⟩ := Option.bind_eq_some_iff.1 base
    have used := State.session_modSession (fun q => { q with base := q.base.map fun b => { b with usedAt := s.rackNs } })
      (fun _ => rfl) opened
    rw [if_neg wanted, State.useBase, used, Option.bind_some, base, Option.map_some]

/-! ### Lookup (R29, R30, R197) -/

/-- The share keys a request looks under: those of its slots whose generation still lives (R190, R191). -/
def State.lookupKeys (s : State) (r : Request) : List (Fin 128) :=
  (r.slots.filter fun x => s.genLive x.1 x.2.1).map fun x => x.1

/-- Does a request's lookup end in its interval (R195, R197)? -/
def State.lookupEnds (s : State) (r : Request) (fin : Bool) : Bool :=
  fin && s.searchEnds r.part (s.lookupKeys r) (r.keys.take r.lookupBlocks)

/-- What a request's lookup finds: nothing where it does not end (R197). -/
def State.lookupFound (s : State) (r : Request) (fin : Bool) : List (Fin 128 × BitVec 128 × Bool) :=
  if s.lookupEnds r fin then s.search r.part (s.lookupKeys r) (r.keys.take r.lookupBlocks) else []

/-- A lookup is counted, and what it found is used (R204, R207). -/
def State.useLookup (s : State) (r : Request) (fin : Bool) : State :=
  let found := s.lookupFound r fin
  let warm := (found.filter fun f => f.2.2).length
  ((((s.krBump r.kw 0 1).krBump r.kw 1 (found.length - warm)).krBump r.kw 2 warm).krBump r.kw 6
    (if s.lookupEnds r fin then 0 else 1)).useBlocks r.part found

theorem KeepsRequests.useLookup (s : State) (r : Request) (fin : Bool) : KeepsRequests s (s.useLookup r fin) := by
  unfold State.useLookup
  exact (krBump ..).trans ((krBump ..).trans ((krBump ..).trans ((krBump ..).trans (useBlocks ..))))

/-- A request whose lookup has ended, its blocks pinned and p fixed (R29, R30). -/
def Request.lookedUp (r : Request) (now : Nat) (found : List (Fin 128 × BitVec 128 × Bool)) (x : Request) : Request :=
  { x.mark 4 now with stage := .queued, found := found, p := min (min r.d found.length) (r.nb - 1), pinned := true }

theorem exec_lkp {fin : Bool} (runs : s.ingestRuns r.part = true) (found : s.request? k g = some r) (compared : r.stage = .deltaDone)
    (due : r.marks.getD 3 0 + lookupNs r.lookupBlocks ≤ (s.tick t).rackNs + 500) :
    exec (.lkp t k g fin) s = .next (((((s.tick t).useLookup r fin).modReq k g
      (r.lookedUp (s.tick t).rackNs ((s.tick t).lookupFound r fin))).joinFormer k g).fetchWarm k g) := by
  obtain rfl := State.kw_of_request found
  have found : (s.tick t).request? r.kw g = some r := found
  have cond : r.stage = .deltaDone ∧ r.marks.getD 3 0 + lookupNs r.lookupBlocks ≤ (s.tick t).rackNs + 500 ∧
      (s.tick t).ingestRuns r.part = true := ⟨compared, due, runs⟩
  change execLkp t r.kw g fin s = _
  simp only [execLkp, found, if_pos cond]
  rfl

/-! ### Residence (R30, R200) -/

/-- Of the second reads and holes named, those of blocks the request reads from the vault (R200). -/
def Request.newReads (r : Request) (n : List (Nat × Fin 64)) (m : List Nat) : List (Nat × Fin 64) × List Nat :=
  let re := n.filter fun e => r.reads e.1
  (re, m.filter fun j => (r.reread ++ re).any fun e => e.1 = j)

/-- A request whose blocks are resident (R30). -/
def Request.nowResident (now : Nat) (x : Request) : Request := { x.mark 5 now with resident := true }

theorem exec_res (n : List (Nat × Fin 64)) (m : List Nat) (found : s.request? k g = some r) (queued : r.stage = .queued)
    (waits : r.resident = false) :
    ∃ got, exec (.res t k g n m) s = .next ((((s.tick t).noteRequest r (r.newReads n m)).modReq k g
      (Request.nowResident (s.tick t).rackNs)).warmToHot r.part got) := by
  have found : (s.tick t).request? k g = some r := found
  change ∃ got, execRes t k g n m s = _
  simp only [execRes, found]
  exact ⟨_, if_pos ⟨queued, waits⟩⟩

/-! ### What each row does to the request it names -/

theorem alignDeadline_fuses (found : s.request? k g = some r) (receiving : r.stage = .receiving) (waits : r.fusing = false)
    (due : r.rx + r.window ≤ (s.tick t).rackNs) :
    ∃ u, exec (.alignDeadline t k g) s = .next u ∧
      u = ((s.tick t).lateSources r).modReq k g (fun r => { r with fusing := true, sources := r.sources.filter fun x => x.accepted }) ∧
      u.request? k g = some { r with fusing := true, sources := r.sources.filter fun x => x.accepted } ∧ u.hbm = s.hbm := by
  have kept := KeepsRequests.lateSources (s.tick t) r
  exact ⟨_, exec_alignDeadline found receiving waits due, rfl,
    State.request_modReq (fun _ => rfl) (fun _ => rfl) ((State.request_of_reqs kept.reqs k g).trans found), kept.hbm⟩

theorem asm_assembles (runs : s.ingestRuns r.part = true) (found : s.request? k g = some r) (receiving : r.stage = .receiving)
    (settled : r.fusing = true ∨ r.allAccepted = true) :
    ∃ u x, exec (.asm t k g) s = .next u ∧ u.request? k g = some x ∧ x.stage = .assembled ∧
      x.marks = (r.mark 1 (s.tick t).rackNs).marks ∧
      x.sources = r.sources.map (fun y => { y with text := .text (s.sourceText r.part y.text) }) ∧ u.hbm = s.hbm ∧
      u.parts = s.parts :=
  ⟨_, _, exec_asm runs found receiving settled,
    State.request_modReq (s := s.tick t) (fun _ => rfl) (fun _ => rfl) found, rfl, rfl, rfl, rfl, rfl⟩

theorem tok_tokenises (runs : s.ingestRuns r.part = true) (found : s.request? k g = some r) (assembled : r.stage = .assembled)
    {tb : TokTable} {v : Part} (table : s.table? r.part r.model = some tb) (part : s.part r.part = some v)
    (nonempty : fusePrompt tb r.sources ≠ []) (short : (fusePrompt tb r.sources).length ≤ 262144) :
    ∃ u x, exec (.tok t k g) s = .next u ∧ u.request? k g = some x ∧ x.stage = .tokenised ∧
      x.prompt = fusePrompt tb r.sources ∧ x.keys = chainKeys r.model r.cut (v.shape.word r.cut) x.prompt ∧
      x.marks = (r.mark 2 (s.tick t).rackNs).marks := by
  have bumped : ((s.tick t).ingestBump r.part 3 (invalidBytes r.sources)).request? k g = some r :=
    (State.request_of_reqs (KeepsRequests.ingestBump ..).reqs k g).trans found
  exact ⟨_, _, exec_tok runs found assembled table part nonempty short,
    (State.request_of_reqs (State.writeRing_reqs ..) k g).trans (State.request_modReq (fun _ => rfl) (fun _ => rfl) bumped),
    rfl, rfl, rfl, rfl⟩

theorem dlt_compares (runs : s.ingestRuns r.part = true) (found : s.request? k g = some r) (tokenised : r.stage = .tokenised)
    (first : s.deltaBlocked r = false) :
    ∃ u x, exec (.dlt t k g) s = .next u ∧ u.request? k g = some x ∧ x.stage = .deltaDone ∧
      x.marks = (r.mark 3 (s.tick t).rackNs).marks ∧
      (∀ b, s.baseOf r = some b → x.hadBase = true ∧ x.d = firstChange r.keys b.keys ∧
        u.baseOf r = some { b with usedAt := (s.tick t).rackNs }) ∧
      (s.baseOf r = none → x.hadBase = false ∧ x.d = r.nb ∧ u.kws = s.kws) ∧ u.hbm = s.hbm ∧ u.parts = s.parts := by
  cases base : s.baseOf r with
  | none =>
    exact ⟨_, _, exec_dlt_alone runs found tokenised first base,
      State.request_modReq (s := s.tick t) (fun _ => rfl) (fun _ => rfl) found, rfl, rfl, nofun, fun _ => ⟨rfl, rfl, rfl⟩, rfl, rfl⟩
  | some b =>
    obtain rfl := State.kw_of_request found
    refine ⟨_, _, exec_dlt_based runs found tokenised first base,
      State.request_modReq (s := (s.tick t).useBase r.kw r.session) (fun _ => rfl) (fun _ => rfl) found, rfl, rfl, ?_, nofun, rfl, rfl⟩
    rintro _ ⟨⟩
    exact ⟨rfl, rfl, State.baseOf_useBase (s := s.tick t) base⟩

theorem lkp_queues {fin : Bool} (runs : s.ingestRuns r.part = true) (found : s.request? k g = some r)
    (compared : r.stage = .deltaDone) (due : r.marks.getD 3 0 + lookupNs r.lookupBlocks ≤ (s.tick t).rackNs + 500) :
    ∃ u x, exec (.lkp t k g fin) s = .next u ∧ u.request? k g = some x ∧ x.stage = .queued ∧ x.pinned = true ∧
      x.marks = (r.mark 4 (s.tick t).rackNs).marks ∧ x.p = min (min r.d x.found.length) (r.nb - 1) ∧
      x.found = (s.tick t).lookupFound r fin ∧ u.hbm = s.hbm := by
  have used := KeepsRequests.useLookup (s.tick t) r fin
  have looked := State.request_modReq (f := r.lookedUp (s.tick t).rackNs ((s.tick t).lookupFound r fin)) (fun _ => rfl) (fun _ => rfl)
    ((State.request_of_reqs used.reqs k g).trans found)
  have joined := KeepsRequests.joinFormer (((s.tick t).useLookup r fin).modReq k g
    (r.lookedUp (s.tick t).rackNs ((s.tick t).lookupFound r fin))) k g
  obtain ⟨re, ho, sent⟩ := State.request_fetchWarm ((State.request_of_reqs joined.reqs k g).trans looked)
  exact ⟨_, _, exec_lkp runs found compared due, sent, rfl, rfl, rfl, rfl, rfl,
    (State.fetchWarm_hbm ..).trans (joined.hbm.trans used.hbm)⟩

theorem res_resides (n : List (Nat × Fin 64)) (m : List Nat) (found : s.request? k g = some r) (queued : r.stage = .queued)
    (waits : r.resident = false) :
    ∃ u x, exec (.res t k g n m) s = .next u ∧ u.request? k g = some x ∧ x.resident = true ∧
      x.marks = (r.mark 5 (s.tick t).rackNs).marks ∧ x.stage = .queued ∧
      (n = [] → m = [] → x.reread = r.reread ∧ x.holes = r.holes) ∧
      (∀ e ∈ n, r.reads e.1 = true → e ∈ x.reread) ∧ u.hbm = s.hbm := by
  obtain ⟨got, run⟩ := exec_res (t := t) n m found queued waits
  have noted := State.request_noteRequest (s := s.tick t) found (r.newReads n m)
  have resident := State.request_modReq (f := Request.nowResident (s.tick t).rackNs) (fun _ => rfl) (fun _ => rfl) noted
  have hot := KeepsRequests.warmToHot
    (((s.tick t).noteRequest r (r.newReads n m)).modReq k g (Request.nowResident (s.tick t).rackNs)) r.part got
  refine ⟨_, _, run, (State.request_of_reqs hot.reqs k g).trans resident, rfl, rfl, queued, ?_, fun e mem reads => ?_, hot.hbm⟩
  · rintro rfl rfl
    exact ⟨addNew_nil _, addNew_nil _⟩
  · exact mem_addNew (List.mem_filter.2 ⟨mem, reads⟩)

end

/-- Settles O20: one row for each stage, from what it does to the request it names. -/
theorem requestStagesComplete : Obligations.RequestStagesComplete :=
  fun _ _ _ _ _ found => ⟨alignDeadline_fuses found,
    fun runs => ⟨asm_assembles runs found, fun _ _ assembled => tok_tokenises runs found assembled, dlt_compares runs found,
      fun _ => lkp_queues runs found⟩,
    fun n m => res_resides n m found⟩

end Sys2Proof.Machine
end

section
/-! SUPPORT. A chunk that is prefilled (R220), and the state in which the statement about batches fails: two requests under one tag, in
partitions of different modes. -/

namespace Sys2Proof.Machine

/-- A chunk but the last is done: every request under its tag moves on to its next chunk, in the mode of its own partition (R220). -/
theorem exec_prefillChunkDone {s : State} {t : Nat} {k : KwId} {g : BitVec 64} {r : Request} {v : Part} {c : BatchChunk}
    (found : s.request? k g = some r) (part : s.part r.part = some v) (taken : v.takenChunk k g = some c) (more : c.last = false)
    (runs : v.gridRuns (s.tick t).osc = true) (cut : v.runsCut r.cut = true) :
    exec (.prefillChunkDone t k g) s = .next ((((s.tick t).setPart r.part (some (v.chunkDone k g))).modReq k g fun x =>
      x.nextPart (((s.tick t).setPart r.part (some (v.chunkDone k g))).fixedMode x.part) (s.tick t).rackNs).joinFormer k g) := by
  have found : (s.tick t).request? k g = some r := found
  have part : (s.tick t).part r.part = some v := part
  change execPrefillChunkDone t k g s = _
  simp only [execPrefillChunkDone, found, part, Option.bind_some, taken, runs, cut, more, Bool.and_self, Bool.not_false, if_true]
  rfl

/-! ### Two requests under one tag

REQ_SUBMIT takes the place of whatever stands under its tag, so no command leaves two requests there; the statement's states are not
bound to that. -/

namespace DoubledTag

/-- A STATIC program of cut 0. -/
def image : ProgramImage :=
  { intact := true, mode := 0, cut := 0, formats := [], cells := [], entries := [], ringAddr := 0, ringLen := 0, recv := [],
    classes := [] }

/-- The first of three chunks of the request in prefill. -/
def chunk : BatchChunk := { kw := 0, tag := 0, tokens := 512, pad := 0, last := false, cancelled := false }

/-- A running partition with that chunk in the batch taken. -/
def part : Part :=
  { Part.fresh { cls := 0, ex := 1, ey := 1, ez := 1, chip := 0, kmask := 1 } 0 with
    running := some { num := 0, prog := some image, cal := none }, prog := .running,
    taken := some { id := 0, bucket := 512, fixed := true, chunks := [chunk], opened := 0, limit := 4096, wait := 0, rows := 8,
                    closed := true } }

/-- A prompt of three rows of 512 tokens. -/
def prompt : List (BitVec 32) := List.replicate 1536 0

theorem prompt_length : prompt.length = 1536 := List.length_replicate ..

/-- A request of 1,536 tokens, three rows of 512 where its partition is STATIC. -/
def request (p : PartId) : Request :=
  { tag := 0, kw := 0, session := SessRef.none, seq := 0, part := p, epoch := 1, model := 0, cut := 0, declared := 1, flags := 0,
    maxTokens := 1, temperature := 0, topP := 0x3F80, seed := 0, sources := [], rx := 0, window := 0, batchTokens := 4096,
    batchWait := 0, fixedRows := 8, fixedTokens := 512, slots := [], insertKey := none, quota := 0, copies := 1, stage := .queued,
    fusing := true, prompt := prompt, keys := [], hadBase := false, d := 6, p := 0, found := [], resident := true, chunk := 0,
    pinned := true, marks := [0, 0, 0, 0, 0], reread := [], holes := [], generated := [], tokenAt := 0, status := none,
    resetBy := none, endedAt := 0 }

theorem request_named (p : PartId) : ((request p).kw = 0 && (request p).tag = 0) = true := rfl

/-- Partition 0 is STATIC and partition 1 TAGGED, as by default; a request of each stands under one tag. -/
def state : State :=
  { State.reset with
    parts := [(0, some part)], reqs := [request 0, request 1],
    cfg := { State.reset.cfg with running := [((0x0203#16, .part 0), [0])] } }

/-- The state in which the chunk's requests move on. -/
def chunkEnded : State := (state.tick 0).setPart 0 (some (part.chunkDone 0 0))

theorem fixedMode_zero : chunkEnded.fixedMode 0 = true := rfl
theorem fixedMode_one : chunkEnded.fixedMode 1 = false := rfl

/-- In rows of 512 tokens the second chunk is not the last; as one bucket it is, and RES is taken (R30, R220). -/
theorem nextPart_differs (now : Nat) :
    (request 1).nextPart (chunkEnded.fixedMode 1) now ≠ (request 1).nextPart (chunkEnded.fixedMode 0) now := by
  intro same
  have marks := congrArg Request.marks same
  rw [fixedMode_one, fixedMode_zero] at marks
  simp [Request.nextPart, Request.nextChunk, Request.prefillTokens, Request.chunkMax, Request.mark, request,
    prompt_length] at marks

end DoubledTag

open DoubledTag in
/-- Refutes O21 in its clause on PREFILL_CHUNK_DONE: the model moves every request under the tag on in the mode of its own partition, the
statement in that of the one found. -/
theorem not_batchesComplete : ¬ Obligations.BatchesComplete := by
  intro h
  obtain ⟨batches, -⟩ := h
  obtain ⟨-, -, requests⟩ := batches state 0 0 part rfl
  obtain ⟨ends, -⟩ := requests 0 0 (request 0) rfl rfl rfl rfl
  have said := ends chunk rfl rfl
  have done := exec_prefillChunkDone (s := state) (t := 0) (k := 0) (g := 0) (r := request 0) (v := part) (c := chunk) rfl rfl rfl rfl
    rfl rfl
  have same := congrArg State.reqs (Host.Outcome.next.inj (done.symm.trans said))
  rw [(KeepsRequests.joinFormer ..).reqs, (KeepsRequests.joinFormer ..).reqs, State.modReq_reqs, State.modReq_reqs] at same
  have moved := List.map_inj_left.1 same (request 1) (List.mem_cons_of_mem _ List.mem_cons_self)
  rw [if_pos (request_named 1), if_pos (request_named 1)] at moved
  exact nextPart_differs _ moved

end Sys2Proof.Machine
end

section
/-! SUPPORT. What leaves the memory as it stands: an equation for every function of the machine that writes no byte of HBM, in the
order of the model's files. -/

namespace Sys2Proof.Machine

/-- An outcome whose next state has the memory of the state before it. -/
def KeepsHbm (s : State) (o : Out3) : Prop := ∀ u, o = .next u → u.hbm = s.hbm

@[simp] theorem keepsHbm_next {s u : State} : KeepsHbm s (.next u) ↔ u.hbm = s.hbm :=
  ⟨fun h => h u rfl, fun h v e => by cases e; exact h⟩

@[simp] theorem hbm_ite (c : Prop) [Decidable c] (s t : State) : (if c then s else t).hbm = if c then s.hbm else t.hbm :=
  apply_ite ..

/-- A step of a fold that leaves the memory. -/
def FoldKeepsHbm {α : Type} (f : State → α → State) : Prop := ∀ s a, (f s a).hbm = s.hbm

@[simp] theorem foldKeepsHbm_iff {α : Type} (f : State → α → State) : FoldKeepsHbm f ↔ ∀ s a, (f s a).hbm = s.hbm := Iff.rfl

@[simp] theorem foldl_hbm {α : Type} {f : State → α → State} (h : FoldKeepsHbm f) (l : List α) (s : State) :
    (l.foldl f s).hbm = s.hbm :=
  foldl_keeps f State.hbm h l s

/-! ### Sys2Proof/Machine/Ops.lean -/

@[simp] theorem State.advanceEpoch_hbm (s : State) (p : PartId) : (s.advanceEpoch p).hbm = s.hbm := by simp [State.advanceEpoch]

@[simp] theorem State.advanceRackEpoch_hbm (s : State) : s.advanceRackEpoch.hbm = s.hbm := rfl

@[simp] theorem State.reply_hbm (s : State) (h : Hdr) (op status : Nat) (epoch : BitVec 32) (body : List Byte) (retry : Bool) :
    (s.reply h op status epoch body retry).hbm = s.hbm := rfl

@[simp] theorem State.sendEvent_hbm (s : State) (e : Ep) (q : Session) (ev : Event) (retry : Bool) :
    (s.sendEvent e q ev retry).hbm = s.hbm := rfl

@[simp] theorem State.enterEvent_hbm (s : State) (e : Ep) (ev : Event) : (s.enterEvent e ev).hbm = s.hbm := by simp [State.enterEvent]

@[simp] theorem State.deliver_hbm (s : State) (e : Ep) (n : SessRef) (ev : Event) (keep : Bool) :
    (s.deliver e n ev keep).hbm = s.hbm := by
  unfold State.deliver
  dsimp only
  (repeat' split) <;> simp

@[simp] theorem State.raiseS_hbm (s : State) (e : Ep) (n : SessRef) (code : Nat) (body : List Byte) (keep : Bool) :
    (s.raiseS e n code body keep).hbm = s.hbm := by simp [State.raiseS]

@[simp] theorem State.raiseAlso_hbm (s : State) (e : Ep) (also : Option SessRef) (code : Nat) (body : List Byte) :
    (s.raiseAlso e also code body).hbm = s.hbm := by simp [State.raiseAlso]

@[simp] theorem State.raiseK_hbm (s : State) (k : KwId) (code : Nat) (body : List Byte) : (s.raiseK k code body).hbm = s.hbm := by
  simp [State.raiseK]

@[simp] theorem State.raisePart_hbm (s : State) (p : PartId) (code : Nat) (body : List Byte) :
    (s.raisePart p code body).hbm = s.hbm := by simp [State.raisePart]

@[simp] theorem State.raiseOpen_hbm (s : State) (code : Nat) (body : List Byte) : (s.raiseOpen code body).hbm = s.hbm := by
  simp [State.raiseOpen]

/-! ### Sys2Proof/Machine/Slots.lean -/

@[simp] theorem State.putOn_hbm (s : State) (l : LinkId) (slot : Nat) (k : NetPkt) : (s.putOn l slot k).hbm = s.hbm := rfl

@[simp] theorem State.modBoth_hbm (s : State) (l : LinkId) (f : Link → Link) : (s.modBoth l f).hbm = s.hbm := by simp [State.modBoth]

@[simp] theorem State.modSwPort_hbm (s : State) (i : SwId) (p : Fin 32) (f : Link → Link) : (s.modSwPort i p f).hbm = s.hbm := rfl

@[simp] theorem State.modFar_hbm (s : State) (l : LinkId) (f : Link → Link) : (s.modFar l f).hbm = s.hbm := by simp [State.modFar]

@[simp] theorem State.takeLane_hbm (s : State) (x : Sender) (p : PartId) (host : Bool) (next : Nat) :
    (s.takeLane x p host next).hbm = s.hbm := rfl

theorem State.switchSend_hbm (s : State) (sw : SwId) (p : PartId) (n : ChipId) (host : Bool) (pkts : List NetPkt) :
    ∀ x, (s.switchSend sw p n host pkts) = some x → x.1.hbm = s.hbm := fun _ sent => (KeepsRequests.switchSend sent).hbm

theorem State.uplinkSend_hbm (s : State) (sw : SwId) (p : PartId) (n : ChipId) (host : Bool) (pkts : List NetPkt) :
    ∀ x, (s.uplinkSend sw p n host pkts) = some x → x.1.hbm = s.hbm := by
  intro x sent
  obtain ⟨w, -, sent⟩ := Option.bind_eq_some_iff.1 sent
  dsimp only at sent
  split at sent
  · cases sent
  · cases sent
    simp

/-! ### Sys2Proof/Machine/Keyring.lean -/

@[simp] theorem Res.ok_hbm (s : State) (body : List Byte) : (Res.ok s body).s.hbm = s.hbm := rfl

@[simp] theorem Res.accepted_hbm (s : State) : (Res.accepted s).s.hbm = s.hbm := rfl

@[simp] theorem Res.fail_hbm (s : State) (status : Nat) (body : List Byte) : (Res.fail s status body).s.hbm = s.hbm := rfl

@[simp] theorem State.dropWarm_hbm (s : State) (i : Fin 128) (key : BitVec 128) : (s.dropWarm i key).hbm = s.hbm := rfl

@[simp] theorem State.evictTo_hbm (s : State) (i : Fin 128) (limit : Nat) (fuel : Nat) : ((s.evictTo i limit) fuel).hbm = s.hbm := by
  rw [KeyringOnly.evictTo i limit fuel s]

@[simp] theorem State.evict_hbm (s : State) (i : Fin 128) (limit : Nat) : (s.evict i limit).hbm = s.hbm := by simp [State.evict]

@[simp] theorem State.fitQuota_hbm (s : State) (i : Fin 128) : (s.fitQuota i).hbm = s.hbm := by simp [State.fitQuota]

@[simp] theorem State.addHotN_hbm (s : State) (p : PartId) (b : HotBlock) (fuel : Nat) : ((s.addHotN p b) fuel).hbm = s.hbm :=
  (KeepsRequests.addHotN p b fuel s).hbm

@[simp] theorem State.addHot_hbm (s : State) (p : PartId) (b : HotBlock) : (s.addHot p b).hbm = s.hbm := by
  unfold State.addHot
  split <;> simp

@[simp] theorem State.krSweep_hbm (s : State) : s.krSweep.hbm = s.hbm := by simp [State.krSweep]

@[simp] theorem State.useBlocks_hbm (s : State) (p : PartId) (fs : List (Fin 128 × BitVec 128 × Bool)) :
    (s.useBlocks p fs).hbm = s.hbm := by simp [State.useBlocks]

@[simp] theorem State.krBump_hbm (s : State) (k : KwId) (i n : Nat) : (s.krBump k i n).hbm = s.hbm := rfl

@[simp] theorem State.addLookup_hbm (s : State) (l : Lookup) : (s.addLookup l).hbm = s.hbm := rfl

@[simp] theorem opKrLookup_hbm (c : Ctx) (addr : Addr) (blocks mask : BitVec 16) (s : State) :
    (opKrLookup c addr blocks mask s).s.hbm = s.hbm := by
  unfold opKrLookup
  (repeat' split) <;> simp

@[simp] theorem State.endHandle_hbm (s : State) (k : KwId) (n : Nat) : (s.endHandle k n).hbm = s.hbm := by simp [State.endHandle]

@[simp] theorem opKrRelease_hbm (c : Ctx) (handle : BitVec 32) (s : State) : (opKrRelease c handle s).s.hbm = s.hbm := by
  unfold opKrRelease
  (repeat' split) <;> simp

@[simp] theorem execKrHandleTtlExpiry_hbm (t : Nat) (k : KwId) (handle : BitVec 32) (s : State) :
    KeepsHbm s (execKrHandleTtlExpiry t k handle s) := by
  unfold execKrHandleTtlExpiry
  dsimp only
  (repeat' split) <;> simp

@[simp] theorem State.noteFetch_hbm (s : State) (o : Op) (new : List (Nat × Fin 64) × List Nat) : (s.noteFetch o new).hbm = s.hbm := by
  unfold State.noteFetch
  split <;> simp

@[simp] theorem State.noteRequest_hbm (s : State) (r : Request) (new : List (Nat × Fin 64) × List Nat) :
    (s.noteRequest r new).hbm = s.hbm := rfl

@[simp] theorem State.sendGranule_hbm (s : State) (p : PartId) (n : ChipId) (raddr : Addr) (w : WarmBlock) (g : Fin 64)
    (trays : List SwId) :
    (s.sendGranule p n raddr w g trays).hbm = s.hbm := (KeepsRequests.sendGranule ..).hbm

@[simp] theorem State.sendBlocks_hbm (s : State) (p : PartId) (dest : Nat → Fin 64 → ChipId × Addr) (bs : List (Nat × WarmBlock)) :
    (s.sendBlocks p dest bs).hbm = s.hbm := by simp [State.sendBlocks]

@[simp] theorem opKrFetch_hbm (c : Ctx) (handle : BitVec 32) (dst : Addr) (s : State) : (opKrFetch c handle dst s).s.hbm = s.hbm := by
  unfold opKrFetch
  dsimp only
  (repeat' split) <;> simp

@[simp] theorem execVaultRefetch_hbm (t : Nat) (op : Nat) (g : Granule) (ok : Bool) (s : State) :
    KeepsHbm s (execVaultRefetch t op g ok s) := by
  unfold execVaultRefetch
  dsimp only
  (repeat' split) <;> simp

@[simp] theorem State.warmToHot_hbm (s : State) (p : PartId) (bs : List (Fin 128 × BitVec 128)) : (s.warmToHot p bs).hbm = s.hbm :=
  (KeepsRequests.warmToHot ..).hbm

@[simp] theorem State.storeBlock_hbm (s : State) (p : PartId) (w : WarmBlock) : (s.storeBlock p w).hbm = s.hbm := by
  unfold State.storeBlock
  split
  · rfl
  · refine foldl_hbm (fun s g => foldl_hbm (fun s sw => ?_) _ s) _ s
    cases sent : s.uplinkSend sw p _ false _ with
    | none => rfl
    | some x => exact State.uplinkSend_hbm _ _ _ _ _ _ x sent

@[simp] theorem State.claim_hbm (s : State) (p : PartId) (i : Fin 128) (key : BitVec 128) (kvb copies : Nat) (data : Memory) :
    (s.claim p i key kvb copies data).hbm = s.hbm := by simp [State.claim]

theorem State.insertBlocks_hbm (s : State) (p : PartId) (i : Fin 128) (kvb copies quota : Nat) (bs : List (BitVec 128 × Memory)) :
    ∀ x, (s.insertBlocks p i kvb copies quota bs) = some x → x.1.hbm = s.hbm := by
  intro x inserted
  unfold State.insertBlocks at inserted
  dsimp only at inserted
  split at inserted
  · cases inserted
  · cases inserted
    simp

@[simp] theorem opKrInsert_hbm (c : Ctx) (tokAddr kvAddr : Addr) (first blocks : BitVec 16) (slot : BitVec 8) (s : State) :
    (opKrInsert c tokAddr kvAddr first blocks slot s).s.hbm = s.hbm := by
  unfold opKrInsert
  split
  · split
    · split
      · simp
      · dsimp only
        split
        · split
          · simp
          · next inserted => simpa using State.insertBlocks_hbm _ _ _ _ _ _ _ _ inserted
        · simp
    all_goals rfl
  · rfl

@[simp] theorem execKrInsertCommit_hbm (t : Nat) (idx : Fin 128) (key : BitVec 128) (s : State) :
    KeepsHbm s (execKrInsertCommit t idx key s) := by
  unfold execKrInsertCommit
  dsimp only
  (repeat' split) <;> simp

@[simp] theorem opKrUsage_hbm (c : Ctx) (slot : BitVec 8) (s : State) : (opKrUsage c slot s).s.hbm = s.hbm := by
  unfold opKrUsage
  (repeat' split) <;> simp

@[simp] theorem State.noteLoss_hbm (s : State) (gone : WarmBlock → Fin 64 → SwId → Bool) : (s.noteLoss gone).hbm = s.hbm := by
  rw [KeyringOnly.noteLoss s gone]

@[simp] theorem State.loseVault_hbm (s : State) (x : SwId) : (s.loseVault x).hbm = s.hbm := by simp [State.loseVault]

/-! ### Sys2Proof/Machine/Time.lean -/

@[simp] theorem State.stepIfClosed_hbm (s : State) : s.stepIfClosed.hbm = s.hbm := by simp [State.stepIfClosed]

@[simp] theorem State.correct_hbm (s : State) (pps : Bool) (theta : Int) : (s.correct pps theta).hbm = s.hbm := by simp [State.correct]

@[simp] theorem execTimeSourceLocked_hbm (t : Nat) (pps : Bool) (thetaNs : Int) (seconds : Nat) (s : State) :
    KeepsHbm s (execTimeSourceLocked t pps thetaNs seconds s) := by
  unfold execTimeSourceLocked
  dsimp only
  split <;> simp

@[simp] theorem execTimeSlewEnd_hbm (t : Nat) (thetaNs : Int) (rate : Int) (s : State) :
    KeepsHbm s (execTimeSlewEnd t thetaNs rate s) := by
  unfold execTimeSlewEnd
  dsimp only
  split <;> simp

@[simp] theorem State.loseSource_hbm (s : State) (pps : Bool) (uLockNs : Nat) : (s.loseSource pps uLockNs).hbm = s.hbm := by
  simp [State.loseSource]

@[simp] theorem execTimeSourceLost_hbm (t : Nat) (pps : Bool) (uLockNs : Nat) (s : State) :
    KeepsHbm s (execTimeSourceLost t pps uLockNs s) := by
  unfold execTimeSourceLost
  dsimp only
  (repeat' split) <;> simp

@[simp] theorem execPpsPulse_hbm (t : Nat) (deviationNs : Int) (s : State) : KeepsHbm s (execPpsPulse t deviationNs s) := by
  unfold execPpsPulse
  dsimp only
  (repeat' split) <;> simp

@[simp] theorem execTimeQualityDecay_hbm (t : Nat) (s : State) : KeepsHbm s (execTimeQualityDecay t s) := by
  unfold execTimeQualityDecay
  dsimp only
  (repeat' split) <;> simp

@[simp] theorem State.setRx_hbm (s : State) (unit : BitVec 16) (r : TimeRx) : (s.setRx unit r).hbm = s.hbm := rfl

@[simp] theorem State.missTime_hbm (s : State) (unit : BitVec 16) : (s.missTime unit).hbm = s.hbm := by simp [State.missTime]

@[simp] theorem execTimeOfDayMessage_hbm (t : Nat) (unit : BitVec 16) (head seq : BitVec 32) (tNext tail : BitVec 64) (s : State) :
    KeepsHbm s (execTimeOfDayMessage t unit head seq tNext tail s) := by
  unfold execTimeOfDayMessage
  split <;> simp

@[simp] theorem execTimeMessageMissed_hbm (t : Nat) (unit : BitVec 16) (s : State) : KeepsHbm s (execTimeMessageMissed t unit s) := by
  simp [execTimeMessageMissed]

/-! ### Sys2Proof/Machine/Session.lean -/

@[simp] theorem opHello_hbm (c : Ctx) (s : State) : (opHello c s).s.hbm = s.hbm := by
  unfold opHello
  split <;> simp

@[simp] theorem State.payReset_hbm (s : State) (e : Ep) (n : SessRef) : (s.payReset e n).hbm = s.hbm := by
  unfold State.payReset
  dsimp only
  (repeat' split) <;> simp

@[simp] theorem opSessionOpen_hbm (c : Ctx) (a : OpenArgs) (s : State) : (opSessionOpen c a s).s.hbm = s.hbm := by
  unfold opSessionOpen
  dsimp only
  (repeat' split) <;> simp

@[simp] theorem State.dropSessionSettings_hbm (s : State) (k : KwId) : (s.dropSessionSettings k).hbm = s.hbm := rfl

@[simp] theorem State.removeSession_hbm (s : State) (e : Ep) (n : SessRef) : (s.removeSession e n).hbm = s.hbm := by
  simp [State.removeSession]

@[simp] theorem State.endHandles_hbm (s : State) (k : KwId) (n : SessRef) : (s.endHandles k n).hbm = s.hbm := by
  simp [State.endHandles]

@[simp] theorem State.closeSession_hbm (s : State) (e : Ep) (n : SessRef) : (s.closeSession e n).hbm = s.hbm := by
  unfold State.closeSession
  dsimp only
  (repeat' split) <;> simp

@[simp] theorem opSessionClose_hbm (c : Ctx) (s : State) : (opSessionClose c s).s.hbm = s.hbm := by simp [opSessionClose]

@[simp] theorem opEventAck_hbm (c : Ctx) (seq : BitVec 32) (s : State) : (opEventAck c seq s).s.hbm = s.hbm := by simp [opEventAck]

@[simp] theorem opPing_hbm (x1 : Ctx) (s : State) : (opPing x1 s).s.hbm = s.hbm := rfl

@[simp] theorem execSessionExpired_hbm (t : Nat) (e : Ep) (session : BitVec 16) (s : State) :
    KeepsHbm s (execSessionExpired t e session s) := by
  unfold execSessionExpired
  dsimp only
  (repeat' split) <;> simp

@[simp] theorem execSeqGapHoldExpiry_hbm (t : Nat) (e : Ep) (session : BitVec 16) (s : State) :
    KeepsHbm s (execSeqGapHoldExpiry t e session s) := by
  unfold execSeqGapHoldExpiry
  dsimp only
  split <;> simp

@[simp] theorem execEventResend_hbm (t : Nat) (e : Ep) (session : BitVec 16) (evSeq : BitVec 32) (s : State) :
    KeepsHbm s (execEventResend t e session evSeq s) := by
  unfold execEventResend
  dsimp only
  (repeat' split) <;> simp

/-! ### Sys2Proof/Machine/Transfer.lean -/

@[simp] theorem opMemRegister_hbm (c : Ctx) (addr : Addr) (len : BitVec 64) (access : BitVec 8) (s : State) :
    (opMemRegister c addr len access s).s.hbm = s.hbm := by
  unfold opMemRegister
  (repeat' split) <;> simp

@[simp] theorem opMemDeregister_hbm (c : Ctx) (rkey : BitVec 32) (s : State) : (opMemDeregister c rkey s).s.hbm = s.hbm := by
  unfold opMemDeregister
  (repeat' split) <;> simp

@[simp] theorem opQpCreate_hbm (c : Ctx) (a : QpArgs) (s : State) : (opQpCreate c a s).s.hbm = s.hbm := by
  unfold opQpCreate
  (repeat' split) <;> simp

@[simp] theorem opQpDestroy_hbm (c : Ctx) (qpn : BitVec 24) (s : State) : (opQpDestroy c qpn s).s.hbm = s.hbm := by
  unfold opQpDestroy
  (repeat' split) <;> simp

@[simp] theorem opMemFill_hbm (c : Ctx) (addr : Addr) (len pattern : BitVec 64) (s : State) :
    (opMemFill c addr len pattern s).s.hbm = s.hbm := by
  unfold opMemFill
  split <;> simp

@[simp] theorem opMemCopy_hbm (c : Ctx) (src dst : Addr) (len : BitVec 64) (s : State) :
    (opMemCopy c src dst len s).s.hbm = s.hbm := by
  unfold opMemCopy
  split <;> simp

@[simp] theorem State.issueRead_hbm (s : State) (q : Qp) (a : XferArgs) : (s.issueRead q a).hbm = s.hbm := rfl

@[simp] theorem State.startAckTimer_hbm (s : State) (k : KwId) (qpn : BitVec 24) : (s.startAckTimer k qpn).hbm = s.hbm := rfl

@[simp] theorem startXfer_hbm (c : Ctx) (a : XferArgs) (kind : PartId → OpKind) (s : State) :
    (startXfer c a kind s).s.hbm = s.hbm := by
  unfold startXfer
  (repeat' split) <;> simp

@[simp] theorem opXferOut_hbm (c : Ctx) (a : XferArgs) (s : State) : (opXferOut c a s).s.hbm = s.hbm := by simp [opXferOut]

@[simp] theorem opXferIn_hbm (c : Ctx) (a : XferArgs) (s : State) : (opXferIn c a s).s.hbm = s.hbm := by
  unfold opXferIn
  dsimp only
  (repeat' split) <;> simp

@[simp] theorem State.xferEnd_hbm (s : State) (o : Op) (status : Nat) (tail : List Byte) : (s.xferEnd o status tail).hbm = s.hbm := by
  simp [State.xferEnd]

@[simp] theorem State.resetRetries_hbm (s : State) (k : KwId) (qpn : BitVec 24) : (s.resetRetries k qpn).hbm = s.hbm := rfl

@[simp] theorem State.issueNext_hbm (s : State) (e : Ep) (q : Qp) : (s.issueNext e q).hbm = s.hbm := by
  unfold State.issueNext
  split <;> simp

@[simp] theorem State.countAdmission_hbm (s : State) (p : HostPortId) : (s.countAdmission p).hbm = s.hbm := rfl

@[simp] theorem State.sendCnps_hbm (s : State) (port : HostPortId) (n : Nat) : (s.sendCnps port n).hbm = s.hbm := by
  simp [State.sendCnps]

@[simp] theorem execRdmaRefusedOperation_hbm (t : Nat) (port : HostPortId) (src : RdmaSource) (qpn : BitVec 24) (s : State) :
    KeepsHbm s (execRdmaRefusedOperation t port src qpn s) := by
  unfold execRdmaRefusedOperation
  dsimp only
  split <;> simp

@[simp] theorem execCnpReceived_hbm (t : Nat) (port : HostPortId) (src : BitVec 128) (qpn : BitVec 24) (s : State) :
    KeepsHbm s (execCnpReceived t port src qpn s) := by
  unfold execCnpReceived
  dsimp only
  split <;> simp

@[simp] theorem execHostFrameIngress_hbm (t : Nat) (port : HostPortId) (f : HostFrame) (s : State) :
    KeepsHbm s (execHostFrameIngress t port f s) := by
  unfold execHostFrameIngress
  dsimp only
  split
  · split
    · simp
    · split
      · simp
      · next sent =>
        have kept := State.switchSend_hbm _ _ _ _ _ _ _ sent
        split <;> simpa using kept
  · simp

/-! ### Sys2Proof/Machine/Ingest.lean -/

@[simp] theorem State.modReq_hbm (s : State) (k : KwId) (tag : BitVec 64) (f : Request → Request) :
    (s.modReq k tag f).hbm = s.hbm := rfl

@[simp] theorem State.ingestBump_hbm (s : State) (p : PartId) (i n : Nat) : (s.ingestBump p i n).hbm = s.hbm := by
  simp [State.ingestBump]

@[simp] theorem State.dropOrphan_hbm (s : State) (r : Request) : (s.dropOrphan r).hbm = s.hbm := by simp [State.dropOrphan]

@[simp] theorem State.reqOp_hbm (s : State) (r : Request) : (s.reqOp r).hbm = s.hbm := rfl

@[simp] theorem State.endRequest_hbm (s : State) (k : KwId) (tag : BitVec 64) (status : Nat) (reset : Option Nat) :
    (s.endRequest k tag status reset).hbm = s.hbm := by
  unfold State.endRequest
  split <;> simp

@[simp] theorem State.endRequests_hbm (s : State) (rs : List Request) (status : Nat) (reset : Option Nat) :
    (s.endRequests rs status reset).hbm = s.hbm := by simp [State.endRequests]

@[simp] theorem State.closeBatch_hbm (s : State) (p : PartId) (id : Nat) : (s.closeBatch p id).hbm = s.hbm := by
  simp [State.closeBatch]

@[simp] theorem State.refillQueue_hbm (s : State) (p : PartId) : (s.refillQueue p).hbm = s.hbm := by
  unfold State.refillQueue
  dsimp only
  (repeat' split) <;> simp

@[simp] theorem State.depthFell_hbm (s : State) (p : PartId) (before : Nat) : (s.depthFell p before).hbm = s.hbm := by
  unfold State.depthFell
  split <;> simp

@[simp] theorem State.joinFormer_hbm (s : State) (k : KwId) (tag : BitVec 64) : (s.joinFormer k tag).hbm = s.hbm := by
  unfold State.joinFormer
  dsimp only
  (repeat' split) <;> simp

@[simp] theorem State.dropHeld_hbm (s : State) (k : KwId) (tag : BitVec 64) : (s.dropHeld k tag).hbm = s.hbm := rfl

@[simp] theorem State.dropStale_hbm (s : State) (k : KwId) (now : Nat) : (s.dropStale k now).hbm = s.hbm := by simp [State.dropStale]

@[simp] theorem opReqSubmit_hbm (c : Ctx) (a : ReqArgs) (s : State) : (opReqSubmit c a s).s.hbm = s.hbm := by
  unfold opReqSubmit
  dsimp only
  (repeat' split) <;> simp

@[simp] theorem opReqSource_hbm (c : Ctx) (a : SourceArgs) (s : State) : (opReqSource c a s).s.hbm = s.hbm := by
  unfold opReqSource
  dsimp only
  (repeat' split) <;> simp

@[simp] theorem execHeldSourceExpiry_hbm (t : Nat) (k : KwId) (tag : BitVec 64) (s : State) :
    KeepsHbm s (execHeldSourceExpiry t k tag s) := by
  unfold execHeldSourceExpiry
  dsimp only
  split <;> simp

@[simp] theorem State.lateSources_hbm (s : State) (r : Request) : (s.lateSources r).hbm = s.hbm := by simp [State.lateSources]

@[simp] theorem execAlignDeadline_hbm (t : Nat) (k : KwId) (tag : BitVec 64) (s : State) :
    KeepsHbm s (execAlignDeadline t k tag s) := by
  unfold execAlignDeadline
  dsimp only
  (repeat' split) <;> simp

@[simp] theorem execAsm_hbm (t : Nat) (k : KwId) (tag : BitVec 64) (s : State) : KeepsHbm s (execAsm t k tag s) := by
  unfold execAsm
  dsimp only
  (repeat' split) <;> simp

@[simp] theorem execDlt_hbm (t : Nat) (k : KwId) (tag : BitVec 64) (s : State) : KeepsHbm s (execDlt t k tag s) := by
  unfold execDlt
  dsimp only
  (repeat' split) <;> simp

@[simp] theorem execLkp_hbm (t : Nat) (k : KwId) (tag : BitVec 64) (finished : Bool) (s : State) :
    KeepsHbm s (execLkp t k tag finished s) := by
  unfold execLkp
  dsimp only
  split
  · simp
  · split
    · simp [State.fetchWarm_hbm]
    · simp

@[simp] theorem execRes_hbm (t : Nat) (k : KwId) (tag : BitVec 64) (refetched : List (Nat × Fin 64)) (recomputed : List Nat)
    (s : State) :
    KeepsHbm s (execRes t k tag refetched recomputed s) := by
  unfold execRes
  dsimp only
  (repeat' split) <;> simp

@[simp] theorem execBatchWaitExpiry_hbm (t : Nat) (p : PartId) (batch : Nat) (s : State) :
    KeepsHbm s (execBatchWaitExpiry t p batch s) := by
  unfold execBatchWaitExpiry
  dsimp only
  (repeat' split) <;> simp

@[simp] theorem execBatchTaken_hbm (t : Nat) (p : PartId) (s : State) : KeepsHbm s (execBatchTaken t p s) := by
  unfold execBatchTaken
  dsimp only
  (repeat' split) <;> simp

@[simp] theorem execPrefillChunkDone_hbm (t : Nat) (k : KwId) (tag : BitVec 64) (s : State) :
    KeepsHbm s (execPrefillChunkDone t k tag s) := by
  unfold execPrefillChunkDone
  dsimp only
  (repeat' split) <;> simp

@[simp] theorem State.insertPrompt_hbm (s : State) (r : Request) : (s.insertPrompt r).hbm = s.hbm := by
  simp only [State.insertPrompt]
  split
  · rfl
  · split
    · split
      · split
        · next inserted => exact (State.krBump_hbm ..).trans (State.insertBlocks_hbm _ _ _ _ _ _ _ _ inserted)
        · rfl
      · rfl
    · rfl

@[simp] theorem State.setBase_hbm (s : State) (r : Request) : (s.setBase r).hbm = s.hbm := by
  unfold State.setBase
  (repeat' split) <;> simp

@[simp] theorem execPrefillComplete_hbm (t : Nat) (k : KwId) (tag : BitVec 64) (s : State) :
    KeepsHbm s (execPrefillComplete t k tag s) := by
  unfold execPrefillComplete
  dsimp only
  (repeat' split) <;> simp

@[simp] theorem execDecodeStep_hbm (t : Nat) (k : KwId) (tag : BitVec 64) (s : State) : KeepsHbm s (execDecodeStep t k tag s) := by
  unfold execDecodeStep
  dsimp only
  (repeat' split) <;> simp

@[simp] theorem opReqCancel_hbm (c : Ctx) (tag : BitVec 64) (s : State) : (opReqCancel c tag s).s.hbm = s.hbm := by
  unfold opReqCancel
  (repeat' split) <;> simp

@[simp] theorem opReqStatus_hbm (c : Ctx) (tag : BitVec 64) (s : State) : (opReqStatus c tag s).s.hbm = s.hbm := by
  unfold opReqStatus
  (repeat' split) <;> simp

@[simp] theorem opReqTokens_hbm (c : Ctx) (tag : BitVec 64) (first : BitVec 32) (count : BitVec 16) (s : State) :
    (opReqTokens c tag first count s).s.hbm = s.hbm := by
  unfold opReqTokens
  (repeat' split) <;> simp

@[simp] theorem execReqRecordExpiry_hbm (t : Nat) (k : KwId) (tag : BitVec 64) (s : State) :
    KeepsHbm s (execReqRecordExpiry t k tag s) := by
  unfold execReqRecordExpiry
  dsimp only
  (repeat' split) <;> simp

@[simp] theorem opDeltaForget_hbm (c : Ctx) (s : State) : (opDeltaForget c s).s.hbm = s.hbm := by simp [opDeltaForget]

@[simp] theorem State.dropModelBases_hbm (s : State) (p : PartId) (model : BitVec 32) : (s.dropModelBases p model).hbm = s.hbm := by
  simp [State.dropModelBases]

@[simp] theorem State.retable_hbm (s : State) (p : PartId) (model : BitVec 32) (t : Option TokTable) :
    (s.retable p model t).hbm = s.hbm := by simp [State.retable]

@[simp] theorem opTokLoad_hbm (c : Ctx) (model : BitVec 32) (addr : Addr) (len : BitVec 64) (s : State) :
    (opTokLoad c model addr len s).s.hbm = s.hbm := by
  unfold opTokLoad
  dsimp only
  (repeat' split) <;> simp

/-! ### Sys2Proof/Machine/Abort.lean -/

@[simp] theorem State.queuePrio0_hbm (s : State) (n dst : ChipId) (b : Prio0Body) : (s.queuePrio0 n dst b).hbm = s.hbm := rfl

@[simp] theorem State.abortMember_hbm (s : State) (p : PartId) (g : Group) (seq i status : Nat) :
    (s.abortMember p g seq i status).hbm = s.hbm := by
  unfold State.abortMember
  split
  · rfl
  · split
    · split
      · dsimp only
        split
        · refine (foldl_hbm (fun s j => ?_) _ _).trans (by simp)
          split <;> simp
        · simp
      · rfl
    · rfl

@[simp] theorem State.abortMemberAll_hbm (s : State) (p : PartId) (g : Group) (i status : Nat) :
    (s.abortMemberAll p g i status).hbm = s.hbm := by simp [State.abortMemberAll]

@[simp] theorem State.abortChip_hbm (s : State) (p : PartId) (n : ChipId) : (s.abortChip p n).hbm = s.hbm := by
  unfold State.abortChip
  split
  · rfl
  · refine foldl_hbm (fun s g => ?_) _ _
    split <;> simp

@[simp] theorem State.abortPart_hbm (s : State) (p : PartId) : (s.abortPart p).hbm = s.hbm := by
  unfold State.abortPart
  split <;> simp

/-! ### Sys2Proof/Machine/Program.lean -/

@[simp] theorem State.loadShadow_hbm (s : State) (v : Part) (x : CellId) : (s.loadShadow v x).hbm = s.hbm := by simp [State.loadShadow]

@[simp] theorem State.sawBacklog_hbm (s : State) (x : CellId) (b : Backlog) : (s.sawBacklog x b).hbm = s.hbm := by
  unfold State.sawBacklog
  split <;> simp

@[simp] theorem State.enqueue_hbm (s : State) (x : CellId) (q : Fin 4) (m : Msg) : (s.enqueue x q m).hbm = s.hbm := by
  simp [State.enqueue]

@[simp] theorem State.settleIn_hbm (s : State) (x : CellId) (q : Fin 4) (fuel : Nat) : ((s.settleIn x q) fuel).hbm = s.hbm := by
  induction fuel generalizing s with
  | zero => rfl
  | succ f ih =>
    unfold State.settleIn
    split
    · rfl
    · split
      · simp [ih]
      · rfl

@[simp] theorem State.enterWaiting_hbm (s : State) (x : CellId) (q : Fin 4) : (s.enterWaiting x q).hbm = s.hbm := by
  simp [State.enterWaiting]

@[simp] theorem State.offer_hbm (s : State) (x : CellId) (q : Fin 4) (m : Msg) : (s.offer x q m).hbm = s.hbm := by simp [State.offer]

@[simp] theorem State.entryHinges_hbm (s : State) (v : Part) (w : Wave) : (s.entryHinges v w).hbm = s.hbm := by
  refine foldl_hbm (fun s x => ?_) _ _
  split <;> simp

@[simp] theorem State.carryBlock_hbm (was s : State) (n : ChipId) (c : RotClass) (m : Fin 640 × Fin 640 × Fin 640) :
    (State.carryBlock was s n c m).hbm = s.hbm := by simp [State.carryBlock]

@[simp] theorem State.carryChip_hbm (s : State) (v : Part) (w : Wave) (old : List (ChipId × Fin 640 × Fin 640)) (n : ChipId) :
    (s.carryChip v w old n).hbm = s.hbm := by
  refine foldl_hbm (fun s m => ?_) _ _
  split <;> simp

@[simp] theorem State.carryOnce_hbm (s : State) (p : PartId) (n : Nat) (chip : ChipId) : (s.carryOnce p n chip).hbm = s.hbm := by
  unfold State.carryOnce
  (repeat' split) <;> simp

@[simp] theorem State.completeWaves_hbm (s : State) (p : PartId) (fuel : Nat) : ((s.completeWaves p) fuel).hbm = s.hbm := by
  induction fuel generalizing s with
  | zero => rfl
  | succ f ih =>
    unfold State.completeWaves
    split
    · rfl
    · split
      · rfl
      · dsimp only
        split
        · rw [ih]
          split <;> simp
        · rfl

@[simp] theorem State.armCalendar_hbm (s : State) (p : PartId) (v : Part) (n : Nat) (chip : ChipId) :
    (s.armCalendar p v n chip).hbm = s.hbm := by
  unfold State.armCalendar
  split <;> simp

@[simp] theorem State.startWave_hbm (s : State) (p : PartId) (w : Wave) : (s.startWave p w).hbm = s.hbm := by
  unfold State.startWave
  split <;> simp

@[simp] theorem State.swapCell_hbm (s : State) (v : Part) (x : CellId) (n : Nat) (nxt : Option CellCfg) :
    (s.swapCell v x n nxt).hbm = s.hbm := by simp [State.swapCell]

@[simp] theorem execCellSwap_hbm (t : Nat) (c : CellId) (s : State) : KeepsHbm s (execCellSwap t c s) := by
  unfold execCellSwap
  dsimp only
  (repeat' split) <;> simp

@[simp] theorem opProgLoad_hbm (c : Ctx) (config : BitVec 16) (img : ProgramImage) (s : State) :
    (opProgLoad c config img s).s.hbm = s.hbm := by
  unfold opProgLoad
  (repeat' split) <;> simp

@[simp] theorem opCalLoad_hbm (c : Ctx) (config : BitVec 16) (addr : Addr) (len : BitVec 64) (s : State) :
    (opCalLoad c config addr len s).s.hbm = s.hbm := by
  unfold opCalLoad
  (repeat' split) <;> simp

@[simp] theorem opProgStart_hbm (c : Ctx) (config : BitVec 16) (s : State) : (opProgStart c config s).s.hbm = s.hbm := by
  unfold opProgStart
  dsimp only
  (repeat' split) <;> simp

@[simp] theorem State.clearCells_hbm (s : State) (v : Part) : (s.clearCells v).hbm = s.hbm := rfl

@[simp] theorem State.clearFabric_hbm (s : State) (p : PartId) (v : Part) : (s.clearFabric p v).hbm = s.hbm := by
  simp [State.clearFabric]

@[simp] theorem State.dropProgram_hbm (s : State) (p : PartId) : (s.dropProgram p).hbm = s.hbm := by
  unfold State.dropProgram
  split <;> simp

@[simp] theorem State.raiseStopped_hbm (s : State) (v : Part) (op : Option Nat) (status : Nat) :
    (s.raiseStopped v op status).hbm = s.hbm := by
  unfold State.raiseStopped
  (repeat' split) <;> simp

@[simp] theorem State.finishStop_hbm (s : State) (p : PartId) : (s.finishStop p).hbm = s.hbm := by
  unfold State.finishStop
  (repeat' split) <;> simp

@[simp] theorem opProgStop_hbm (c : Ctx) (drain : BitVec 8) (s : State) : (opProgStop c drain s).s.hbm = s.hbm := by
  unfold opProgStop
  (repeat' split) <;> simp

@[simp] theorem opProgStatus_hbm (c : Ctx) (s : State) : (opProgStatus c s).s.hbm = s.hbm := by
  unfold opProgStatus
  split <;> simp

/-! ### Sys2Proof/Machine/Cells.lean -/

@[simp] theorem State.wardDrop_hbm (s : State) (p : PartId) (check vchip vdest : Nat) (vaddr : Addr) :
    (s.wardDrop p check vchip vdest vaddr).hbm = s.hbm := by
  unfold State.wardDrop
  split <;> simp

@[simp] theorem State.slotMiss_hbm (s : State) (p : PartId) : (s.slotMiss p).hbm = s.hbm := by simp [State.slotMiss]

@[simp] theorem State.trapCell_hbm (s : State) (p : PartId) (x : CellId) : (s.trapCell p x).hbm = s.hbm := by simp [State.trapCell]

@[simp] theorem State.launch_hbm (s : State) (x : CellId) (q : Fin 4) (dst : CellId) (dq : Fin 4) (m : Msg) :
    (s.launch x q dst dq m).hbm = s.hbm := rfl

@[simp] theorem State.blockCell_hbm (s : State) (x : CellId) (b : Blocked) : (s.blockCell x b).hbm = s.hbm := rfl

@[simp] theorem State.slipBy_hbm (s : State) (p : PartId) (x : CellId) (lost : Nat) : (s.slipBy p x lost).hbm = s.hbm := by
  simp [State.slipBy]

@[simp] theorem State.unblockCell_hbm (s : State) (p : PartId) (x : CellId) : (s.unblockCell p x).hbm = s.hbm := by
  simp [State.unblockCell]

@[simp] theorem State.sendTo_hbm (s : State) (p : PartId) (x : CellId) (q : Fin 4) (c : Fin 80) (r : Fin 64) (dq : Fin 4) (m : Msg) :
    (s.sendTo p x q c r dq m).hbm = s.hbm := by simp [State.sendTo]

@[simp] theorem execCellSend_hbm (t : Nat) (c : CellId) (q : Fin 4) (m : Msg) (s : State) : KeepsHbm s (execCellSend t c q m s) := by
  unfold execCellSend
  dsimp only
  (repeat' split) <;> simp

@[simp] theorem State.takeHead_hbm (s : State) (p : PartId) (x : CellId) (q : Fin 4) : (s.takeHead p x q).hbm = s.hbm := by
  simp [State.takeHead]

@[simp] theorem execCellReceive_hbm (t : Nat) (c : CellId) (q : Fin 4) (s : State) : KeepsHbm s (execCellReceive t c q s) := by
  unfold execCellReceive
  dsimp only
  (repeat' split) <;> simp

@[simp] theorem execBlockedInstructionComplete_hbm (t : Nat) (c : CellId) (s : State) :
    KeepsHbm s (execBlockedInstructionComplete t c s) := by
  unfold execBlockedInstructionComplete
  dsimp only
  (repeat' split) <;> simp

@[simp] theorem execMessageArrival_hbm (t : Nat) (src : CellId) (q : Fin 4) (s : State) :
    KeepsHbm s (execMessageArrival t src q s) := by
  unfold execMessageArrival
  dsimp only
  (repeat' split) <;> simp

@[simp] theorem execScheduleEntryIssue_hbm (t : Nat) (c : CellId) (lost : Nat) (s : State) :
    KeepsHbm s (execScheduleEntryIssue t c lost s) := by
  unfold execScheduleEntryIssue
  dsimp only
  (repeat' split) <;> simp

@[simp] theorem execTaggedFire_hbm (t : Nat) (c : CellId) (s : State) : KeepsHbm s (execTaggedFire t c s) := by
  unfold execTaggedFire
  dsimp only
  (repeat' split) <;> simp

@[simp] theorem State.setDeadbolt_hbm (s : State) (d : Deadbolt) : (s.setDeadbolt d).hbm = s.hbm := rfl

@[simp] theorem State.escalateCycle_hbm (s : State) (p : PartId) (n : ChipId) (cyc : List CellId) :
    (s.escalateCycle p n cyc).hbm = s.hbm := by simp [State.escalateCycle]

@[simp] theorem State.reportCycle_hbm (s : State) (p : PartId) (n : ChipId) (cyc : List CellId) :
    (s.reportCycle p n cyc).hbm = s.hbm := by
  unfold State.reportCycle
  split <;> simp

@[simp] theorem execDeadboltSample_hbm (t : Nat) (chip : ChipId) (p : PartId) (s : State) :
    KeepsHbm s (execDeadboltSample t chip p s) := by
  unfold execDeadboltSample
  dsimp only
  (repeat' split) <;> simp

@[simp] theorem State.spill_hbm (s : State) (p : PartId) (x : CellId) (q : Fin 4) : (s.spill p x q).hbm = s.hbm := by
  simp [State.spill]

@[simp] theorem execDeadboltSpill_hbm (t : Nat) (chip : ChipId) (p : PartId) (s : State) :
    KeepsHbm s (execDeadboltSpill t chip p s) := by
  unfold execDeadboltSpill
  dsimp only
  (repeat' split) <;> simp

@[simp] theorem execQueueRefill_hbm (t : Nat) (c : CellId) (q : Fin 4) (s : State) : KeepsHbm s (execQueueRefill t c q s) := by
  unfold execQueueRefill
  dsimp only
  split <;> simp

@[simp] theorem execRotationHinge_hbm (t : Nat) (p : PartId) (s : State) : KeepsHbm s (execRotationHinge t p s) := by
  unfold execRotationHinge
  dsimp only
  (repeat' split) <;> simp

@[simp] theorem execReportingPeriodEnd_hbm (t : Nat) (p : PartId) (s : State) : KeepsHbm s (execReportingPeriodEnd t p s) := by
  unfold execReportingPeriodEnd
  dsimp only
  (repeat' split) <;> simp

/-! ### Sys2Proof/Machine/Rings.lean -/

@[simp] theorem State.modMember_hbm (s : State) (p : PartId) (group seq i : Nat) (f : Member → Member) :
    (s.modMember p group seq i f).hbm = s.hbm := by simp [State.modMember]

@[simp] theorem State.sendMarks_hbm (s : State) (p : PartId) (group seq i : Nat) : (s.sendMarks p group seq i).hbm = s.hbm := by
  simp [State.sendMarks]

@[simp] theorem State.completeMember_hbm (s : State) (p : PartId) (n seq i : Nat) : (s.completeMember p n seq i).hbm = s.hbm := by
  simp [State.completeMember]

/-! ### Sys2Proof/Machine/Fabric.lean -/

@[simp] theorem State.notify_hbm (s : State) (p : PartId) (n : ChipId) (tag : BitVec 16) (imm : BitVec 25) :
    (s.notify p n tag imm).hbm = s.hbm := by
  unfold State.notify
  split <;> simp

@[simp] theorem State.endTests_hbm (s : State) (l : LinkId) : (s.endTests l).hbm = s.hbm := by simp [State.endTests]

@[simp] theorem State.missOf_hbm (s : State) (k : NetPkt) (owner : Option PartId) : (s.missOf k owner).hbm = s.hbm := by
  unfold State.missOf
  split <;> simp

@[simp] theorem State.leaveStage_hbm (s : State) (at_ : LinkId) : (s.leaveStage at_).hbm = s.hbm := by
  unfold State.leaveStage
  dsimp only
  (repeat' split) <;> simp

@[simp] theorem execPacketForward_hbm (t : Nat) (at_ : LinkId) (s : State) : KeepsHbm s (execPacketForward t at_ s) := by
  simp [execPacketForward]

@[simp] theorem State.switchOut_hbm (s : State) (sw : SwId) (q : Fin 32) (k : NetPkt) (owner : Option PartId) :
    (s.switchOut sw q k owner).hbm = s.hbm := by simp [State.switchOut]

@[simp] theorem execSwitchForward_hbm (t : Nat) (sw : SwId) (port : Fin 32) (pkt : NetPkt) (crc : BitVec 32) (symbols : List Nat)
    (s : State) :
    KeepsHbm s (execSwitchForward t sw port pkt crc symbols s) := by
  unfold execSwitchForward
  dsimp only
  split
  · split
    · simp
    · split
      · simp
      · simp
      all_goals split <;> simp
  · simp

@[simp] theorem State.quarantine_hbm (s : State) (l : LinkId) : (s.quarantine l).hbm = s.hbm := by simp [State.quarantine]

@[simp] theorem execLinkQuarantine_hbm (t : Nat) (l : LinkId) (s : State) : KeepsHbm s (execLinkQuarantine t l s) := by
  unfold execLinkQuarantine
  dsimp only
  split <;> simp

@[simp] theorem execQuarantineTestDone_hbm (t : Nat) (l : LinkId) (unc : Bool) (bers : List Nat) (s : State) :
    KeepsHbm s (execQuarantineTestDone t l unc bers s) := by
  unfold execQuarantineTestDone
  dsimp only
  split <;> simp

@[simp] theorem State.sendPrio0_hbm (s : State) (l : LinkId) (src dst : ChipId) (xseq : BitVec 32) (forced : Bool) (b : Prio0Body) :
    (s.sendPrio0 l src dst xseq forced b).hbm = s.hbm := rfl

@[simp] theorem execPrio0Send_hbm (t : Nat) (chip : ChipId) (s : State) : KeepsHbm s (execPrio0Send t chip s) := by
  unfold execPrio0Send
  dsimp only
  (repeat' split) <;> simp

@[simp] theorem execPrio0Received_hbm (t : Nat) (chip : ChipId) (src : ChipId) (xseq : BitVec 32) (forced : Bool) (dst : ChipId)
    (b : Prio0Body) (s : State) :
    KeepsHbm s (execPrio0Received t chip src xseq forced dst b s) := by
  unfold execPrio0Received
  dsimp only
  (repeat' split) <;> simp

@[simp] theorem State.takeLaneOut_hbm (s : State) (l : LinkId) (lane : Fin 8) : (s.takeLaneOut l lane).hbm = s.hbm := by
  simp [State.takeLaneOut]

@[simp] theorem execLaneTestStart_hbm (t : Nat) (l : LinkId) (s : State) : KeepsHbm s (execLaneTestStart t l s) := by
  unfold execLaneTestStart
  dsimp only
  split <;> simp

@[simp] theorem State.driftOf_hbm (s : State) (base : List Nat) (link : List Byte) (lane ber : Nat) :
    (s.driftOf base link lane ber).hbm = s.hbm := by simp [State.driftOf]

@[simp] theorem State.recordBoth_hbm (s : State) (l : LinkId) (lane ber far : Nat) : (s.recordBoth l lane ber far).hbm = s.hbm := by
  simp [State.recordBoth]

@[simp] theorem execLaneTestEnd_hbm (t : Nat) (l : LinkId) (bers : LaneBers) (s : State) :
    KeepsHbm s (execLaneTestEnd t l bers s) := by
  unfold execLaneTestEnd
  dsimp only
  (repeat' split) <;> simp

/-! ### Sys2Proof/Machine/Collective.lean -/

@[simp] theorem opCgCreate_hbm (c : Ctx) (members : List (BitVec 16)) (timeout : BitVec 32) (s : State) :
    (opCgCreate c members timeout s).s.hbm = s.hbm := by
  unfold opCgCreate
  dsimp only
  (repeat' split) <;> simp

@[simp] theorem opCgDestroy_hbm (c : Ctx) (group : BitVec 16) (s : State) : (opCgDestroy c group s).s.hbm = s.hbm := by
  unfold opCgDestroy
  (repeat' split) <;> simp

@[simp] theorem opCgStatus_hbm (c : Ctx) (group : BitVec 16) (s : State) : (opCgStatus c group s).s.hbm = s.hbm := by
  unfold opCgStatus
  split <;> simp

@[simp] theorem State.abortMessage_hbm (s : State) (p : PartId) (n : ChipId) (tag : BitVec 16) (status : Nat) :
    (s.abortMessage p n tag status).hbm = s.hbm := by
  unfold State.abortMessage
  split <;> simp

@[simp] theorem State.reportAbort_hbm (s : State) (p : PartId) (group : Nat) (x : Instance) (status : Nat) :
    (s.reportAbort p group x status).hbm = s.hbm := by simp [State.reportAbort]

@[simp] theorem State.runEngines_hbm (s : State) (chip : ChipId) (blocks : List (Fin 640)) (m n : Nat) (xs : List (BitVec 32)) :
    (s.runEngines chip blocks m n xs).hbm = s.hbm := by
  unfold State.runEngines
  split
  · rfl
  · refine foldl_hbm (fun s i => ?_) _ _
    split <;> rfl

@[simp] theorem State.compute_hbm (s : State) (p : PartId) (v : Part) (g : Group) (seq i : Nat) (a : FusedArgs) :
    (s.compute p v g seq i a).hbm = s.hbm := by
  unfold State.compute
  (repeat' split) <;> simp

@[simp] theorem execDoneMarkReceived_hbm (t : Nat) (p : PartId) (group seq member : Nat) (bitmap : List Nat) (s : State) :
    KeepsHbm s (execDoneMarkReceived t p group seq member bitmap s) := by
  unfold execDoneMarkReceived
  dsimp only
  (repeat' split) <;> simp

@[simp] theorem execCollectiveTimeout_hbm (t : Nat) (p : PartId) (group seq member : Nat) (s : State) :
    KeepsHbm s (execCollectiveTimeout t p group seq member s) := by
  unfold execCollectiveTimeout
  dsimp only
  (repeat' split) <;> simp

@[simp] theorem execMemberDeparture_hbm (t : Nat) (p : PartId) (group member departed : Nat) (s : State) :
    KeepsHbm s (execMemberDeparture t p group member departed s) := by
  unfold execMemberDeparture
  dsimp only
  (repeat' split) <;> simp

@[simp] theorem execAbortNoticeReceived_hbm (t : Nat) (p : PartId) (group seq member : Nat) (status : BitVec 16) (s : State) :
    KeepsHbm s (execAbortNoticeReceived t p group seq member status s) := by
  unfold execAbortNoticeReceived
  dsimp only
  (repeat' split) <;> simp

/-! ### Sys2Proof/Machine/Tumbler.lean -/

@[simp] theorem State.tmbBump_hbm (s : State) (k : KwId) (i n : Nat) : (s.tmbBump k i n).hbm = s.hbm := rfl

@[simp] theorem opTmbRun_hbm (c : Ctx) (problem : BitVec 16) (seed : BitVec 64) (sweeps : BitVec 32) (sched : Addr) (s : State) :
    (opTmbRun c problem seed sweeps sched s).s.hbm = s.hbm := by
  unfold opTmbRun
  (repeat' split) <;> simp

@[simp] theorem State.setRun_hbm (s : State) (n : ChipId) (run : TmbRun) : (s.setRun n run).hbm = s.hbm := rfl

@[simp] theorem execTumblerSlice_hbm (t : Nat) (chip : ChipId) (s : State) : KeepsHbm s (execTumblerSlice t chip s) := by
  unfold execTumblerSlice
  dsimp only
  (repeat' split) <;> simp

@[simp] theorem State.endRun_hbm (s : State) (n : ChipId) (run : TmbRun) (status : Nat) (tail : List Byte) :
    (s.endRun n run status tail).hbm = s.hbm := by
  unfold State.endRun
  dsimp only
  split <;> simp

@[simp] theorem opTmbFree_hbm (c : Ctx) (problem : BitVec 16) (s : State) : (opTmbFree c problem s).s.hbm = s.hbm := by
  unfold opTmbFree
  (repeat' split) <;> simp

@[simp] theorem State.endRuns_hbm (s : State) (p : PartId) (on : Option ChipId) (status : Nat) (tail : List Byte) :
    (s.endRuns p on status tail).hbm = s.hbm := by simp [State.endRuns]

@[simp] theorem State.freeProblems_hbm (s : State) (p : PartId) (on : Option ChipId) : (s.freeProblems p on).hbm = s.hbm := rfl

@[simp] theorem State.logTumbler_hbm (s : State) (n : ChipId) (problem : Nat) (result : Option (List Byte)) :
    (s.logTumbler n problem result).hbm = s.hbm := by simp [State.logTumbler]

@[simp] theorem execShardMapRun_hbm (t : Nat) (map : List (Fin 4)) (s : State) : KeepsHbm s (execShardMapRun t map s) := by
  unfold execShardMapRun
  dsimp only
  (repeat' split) <;> simp

@[simp] theorem execRotationPlan_hbm (t : Nat) (chip : ChipId) (p : PartId) (plan : List (Fin 640 × Fin 640)) (complete : Bool)
    (s : State) :
    KeepsHbm s (execRotationPlan t chip p plan complete s) := by
  unfold execRotationPlan
  dsimp only
  (repeat' split) <;> simp

/-! ### Sys2Proof/Machine/Service.lean -/

@[simp] theorem State.fire_hbm (s : State) (detector level : Nat) (x : Scope) (chip : Option ChipId) (detail : List Byte)
    (op : Option Nat) :
    (s.fire detector level x chip detail op).hbm = s.hbm := rfl

@[simp] theorem State.logShelf_hbm (s : State) (code : Nat) (unit : BitVec 16) (detail : List Byte) :
    (s.logShelf code unit detail).hbm = s.hbm := rfl

@[simp] theorem State.logTray_hbm (s : State) (code : Nat) (t : TrayId) (detail : List Byte) :
    (s.logTray code t detail).hbm = s.hbm := rfl

@[simp] theorem State.logChip_hbm (s : State) (code : Nat) (n : ChipId) (detail : List Byte) :
    (s.logChip code n detail).hbm = s.hbm := rfl

@[simp] theorem State.syslog_hbm (s : State) (r : LogRec) : (s.syslog r).hbm = s.hbm := by simp [State.syslog]

@[simp] theorem State.consoleLine_hbm (s : State) (r : LogRec) : (s.consoleLine r).hbm = s.hbm := by simp [State.consoleLine]

@[simp] theorem State.commitRec_hbm (s : State) (r : LogRec) : (s.commitRec r).hbm = s.hbm := by rw [(RecordsOnly.commitRec s r).frame]

@[simp] theorem State.commitAll_hbm (s : State) : s.commitAll.hbm = s.hbm := by simp [State.commitAll]

@[simp] theorem State.copyBoxes_hbm (s : State) (ns : List ChipId) : (s.copyBoxes ns).hbm = s.hbm := by
  rw [(RecordsOnly.copyBoxes s ns).frame]

@[simp] theorem State.addDump_hbm (s : State) (d : Dump) : (s.addDump d).hbm = s.hbm := rfl

@[simp] theorem State.dumpPart_hbm (s : State) (p : PartId) (level detector : Nat) (chip : Option ChipId) (detail : List Byte) :
    (s.dumpPart p level detector chip detail).hbm = s.hbm := by
  unfold State.dumpPart
  split <;> simp

@[simp] theorem State.dumpChip_hbm (s : State) (n : ChipId) (level detector : Nat) (detail : List Byte) :
    (s.dumpChip n level detector detail).hbm = s.hbm := rfl

@[simp] theorem State.override_hbm (s : State) (p : PartId) (cause policy imposed : Nat) :
    (s.override p cause policy imposed).hbm = s.hbm := by simp [State.override]

@[simp] theorem State.setLink_hbm (s : State) (l : LinkId) (up : Bool) : (s.setLink l up).hbm = s.hbm := by simp [State.setLink]

@[simp] theorem State.train_hbm (s : State) (l : LinkId) (here far : Nat) : (s.train l here far).hbm = s.hbm := by simp [State.train]

@[simp] theorem State.setPorts_hbm (s : State) (n : ChipId) (up : Bool) : (s.setPorts n up).hbm = s.hbm := by simp [State.setPorts]

@[simp] theorem State.trayOff_hbm (s : State) (t : TrayId) : (s.trayOff t).hbm = s.hbm := by
  obtain ⟨u, records, ports⟩ := s.trayOff_frame t
  rw [ports.2, records.frame]
  rfl

@[simp] theorem State.trayLost_hbm (s : State) (t : TrayId) (detector : Nat) : (s.trayLost t detector).hbm = s.hbm :=
  (fire_hbm ..).trans (s.trayOff_hbm t)

@[simp] theorem State.releaseReset_hbm (s : State) (x : Scope) : (s.releaseReset x).hbm = s.hbm := rfl

@[simp] theorem State.askPlacement_hbm (s : State) : s.askPlacement.hbm = s.hbm := rfl

@[simp] theorem State.switchDown_hbm (s : State) (i : SwId) : (s.switchDown i).hbm = s.hbm := by simp [State.switchDown]

@[simp] theorem State.portUp_hbm (s : State) (h : HostPortId) : (s.portUp h).hbm = s.hbm := rfl

@[simp] theorem State.switchUp_hbm (s : State) (i : SwId) : (s.switchUp i).hbm = s.hbm := by simp [State.switchUp]

@[simp] theorem State.loseEndpoint_hbm (s : State) (k : KwId) (level : Nat) : (s.loseEndpoint k level).hbm = s.hbm := by
  simp [State.loseEndpoint]

/-! ### Sys2Proof/Machine/Power.lean -/

@[simp] theorem State.softStart_hbm (s : State) (c : ChanId) : (s.softStart c).hbm = s.hbm := rfl

@[simp] theorem State.closeContact_hbm (s : State) : s.closeContact.hbm = s.hbm := by simp [State.closeContact]

@[simp] theorem State.unitLost_hbm (s : State) (c : ChanId) : (s.unitLost c).hbm = s.hbm := by
  unfold State.unitLost
  (repeat' split) <;> simp

@[simp] theorem State.unitPowered_hbm (s : State) (c : ChanId) : (s.unitPowered c).hbm = s.hbm := by
  unfold State.unitPowered
  (repeat' split) <;> simp

@[simp] theorem execChannelPowerOn_hbm (t : Nat) (c : ChanId) (s : State) : KeepsHbm s (execChannelPowerOn t c s) := by
  unfold execChannelPowerOn
  dsimp only
  split <;> simp

@[simp] theorem State.trip_hbm (s : State) (c : ChanId) (cause : Nat) (peakMa : Int) : (s.trip c cause peakMa).hbm = s.hbm := rfl

@[simp] theorem execSoftstartEnd_hbm (t : Nat) (c : ChanId) (percent : Nat) (s : State) :
    KeepsHbm s (execSoftstartEnd t c percent s) := by
  unfold execSoftstartEnd
  dsimp only
  (repeat' split) <;> simp

@[simp] theorem execChannelTripped_hbm (t : Nat) (c : ChanId) (lowOutput : Bool) (peakMa : Int) (s : State) :
    KeepsHbm s (execChannelTripped t c lowOutput peakMa s) := by
  unfold execChannelTripped
  dsimp only
  (repeat' split) <;> simp

@[simp] theorem execSoftstartRetry_hbm (t : Nat) (c : ChanId) (sagUs : Nat) (lowestMv : Int) (s : State) :
    KeepsHbm s (execSoftstartRetry t c sagUs lowestMv s) := by
  unfold execSoftstartRetry
  dsimp only
  (repeat' split) <;> simp

@[simp] theorem execChannelLeakCut_hbm (t : Nat) (c : ChanId) (s : State) : KeepsHbm s (execChannelLeakCut t c s) := by
  unfold execChannelLeakCut
  dsimp only
  (repeat' split) <;> simp

@[simp] theorem State.askDivider_hbm (s : State) (n : ChipId) (d : Nat) : (s.askDivider n d).hbm = s.hbm := by simp [State.askDivider]

@[simp] theorem State.holdPart_hbm (s : State) (p : PartId) (v : Part) : (s.holdPart p v).hbm = s.hbm := by simp [State.holdPart]

@[simp] theorem State.releasePart_hbm (s : State) (v : Part) : (s.releasePart v).hbm = s.hbm := by simp [State.releasePart]

@[simp] theorem State.regulate_hbm (s : State) : s.regulate.hbm = s.hbm := by rw [(LoopsOnly.regulate s).frame]

@[simp] theorem State.overrideShares_hbm (s : State) (cause : Nat) (qs : List QuadId) (shares : List (PartId × Nat)) :
    (s.overrideShares cause qs shares).hbm = s.hbm := by simp [State.overrideShares]

@[simp] theorem State.enforceBudget_hbm (s : State) (cause : Nat) : (s.enforceBudget cause).hbm = s.hbm := by
  simp [State.enforceBudget]

@[simp] theorem State.rebudget_hbm (s : State) : s.rebudget.hbm = s.hbm := by simp [State.rebudget]

@[simp] theorem State.abandonCalibrations_hbm (s : State) : s.abandonCalibrations.hbm = s.hbm := by simp [State.abandonCalibrations]

@[simp] theorem State.beginRide_hbm (s : State) : s.beginRide.hbm = s.hbm := by simp [State.beginRide]

@[simp] theorem execConversionLost_hbm (t : Nat) (sh : ShelfId) (converterFault : Bool) (s : State) :
    KeepsHbm s (execConversionLost t sh converterFault s) := by
  unfold execConversionLost
  dsimp only
  split <;> simp

@[simp] theorem execConversionRestored_hbm (t : Nat) (sh : ShelfId) (s : State) : KeepsHbm s (execConversionRestored t sh s) := by
  unfold execConversionRestored
  dsimp only
  (repeat' split) <;> simp

@[simp] theorem State.readUnits_hbm (s : State) (units : List (Fin 16 × Nat × Nat)) : (s.readUnits units).hbm = s.hbm := by
  simp [State.readUnits]

@[simp] theorem State.rearm_hbm (s : State) : s.rearm.hbm = s.hbm := rfl

@[simp] theorem execChargeDisputed_hbm (t : Nat) (unit : Fin 16) (count volt : Nat) (s : State) :
    KeepsHbm s (execChargeDisputed t unit count volt s) := by
  unfold execChargeDisputed
  dsimp only
  split <;> simp

@[simp] theorem execCalibrationStart_hbm (t : Nat) (unit : Fin 16) (s : State) : KeepsHbm s (execCalibrationStart t unit s) := by
  unfold execCalibrationStart
  dsimp only
  split <;> simp

@[simp] theorem execCalibrationEnd_hbm (t : Nat) (unit : Fin 16) (capacityWh : Nat) (s : State) :
    KeepsHbm s (execCalibrationEnd t unit capacityWh s) := by
  unfold execCalibrationEnd
  dsimp only
  split <;> simp

@[simp] theorem State.burn_hbm (s : State) (w : Nat) : (s.burn w).hbm = s.hbm := rfl

@[simp] theorem State.riseBy_hbm (s : State) (w : Nat) : (s.riseBy w).hbm = s.hbm := rfl

@[simp] theorem State.settleBallast_hbm (s : State) : s.settleBallast.hbm = s.hbm := rfl

@[simp] theorem execLoadFall_hbm (t : Nat) (d : LoadDrop) (s : State) : KeepsHbm s (execLoadFall t d s) := by
  unfold execLoadFall
  dsimp only
  (repeat' split) <;> simp

@[simp] theorem execBallastDecay_hbm (t : Nat) (s : State) : KeepsHbm s (execBallastDecay t s) := by simp [execBallastDecay]

@[simp] theorem execLoadRise_hbm (t : Nat) (riseW : Nat) (s : State) : KeepsHbm s (execLoadRise t riseW s) := by simp [execLoadRise]

@[simp] theorem State.drainProgram_hbm (s : State) (p : PartId) : (s.drainProgram p).hbm = s.hbm := by
  unfold State.drainProgram
  split <;> simp

@[simp] theorem State.startAttempt_hbm (s : State) (p : PartId) : (s.startAttempt p).hbm = s.hbm := by
  unfold State.startAttempt
  dsimp only
  (repeat' split) <;> simp

@[simp] theorem opPwrState_hbm (c : Ctx) (state retain : BitVec 8) (s : State) : (opPwrState c state retain s).s.hbm = s.hbm := by
  unfold opPwrState
  dsimp only
  (repeat' split) <;> simp

@[simp] theorem State.loseGrid_hbm (s : State) (p : PartId) : (s.loseGrid p).hbm = s.hbm := by
  unfold State.loseGrid
  split <;> simp

@[simp] theorem State.gate_hbm (s : State) (p : PartId) : (s.gate p).hbm = s.hbm := by simp [State.gate]

@[simp] theorem State.ungate_hbm (s : State) (p : PartId) : (s.ungate p).hbm = s.hbm := by
  unfold State.ungate
  split <;> simp

@[simp] theorem State.gateFor_hbm (s : State) (p : PartId) (was now : Nat) : (s.gateFor p was now).hbm = s.hbm := by
  simp [State.gateFor]

@[simp] theorem execPowerStateChanged_hbm (t : Nat) (p : PartId) (s : State) : KeepsHbm s (execPowerStateChanged t p s) := by
  unfold execPowerStateChanged
  dsimp only
  (repeat' split) <;> simp

/-! ### Sys2Proof/Machine/Cooling.lean -/

@[simp] theorem State.overrideChip_hbm (s : State) (n : ChipId) : (s.overrideChip n).hbm = s.hbm := by simp [State.overrideChip]

@[simp] theorem State.sample_hbm (s : State) (n : ChipId) (x : SensorId) (v : Int) : (s.sample n x v).hbm = s.hbm := rfl

@[simp] theorem State.throttle_hbm (s : State) (n : ChipId) (sensor : Fin 16) (temp : Int) :
    (s.throttle n sensor temp).hbm = s.hbm := by simp [State.throttle]

@[simp] theorem State.stillHot_hbm (s : State) (n : ChipId) : (s.stillHot n).hbm = s.hbm := by simp [State.stillHot]

@[simp] theorem State.stillHotHbm_hbm (s : State) (n : ChipId) (k : Fin 4) : (s.stillHotHbm n k).hbm = s.hbm := by
  simp [State.stillHotHbm]

@[simp] theorem execThermalThrottle_hbm (t : Nat) (chip : ChipId) (sensor : Fin 16) (temp : Int) (s : State) :
    KeepsHbm s (execThermalThrottle t chip sensor temp s) := by
  unfold execThermalThrottle
  dsimp only
  split <;> simp

@[simp] theorem execThrottleStep_hbm (t : Nat) (chip : ChipId) (sensor : Fin 16) (temp : Int) (s : State) :
    KeepsHbm s (execThrottleStep t chip sensor temp s) := by
  unfold execThrottleStep
  dsimp only
  split <;> simp

@[simp] theorem State.unthrottle_hbm (s : State) (n : ChipId) : (s.unthrottle n).hbm = s.hbm := rfl

@[simp] theorem State.logHbm_hbm (s : State) (n : ChipId) (stack : Nat) (temp : Int) (isSet : Bool) :
    (s.logHbm n stack temp isSet).hbm = s.hbm := rfl

@[simp] theorem execThermalRecover_hbm (t : Nat) (chip : ChipId) (quad : Option (Fin 4)) (temp : Int) (s : State) :
    KeepsHbm s (execThermalRecover t chip quad temp s) := by
  unfold execThermalRecover
  dsimp only
  (repeat' split) <;> simp

@[simp] theorem execHbmThrottle_hbm (t : Nat) (chip : ChipId) (stack : Fin 8) (temp : Int) (s : State) :
    KeepsHbm s (execHbmThrottle t chip stack temp s) := by
  unfold execHbmThrottle
  dsimp only
  (repeat' split) <;> simp

@[simp] theorem execThermalTrip_hbm (t : Nat) (x : SensorId) (temp : Int) (s : State) : KeepsHbm s (execThermalTrip t x temp s) := by
  unfold execThermalTrip
  dsimp only
  (repeat' split) <;> simp

@[simp] theorem execThermalTripRestart_hbm (t : Nat) (chip : ChipId) (readings : List (Nat × Int)) (s : State) :
    KeepsHbm s (execThermalTripRestart t chip readings s) := by
  have sampled : (readings.foldl (fun s r =>
      match chipSensor chip r.1 with
      | some x => s.sample chip x r.2
      | none => s) (s.tick t)).hbm = s.hbm := by
    refine (foldl_hbm (fun s r => ?_) _ _).trans rfl
    split <;> simp
  unfold execThermalTripRestart
  dsimp only
  split
  · exact keepsHbm_next.2 (((State.releaseReset_hbm ..).trans rfl).trans sampled)
  · exact keepsHbm_next.2 sampled

@[simp] theorem State.waterCheck_hbm (s : State) (t : TrayId) : (s.waterCheck t).hbm = s.hbm := by simp [State.waterCheck]

@[simp] theorem execSensorFailed_hbm (t : Nat) (x : SensorId) (s : State) : KeepsHbm s (execSensorFailed t x s) := by
  unfold execSensorFailed
  split <;> simp

@[simp] theorem execTrayCoolingSample_hbm (t : Nat) (tray : TrayId) (c : CoolingSample) (s : State) :
    KeepsHbm s (execTrayCoolingSample t tray c s) := by simp [execTrayCoolingSample]

@[simp] theorem execFanFault_hbm (t : Nat) (tray : TrayId) (fan : Fin 6) (rpm : Nat) (s : State) :
    KeepsHbm s (execFanFault t tray fan rpm s) := by
  unfold execFanFault
  dsimp only
  split <;> simp

@[simp] theorem State.shareTray_hbm (s : State) (t : TrayId) : (s.shareTray t).hbm = s.hbm := by simp [State.shareTray]

@[simp] theorem execAllowanceChanged_hbm (t : Nat) (tray : TrayId) (s : State) : KeepsHbm s (execAllowanceChanged t tray s) := by
  unfold execAllowanceChanged
  dsimp only
  split <;> simp

@[simp] theorem execTrayThermalStop_hbm (t : Nat) (tray : TrayId) (s : State) : KeepsHbm s (execTrayThermalStop t tray s) := by
  unfold execTrayThermalStop
  dsimp only
  (repeat' split) <;> simp

@[simp] theorem execTrayRestart_hbm (t : Nat) (tray : TrayId) (s : State) : KeepsHbm s (execTrayRestart t tray s) := by
  unfold execTrayRestart
  dsimp only
  (repeat' split) <;> simp

@[simp] theorem State.leakNotice_hbm (s : State) (t : TrayId) (b : Prio0Body) : (s.leakNotice t b).hbm = s.hbm := by
  refine foldl_hbm (fun s n => foldl_hbm (fun s p => foldl_hbm (fun s d => ?_) _ s) _ s) _ s
  split <;> simp

@[simp] theorem State.cutTray_hbm (s : State) (t : TrayId) (b : Prio0Body) : (s.cutTray t b).hbm = s.hbm := by simp [State.cutTray]

@[simp] theorem execLeakDetected_hbm (t : Nat) (tray : TrayId) (sensor : Fin 2) (s : State) :
    KeepsHbm s (execLeakDetected t tray sensor s) := by simp [execLeakDetected]

@[simp] theorem execRackLeak_hbm (t : Nat) (s : State) : KeepsHbm s (execRackLeak t s) := by simp [execRackLeak]

@[simp] theorem execLeakSensorFault_hbm (t : Nat) (tray : TrayId) (sensor : Fin 2) (s : State) :
    KeepsHbm s (execLeakSensorFault t tray sensor s) := by simp [execLeakSensorFault]

@[simp] theorem execLeakSensorDry_hbm (t : Nat) (tray : Option TrayId) (sensor : Fin 2) (s : State) :
    KeepsHbm s (execLeakSensorDry t tray sensor s) := by
  unfold execLeakSensorDry
  split <;> simp

/-! ### Sys2Proof/Machine/Settings.lean -/

@[simp] theorem opSetGet_hbm (c : Ctx) (id : BitVec 16) (s : State) : (opSetGet c id s).s.hbm = s.hbm := by
  unfold opSetGet
  (repeat' split) <;> simp

@[simp] theorem opSetLatch_hbm (c : Ctx) (id : BitVec 16) (v : List Byte) (s : State) : (opSetLatch c id v s).s.hbm = s.hbm := by
  unfold opSetLatch
  (repeat' split) <;> simp

@[simp] theorem opSetDiscard_hbm (c : Ctx) (s : State) : (opSetDiscard c s).s.hbm = s.hbm := by simp [opSetDiscard]

@[simp] theorem State.store_hbm (s : State) (keys : List SetKey) : (s.store keys).s.hbm = s.hbm := by
  unfold State.store
  dsimp only
  split <;> simp

@[simp] theorem opSetStore_hbm (c : Ctx) (id : BitVec 16) (s : State) : (opSetStore c id s).s.hbm = s.hbm := by
  unfold opSetStore
  dsimp only
  (repeat' split) <;> simp

@[simp] theorem State.loseClass_hbm (s : State) (cls : SetClass) (at_ : ScopeIx → Bool) : (s.loseClass cls at_).hbm = s.hbm := rfl

@[simp] theorem State.dropLatches_hbm (s : State) (at_ : ScopeIx → Bool) : (s.dropLatches at_).hbm = s.hbm := rfl

@[simp] theorem State.loseSessionClass_hbm (s : State) (p : PartId) : (s.loseSessionClass p).hbm = s.hbm := rfl

/-! ### Sys2Proof/Machine/Place.lean -/

@[simp] theorem State.dropPartSettings_hbm (s : State) (p : PartId) : (s.dropPartSettings p).hbm = s.hbm := rfl

@[simp] theorem State.dropGroups_hbm (s : State) (p : PartId) : (s.dropGroups p).hbm = s.hbm := by
  unfold State.dropGroups
  split <;> simp

@[simp] theorem State.endXfers_hbm (s : State) (p : PartId) : (s.endXfers p).hbm = s.hbm := by
  refine foldl_hbm (fun s o => ?_) _ _
  (repeat' split) <;> simp

@[simp] theorem State.logClasses_hbm (s : State) (p : PartId) (b : Byte) : (s.logClasses p b).hbm = s.hbm := rfl

@[simp] theorem State.carryOwn_hbm (s : State) (m : Move) : (s.carryOwn m).hbm = s.hbm := by simp [State.carryOwn]

@[simp] theorem State.respare_hbm (s : State) (p : PartId) : (s.respare p).hbm = s.hbm := by simp [State.respare]

@[simp] theorem State.seatMoved_hbm (s : State) (m : Move) : (s.seatMoved m).hbm = s.hbm := by simp [State.seatMoved]

/-! ### Sys2Proof/Machine/Turns.lean -/

@[simp] theorem State.fitHot_hbm (s : State) (p : PartId) (fuel : Nat) : ((s.fitHot p) fuel).hbm = s.hbm := by
  induction fuel generalizing s with
  | zero => rfl
  | succ f ih =>
    unfold State.fitHot
    split
    · rfl
    · split
      · rfl
      · split
        · simp [ih]
        · rfl

@[simp] theorem State.drawKey_hbm (s : State) (i : Fin 128) (label : BitVec 128) : (s.drawKey i label).hbm = s.hbm := rfl

@[simp] theorem State.makeEpochRoom_hbm (s : State) (ps : List PartId) : (s.makeEpochRoom ps).hbm = s.hbm := by
  refine foldl_hbm (fun s p => ?_) _ _
  split
  · split <;> simp
  · rfl

@[simp] theorem State.epochTurned_hbm (s : State) (p : PartId) (scope : Nat) (also : Option (KwId × SessRef)) :
    (s.epochTurned p scope also).hbm = s.hbm := by
  unfold State.epochTurned
  split <;> simp

@[simp] theorem State.turnEpochs_hbm (s : State) (ps : List PartId) (scope : Nat) (also : Option (KwId × SessRef)) :
    (s.turnEpochs ps scope also).hbm = s.hbm := by simp [State.turnEpochs]

@[simp] theorem State.tellBindings_hbm (s : State) (cs : List Change) : (s.tellBindings cs).hbm = s.hbm := by
  refine foldl_hbm (fun s c => ?_) _ _
  split
  · split <;> simp
  · rfl

@[simp] theorem State.logStarted_hbm (s : State) (e : Ep) (n : SessRef) (latches units : Nat) :
    (s.logStarted e n latches units).hbm = s.hbm := rfl

@[simp] theorem State.logCompleted_hbm (s : State) (forSession : Option SessRef) (units startOsc : Nat) :
    (s.logCompleted forSession units startOsc).hbm = s.hbm := rfl

@[simp] theorem State.resumeIfFree_hbm (s : State) (p : PartId) : (s.resumeIfFree p).hbm = s.hbm := by
  unfold State.resumeIfFree
  split <;> simp

@[simp] theorem State.turnEnd_hbm (s : State) (c : Ctx) (ps : List PartId) : (s.turnEnd c ps).s.hbm = s.hbm := by
  unfold State.turnEnd
  dsimp only
  (repeat' split) <;> simp

@[simp] theorem State.releaseHeld_hbm (s : State) : s.releaseHeld.hbm = s.hbm := by simp [State.releaseHeld]

@[simp] theorem State.tellUnbound_hbm (s : State) : s.tellUnbound.hbm = s.hbm := by simp [State.tellUnbound]

@[simp] theorem State.rejoinLinks_hbm (s : State) (t : Turn) : (s.rejoinLinks t).hbm = s.hbm := by simp [State.rejoinLinks]

@[simp] theorem State.restoreLatches_hbm (s : State) (e : Ep) (n : SessRef) (ls : List Latch) :
    (s.restoreLatches e n ls).hbm = s.hbm := by simp [State.restoreLatches]

@[simp] theorem State.startMoves_hbm (s : State) (t : Turn) : (s.startMoves t).hbm = s.hbm := by simp [State.startMoves]

@[simp] theorem execDrainAttempt_hbm (t : Nat) (p : PartId) (s : State) : KeepsHbm s (execDrainAttempt t p s) := by
  unfold execDrainAttempt
  dsimp only
  (repeat' split) <;> simp

/-! ### Sys2Proof/Machine/Recovery.lean -/

@[simp] theorem execProgressWatchdog_hbm (t : Nat) (p : PartId) (chip : ChipId) (s : State) :
    KeepsHbm s (execProgressWatchdog t p chip s) := by
  unfold execProgressWatchdog
  dsimp only
  (repeat' split) <;> simp

@[simp] theorem execEngineWatchdog_hbm (t : Nat) (p : PartId) (chip : ChipId) (block : Fin 640) (s : State) :
    KeepsHbm s (execEngineWatchdog t p chip block s) := by
  unfold execEngineWatchdog
  dsimp only
  split <;> simp

@[simp] theorem State.poisonWord_hbm (s : State) (q : QuadId) (a : Nat) : (s.poisonWord q a).hbm = s.hbm := by simp [State.poisonWord]

@[simp] theorem execPoisonConsumed_hbm (t : Nat) (p : PartId) (addr : Addr) (s : State) :
    KeepsHbm s (execPoisonConsumed t p addr s) := by
  unfold execPoisonConsumed
  dsimp only
  split <;> simp

@[simp] theorem State.fireChip_hbm (s : State) (detector : Nat) (n : ChipId) : (s.fireChip detector n).hbm = s.hbm := by
  simp [State.fireChip]

@[simp] theorem execKeeperWatchdog_hbm (t : Nat) (chip : ChipId) (s : State) : KeepsHbm s (execKeeperWatchdog t chip s) := by
  simp [execKeeperWatchdog]

@[simp] theorem execChipPollTimeout_hbm (t : Nat) (chip : ChipId) (s : State) : KeepsHbm s (execChipPollTimeout t chip s) := by
  simp [execChipPollTimeout]

@[simp] theorem execHbmErrorRate_hbm (t : Nat) (chip : ChipId) (stack : Fin 8) (s : State) :
    KeepsHbm s (execHbmErrorRate t chip stack s) := by
  unfold execHbmErrorRate
  dsimp only
  split <;> simp

@[simp] theorem State.resetContext_hbm (s : State) (level : Nat) (p : PartId) : (s.resetContext level p).hbm = s.hbm := by
  unfold State.resetContext
  dsimp only
  (repeat' split) <;> simp

@[simp] theorem State.zeroBlock_hbm (s : State) (n : ChipId) (b : Fin 640) : (s.zeroBlock n b).hbm = s.hbm := rfl

@[simp] theorem State.abortOp_hbm (s : State) (p : PartId) (level : Nat) (o : Op) : (s.abortOp p level o).hbm = s.hbm := by
  unfold State.abortOp
  (repeat' split) <;> simp

@[simp] theorem State.loseGroups_hbm (s : State) (p : PartId) : (s.loseGroups p).hbm = s.hbm := by simp [State.loseGroups]

@[simp] theorem State.losePins_hbm (s : State) (p : PartId) : (s.losePins p).hbm = s.hbm := by simp [State.losePins]

@[simp] theorem State.loseBases_hbm (s : State) (p : PartId) : (s.loseBases p).hbm = s.hbm := by simp [State.loseBases]

@[simp] theorem State.loseRunning_hbm (s : State) (p : PartId) : (s.loseRunning p).hbm = s.hbm := by simp [State.loseRunning]

@[simp] theorem State.loseIngest_hbm (s : State) (p : PartId) (ns : List ChipId) (level : Nat) :
    (s.loseIngest p ns level).hbm = s.hbm := by
  unfold State.loseIngest
  split <;> simp

@[simp] theorem State.settleIngest_hbm (s : State) (p : PartId) : (s.settleIngest p).hbm = s.hbm := by
  unfold State.settleIngest
  split <;> simp

@[simp] theorem State.loseTables_hbm (s : State) (p : PartId) (ns : List ChipId) : (s.loseTables p ns).hbm = s.hbm := by
  simp [State.loseTables]

@[simp] theorem State.boxCounters_hbm (s : State) (n : ChipId) : (s.boxCounters n).hbm = s.hbm := by simp [State.boxCounters]

@[simp] theorem State.resetChip_hbm (s : State) (n : ChipId) (level : Nat) : (s.resetChip n level).hbm = s.hbm := by
  simp [State.resetChip]

@[simp] theorem State.countReset_hbm (s : State) (q : ResetReq) : (s.countReset q).1.hbm = s.hbm := by
  unfold State.countReset
  (repeat' split) <;> simp

@[simp] theorem State.uncount_hbm (s : State) (r : ResetRun) : (s.uncount r).hbm = s.hbm := by
  unfold State.uncount
  (repeat' split) <;> simp

@[simp] theorem State.checkService_hbm (s : State) : s.checkService.hbm = s.hbm := by simp [State.checkService]

@[simp] theorem State.lockOut_hbm (s : State) (x : Scope) (count : Nat) : (s.lockOut x count).hbm = s.hbm := by
  have shut (s : State) (ns : List ChipId) :
      (ns.foldl (fun s n => (s.modChip n fun c => { c with power := .locked }).setPorts n false) s).hbm = s.hbm :=
    foldl_hbm (fun _ _ => by rw [State.setPorts_hbm, State.modChip_hbm]) ns s
  unfold State.lockOut
  refine (State.checkService_hbm _).trans ((foldl_hbm (fun _ _ => State.modPart_hbm ..) _ _).trans
    ((State.askPlacement_hbm _).trans ((State.log_hbm ..).trans ?_)))
  cases x with
  | chip n => rw [State.copyBoxes_hbm, shut]
  | tray t => rw [State.modTray_hbm, shut]
  | part p => rw [shut]
  | block p n b => rw [shut]
  | rack => rw [shut]

@[simp] theorem State.raiseReset_hbm (s : State) (ps : List PartId) (level : Nat) : (s.raiseReset ps level).hbm = s.hbm := by
  simp [State.raiseReset]

@[simp] theorem State.escalationNotice_hbm (s : State) (p : PartId) (n : ChipId) (level : Nat) :
    (s.escalationNotice p n level).hbm = s.hbm := by simp [State.escalationNotice]

@[simp] theorem State.dropOp_hbm (s : State) (o : Option Nat) : (s.dropOp o).hbm = s.hbm := by
  unfold State.dropOp
  split <;> simp

@[simp] theorem State.logAbsorbed_hbm (s : State) (x : Scope) (level inForce : Nat) : (s.logAbsorbed x level inForce).hbm = s.hbm :=
  rfl

@[simp] theorem State.retrain_hbm (s : State) (n : ChipId) : (s.retrain n).hbm = s.hbm := by simp [State.retrain]

@[simp] theorem State.backInService_hbm (s : State) (r : ResetRun) : (s.backInService r).hbm = s.hbm := by
  unfold State.backInService
  split <;> simp

@[simp] theorem execEscalateWindowExpiry_hbm (t : Nat) (scope : Scope) (s : State) :
    KeepsHbm s (execEscalateWindowExpiry t scope s) := by simp [execEscalateWindowExpiry]

@[simp] theorem execSwitchTrayFailure_hbm (t : Nat) (sw : SwId) (s : State) : KeepsHbm s (execSwitchTrayFailure t sw s) := by
  unfold execSwitchTrayFailure
  dsimp only
  split <;> simp

/-! ### Sys2Proof/Machine/Diag.lean -/

@[simp] theorem State.corrected_hbm (s : State) (n : ChipId) (i : Fin 8) : (s.corrected n i).hbm = s.hbm := rfl

@[simp] theorem State.correctedAll_hbm (s : State) (xs : List (ChipId × Fin 8)) : (s.correctedAll xs).hbm = s.hbm := by
  simp [State.correctedAll]

@[simp] theorem State.chipCounters_hbm (s : State) (cls unit : Nat) : (s.chipCounters cls unit).s.hbm = s.hbm := by
  unfold State.chipCounters
  dsimp only
  (repeat' split) <;> simp

@[simp] theorem opDiagCounters_hbm (c : Ctx) (cls unit : BitVec 16) (s : State) : (opDiagCounters c cls unit s).s.hbm = s.hbm := by
  unfold opDiagCounters
  dsimp only
  (repeat' split) <;> simp

@[simp] theorem opDiagEventsRead_hbm (c : Ctx) (from_ : BitVec 32) (count : BitVec 16) (s : State) :
    (opDiagEventsRead c from_ count s).s.hbm = s.hbm := by
  unfold opDiagEventsRead
  split <;> simp

@[simp] theorem opDiagEcho_hbm (x1 : Ctx) (body : List Byte) (s : State) : (opDiagEcho x1 body s).s.hbm = s.hbm := rfl

@[simp] theorem opDiagDumpRead_hbm (c : Ctx) (dump : BitVec 16) (offset : BitVec 64) (len : BitVec 32) (s : State) :
    (opDiagDumpRead c dump offset len s).s.hbm = s.hbm := by
  unfold opDiagDumpRead
  (repeat' split) <;> simp

/-! ### Sys2Proof/Machine/Operator.lean -/

@[simp] theorem opOpReset_hbm (c : Ctx) (unit : BitVec 16) (level : BitVec 8) (s : State) :
    (opOpReset c unit level s).s.hbm = s.hbm := by
  unfold opOpReset
  split <;> simp

@[simp] theorem opOpChannelClear_hbm (x1 : Ctx) (shelf ch : BitVec 8) (s : State) :
    (opOpChannelClear x1 shelf ch s).s.hbm = s.hbm := by
  unfold opOpChannelClear
  dsimp only
  (repeat' split) <;> simp

@[simp] theorem opOpLogRead_hbm (x1 : Ctx) (from_ : BitVec 64) (count : BitVec 16) (s : State) :
    (opOpLogRead x1 from_ count s).s.hbm = s.hbm := by
  unfold opOpLogRead
  split <;> simp

@[simp] theorem opOpServiceStatus_hbm (x1 : Ctx) (s : State) : (opOpServiceStatus x1 s).s.hbm = s.hbm := rfl

@[simp] theorem opPwrRead_hbm (c : Ctx) (s : State) : (opPwrRead c s).s.hbm = s.hbm := by
  unfold opPwrRead
  split <;> simp

/-! ### Sys2Proof/Machine/Rmu.lean -/

@[simp] theorem execUnitSilent_hbm (t : Nat) (unit : BitVec 16) (lastPoll : Nat) (s : State) :
    KeepsHbm s (execUnitSilent t unit lastPoll s) := by simp [execUnitSilent]

@[simp] theorem execControllerRestart_hbm (t : Nat) (unit : BitVec 16) (cause : Byte) (s : State) :
    KeepsHbm s (execControllerRestart t unit cause s) := by simp [execControllerRestart]

@[simp] theorem State.logMismatch_hbm (s : State) (h : Fin 64) (endA : Bool) (field : Nat) :
    (s.logMismatch h endA field).hbm = s.hbm := rfl

@[simp] theorem execPresenceChange_hbm (t : Nat) (harness : Fin 64) (endA : Bool) (id : CableId) (far : List (BitVec 16 × Nat × Nat))
    (s : State) :
    KeepsHbm s (execPresenceChange t harness endA id far s) := by
  unfold execPresenceChange
  split <;> simp

@[simp] theorem execModuleInserted_hbm (t : Nat) (p : HostPortId) (m : ModuleId) (s : State) :
    KeepsHbm s (execModuleInserted t p m s) := by simp [execModuleInserted]

@[simp] theorem execModuleRemoved_hbm (t : Nat) (p : HostPortId) (s : State) : KeepsHbm s (execModuleRemoved t p s) := by
  simp [execModuleRemoved]

@[simp] theorem execLogRecordCommit_hbm (t : Nat) (after : Option (List (BitVec 128))) (s : State) :
    KeepsHbm s (execLogRecordCommit t after s) := by
  unfold execLogRecordCommit
  dsimp only
  (repeat' split) <;> simp

@[simp] theorem State.switchFirmware_hbm (s : State) : s.switchFirmware.hbm = s.hbm := rfl

@[simp] theorem execUartCharacterReceived_hbm (t : Nat) (unit : BitVec 16) (ch : Byte) (firstLow : Option (Fin 16)) (s : State) :
    KeepsHbm s (execUartCharacterReceived t unit ch firstLow s) := by
  unfold execUartCharacterReceived
  dsimp only
  (repeat' split) <;> simp

@[simp] theorem execRmuProcessorRestart_hbm (t : Nat) (s : State) : KeepsHbm s (execRmuProcessorRestart t s) := by
  simp [execRmuProcessorRestart]

/-! ### Sys2Proof/Machine/Install.lean -/

@[simp] theorem State.refreshChips_hbm (s : State) (g : Image) : (s.refreshChips g).hbm = s.hbm := by simp [State.refreshChips]

@[simp] theorem State.loadSettings_hbm (s : State) (r : PowerUpReadings) : (s.loadSettings r).1.hbm = s.hbm := by
  unfold State.loadSettings
  dsimp only
  split <;> simp

@[simp] theorem State.holdUnits_hbm (s : State) (r : PowerUpReadings) : (s.holdUnits r).hbm = s.hbm := by simp [State.holdUnits]

@[simp] theorem State.discardTorn_hbm (s : State) (torn : Option Nat) : (s.discardTorn torn).hbm = s.hbm := by
  unfold State.discardTorn
  split <;> simp

@[simp] theorem State.readTray_hbm (s : State) (r : PowerUpReadings) (t : TrayId) : (s.readTray r t).hbm = s.hbm := by
  simp [State.readTray]

@[simp] theorem State.startTray_hbm (s : State) (r : PowerUpReadings) (t : TrayId) : (s.startTray r t).hbm = s.hbm := by
  simp [State.startTray]

@[simp] theorem State.startLinks_hbm (s : State) (r : PowerUpReadings) : (s.startLinks r).hbm = s.hbm := by
  unfold State.startLinks
  refine (foldl_hbm (fun s e => ?_) _ _).trans (by simp)
  split <;> simp

@[simp] theorem State.mapCheck_hbm (s : State) : s.mapCheck.hbm = s.hbm := rfl

@[simp] theorem State.startSwitches_hbm (s : State) : s.startSwitches.hbm = s.hbm := by simp [State.startSwitches]

@[simp] theorem State.setTrims_hbm (s : State) (r : PowerUpReadings) : (s.setTrims r).hbm = s.hbm := by simp [State.setTrims]

@[simp] theorem State.enterReset6_hbm (s : State) (lost : Bool) : (s.enterReset6 lost).hbm = s.hbm := by
  unfold State.enterReset6
  split <;> simp

@[simp] theorem State.startClock_hbm (s : State) (rtc : Option Nat) : (s.startClock rtc).hbm = s.hbm := by
  unfold State.startClock
  split <;> simp

@[simp] theorem State.logAccept_hbm (s : State) (l : LinkId) : (s.logAccept l).hbm = s.hbm := rfl

@[simp] theorem execAcceptTestPhaseEnd_hbm (t : Nat) (results : List (LinkId × List Nat)) (s : State) :
    KeepsHbm s (execAcceptTestPhaseEnd t results s) := by
  unfold execAcceptTestPhaseEnd
  dsimp only
  (repeat' split) <;> simp

/-! ### Sys2Proof/Machine/Receive.lean -/

@[simp] theorem State.letIn_hbm (s : State) (h : Hdr) : (s.letIn h).1.hbm = s.hbm := by
  unfold State.letIn
  (repeat' split) <;> simp

@[simp] theorem State.cacheReply_hbm (s : State) (e : Ep) (n : SessRef) (seq : BitVec 32) (op status : Nat) (epoch : BitVec 32)
    (body : List Byte) :
    (s.cacheReply e n seq op status epoch body).hbm = s.hbm := by simp [State.cacheReply]

@[simp] theorem State.answer_hbm (s : State) (c : Ctx) (op status : Nat) (epoch : BitVec 32) (body : List Byte) :
    (s.answer c op status epoch body).hbm = s.hbm := by simp [State.answer]

@[simp] theorem State.waitAnswer_hbm (s : State) (e : Ep) (n : SessRef) (h : Hdr) (b : Body) (arrived : Nat) :
    (s.waitAnswer e n h b arrived).hbm = s.hbm := by
  unfold State.waitAnswer
  dsimp only
  split <;> simp

@[simp] theorem State.heard_hbm (s : State) (e : Ep) (n : SessRef) (h : Hdr) : (s.heard e n h).hbm = s.hbm := by simp [State.heard]

@[simp] theorem State.taking_hbm (s : State) (e : Ep) (n : SessRef) (h : Hdr) (b : Body) : (s.taking e n h b).hbm = s.hbm := by
  simp [State.taking]

@[simp] theorem State.resend_hbm (s : State) (h : Hdr) (r : CachedReply) (status : Nat) : (s.resend h r status).hbm = s.hbm := rfl

@[simp] theorem State.countProto_hbm (s : State) (via : Via) : (s.countProto via).hbm = s.hbm := by
  unfold State.countProto
  split <;> simp

@[simp] theorem State.lateEnd_hbm (s : State) (e : Ep) (n : SessRef) (x : HeldCmd) (status : Nat) (body : List Byte) :
    (s.lateEnd e n x status body).hbm = s.hbm := by
  unfold State.lateEnd
  split <;> simp

/-! ### Sys2Proof/Machine/Commands.lean -/

@[simp] theorem State.endLookup_hbm (s : State) (l : Lookup) (status : Nat) (body : List Byte) :
    (s.endLookup l status body).hbm = s.hbm := by
  unfold State.endLookup
  split <;> simp

@[simp] theorem State.finishLookup_hbm (s : State) (l : Lookup) (finished : Bool) : (s.finishLookup l finished).hbm = s.hbm := by
  simp [State.finishLookup]

@[simp] theorem execKrLookupReply_hbm (t : Nat) (finished : Bool) (s : State) : KeepsHbm s (execKrLookupReply t finished s) := by
  unfold execKrLookupReply
  dsimp only
  (repeat' split) <;> simp

/-! ### Sys2Proof/Machine/Step.lean -/

@[simp] theorem State.withFetchWord_hbm (s : State) (nbits w : Nat) : (s.withFetchWord nbits w).hbm = s.hbm := rfl

end Sys2Proof.Machine
end

section
/-! SUPPORT. What writes the memory leaves it canonical: every function that stores bytes of HBM does so through a paste, a zeroed
quadrant or a move of quadrants, and these keep the canonical form (log 8). -/

namespace Sys2Proof.Machine

/-- `Memory.wf`, under a name that `simp` does not unfold. -/
def CanonicalHbm (m : Memory) : Prop := m.wf

/-- The state's memory is canonical. The lemmas below take it as their hypothesis in this form and conclude `CanonicalHbm`, so that
`simp` reduces a hypothesis to the memory of the state before. -/
def State.Canonical (s : State) : Prop := Memory.wf s.hbm

theorem State.Canonical.hbm {s : State} (h : s.Canonical) : CanonicalHbm s.hbm := h

@[simp] theorem State.canonical_iff (s : State) : s.Canonical ↔ CanonicalHbm s.hbm := ⟨id, id⟩

/-- An outcome whose next state has a canonical memory. -/
def EndsCanonical (o : Out3) : Prop := ∀ u, o = .next u → CanonicalHbm u.hbm

@[simp] theorem endsCanonical_next {u : State} : EndsCanonical (.next u) ↔ CanonicalHbm u.hbm :=
  ⟨fun h => h u rfl, fun h v e => by cases e; exact h⟩

theorem KeepsHbm.endsCanonical {s : State} {o : Out3} (k : KeepsHbm s o) (h : s.Canonical) : EndsCanonical o := by
  intro u e
  rw [k u e]
  exact h

@[simp] theorem canonical_ite (c : Prop) [Decidable c] (m n : Memory) :
    CanonicalHbm (if c then m else n) ↔ (c → CanonicalHbm m) ∧ (¬ c → CanonicalHbm n) := by
  split <;> simp [*]

theorem foldl_canonical {α : Type} {f : State → α → State} (hf : ∀ s a, s.Canonical → CanonicalHbm (f s a).hbm) (l : List α)
    {s : State} (h : s.Canonical) : CanonicalHbm (l.foldl f s).hbm :=
  foldl_invariant State.Canonical f hf l s h

@[simp] theorem State.hbmPaste_canonical {s : State} (h : s.Canonical) (a n : Nat) (m : Memory) :
    CanonicalHbm (s.hbmPaste a n m).hbm :=
  hbmPaste_wf h a n m

@[simp] theorem State.zeroQuad_canonical {s : State} (h : s.Canonical) (q : QuadId) : CanonicalHbm (s.zeroQuad q).hbm :=
  zeroQuad_wf h q

/-! ### Sys2Proof/Machine/Ops.lean -/

@[simp] theorem State.zeroQuads_canonical {s : State} (h : s.Canonical) (qs : List QuadId) : CanonicalHbm (s.zeroQuads qs).hbm :=
  foldl_canonical (fun _ q h => State.zeroQuad_canonical h q) qs h

/-! ### Sys2Proof/Machine/Operands.lean -/

@[simp] theorem State.twrite_canonical {s : State} (h : s.Canonical) (p : PartId) (a : Addr) (bs : List Byte) :
    CanonicalHbm (s.twrite p a bs).hbm := by simp [State.twrite, h.hbm]

/-! ### Sys2Proof/Machine/Keyring.lean -/

@[simp] theorem State.fetchBlock_canonical {s : State} (h : s.Canonical) (p : PartId) (a kvb : Nat) (i : Fin 128) (key : BitVec 128)
    (failed : Bool) :
    CanonicalHbm (s.fetchBlock p a kvb i key failed).hbm := by
  unfold State.fetchBlock
  (repeat' split) <;> simp [h.hbm]

@[simp] theorem State.fetchFrom_canonical {s : State} (h : s.Canonical) (p : PartId) (a kvb : Nat) (bad : List Nat) (j : Nat)
    (bs : List (Fin 128 × BitVec 128)) :
    CanonicalHbm ((s.fetchFrom p a kvb bad) j bs).hbm := by
  induction bs generalizing s j with
  | nil => exact h
  | cons b bs ih => exact ih (State.fetchBlock_canonical h ..) _

@[simp] theorem execKrFetchDone_canonical (t : Nat) (op : Nat) {s : State} (h : s.Canonical) :
    EndsCanonical (execKrFetchDone t op s) := by
  simp only [execKrFetchDone]
  (repeat' split) <;> simp [h.hbm]

/-! ### Sys2Proof/Machine/Transfer.lean -/

@[simp] theorem State.scramble_canonical {s : State} (h : s.Canonical) (a n : Nat) : CanonicalHbm (s.scramble a n).hbm := by
  simp [State.scramble, h.hbm]

@[simp] theorem State.xferFail_canonical {s : State} (h : s.Canonical) (o : Op) (requested : Bool) :
    CanonicalHbm (s.xferFail o requested).hbm := by
  unfold State.xferFail
  (repeat' split) <;> simp [h.hbm]

@[simp] theorem State.failXfers_canonical {s : State} (h : s.Canonical) (os : List Op) : CanonicalHbm (s.failXfers os).hbm :=
  foldl_canonical (fun _ e h => State.xferFail_canonical h e.1 e.2) _ h

@[simp] theorem State.failQp_canonical {s : State} (h : s.Canonical) (k : KwId) (qpn : BitVec 24) (syndrome : Byte) :
    CanonicalHbm (s.failQp k qpn syndrome).hbm := by simp [State.failQp, h.hbm]

@[simp] theorem execXferDone_canonical (t : Nat) (op : Nat) (r : XferResult) {s : State} (h : s.Canonical) :
    EndsCanonical (execXferDone t op r s) := by
  simp only [execXferDone]
  (repeat' split) <;> simp [h.hbm]

@[simp] theorem State.rdma_canonical {s : State} (h : s.Canonical) (r : RdmaReq) (n : Nat) (write : Bool)
    (go : State → KwId → PartId → Addr → State) (hg : ∀ s k p a, s.Canonical → CanonicalHbm (go s k p a).hbm) :
    CanonicalHbm (s.rdma r n write go).hbm := by
  unfold State.rdma
  split
  · exact h
  · exact h
  · simp [h.hbm]
  · dsimp only
    split
    · simp [h.hbm]
    · split
      · exact hg _ _ _ _ (by simp [h.hbm])
      · simp [h.hbm]

@[simp] theorem execRdmaWrite_canonical (t : Nat) (r : RdmaReq) (data : List Byte) {s : State} (h : s.Canonical) :
    EndsCanonical (execRdmaWrite t r data s) :=
  endsCanonical_next.2 (State.rdma_canonical (by simp [h.hbm]) _ _ _ _ fun s k p a h => by simp [h.hbm])

@[simp] theorem execRdmaWriteImmediate_canonical (t : Nat) (r : RdmaReq) (data : List Byte)
    (imm : BitVec 32) {s : State} (h : s.Canonical) :
    EndsCanonical (execRdmaWriteImmediate t r data imm s) :=
  endsCanonical_next.2 (State.rdma_canonical (by simp [h.hbm]) _ _ _ _ fun s k p a h => by simp [h.hbm])

@[simp] theorem execRdmaRead_canonical (t : Nat) (r : RdmaReq) {s : State} (h : s.Canonical) : EndsCanonical (execRdmaRead t r s) :=
  endsCanonical_next.2 (State.rdma_canonical (by simp [h.hbm]) _ _ _ _ fun s k p a h => by simp [h.hbm])

@[simp] theorem execHostNakReceived_canonical (t : Nat) (port : HostPortId) (src : BitVec 128) (qpn : BitVec 24)
    (syndrome : Byte) {s : State} (h : s.Canonical) :
    EndsCanonical (execHostNakReceived t port src qpn syndrome s) := by
  simp only [execHostNakReceived]
  (repeat' split) <;> simp [h.hbm]

@[simp] theorem execQpAckTimeout_canonical (t : Nat) (k : KwId) (qpn : BitVec 24) {s : State} (h : s.Canonical) :
    EndsCanonical (execQpAckTimeout t k qpn s) := by
  simp only [execQpAckTimeout]
  (repeat' split) <;> simp [h.hbm]

/-! ### Sys2Proof/Machine/Ingest.lean -/

@[simp] theorem State.writeRing_canonical {s : State} (h : s.Canonical) (p : PartId) (toks : List (BitVec 32)) :
    CanonicalHbm (s.writeRing p toks).hbm := by
  have wrote (base start slots : Nat) : CanonicalHbm (toks.zipIdx.foldl (fun s x =>
      s.hbmPaste (base + 4 * ((start + x.2) % slots)) 4 (Memory.ofBytes (le 4 x.1.toNat))) s).hbm :=
    foldl_canonical (fun _ _ h => State.hbmPaste_canonical h ..) _ h
  unfold State.writeRing
  split
  · exact h
  · split
    · exact h
    · split
      · simpa using wrote _ _ _
      · exact h

@[simp] theorem execTok_canonical (t : Nat) (k : KwId) (tag : BitVec 64) {s : State} (h : s.Canonical) :
    EndsCanonical (execTok t k tag s) := by
  simp only [execTok]
  (repeat' split) <;> simp [h.hbm]

/-! ### Sys2Proof/Machine/Rings.lean -/

@[simp] theorem State.writeOutput_canonical {s : State} (h : s.Canonical) (p : PartId) (a : Addr) (bs : List Byte) :
    CanonicalHbm (s.writeOutput p a bs).hbm := by simp [State.writeOutput, h.hbm]

@[simp] theorem State.settleMember_canonical {s : State} (h : s.Canonical) (p : PartId) (n seq i : Nat) :
    CanonicalHbm (s.settleMember p n seq i).hbm := by
  unfold State.settleMember
  (repeat' split) <;> simp [h.hbm]

@[simp] theorem State.legArrived_canonical {s : State} (h : s.Canonical) (p : PartId) (l : CollLeg) :
    CanonicalHbm (s.legArrived p l).hbm := by simp [State.legArrived, h.hbm]

/-! ### Sys2Proof/Machine/Fabric.lean -/

@[simp] theorem State.landBytes_canonical {s : State} (h : s.Canonical) (p : PartId) (a : Addr) (bs : List Byte) :
    CanonicalHbm (s.landBytes p a bs).hbm := by simp [State.landBytes, h.hbm]

@[simp] theorem State.landing_canonical {s : State} (h : s.Canonical) (p : PartId) (k : NetPkt) :
    CanonicalHbm (s.landing p k).hbm := by
  simp only [State.landing]
  (repeat' split) <;> simp [h.hbm]

@[simp] theorem State.ingress_canonical {s : State} (h : s.Canonical) (owner : Option PartId) (k : NetPkt) :
    CanonicalHbm (s.ingress owner k).1.hbm := by
  simp only [State.ingress]
  (repeat' split) <;> simp [h.hbm]

theorem State.cutTransfer_canonical {s : State} (h : s.Canonical) (x : Transfer) :
    ∀ u, (s.cutTransfer x) = some u → CanonicalHbm u.hbm := by
  intro u
  simp only [State.cutTransfer]
  split
  · rintro ⟨⟩; exact h
  · split
    · split
      · split
        · simp
        · rintro ⟨⟩
          rw [State.modLink_hbm]
          refine foldl_canonical (fun s k h => ?_) _ ?_
          · (repeat' split) <;> simp [h.hbm]
          · split <;> simp [h.hbm]
      · rintro ⟨⟩
        rw [hbm_ite, State.notify_hbm, ite_self]
        refine foldl_invariant (fun r : State × Bool => r.1.Canonical) _ (fun r k h => ?_) _ (_, true) (by simpa using h)
        split <;> simp [h.hbm]
      · rintro ⟨⟩; simp [h.hbm]
    · rintro ⟨⟩
      exact foldl_canonical (fun s k h => by simp [h.hbm]) _ (by simp [h.hbm])

@[simp] theorem State.flushSends_canonical {s : State} (h : s.Canonical) (n : ChipId) : CanonicalHbm (s.flushSends n).hbm := by
  refine foldl_canonical (fun s x h => ?_) _ (by simp [h.hbm])
  split
  · exact h
  · split
    · next cut => exact State.cutTransfer_canonical h x _ cut
    · exact h

@[simp] theorem execFabricSend_canonical (t : Nat) (c : CellId) (q : Fin 4) (m : Msg) {s : State} (h : s.Canonical) :
    EndsCanonical (execFabricSend t c q m s) := by
  simp only [execFabricSend]
  (repeat' split) <;> simp [h.hbm]

@[simp] theorem execCalendarSwitch_canonical (t : Nat) (chip : ChipId) {s : State} (h : s.Canonical) :
    EndsCanonical (execCalendarSwitch t chip s) := by simp [execCalendarSwitch, h.hbm]

@[simp] theorem execFabricPacketReceived_canonical (t : Nat) (chip : ChipId) (port : PortId) (hdr : NetHdr) (payload : List Byte)
    (crc : BitVec 32) (symbols : List Nat) {s : State} (h : s.Canonical) :
    EndsCanonical (execFabricPacketReceived t chip port hdr payload crc symbols s) := by
  simp only [execFabricPacketReceived]
  (repeat' split) <;> simp [h.hbm]

/-! ### Sys2Proof/Machine/Collective.lean -/

@[simp] theorem State.undefine_canonical {s : State} (h : s.Canonical) (p : PartId) (a : Addr) (n : Nat) :
    CanonicalHbm (s.undefine p a n).hbm := by simp [State.undefine, h.hbm]

@[simp] theorem State.finaliseMember_canonical {s : State} (h : s.Canonical) (p : PartId) (group seq i status : Nat) :
    CanonicalHbm (s.finaliseMember p group seq i status).hbm := by
  unfold State.finaliseMember
  (repeat' split) <;> simp [h.hbm]

@[simp] theorem State.launchFused_canonical {s : State} (h : s.Canonical) (kind : Fused) (p : PartId) (group i : Nat) (a : FusedArgs) :
    CanonicalHbm (s.launchFused kind p group i a).hbm := by
  simp only [State.launchFused]
  (repeat' split) <;> simp [h.hbm]

@[simp] theorem execMmRs_canonical (t : Nat) (p : PartId) (group member : Nat) (a : FusedArgs) {s : State} (h : s.Canonical) :
    EndsCanonical (execMmRs t p group member a s) := by simp [execMmRs, h.hbm]

@[simp] theorem execMmAr_canonical (t : Nat) (p : PartId) (group member : Nat) (a : FusedArgs) {s : State} (h : s.Canonical) :
    EndsCanonical (execMmAr t p group member a s) := by simp [execMmAr, h.hbm]

@[simp] theorem execAgMm_canonical (t : Nat) (p : PartId) (group member : Nat) (a : FusedArgs) {s : State} (h : s.Canonical) :
    EndsCanonical (execAgMm t p group member a s) := by simp [execAgMm, h.hbm]

@[simp] theorem execAr_canonical (t : Nat) (p : PartId) (group member : Nat) (a : FusedArgs) {s : State} (h : s.Canonical) :
    EndsCanonical (execAr t p group member a s) := by simp [execAr, h.hbm]

@[simp] theorem execAg_canonical (t : Nat) (p : PartId) (group member : Nat) (a : FusedArgs) {s : State} (h : s.Canonical) :
    EndsCanonical (execAg t p group member a s) := by simp [execAg, h.hbm]

@[simp] theorem State.sendStep_canonical {s : State} (h : s.Canonical) (p : PartId) (v : Part) (g : Group) (x : Instance) (i k : Nat)
    (a : FusedArgs) :
    CanonicalHbm (s.sendStep p v g x i k a).hbm := by
  unfold State.sendStep
  (repeat' split) <;> simp [h.hbm]

@[simp] theorem execRingStep_canonical (t : Nat) (p : PartId) (group seq member : Nat) {s : State} (h : s.Canonical) :
    EndsCanonical (execRingStep t p group seq member s) := by
  simp only [execRingStep]
  (repeat' split) <;> simp [h.hbm]

@[simp] theorem execCollectiveFinalise_canonical (t : Nat) (p : PartId) (group seq member : Nat) {s : State} (h : s.Canonical) :
    EndsCanonical (execCollectiveFinalise t p group seq member s) := by
  simp only [execCollectiveFinalise]
  (repeat' split) <;> simp [h.hbm]

/-! ### Sys2Proof/Machine/Tumbler.lean -/

@[simp] theorem State.tmbWrite_canonical {s : State} (h : s.Canonical) (x : Problem) (i : Nat) (ws : List (BitVec 32)) :
    CanonicalHbm (s.tmbWrite x i ws).hbm := by simp [State.tmbWrite, h.hbm]

@[simp] theorem opTmbLoad_canonical (c : Ctx) (addr : Addr) (len : BitVec 64) (flags : BitVec 8) {s : State} (h : s.Canonical) :
    CanonicalHbm (opTmbLoad c addr len flags s).s.hbm := by
  simp only [opTmbLoad]
  (repeat' split) <;> simp [h.hbm]

@[simp] theorem State.writeWindow_canonical {s : State} (h : s.Canonical) (x : Problem) (win : List Nat) (ws : List (BitVec 32)) :
    CanonicalHbm (s.writeWindow x win ws).hbm := foldl_canonical (fun _ _ h => State.tmbWrite_canonical h ..) _ h

@[simp] theorem State.sweepRun_canonical {s : State} (h : s.Canonical) (n : ChipId) (run : TmbRun) (x : Problem) :
    CanonicalHbm (s.sweepRun n run x).hbm := by
  have begun (ws : List (BitVec 32)) (k : KwId) : ((s.tmbWrite x 0 ws).tmbBump k 1 1).Canonical := by
    simp [h.hbm]
  have left (c : Bool) {s : State} (h : s.Canonical) (k : KwId) (win : List Nat) (ws : List (BitVec 32)) : 
      CanonicalHbm (if c then (s.tmbBump k 3 1).writeWindow x win ws else s.tmbBump k 3 1).hbm := by
    simp [h.hbm]
  simp only [State.sweepRun]
  split
  · rw [hbm_ite, State.setRun_hbm, State.tmbBump_hbm, State.setRun_hbm, canonical_ite]
    exact ⟨fun _ => State.writeWindow_canonical (left _ (begun ..) ..) .., fun _ => left _ (begun ..) ..⟩
  · rw [hbm_ite, State.setRun_hbm, State.tmbBump_hbm, State.setRun_hbm, canonical_ite]
    exact ⟨fun _ => State.writeWindow_canonical (left _ h ..) .., fun _ => left _ h ..⟩

@[simp] theorem execTmbSweep_canonical (t : Nat) (chip : ChipId) {s : State} (h : s.Canonical) :
    EndsCanonical (execTmbSweep t chip s) := by
  simp only [execTmbSweep]
  (repeat' split) <;> simp [h.hbm]

@[simp] theorem execTmbDone_canonical (t : Nat) (chip : ChipId) {s : State} (h : s.Canonical) :
    EndsCanonical (execTmbDone t chip s) := by
  simp only [execTmbDone]
  split
  · simp [h.hbm]
  · split
    · simp [h.hbm]
    · rw [endsCanonical_next, State.endRun_hbm, State.tmbBump_hbm]
      exact State.twrite_canonical (State.twrite_canonical (State.tmbWrite_canonical (by simp [h.hbm]) ..) ..) ..

@[simp] theorem opTmbResult_canonical (c : Ctx) (problem : BitVec 16) (dst : Addr) {s : State} (h : s.Canonical) :
    CanonicalHbm (opTmbResult c problem dst s).s.hbm := by
  unfold opTmbResult
  (repeat' split) <;> simp [h.hbm]

/-! ### Sys2Proof/Machine/Service.lean -/

@[simp] theorem State.rackOff_canonical {s : State} (_ : s.Canonical) : CanonicalHbm s.rackOff.hbm := Memory.wf_nil

/-! ### Sys2Proof/Machine/Power.lean -/

@[simp] theorem State.startDump_canonical {s : State} (h : s.Canonical) (reason : Nat) : CanonicalHbm (s.startDump reason).hbm := by
  simp [State.startDump, h.hbm]

@[simp] theorem execRideThroughEnd_canonical (t : Nat) {s : State} (h : s.Canonical) : EndsCanonical (execRideThroughEnd t s) := by
  simp only [execRideThroughEnd]
  (repeat' split) <;> simp [h.hbm]

@[simp] theorem execEnergyFloor_canonical (t : Nat) (units : List (Fin 16 × Nat × Nat)) {s : State} (h : s.Canonical) :
    EndsCanonical (execEnergyFloor t units s) := by
  simp only [execEnergyFloor]
  (repeat' split) <;> simp [h.hbm]

/-! ### Sys2Proof/Machine/Settings.lean -/

@[simp] theorem State.keywayReset_canonical {s : State} (h : s.Canonical) (k : KwId) : CanonicalHbm (s.keywayReset k).hbm := by
  simp [State.keywayReset, h.hbm]

/-! ### Sys2Proof/Machine/Place.lean -/

theorem State.keywaysReset_canonical {s : State} (h : s.Canonical) (ks : List KwId) :
    CanonicalHbm (ks.foldl State.keywayReset s).hbm :=
  foldl_canonical (fun _ k h => State.keywayReset_canonical h k) ks h

@[simp] theorem State.endPart_canonical {s : State} (h : s.Canonical) (p : PartId) : CanonicalHbm (s.endPart p).hbm := by
  unfold State.endPart
  (repeat' split) <;> simp [h.hbm]

@[simp] theorem State.placePart_canonical {s : State} (h : s.Canonical) (p : PartId) (sh : Shape) :
    CanonicalHbm (s.placePart p sh).hbm := by simp [State.placePart, h.hbm]

@[simp] theorem State.createPart_canonical {s : State} (h : s.Canonical) (p : PartId) (sh : Shape) :
    CanonicalHbm (s.createPart p sh).hbm := by simp [State.createPart, h.hbm]

@[simp] theorem State.deletePart_canonical {s : State} (h : s.Canonical) (p : PartId) : CanonicalHbm (s.deletePart p).hbm := by
  simp [State.deletePart, h.hbm]

@[simp] theorem State.reseatPart_canonical {s : State} (h : s.Canonical) (p : PartId) (sh : Shape) :
    CanonicalHbm (s.reseatPart p sh).hbm := by
  unfold State.reseatPart
  (repeat' split) <;> simp [h.hbm]

@[simp] theorem State.unshape_canonical {s : State} (h : s.Canonical) (p : PartId) (before : Option Part) :
    CanonicalHbm (s.unshape p before).hbm := by
  unfold State.unshape
  (repeat' split) <;> simp [h.hbm]

@[simp] theorem State.carry_canonical {s : State} (h : s.Canonical) (ms : List Move) : CanonicalHbm (s.carry ms).hbm :=
  moveHbm_wf (foldl_canonical (fun _ _ h => by simp [h.hbm]) _ (State.zeroQuads_canonical h _)) ms

@[simp] theorem State.moveParts_canonical {s : State} (h : s.Canonical) (shs : List (PartId × Shape)) :
    CanonicalHbm (s.moveParts shs).hbm := by
  refine foldl_canonical (fun _ _ h => by simp [h.hbm]) _ (State.zeroQuads_canonical ?_ _)
  exact State.carry_canonical (State.zeroQuads_canonical h _) _

/-! ### Sys2Proof/Machine/Turns.lean -/

@[simp] theorem State.zeroBetween_canonical {s : State} (h : s.Canonical) (p : PartId) (old new : Nat) :
    CanonicalHbm (s.zeroBetween p old new).hbm := foldl_canonical (fun _ _ h => State.hbmPaste_canonical h ..) _ h

@[simp] theorem State.applyChange_canonical {s : State} (h : s.Canonical) (x : Change) : CanonicalHbm (s.applyChange x).hbm := by
  simp only [State.applyChange]
  (repeat' split) <;> simp [h.hbm]

@[simp] theorem State.applyChanges_canonical {s : State} (h : s.Canonical) (cs : List Change) :
    CanonicalHbm (s.applyChanges cs).hbm := foldl_canonical (fun _ c h => State.applyChange_canonical h c) _ h

@[simp] theorem State.landTurn_canonical {s : State} (h : s.Canonical) (e : Ep) (n : SessRef) (cs : List Change) (scope : Nat)
    (accepted : Bool) (startOsc : Nat) :
    CanonicalHbm (s.landTurn e n cs scope accepted startOsc).hbm := by
  simp only [State.landTurn]
  (repeat' split) <;> simp [h.hbm]

@[simp] theorem State.landWaiting_canonical {s : State} (h : s.Canonical) (fuel : Nat) : CanonicalHbm (s.landWaiting fuel).hbm := by
  induction fuel generalizing s with
  | zero => exact h
  | succ f ih =>
    unfold State.landWaiting
    split
    · exact h
    · exact ih (by simp [h.hbm])

@[simp] theorem State.settleTurns_canonical {s : State} (h : s.Canonical) : CanonicalHbm s.settleTurns.hbm := by
  simp [State.settleTurns, h.hbm]

@[simp] theorem State.narrowTurn_canonical {s : State} (h : s.Canonical) (c : Ctx) (cs : List Change) (cls : TurnClass) :
    CanonicalHbm (s.narrowTurn c cs cls).s.hbm := by
  simp only [State.narrowTurn]
  (repeat' split) <;> simp [h.hbm]

@[simp] theorem State.applyShapes_canonical {s : State} (h : s.Canonical) (shs : List (PartId × Option Shape))
    (also : Option (KwId × SessRef)) :
    CanonicalHbm (s.applyShapes shs also).hbm := by
  simp only [State.applyShapes]
  refine foldl_canonical (fun s e h => ?_) _ (foldl_canonical (fun s e h => State.reseatPart_canonical h ..) _
    (State.moveParts_canonical (foldl_canonical (fun s e h => State.endPart_canonical h _) _
      (foldl_canonical (fun s e h => ?_) _ h)) _))
  · split <;> simp [h.hbm]
  · split <;> simp [h.hbm]

@[simp] theorem State.shapeAt_canonical {a : State × Turn} (h : a.1.Canonical) (e : PartId × Option Shape) :
    CanonicalHbm (State.shapeAt a e).1.hbm := by
  simp only [State.shapeAt]
  (repeat' split) <;> simp [h.hbm]

@[simp] theorem State.turnUnit_canonical {s : State} (h : s.Canonical) (t : Turn) (u : TurnUnit) :
    CanonicalHbm (s.turnUnit t u).1.hbm := by
  have shaped (l : List (PartId × Option Shape)) : CanonicalHbm (l.foldl State.shapeAt (s, t)).1.hbm :=
    foldl_invariant (fun a : State × Turn => a.1.Canonical) State.shapeAt (fun _ e h => State.shapeAt_canonical h e) l (s, t) h
  simp only [State.turnUnit]
  rw [foldl_hbm (fun _ _ => by simp) _ _, State.tellBindings_hbm, State.turnEpochs_hbm]
  exact State.applyChanges_canonical (shaped _) _

@[simp] theorem State.completeTurn_canonical {s : State} (h : s.Canonical) (t : Turn) : CanonicalHbm (s.completeTurn t).hbm := by
  simp only [State.completeTurn]
  refine State.settleTurns_canonical ?_
  have shaped := State.applyShapes_canonical h t.shapes t.toSession
  have body := State.applyChanges_canonical shaped (t.todo.filter (s.applyShapes t.shapes t.toSession).stillHas)
  split <;> split <;> simpa using body

@[simp] theorem State.restoreVal_canonical {s : State} (h : s.Canonical) (key : SetKey) (v : List Byte) :
    CanonicalHbm (s.restoreVal key v).hbm := by simp [State.restoreVal, h.hbm]

@[simp] theorem State.turnBack_canonical {s : State} (h : s.Canonical) (t : Turn) : CanonicalHbm (s.turnBack t).hbm := by
  simp only [State.turnBack]
  rw [State.releaseHeld_hbm, foldl_hbm (fun _ _ => by simp) _ _]
  refine foldl_canonical (fun s e h => State.restoreVal_canonical h ..) _ ?_
  rw [State.Canonical, foldl_hbm (fun _ _ => by simp) _ _]
  refine foldl_canonical (fun s e h => State.unshape_canonical h ..) _ ?_
  split <;> exact h

@[simp] theorem State.rollBack_canonical {s : State} (h : s.Canonical) (t : Turn) (missed : List TurnUnit) :
    CanonicalHbm (s.rollBack t missed).hbm := by
  unfold State.rollBack
  (repeat' split) <;> simp [h.hbm]

@[simp] theorem State.turnReadyUnits_canonical {s : State} (h : s.Canonical) (t : Turn) : CanonicalHbm (s.turnReadyUnits t).1.hbm := by
  refine foldl_invariant (fun a : State × Turn => a.1.Canonical) _ (fun a u h => ?_) _ (s, t) h
  split
  · exact State.turnUnit_canonical h ..
  · exact h

@[simp] theorem State.runTurn_canonical {s : State} (h : s.Canonical) (t : Turn) : CanonicalHbm (s.runTurn t).hbm := by
  simp [State.runTurn, h.hbm]

theorem Res.ite_canonical {c : Prop} [Decidable c] {a b : Res} (ha : CanonicalHbm a.s.hbm) (hb : CanonicalHbm b.s.hbm) :
    CanonicalHbm (if c then a else b).s.hbm := by
  split <;> assumption

@[simp] theorem State.rackTurn_canonical {s : State} (h : s.Canonical) (c : Ctx) (cs : List Change) (latches : List Latch) :
    CanonicalHbm (s.rackTurn c cs latches).s.hbm := by
  simp only [State.rackTurn]
  refine Res.ite_canonical h (Res.ite_canonical h (Res.ite_canonical h (Res.ite_canonical h (Res.ite_canonical h
    (Res.ite_canonical (Res.ite_canonical ?_ ?_) (Res.ite_canonical ?_ (Res.ite_canonical ?_ ?_)))))))
  · simp [h.hbm]
  · simp [h.hbm]
  · simp [h.hbm]
  · simp [h.hbm]
  · simp [h.hbm]

@[simp] theorem State.turnOf_canonical {s : State} (h : s.Canonical) (c : Ctx) (cs : List Change) (latches : List Latch) :
    CanonicalHbm (s.turnOf c cs latches).s.hbm := by
  simp only [State.turnOf]
  have started (c : Bool) (ks : List KwId) : CanonicalHbm (if c then ks.foldl State.keywayReset s else s).hbm := by
    simp [h.hbm, State.keywaysReset_canonical]
  refine Res.ite_canonical h (Res.ite_canonical h ?_)
  have wide (b : Bool) (ks : List KwId) := State.rackTurn_canonical (started b ks) c cs latches
  have narrow := State.narrowTurn_canonical h c cs (widest cs)
  cases hw : widest cs with
  | rack => exact Res.ite_canonical (wide ..) (Res.ite_canonical (wide ..) h)
  | _ => rw [hw] at narrow; exact Res.ite_canonical narrow (Res.ite_canonical narrow h)

@[simp] theorem opSetSet_canonical (c : Ctx) (id : BitVec 16) (v : List Byte) {s : State} (h : s.Canonical) :
    CanonicalHbm (opSetSet c id v s).s.hbm := by
  unfold opSetSet
  (repeat' split) <;> simp [h.hbm]

@[simp] theorem opSetTurn_canonical (c : Ctx) {s : State} (h : s.Canonical) : CanonicalHbm (opSetTurn c s).s.hbm := by
  simp only [opSetTurn]
  (repeat' split) <;> simp [h.hbm]

@[simp] theorem opPwrCap_canonical (c : Ctx) (watts : BitVec 32) {s : State} (h : s.Canonical) :
    CanonicalHbm (opPwrCap c watts s).s.hbm := by
  simp only [opPwrCap]
  (repeat' split) <;> simp [h.hbm]

@[simp] theorem opPolicySet_canonical (c : Ctx) (dividerMax rotation : BitVec 8) (period : BitVec 16) {s : State} (h : s.Canonical) :
    CanonicalHbm (opPolicySet c dividerMax rotation period s).s.hbm := by
  simp only [opPolicySet]
  (repeat' split) <;> simp [h.hbm]

@[simp] theorem execQuiescePoint_canonical (t : Nat) (p : PartId) {s : State} (h : s.Canonical) :
    EndsCanonical (execQuiescePoint t p s) := by
  simp only [execQuiescePoint]
  (repeat' split) <;> simp [h.hbm]

@[simp] theorem execProgStopped_canonical (t : Nat) (p : PartId) {s : State} (h : s.Canonical) :
    EndsCanonical (execProgStopped t p s) := by
  simp only [execProgStopped]
  (repeat' split) <;> simp [h.hbm]

@[simp] theorem execDrainStop_canonical (t : Nat) (p : PartId) {s : State} (h : s.Canonical) :
    EndsCanonical (execDrainStop t p s) := by
  simp only [execDrainStop]
  (repeat' split) <;> simp [h.hbm]

@[simp] theorem execUnitTurn_canonical (t : Nat) (u : TurnUnit) {s : State} (h : s.Canonical) :
    EndsCanonical (execUnitTurn t u s) := by
  simp only [execUnitTurn]
  (repeat' split) <;> simp [h.hbm]

@[simp] theorem execTurnDeadline_canonical (t : Nat) {s : State} (h : s.Canonical) : EndsCanonical (execTurnDeadline t s) := by
  simp only [execTurnDeadline]
  (repeat' split) <;> simp [h.hbm]

@[simp] theorem State.missByReset_canonical {s : State} (h : s.Canonical) : CanonicalHbm s.missByReset.hbm := by
  unfold State.missByReset
  (repeat' split) <;> simp [h.hbm]

@[simp] theorem State.placementFailed_canonical {s : State} (h : s.Canonical) : CanonicalHbm s.placementFailed.hbm := by
  simp only [State.placementFailed]
  (repeat' split) <;> simp [h.hbm]

@[simp] theorem State.planTurn_canonical {s : State} (h : s.Canonical) (changes : List (PartId × Option Shape)) :
    CanonicalHbm (s.planTurn changes).hbm := by simp [State.planTurn, h.hbm]

@[simp] theorem execPlacementRun_canonical (t : Nat) (plan : List (PartId × Place))
    (costGainPercent : Nat) {s : State} (h : s.Canonical) :
    EndsCanonical (execPlacementRun t plan costGainPercent s) := by
  simp only [execPlacementRun]
  (repeat' split) <;> simp [h.hbm]

/-! ### Sys2Proof/Machine/Recovery.lean -/

@[simp] theorem State.failQps_canonical {s : State} (h : s.Canonical) (p : PartId) : CanonicalHbm (s.failQps p).hbm :=
  foldl_canonical (fun _ k h => foldl_canonical (fun _ q h => State.failQp_canonical h k q.qpn 0) _ h) _ h

@[simp] theorem State.resetPartition_canonical {s : State} (h : s.Canonical) (p : PartId) (level : Nat) (locked : List ChipId) :
    CanonicalHbm (s.resetPartition p level locked).hbm := by simp [State.resetPartition, h.hbm]

@[simp] theorem State.resetChips_canonical {s : State} (h : s.Canonical) (ns : List ChipId) (level : Nat) (locked : List ChipId)
    (ps : List PartId) :
    CanonicalHbm (s.resetChips ns level locked ps).hbm := by
  refine foldl_canonical (fun s n h => by simp [h.hbm]) _ (foldl_canonical (fun s p h => ?_) _ h)
  simp [h.hbm]

theorem hbm_foldIf {α : Type} {f : State → α → State} (hf : FoldKeepsHbm f) (c : Prop) [Decidable c] (l : List α) (s : State) :
    (if c then l.foldl f s else s).hbm = s.hbm := by
  split
  · exact foldl_hbm hf l s
  · rfl

theorem State.resetPartitions_canonical {s : State} (h : s.Canonical) (ps : List PartId) (level : Nat) :
    CanonicalHbm (ps.foldl (fun s p => s.resetPartition p level []) s).hbm :=
  foldl_canonical (fun _ p h => State.resetPartition_canonical h p level []) ps h

@[simp] theorem State.startReset_canonical {s : State} (h : s.Canonical) (q : ResetReq) : CanonicalHbm (s.startReset q).hbm := by
  unfold State.startReset
  extract_lets s1 ps ns c s2 locked run s3 s4 s5 s6 s7 s8 s9 s10 s11 s12 s13
  split
  · rw [State.modRmu_hbm]
    exact Memory.wf_nil
  · have counted : s3.hbm = s.hbm := (State.countReset_hbm ..).trans (State.log_hbm ..)
    have missed : s4.Canonical := by
      have listed : s3.Canonical := by
        rw [State.canonical_iff, counted]
        exact h
      unfold s4
      split
      · exact State.missByReset_canonical listed
      · exact listed
    have trayed : s5.hbm = s4.hbm := by
      unfold s5
      split
      · simp
      · rfl
    have noticed : s9.hbm = s5.hbm := calc
      s9.hbm = s8.hbm := by unfold s9; split <;> simp
      _ = s7.hbm := foldl_hbm (by simp) ps s7
      _ = s6.hbm := foldl_hbm (by simp) ns s6
      _ = s5.hbm := foldl_hbm (by simp) ps s5
    have raised : s11.Canonical := by
      rw [State.canonical_iff, State.raiseReset_hbm, hbm_foldIf (by simp), noticed, trayed]
      exact missed
    have acted : s12.Canonical := by
      unfold s12
      split
      · rw [State.canonical_iff, foldl_hbm (by simp)]; exact raised
      · rw [State.canonical_iff, State.zeroBlock_hbm, foldl_hbm (by simp)]; exact raised
      · rw [State.canonical_iff, foldl_hbm (by simp)]; exact raised
      · exact State.resetPartitions_canonical raised ..
      · exact State.resetChips_canonical raised ..
    have settled : s13.Canonical := by
      rw [State.canonical_iff, hbm_foldIf (by simp)]
      exact acted
    split
    · rw [State.dropOp_hbm, State.lockOut_hbm]; exact settled
    · exact settled

@[simp] theorem State.takeRequest_canonical {s : State} (h : s.Canonical) (q : ResetReq) : CanonicalHbm (s.takeRequest q).hbm := by
  unfold State.takeRequest
  (repeat' split) <;> simp [h.hbm]

@[simp] theorem State.failLevel_canonical {s : State} (h : s.Canonical) (level cause : Nat) (x : Scope) (chip : Option ChipId)
    (named : Option Scope) :
    CanonicalHbm (s.failLevel level cause x chip named).hbm := by
  simp only [State.failLevel]
  (repeat' split) <;> simp [h.hbm]

@[simp] theorem execResetStarted_canonical (t : Nat) {s : State} (h : s.Canonical) : EndsCanonical (execResetStarted t s) := by
  simp only [execResetStarted]
  (repeat' split) <;> simp [h.hbm]

@[simp] theorem State.failRun_canonical {s : State} (h : s.Canonical) (r : ResetRun) (cause : Nat) :
    CanonicalHbm (s.failRun r cause).hbm := by simp [State.failRun, h.hbm]

@[simp] theorem execResetDone_canonical (t : Nat) (scope : Scope) (selfTestOk : Bool) {s : State} (h : s.Canonical) :
    EndsCanonical (execResetDone t scope selfTestOk s) := by
  simp only [execResetDone]
  (repeat' split) <;> simp [h.hbm]

@[simp] theorem execResetDeadline_canonical (t : Nat) (scope : Scope) {s : State} (h : s.Canonical) :
    EndsCanonical (execResetDeadline t scope s) := by
  simp only [execResetDeadline]
  (repeat' split) <;> simp [h.hbm]

@[simp] theorem execLevel5Retry_canonical (t : Nat) (tray : TrayId) {s : State} (h : s.Canonical) :
    EndsCanonical (execLevel5Retry t tray s) := by
  simp only [execLevel5Retry]
  (repeat' split) <;> simp [h.hbm]

/-! ### Sys2Proof/Machine/Operator.lean -/

@[simp] theorem opOpKeywayReset_canonical (c : Ctx) {s : State} (h : s.Canonical) : CanonicalHbm (opOpKeywayReset c s).s.hbm := by
  unfold opOpKeywayReset
  (repeat' split) <;> simp [h.hbm]

@[simp] theorem opOpShareKeyCreate_canonical (c : Ctx) (label : BitVec 128) {s : State} (h : s.Canonical) :
    CanonicalHbm (opOpShareKeyCreate c label s).s.hbm := by
  simp only [opOpShareKeyCreate]
  (repeat' split) <;> simp [h.hbm]

@[simp] theorem opOpShareKeyDelete_canonical (c : Ctx) (ref : BitVec 32) {s : State} (h : s.Canonical) :
    CanonicalHbm (opOpShareKeyDelete c ref s).s.hbm := by
  simp only [opOpShareKeyDelete]
  (repeat' split) <;> simp [h.hbm]

@[simp] theorem opOpTimeStep_canonical (c : Ctx) {s : State} (h : s.Canonical) : CanonicalHbm (opOpTimeStep c s).s.hbm := by
  simp only [opOpTimeStep]
  split
  · exact h
  · split
    · exact h
    · simp [h.hbm, State.keywaysReset_canonical]

/-! ### Sys2Proof/Machine/Rmu.lean -/

@[simp] theorem State.redfishSet_canonical {s : State} (h : s.Canonical) (id : BitVec 16) (v : List Byte) :
    CanonicalHbm (s.redfishSet id v).1.hbm := by simp [State.redfishSet, h.hbm]

@[simp] theorem State.redfish_canonical {s : State} (h : s.Canonical) (admin : Bool) (r : Redfish) :
    CanonicalHbm ((s.redfish admin) r).1.hbm := by
  simp only [State.redfish]
  (repeat' split) <;> simp [h.hbm]

@[simp] theorem execRedfishRequest_canonical (t : Nat) (a : RedfishAuth) (r : Redfish) {s : State} (h : s.Canonical) :
    EndsCanonical (execRedfishRequest t a r s) := by
  simp only [execRedfishRequest]
  (repeat' split) <;> simp [h.hbm]

/-! ### Sys2Proof/Machine/Install.lean -/

@[simp] theorem State.placeStored_canonical {s : State} (h : s.Canonical) (plan : List (PartId × Place)) :
    CanonicalHbm (s.placeStored plan).hbm := by
  simp only [State.placeStored]
  split
  · refine foldl_canonical (fun s e h => ?_) _ h
    split <;> simp [h.hbm]
  · exact h

@[simp] theorem State.start_canonical {s : State} (h : s.Canonical) (r : PowerUpReadings) : CanonicalHbm (s.start r).hbm := by
  simp [State.start, h.hbm]

@[simp] theorem execPowerUp_canonical (t : Nat) (r : PowerUpReadings) {s : State} (h : s.Canonical) :
    EndsCanonical (execPowerUp t r s) := by
  simp only [execPowerUp]
  (repeat' split) <;> simp [h.hbm]

/-! ### Sys2Proof/Machine/Receive.lean -/

theorem runOp_canonical (c : Ctx) (b : Body) {s : State} (h : s.Canonical) : CanonicalHbm (runOp c b s).s.hbm := by
  cases b <;> simp [runOp, h.hbm]

theorem equalise_hbm (c : Ctx) (b : Body) (r : Res) : (equalise c b r).s.hbm = r.s.hbm := by
  unfold equalise
  split
  · split
    · rfl
    · split <;> simp
  · rfl

theorem dumpFault_hbm (r : Res) : (dumpFault r).s.hbm = r.s.hbm := by
  unfold dumpFault
  split <;> simp

@[simp] theorem runBody_canonical (c : Ctx) (b : Body) {s : State} (h : s.Canonical) : CanonicalHbm (runBody c b s).s.hbm := by
  unfold runBody
  rw [equalise_hbm, dumpFault_hbm]
  split
  · exact h
  · split
    · exact h
    · split
      · exact h
      · exact runOp_canonical c b h

@[simp] theorem State.runAnswer_canonical {s : State} (hs : s.Canonical) (e : Ep) (n : SessRef) (h : Hdr) (b : Body) (arrived : Nat) :
    CanonicalHbm (s.runAnswer e n h b arrived).hbm := by simp [State.runAnswer, hs.hbm]

@[simp] theorem State.take_canonical {s : State} (hs : s.Canonical) (e : Ep) (n : SessRef) (h : Hdr) (b : Body) (arrived : Nat) :
    CanonicalHbm (s.take e n h b arrived).hbm := by
  simp only [State.take]
  (repeat' split) <;> simp [hs.hbm]

@[simp] theorem State.takeHeld_canonical {s : State} (h : s.Canonical) (e : Ep) (n : SessRef) (fuel : Nat) :
    CanonicalHbm ((s.takeHeld e n) fuel).hbm := by
  induction fuel generalizing s with
  | zero => exact h
  | succ f ih =>
    unfold State.takeHeld
    split
    · exact h
    · split
      · exact h
      · exact ih (State.take_canonical (by simp [h.hbm]) ..)

@[simp] theorem State.sequence_canonical {s : State} (hs : s.Canonical) (e : Ep) (q : Session) (h : Hdr) (b : Body) :
    CanonicalHbm (s.sequence e q h b).hbm := by
  unfold State.sequence
  (repeat' split) <;> simp [hs.hbm]

@[simp] theorem State.sessionless_canonical {s : State} (hs : s.Canonical) (e : Ep) (h : Hdr) (b : Body) :
    CanonicalHbm (s.sessionless e h b).hbm := by simp [State.sessionless, hs.hbm]

@[simp] theorem State.handle_canonical {s : State} (hs : s.Canonical) (e : Ep) (h : Hdr) (b : Body) :
    CanonicalHbm (s.handle e h b).hbm := by
  unfold State.handle
  (repeat' split) <;> simp [hs.hbm]

@[simp] theorem receive_canonical (t : Nat) (h : Hdr) (b : Body) {s : State} (hs : s.Canonical) : EndsCanonical (receive t h b s) := by
  simp only [receive]
  (repeat' split) <;> simp [hs.hbm]

@[simp] theorem protocolFault_canonical (t : Nat) (h : Hdr) (f : FrameFault) {s : State} (hs : s.Canonical) :
    EndsCanonical (protocolFault t h f s) := by
  simp only [protocolFault]
  (repeat' split) <;> simp [hs.hbm]

@[simp] theorem State.startWaiting_canonical {s : State} (h : s.Canonical) (e : Ep) (n : SessRef) (x : HeldCmd) :
    CanonicalHbm (s.startWaiting e n x).hbm := by simp [State.startWaiting, h.hbm]

@[simp] theorem State.startAll_canonical {s : State} (h : s.Canonical) (e : Ep) (n : SessRef) (fuel : Nat) :
    CanonicalHbm ((s.startAll e n) fuel).hbm := by
  induction fuel generalizing s with
  | zero => exact h
  | succ f ih =>
    unfold State.startAll
    split
    · exact h
    · split
      · exact h
      · split
        · exact h
        · exact ih (State.startWaiting_canonical (by simp [h.hbm]) ..)

/-! ### Sys2Proof/Machine/Commands.lean -/

@[simp] theorem execProtocolError_canonical (t : Nat) (h : Hdr) (f : FrameFault) {s : State} (hs : s.Canonical) :
    EndsCanonical (execProtocolError t h f s) := by simp [execProtocolError, hs.hbm]

@[simp] theorem execFencedCommandStart_canonical (t : Nat) (e : Ep) (session : BitVec 16) {s : State} (h : s.Canonical) :
    EndsCanonical (execFencedCommandStart t e session s) := by
  simp only [execFencedCommandStart]
  (repeat' split) <;> simp [h.hbm]

end Sys2Proof.Machine
end

section
/-! SUPPORT. Every row of the instruction table, and with it every step, keeps the memory canonical. -/

namespace Sys2Proof.Machine

/-- The command packets run their handlers, a second group of rows writes the memory, and the rows left leave it as it stands. -/
theorem exec_canonical (i : Instr) {s : State} (h : s.Canonical) : EndsCanonical (exec i s) := by
  cases i with
  | hello | sessionOpen | sessionClose | eventAck | ping | memRegister | memDeregister | qpCreate | qpDestroy | memFill | memCopy
  | xferOut | xferIn | progLoad | calLoad | progStart | progStop | progStatus | krLookup | krInsert | krFetch | krRelease | krUsage
  | tokLoad | reqSubmit | reqSource | reqCancel | reqStatus | reqTokens | deltaForget | cgCreate | cgDestroy | cgStatus | setGet
  | setSet | setLatch | setTurn | setStore | setDiscard | partShapeWrite | kwShareSlotWrite | kwBindingWrite | fabAcceptTestWrite
  | rackAcceptedWrite | pwrState | pwrCap | pwrRead | policySet | tmbLoad | tmbRun | tmbResult | tmbFree | diagCounters
  | diagEventsRead | diagEcho | diagDumpRead | opKeywayReset | opReset | opChannelClear | opShareKeyCreate | opShareKeyDelete
  | opTimeStep | opLogRead | opServiceStatus => exact receive_canonical _ _ _ h
  | xferDone | progStopped | krFetchDone | tok | tmbSweep | tmbDone | fencedCommandStart | rdmaWrite | rdmaWriteImmediate | rdmaRead
  | hostNakReceived | qpAckTimeout | fabricSend | calendarSwitch | fabricPacketReceived | mmRs | mmAr | agMm | ar | ag | ringStep
  | collectiveFinalise | placementRun | rideThroughEnd | energyFloor | powerUp | resetStarted | resetDone | resetDeadline
  | level5Retry | quiescePoint | drainStop | unitTurn | turnDeadline | protocolError | redfishRequest =>
    simp [exec, h.hbm]
  | _ => exact KeepsHbm.endsCanonical (by simp [exec]) h

theorem step_canonical {s : State} (h : s.Canonical) : EndsCanonical (step s) := by
  unfold step
  split
  · simp [h.hbm]
  · exact exec_canonical _ h

/-- Settles O59: a step is a row of the table on the state with the queue's rest, and each row either leaves the memory, or
writes it through the operations that keep its canonical form. -/
theorem memoryStaysCanonical : Obligations.MemoryStaysCanonical :=
  fun _ u h next => step_canonical h u next

end Sys2Proof.Machine
end

section
/-! SUPPORT. Packets that admission or the form of a packet turns away (R46, R55, R57). -/

namespace Sys2Proof.Machine

open Sys2Proof.Safety

/-- A packet on a live host port's own UDP port, from a source or of a keyway that does not match, is only counted (R46). -/
theorem State.letIn_unmatched {s : State} {h : Hdr} {p : HostPortId} (via : h.via = .host p) (live : s.portLive p = true)
    (port : h.udp.toNat = s.rackSet 0x0104#16)
    (apart : ∀ k : KwId, h.keyway.toNat = k.val → (s.admits && s.speaksFor p h.src k) = false) :
    s.letIn h = (s.countAdmission p, none) := by
  simp only [State.letIn, via, live, port]
  split
  · next bad => simp at bad
  · split
    · next hk => rw [if_neg (by simp [apart ⟨h.keyway.toNat, hk⟩ rfl])]
    · rfl

theorem receive_turnedAway {s u : State} {t : Nat} {h : Hdr} (b : Body) (out : (s.tick t).letIn h = (u, none)) :
    receive t h b s = .next u := by
  rw [receive, out]

theorem exec_protocolError (t : Nat) (h : Hdr) (f : FrameFault) (s : State) :
    exec (.protocolError t h f) s = protocolFault t h f s := rfl

section

variable {s : State} {t : Nat} {h : Hdr} {e : Ep}

/-- A packet of wrong form that passes admission is counted (R57). -/
theorem protocolFault_malformed (admitted : (s.tick t).letIn h = (s.tick t, some e)) {f : FrameFault}
    (form : f = .badMagic ∨ f = .badCrc ∨ f = .badLength ∨ f = .replyOrEvent) :
    protocolFault t h f s = .next ((s.tick t).countProto h.via) := by
  obtain rfl | rfl | rfl | rfl := form <;> simp only [protocolFault, admitted]

theorem protocolFault_badVersion (admitted : (s.tick t).letIn h = (s.tick t, some e)) (v op) :
    protocolFault t h (.badVersion v op) s = .next ((s.tick t).reply h op.toNat St.badVersion ((s.tick t).hdrEpoch h) [1]) := by
  simp only [protocolFault, admitted]

end

/-- Settles O3: admission turns the first packets away before any handler, and the form of the others is judged before theirs. -/
theorem badPacketsAreCounted : Obligations.BadPacketsAreCounted := by
  refine ⟨fun i s t h b p packet via live port apart => ?_, fun s t h e admitted => ⟨fun f form => ?_, fun v op => ?_⟩⟩
  · rw [exec_packet s packet, receive_turnedAway b (State.letIn_unmatched via live port apart)]
  · exact protocolFault_malformed admitted form
  · exact protocolFault_badVersion admitted v op

end Sys2Proof.Machine
end

section
/-! SUPPORT. The handlers that list and remove a keyway's memory regions and queue pairs (R48, R71, R373). -/

namespace Sys2Proof.Machine

open Sys2Proof.Safety

section

variable {c : Ctx} {k : KwId} {s : State}

theorem runOp_memRegister_listed (kw : c.kw? = some k) (room : (s.kw k).regs.length < 1024) (addr len access) :
    let rkey := BitVec.ofNat 32 (s.pickId 0 (2 ^ 32) ((s.kw k).regs.map fun r => r.rkey.toNat))
    runOp c (.memRegister addr len access) s = Res.ok
      ((s.modKw k fun w => { w with regs := w.regs ++ [newRegion rkey addr len access] }).useFresh 1) (be 4 rkey.toNat) := by
  simp only [runOp, opMemRegister, kw]
  exact if_neg (by omega)

theorem runOp_memDeregister_removed (kw : c.kw? = some k) {rkey : BitVec 32}
    (listed : ((s.kw k).regs.any fun r => r.rkey = rkey) = true) :
    runOp c (.memDeregister rkey) s = Res.ok (s.modKw k fun w => { w with regs := w.regs.filter fun r => r.rkey ≠ rkey }) := by
  simp only [runOp, opMemDeregister, kw, listed, if_true]

theorem runOp_qpCreate_listed (kw : c.kw? = some k) (room : (s.kw k).qps.length < 64) (x : QpArgs) :
    let qpn := BitVec.ofNat 24 (s.pickId 2 (2 ^ 24) s.allQpns)
    let psn := Config.freePsn s.fresh
    runOp c (.qpCreate x) s = Res.ok
      ((s.modKw k fun w => { w with qps := w.qps ++ [newPair qpn psn x s.osc] }).useFresh 1) (be 3 qpn.toNat ++ be 3 psn.toNat) := by
  simp only [runOp, opQpCreate, kw]
  exact if_neg (by omega)

theorem runOp_qpDestroy_removed (kw : c.kw? = some k) {qpn : BitVec 24} (listed : ((s.kw k).qp? qpn).isSome = true) :
    runOp c (.qpDestroy qpn) s = Res.ok (s.modKw k fun w => { w with qps := w.qps.filter fun q => q.qpn ≠ qpn }) := by
  obtain ⟨x, found⟩ := Option.isSome_iff_exists.1 listed
  simp only [runOp, opQpDestroy, kw, found]

end

/-- Settles O8: each handler does one thing to the keyway's lists; the numbers drawn are the model's own (log 5). -/
theorem registrationsComplete : Obligations.RegistrationsComplete := by
  intro s t h k q
  refine ⟨fun addr len access ready room => ?_, fun rkey ready listed => ?_, fun x ready room => ?_, fun qpn ready listed => ?_⟩
  · exact ⟨_, replies_ok rfl ready nofun (runOp_memRegister_listed rfl room addr len access)⟩
  · exact replies_ok rfl ready nofun (runOp_memDeregister_removed rfl listed)
  · exact ⟨_, _, replies_ok rfl ready nofun (runOp_qpCreate_listed rfl room x)⟩
  · exact replies_ok rfl ready nofun (runOp_qpDestroy_removed rfl listed)

end Sys2Proof.Machine
end

section
/-! SUPPORT. A host's RDMA operations inside a registered region (R48, R77, R78). -/

namespace Sys2Proof.Machine

open Sys2Proof.Safety

/-! ### Tenant stores, byte by byte -/

theorem read_twrite_inside (s : State) (p : PartId) (a : Addr) {bs : List Byte} {i : Nat} (inside : i < bs.length) :
    Memory.read (s.twrite p a bs).hbm (s.phys p a + i) = bs.getD i 0 := by
  rw [read_twrite, if_pos (by omega), Nat.add_sub_cancel_left]

theorem read_twrite_outside (s : State) (p : PartId) (a : Addr) {bs : List Byte} {x : Nat}
    (outside : x < s.phys p a ∨ s.phys p a + bs.length ≤ x) : Memory.read (s.twrite p a bs).hbm x = Memory.read s.hbm x := by
  rw [read_twrite, if_neg (by omega)]

/-! ### Admitted requests -/

/-- CNPs go out and nothing else changes (R77). -/
theorem State.sendCnps_eq (s : State) (port : HostPortId) (n : Nat) :
    s.sendCnps port n = { s with out := s.out ++ List.replicate n (.rdmaCnp port) } := by
  unfold State.sendCnps
  induction n generalizing s with
  | zero => simp
  | succ n ih =>
    rw [List.replicate_succ, List.foldl_cons, ih]
    simp [State.emit, List.replicate_succ]

theorem State.sendCnps_out (s : State) (port : HostPortId) (n : Nat) :
    (s.sendCnps port n).out = s.out ++ List.replicate n (.rdmaCnp port) := by rw [State.sendCnps_eq]

theorem State.phys_sendCnps (s : State) (port : HostPortId) (n : Nat) (p : PartId) (a : Addr) :
    (s.sendCnps port n).phys p a = s.phys p a := by
  rw [State.sendCnps_eq]
  rfl

theorem State.tread_sendCnps (s : State) (port : HostPortId) (n : Nat) (p : PartId) (a : Addr) (len : Nat) :
    (s.sendCnps port n).tread p a len = s.tread p a len := by
  rw [State.sendCnps_eq]
  rfl

/-- A permitted operation of an admitted request does its work on the state its CNPs left in. -/
theorem State.rdma_permitted {s : State} {r : RdmaReq} {k : KwId} {z : Qp} {n : Nat} {write : Bool} {p : PartId} {a : Addr}
    (admitted : s.rdmaAdmit r.port r.src r.qpn = .admitted k z) (short : r.dmaLen ≤ 2 ^ 31)
    (permitted : s.rdmaRange k r n write = some (p, a)) (go : State → KwId → PartId → Addr → State) :
    s.rdma r n write go = go (s.sendCnps r.port r.marked) k p a := by
  have range : (s.sendCnps r.port r.marked).rdmaRange k r n write = some (p, a) := by
    rw [State.sendCnps_eq]
    exact permitted
  simp only [State.rdma, admitted, range]
  exact if_neg (by omega)

/-- Settles O11: a permitted operation does its work after the CNPs, and its work is one store, or one read. -/
theorem hostRdmaCompletes : Obligations.HostRdmaCompletes := by
  intro s t r k z p a admitted short
  refine ⟨fun data range => ⟨⟨_, congrArg Host.Outcome.next (State.rdma_permitted admitted short range _), ?out, ?bytes, ?others⟩,
    fun imm => congrArg Host.Outcome.next (State.rdma_permitted admitted short range _)⟩, fun range => ?read⟩
  case out =>
    exact congrArg (· ++ _) (State.sendCnps_out ..)
  case bytes =>
    intro i inside
    have same := State.phys_sendCnps (s.tick t) r.port r.marked p a
    exact same ▸ read_twrite_inside ((s.tick t).sendCnps r.port r.marked) p a inside
  case others =>
    intro x outside
    have kept : ((s.tick t).sendCnps r.port r.marked).hbm = s.hbm := by rw [State.sendCnps_hbm, State.tick_hbm]
    refine (read_twrite_outside _ p a ?_).trans (congrArg (Memory.read · x) kept)
    rw [State.phys_sendCnps]
    exact outside
  case read =>
    refine congrArg Host.Outcome.next ((State.rdma_permitted admitted short range _).trans ?_)
    rw [State.tread_sendCnps]
    rfl

end Sys2Proof.Machine
end

section
/-! SUPPORT. The end of a fill, a copy or an inbound transfer (R48, R372, R373). -/

namespace Sys2Proof.Machine

open Sys2Proof.Safety

/-! ### The bytes written -/

/-- Byte i of a value stored least significant byte first (R6). -/
theorem getD_le (n v : Nat) {i : Nat} (inside : i < n) : (le n v).getD i 0 = BitVec.ofNat 8 (v / 2 ^ (8 * i)) := by
  induction n generalizing v i with
  | zero => omega
  | succ n ih =>
    cases i with
    | zero => simp [le]
    | succ i =>
      have power : v / 2 ^ (8 * (i + 1)) = v / 256 / 2 ^ (8 * i) := by
        rw [Nat.div_div_eq_div_mul, show 256 = 2 ^ 8 from rfl, ← pow_add]
        congr 2
        omega
      rw [le, List.getD_cons_succ, ih _ (by omega), power]

theorem length_fillBytes (pat : BitVec 64) (n : Nat) : (fillBytes pat n).length = n := by simp [fillBytes]

theorem getD_fillBytes (pat : BitVec 64) {n i : Nat} (inside : i < n) :
    (fillBytes pat n).getD i 0 = BitVec.ofNat 8 (pat.toNat / 2 ^ (8 * (i % 8))) := by
  rw [← getD_le 8 _ (Nat.mod_lt i (by decide))]
  simp [fillBytes, List.getD, List.getElem?_map, List.getElem?_range inside]

theorem length_keepLost (was bs : List Byte) (lost : List Nat) : (keepLost was bs lost).length = bs.length := by simp [keepLost]

/-- What a copy stores, from what its source returned: the bytes of a lost packet are those that stood there (log 139). -/
def keepLostPackets (m : Memory) (d n : Nat) (lost : List Nat) (src : Memory) : Memory :=
  lost.foldl (fun c i => Memory.paste c (1280 * i) (min 1280 (n - 1280 * i)) (Memory.slice m (d + 1280 * i) (min 1280 (n - 1280 * i)))) src

theorem read_keepLostPackets (m : Memory) (d : Nat) {n x : Nat} (inside : x < n) (lost : List Nat) (src : Memory) :
    Memory.read (keepLostPackets m d n lost src) x = if x / 1280 ∈ lost then Memory.read m (d + x) else Memory.read src x := by
  induction lost generalizing src with
  | nil => rfl
  | cons i lost ih =>
    rw [keepLostPackets, List.foldl_cons]
    refine (ih _).trans ?_
    by_cases rest : x / 1280 ∈ lost
    · simp [rest]
    · rw [if_neg rest, Memory.read_paste]
      by_cases here : x / 1280 = i
      · rw [if_pos (by omega), Memory.read_slice, if_pos (by omega), if_pos (by simp [here])]
        congr 1
        omega
      · rw [if_neg (by omega), if_neg (by simp [here, rest])]

/-! ### The operation -/

section

variable {s : State} {id : Nat} {o : Op}

/-- An operation found is found by its own number. -/
theorem State.id_of_op? (found : s.op? id = some o) : o.id = id := by
  simpa using List.find?_some found

theorem State.op?_xferEnd (found : s.op? id = some o) (u : State) (status : Nat) : (u.xferEnd o status).op? id = none := by
  rw [State.op?, (xferEnd_frame u o status).ops, ← State.id_of_op? found]
  exact op?_endOp ..

theorem State.op?_ops {u w : State} (same : u.ops = w.ops) (i : Nat) : u.op? i = w.op? i := by rw [State.op?, same, State.op?]

theorem State.issueNext_ops (s : State) (e : Ep) (q : Qp) : (s.issueNext e q).ops = s.ops := by
  unfold State.issueNext
  split <;> rfl

variable {t : Nat} {r : XferResult}

/-- A range that the partition no longer has: no byte moves (R48, R49). -/
theorem exec_xferDone_fault (found : s.op? id = some o) (lost : (s.tick t).opInTenant o.kind = false) :
    exec (.xferDone t id r) s = .next ((s.tick t).xferEnd o St.wardFault) := by
  have found : (s.tick t).op? id = some o := found
  show execXferDone t id r s = _
  simp only [execXferDone, found, lost]
  rfl

theorem exec_xferDone_fill (found : s.op? id = some o) (tenant : (s.tick t).opInTenant o.kind = true) {p : PartId} {a : Addr}
    {n : Nat} {pat : BitVec 64} (kind : o.kind = .fill p a n pat) :
    exec (.xferDone t id r) s = .next (((s.tick t).twrite p a (fillBytes pat n)).xferEnd o St.ok) := by
  have found : (s.tick t).op? id = some o := found
  rw [kind] at tenant
  show execXferDone t id r s = _
  simp only [execXferDone, found, kind, tenant]
  rfl

theorem exec_xferDone_copy (found : s.op? id = some o) (tenant : (s.tick t).opInTenant o.kind = true) {p : PartId} {a b : Addr}
    {n : Nat} (kind : o.kind = .copy p a b n) :
    exec (.xferDone t id r) s = .next (((s.tick t).hbmPaste (s.phys p b) n
      (keepLostPackets s.hbm (s.phys p b) n r.lost (s.hbmSlice (s.phys p a) n))).xferEnd o (lossStatus r.lost)) := by
  have found : (s.tick t).op? id = some o := found
  rw [kind] at tenant
  show execXferDone t id r s = _
  simp only [execXferDone, found, kind, tenant]
  rfl

/-- The host's bytes stored, the lost packets' aside, and the pair's retries afresh (R77, R148). -/
def State.landIn (s : State) (p : PartId) (x : XferArgs) (k : KwId) (r : XferResult) : State :=
  (s.twrite p x.addr (keepLost (s.tread p x.addr (r.host.take x.len.toNat).length) (r.host.take x.len.toNat) r.lost)).resetRetries k
    x.qpn

theorem exec_xferDone_in (found : s.op? id = some o) (tenant : (s.tick t).opInTenant o.kind = true) {p : PartId} {x : XferArgs}
    {k : KwId} {z : Qp} (kind : o.kind = .xferIn p x) (pair : (s.tick t).opQp o x.qpn = some (k, z))
    (asked : (s.tick t).requested o = true) :
    exec (.xferDone t id r) s =
      .next (if decide (readLimit < ((s.tick t).qpReads o.ep x.qpn).length) then
          (((s.tick t).landIn p x k r).xferEnd o (lossStatus r.lost)).issueNext o.ep z
        else ((s.tick t).landIn p x k r).xferEnd o (lossStatus r.lost)) := by
  have found : (s.tick t).op? id = some o := found
  rw [kind] at tenant
  show execXferDone t id r s = _
  simp only [execXferDone, found, kind, tenant, pair, asked]
  rfl

end

/-- Settles O10: an operation whose range is the tenant's is one store, whose bytes are read back; another moves none. -/
theorem fillAndCopyDone : Obligations.FillAndCopyDone := by
  intro s t id r o found
  refine ⟨fun tenant => ⟨fun p a n pat kind => ?fill, fun p a b n kind => ?copy, fun p x k z kind pair asked => ?inbound⟩,
    fun lost => ⟨exec_xferDone_fault found lost, State.op?_xferEnd found .., by simp⟩⟩
  case fill =>
    refine ⟨_, exec_xferDone_fill found tenant kind, State.op?_xferEnd found .., fun i inside => ?_, fun x outside => ?_⟩
    · rw [State.xferEnd_hbm]
      exact (read_twrite_inside (s.tick t) p a (by rwa [length_fillBytes])).trans (getD_fillBytes pat inside)
    · rw [State.xferEnd_hbm]
      exact read_twrite_outside (s.tick t) p a (by rwa [length_fillBytes])
  case copy =>
    refine ⟨_, exec_xferDone_copy found tenant kind, State.op?_xferEnd found .., fun i inside => ?_, fun x outside => ?_⟩
    · rw [State.xferEnd_hbm, read_hbmPaste, if_pos (by omega), Nat.add_sub_cancel_left, read_keepLostPackets _ _ inside,
        read_hbmSlice, if_pos inside]
    · rw [State.xferEnd_hbm, read_hbmPaste, if_neg (by omega)]
      rfl
  case inbound =>
    refine ⟨_, exec_xferDone_in found tenant kind pair asked, ?_, ?_⟩
    · split
      · rw [State.op?_ops (State.issueNext_ops ..)]
        exact State.op?_xferEnd found ..
      · exact State.op?_xferEnd found ..
    · rw [hbm_ite, State.issueNext_hbm, ite_self, State.xferEnd_hbm, State.landIn, State.resetRetries_hbm]
      rfl

end Sys2Proof.Machine
end

section
/-! SUPPORT. Reading, latching, discarding and storing settings (R47, R332, R336, R351). -/

namespace Sys2Proof.Machine

open Sys2Proof.Safety

/-! ### The session of a command that has arrived -/

section

variable {s : State} {t : Nat} {h : Hdr} {b : Body} {e : Ep} {q : Session}

theorem arrived_hbm (s : State) (t : Nat) (h : Hdr) (b : Body) (e : Ep) (n : SessRef) : (arrived s t h b e n).hbm = s.hbm :=
  (arrived_frame ..).hbm

/-- The session is found in the state its command runs in, with the latches it had. -/
theorem arrived_session (ready : InTurn s t h e q) :
    ∃ x, (arrived s t h b e q.ref).session? e q.ref = some x ∧ x.latches = q.latches := by
  have heard := State.session_modSession (fun q => { q with lastCmd := (s.tick t).osc, lastVia := h.via }) (fun _ => rfl)
    (State.session_of_bearing ready.session)
  exact ⟨_, State.session_modSession _ (fun _ => rfl) heard, rfl⟩

end

/-! ### The handlers of one setting -/

section

variable {c : Ctx} {s : State} {id : BitVec 16} {i : SetInfo} {ix : ScopeIx} {q : Session}

theorem opSetGet_shown (known : setInfo id = some i) (reads : s.mayRead c.ep id i = true) (addressed : s.address c id i = .ok ix)
    (session : s.session? c.ep c.session = some q) :
    opSetGet c id s = Res.ok s ([classByte i.cls.code (s.unstored (id, ix) i) (q.latches.any fun l => l.key = (id, ix))] ++
      be 2 (s.shownValue c (id, ix)).length ++ s.shownValue c (id, ix) ++ be 4 (s.hdrEpoch c.h).toNat) := by
  simp only [opSetGet, known, reads, addressed, session]
  rfl

theorem opSetLatch_kept {v : List Byte} {key : SetKey} (checked : s.checkWrite c id v = .ok key)
    (session : s.session? c.ep c.session = some q) (room : (q.latches.filter fun l => l.key ≠ key).length < 64) :
    opSetLatch c id v s = Res.ok (s.modSession c.ep c.session fun q => q.latch { key := key, value := v }) := by
  simp only [opSetLatch, checked, session]
  exact if_neg (by omega)

theorem opSetStore_one (single : id ≠ 0) (known : setInfo id = some i) (stored : i.cls = .stored)
    (writes : s.mayWrite c.ep i = true) (addressed : s.address c id i = .ok ix) :
    opSetStore c id s = if s.unstored (id, ix) i then s.store [(id, ix)] else Res.ok s := by
  simp only [opSetStore, if_neg single, known, stored, writes, addressed]
  rfl

theorem opSetStore_all (c : Ctx) (s : State) :
    opSetStore c 0 s = if (s.storable c).isEmpty then Res.ok s else s.store (s.storable c) := rfl

end

/-! ### The store (R336) -/

/-- The records of the image with the running values of some settings in place of what was stored. -/
def State.storedRecords (s : State) (keys : List SetKey) : Tab SetKey (List Byte) :=
  keys.foldl (fun r k => Tab.set r k (s.setVal k)) s.image.records

theorem State.get_setVals (s : State) (d : List Byte) (keys : List SetKey) (key : SetKey) (m : Tab SetKey (List Byte)) :
    Tab.get (keys.foldl (fun r k => Tab.set r k (s.setVal k)) m) d key = if key ∈ keys then s.setVal key else Tab.get m d key := by
  induction keys generalizing m with
  | nil => simp
  | cons k keys ih =>
    rw [List.foldl_cons, ih, Tab.get_set]
    by_cases rest : key ∈ keys
    · simp [rest]
    · by_cases here : key = k
      · simp [here]
      · simp [rest, here]

/-- The image that a store writes into the inactive copy is the one that is then in force. -/
theorem Mram.write_inactive (m : Mram) (activeB : Bool) (g : Image) :
    (if !activeB then (m.write activeB g).b.img else (m.write activeB g).a.img) = g := by
  cases activeB <;> rfl

/-- A store that fits commits the image, of the next generation, and leaves running values and memory. -/
theorem State.store_commits {s : State} {keys : List SetKey}
    (fits : Image.length { gen := 0, records := s.storedRecords keys } ≤ 112 * 1024) :
    ∃ u, s.store keys = Res.ok u ∧ u.image = { gen := max s.image.gen s.cfg.genFlash + 1, records := s.storedRecords keys } ∧
      u.cfg.running = s.cfg.running ∧ u.hbm = s.hbm := by
  refine ⟨_, if_neg (Nat.not_lt.2 fits), ?_, rfl, rfl⟩
  exact Mram.write_inactive ..

theorem State.storedVal_of_image {s u : State} {keys : List SetKey} (image : u.image.records = s.storedRecords keys) (key : SetKey) :
    u.storedVal key = if key ∈ keys then s.setVal key else s.storedVal key := by
  rw [State.storedVal, image]
  exact State.get_setVals ..

/-- Settles O24: each handler's answer, its state unchanged but for the session's latches or the committed image. -/
theorem settingCommandsComplete : Obligations.SettingCommandsComplete := by
  intro s t h e q id
  refine ⟨fun i ix ready known reads addressed => ?get, fun v key ready checked room => ?latch, fun ready => ?discard,
    fun i ix ready single known stored writes addressed => ?one, fun ready => ?all⟩
  case get =>
    obtain ⟨x, session, latches⟩ := arrived_session (b := .setGet id) ready.toInTurn
    have run := opSetGet_shown (c := ctxAt s t h (.setGet id) e q) known reads addressed session
    rw [latches] at run
    exact replies_ok rfl ready nofun run
  case latch =>
    obtain ⟨x, session, latches⟩ := arrived_session (b := .setLatch id v) ready.toInTurn
    exact replies_ok rfl ready nofun (opSetLatch_kept (c := ctxAt s t h (.setLatch id v) e q) checked session (latches ▸ room))
  case discard =>
    exact replies_ok rfl ready nofun rfl
  case one =>
    have run := opSetStore_one (c := ctxAt s t h (.setStore id) e q) single known stored writes addressed
    refine ⟨fun same => ?_, fun differs fits => ?_⟩
    · rw [same] at run
      exact replies_ok rfl ready nofun run
    · rw [differs, if_pos rfl] at run
      obtain ⟨u, done, image, running, hbm⟩ := State.store_commits (keys := [(id, ix)]) fits
      have val := State.storedVal_of_image (u := u) (congrArg Image.records image)
      refine ⟨u, replies_ok rfl ready nofun (run.trans done), ?_, fun key other => ?_, congrArg Image.gen image, running,
        hbm.trans (arrived_hbm ..)⟩
      · simp [val]
      · simp [val, other]
  case all =>
    have run := opSetStore_all (ctxAt s t h (.setStore 0) e q) (arrived s t h (.setStore 0) e q.ref)
    refine ⟨fun none => ?_, fun some fits => ?_⟩
    · rw [none] at run
      exact replies_ok rfl ready nofun run
    · rw [if_neg (by simpa using some)] at run
      obtain ⟨u, done, image, running, hbm⟩ := State.store_commits fits
      have val := State.storedVal_of_image (u := u) (congrArg Image.records image)
      exact ⟨u, replies_ok rfl ready nofun (run.trans done), fun key stored => by rw [val, if_pos stored],
        fun key other => by rw [val, if_neg other], running, hbm.trans (arrived_hbm ..)⟩

end Sys2Proof.Machine
end

section
/-! SUPPORT. Turns that nothing holds back: a keyway-, an immediate- or a rack-class turn lands within its command (R351 to R354), and
what it tells changes epochs, events and records alone. -/

namespace Sys2Proof.Machine

open Sys2Proof.Safety

/-! ### What a turn tells -/

/-- Only partitions, events, records and the turn itself may differ. -/
def TurnTells (s t : State) : Prop :=
  t = { s with parts := t.parts, kws := t.kws, opr := t.opr, out := t.out, rmu := t.rmu, turn := t.turn }

namespace TurnTells

variable {s t u : State}

theorem refl (s : State) : TurnTells s s := rfl

theorem trans (h : TurnTells s t) (g : TurnTells t u) : TurnTells s u := by
  unfold TurnTells at *
  rw [g, h]

theorem of_eventsOnly (h : EventsOnly s t) : TurnTells s t := by
  unfold TurnTells EventsOnly at *
  rw [h]

theorem foldl {α : Type} (f : State → α → State) (h : ∀ s a, TurnTells s (f s a)) (l : List α) (s : State) :
    TurnTells s (l.foldl f s) := by
  induction l generalizing s with
  | nil => exact refl s
  | cons a l ih => exact (h s a).trans (ih _)

theorem modPart (s : State) (p : PartId) (f : Part → Part) : TurnTells s (s.modPart p f) := by
  unfold State.modPart
  split <;> rfl

theorem log (s : State) (c : Nat) (x : BitVec 16) (bs : List Byte) : TurnTells s (s.log c x bs) := rfl

theorem logCompleted (s : State) (n : Option SessRef) (units start : Nat) : TurnTells s (s.logCompleted n units start) := rfl

theorem logStarted (s : State) (e : Ep) (n : SessRef) (latches units : Nat) : TurnTells s (s.logStarted e n latches units) := rfl

section Fields

variable (h : TurnTells s t)
include h

theorem hbm : t.hbm = s.hbm := by rw [h]
theorem cfg : t.cfg = s.cfg := by rw [h]
theorem chips : t.chips = s.chips := by rw [h]
theorem clk : t.clk = s.clk := by rw [h]
theorem accept : t.accept = s.accept := by rw [h]
theorem rackEpoch : t.rackEpoch = s.rackEpoch := by rw [h]
theorem rackEpochHigh : t.rackEpochHigh = s.rackEpochHigh := by rw [h]
theorem partTurns : t.partTurns = s.partTurns := by rw [h]
theorem resets : t.resets = s.resets := by rw [h]

end Fields

end TurnTells

namespace State

variable (s : State)

theorem epochTurned_eventsOnly (p : PartId) (scope : Nat) (also : Option (KwId × SessRef)) :
    EventsOnly s (s.epochTurned p scope also) := by
  unfold State.epochTurned
  split
  · exact EventsOnly.refl s
  · exact EventsOnly.foldl _ (fun s k => EventsOnly.raiseAlso ..) _ s

theorem turnEpochs_tells (ps : List PartId) (scope : Nat) (also : Option (KwId × SessRef)) :
    TurnTells s (s.turnEpochs ps scope also) :=
  TurnTells.foldl _ (fun s p => (TurnTells.modPart s p _).trans (TurnTells.of_eventsOnly (epochTurned_eventsOnly ..))) ps s

theorem tellBindings_eventsOnly (cs : List Change) : EventsOnly s (s.tellBindings cs) := by
  refine EventsOnly.foldl _ (fun s c => ?_) cs s
  split
  · split
    · exact EventsOnly.raiseK ..
    · exact EventsOnly.refl s
  · exact EventsOnly.refl s

/-! ### The epochs of a turn (R349) -/

theorem part_advanceEpoch_ne {p j : PartId} (other : j ≠ p) : (s.advanceEpoch p).part j = s.part j := by
  rw [State.advanceEpoch, part_modPart, if_neg other]

/-- A partition of which the turn is not keeps its own. -/
theorem part_turnEpochs_other {ps : List PartId} {p : PartId} (other : p ∉ ps) (scope : Nat) (also : Option (KwId × SessRef)) :
    (s.turnEpochs ps scope also).part p = s.part p := by
  induction ps generalizing s with
  | nil => rfl
  | cons j ps ih =>
    obtain ⟨here, rest⟩ := not_or.1 (List.mem_cons.not.1 other)
    have told : ((s.advanceEpoch j).epochTurned j scope also).part p = s.part p := by
      rw [State.part, (epochTurned_eventsOnly ..).parts, ← State.part, part_advanceEpoch_ne s here]
    exact (ih _ rest).trans told

/-- One of a turn's partitions is under the next epoch of the highest it had (R349). -/
theorem part_turnEpochs {ps : List PartId} {p : PartId} {w : Part} (once : ps.Nodup) (mem : p ∈ ps) (part : s.part p = some w)
    (scope : Nat) (also : Option (KwId × SessRef)) :
    ∃ x, (s.turnEpochs ps scope also).part p = some x ∧ x.epoch = nextEpoch w.epochHigh := by
  induction ps generalizing s with
  | nil => cases mem
  | cons j ps ih =>
    obtain ⟨fresh, once⟩ := List.nodup_cons.1 once
    have told (p : PartId) : ((s.advanceEpoch j).epochTurned j scope also).part p = (s.advanceEpoch j).part p := by
      rw [State.part, (epochTurned_eventsOnly ..).parts, ← State.part]
    by_cases here : p = j
    · subst here
      refine ⟨{ w with epoch := nextEpoch w.epochHigh, epochHigh := nextEpoch w.epochHigh }, ?_, rfl⟩
      refine (part_turnEpochs_other _ fresh scope also).trans ((told p).trans ?_)
      rw [State.advanceEpoch, part_modPart, if_pos rfl, part]
      rfl
    · refine ih _ once ((List.mem_cons.1 mem).resolve_left here) ((told p).trans ?_)
      rw [part_advanceEpoch_ne s here, part]

end State

/-! ### A turn of one keyway or partition (R353, R354) -/

/-- The turn lands on what its changes leave: the rest is told (R354). -/
theorem State.landTurn_tells (s : State) (e : Ep) (n : SessRef) (cs : List Change) (scope : Nat) (accepted : Bool) (start : Nat) :
    TurnTells ((s.applyChanges cs).turnEpochs ((s.changedParts cs).filter fun p => ((s.applyChanges cs).part p).isSome) scope
      (onlyIf accepted (issuer e n))) (s.landTurn e n cs scope accepted start) ∧
    (s.landTurn e n cs scope accepted start).parts = ((s.applyChanges cs).turnEpochs
      ((s.changedParts cs).filter fun p => ((s.applyChanges cs).part p).isSome) scope (onlyIf accepted (issuer e n))).parts := by
  unfold State.landTurn
  extract_lets ps x qs y z
  have told : EventsOnly (x.turnEpochs qs scope (onlyIf accepted (issuer e n))) y := State.tellBindings_eventsOnly ..
  have noted : TurnTells y z ∧ z.parts = y.parts := by
    unfold z
    split <;> exact ⟨rfl, rfl⟩
  have all := (TurnTells.of_eventsOnly told).trans noted.1
  have parts := noted.2.trans told.parts
  split
  · exact ⟨all.trans (TurnTells.logCompleted ..), parts⟩
  · exact ⟨all, parts⟩

/-- What a turn leaves but for epochs, events and records is what its changes leave. -/
theorem State.landTurn_applied (s : State) (e : Ep) (n : SessRef) (cs : List Change) (scope : Nat) (accepted : Bool) (start : Nat) :
    TurnTells (s.applyChanges cs) (s.landTurn e n cs scope accepted start) :=
  (State.turnEpochs_tells ..).trans (s.landTurn_tells e n cs scope accepted start).1

/-- The partitions of a turn whose changes leave the partitions are under their next epoch. -/
theorem State.part_landTurn {s : State} {cs : List Change} {p : PartId} {w : Part} (parts : (s.applyChanges cs).parts = s.parts)
    (changed : p ∈ s.changedParts cs) (part : s.part p = some w) (e : Ep) (n : SessRef) (scope : Nat) (accepted : Bool) (start : Nat) :
    ∃ x, (s.landTurn e n cs scope accepted start).part p = some x ∧ x.epoch = nextEpoch w.epochHigh := by
  have same : (s.applyChanges cs).part p = some w := by rw [State.part, parts]; exact part
  rw [State.part, (s.landTurn_tells e n cs scope accepted start).2]
  refine State.part_turnEpochs _ ((List.nodup_dedup _).filter _) ?_ same scope _
  exact List.mem_filter.2 ⟨changed, by simp [same]⟩

section Calm

variable {s : State} (calm : Calm s)
include calm

theorem calm_makeEpochRoom (ps : List PartId) : s.makeEpochRoom ps = s := by
  refine foldl_invariant (· = s) _ (fun x p h => ?_) ps s rfl
  subst h
  split
  · exact if_neg (Nat.not_le.2 (calm.room p))
  · rfl

theorem calm_notFull (ps : List PartId) : (ps.any fun p => decide (16 ≤ (s.liveEpochs p).length)) = false := by
  simp [calm.room]

/-- A turn that waits for no quiesce point and no drain lands at once. -/
theorem calm_turnReady {t : PartTurn} (quiesce : t.needQuiesce = false) (drain : t.needDrain = false) : s.turnReady t = true := by
  simp [State.turnReady, State.turnPending, State.resettingPart, calm.noTurn, calm.noReset, quiesce, drain]

omit calm in
theorem calm_tells {u : State} (calm : Calm s) (h : TurnTells s u) (turn : u.turn = s.turn) : Calm u where
  noTurn := turn.trans calm.noTurn
  noWaiting := h.partTurns.trans calm.noWaiting
  noReset := h.resets.trans calm.noReset
  room p := by
    have same : u.liveEpochs p = s.liveEpochs p := by rw [h]; rfl
    rw [same]
    exact calm.room p

end Calm

/-- A turn's start is logged on the operator channel (R360). -/
def State.turnStarted (s : State) (c : Ctx) (latches units : Nat) : State :=
  if c.ep = .op then s.logStarted c.ep c.session latches units else s

theorem State.turnStarted_tells (s : State) (c : Ctx) (latches units : Nat) : TurnTells s (s.turnStarted c latches units) := by
  unfold State.turnStarted
  split
  · exact TurnTells.logStarted ..
  · exact TurnTells.refl s

theorem State.turnStarted_turn (s : State) (c : Ctx) (latches units : Nat) : (s.turnStarted c latches units).turn = s.turn := by
  unfold State.turnStarted
  split <;> rfl

theorem State.turnStarted_eq (s : State) (c : Ctx) (latches units : Nat) :
    ∃ log, s.turnStarted c latches units = { s with rmu := log } := by
  unfold State.turnStarted
  split
  · exact ⟨_, rfl⟩
  · exact ⟨s.rmu, rfl⟩

/-- The state that a command's turn leaves where it lands within the command. -/
def State.turnedAtOnce (s : State) (c : Ctx) (cs : List Change) (scope start : Nat) : State :=
  (s.turnStarted c cs.length (s.changedParts cs).length).landTurn c.ep c.session cs scope false start

/-- A keyway- or immediate-class turn lands within its command and is answered with the epoch then in force. -/
theorem calm_narrowTurn {s : State} (calm : Calm s) {c : Ctx} (early : c.late = false) {cs : List Change} {cls : TurnClass}
    (at_once : ∀ x ∈ cs, x.turnClass = .keyway ∨ x.turnClass = .immediate) :
    ∃ scope start, s.narrowTurn c cs cls =
      Res.ok (s.turnedAtOnce c cs scope start) (be 4 ((s.turnedAtOnce c cs scope start).hdrEpoch c.h).toNat) := by
  have waits : ∀ x ∈ cs, x.turnClass ≠ .quiesce ∧ x.turnClass ≠ .drain := by
    intro x hx
    obtain h | h := at_once x hx <;> simp [h]
  have quiesce : (cs.any fun x => x.turnClass = .quiesce) = false := by
    simpa using fun x hx => (waits x hx).1
  have drain : (cs.any fun x => x.turnClass = .drain) = false := by
    simpa using fun x hx => (waits x hx).2
  unfold State.narrowTurn
  extract_lets ps drains running full s1 s2 scope t s3 s4
  have idle : running = [] := by
    refine List.filter_eq_nil_iff.2 fun p _ => ?_
    simp only [Bool.and_eq_true, not_and, List.any_eq_true, not_exists]
    intro _ x hx
    simp [(waits x hx).2]
  have started : s3 = s.turnStarted c cs.length ps.length := by
    unfold s3 s2 s1
    rw [idle, calm_makeEpochRoom calm]
    rfl
  have ready : s3.turnReady t = true := by
    rw [started]
    exact calm_turnReady (calm_tells calm (State.turnStarted_tells ..) (State.turnStarted_turn ..)) quiesce drain
  have free : ((decide drains && !running.isEmpty && !c.h.force) || (full && !c.h.force)) = false := by
    have room : full = false := calm_notFull calm ps
    rw [idle, room]
    simp
  have landed : s4 = s.turnedAtOnce c cs scope s3.osc := by
    unfold s4 State.turnedAtOnce
    rw [started, early]
  refine ⟨scope, s3.osc, ?_⟩
  rw [if_neg (by simp [free]), if_pos ready, landed]
  exact if_neg (by simp [early])

/-- The widest class of changes that are all keyway- or immediate-class is one of the two (R351). -/
theorem widest_at_once {cs : List Change} (at_once : ∀ x ∈ cs, x.turnClass = .keyway ∨ x.turnClass = .immediate) :
    widest cs = .keyway ∨ widest cs = .immediate := by
  have fold (l : List Change) (sub : ∀ x ∈ l, x.turnClass = .keyway ∨ x.turnClass = .immediate) (b : TurnClass)
      (hb : b = .keyway ∨ b = .immediate) :
      (fun d => d = .keyway ∨ d = .immediate)
        (l.foldl (fun b c => if b.rank < c.turnClass.rank then c.turnClass else b) b) := by
    induction l generalizing b with
    | nil => exact hb
    | cons x l ih =>
      refine ih (fun y hy => sub y (List.mem_cons_of_mem x hy)) _ ?_
      dsimp only
      split
      · exact sub x List.mem_cons_self
      · exact hb
  exact fold cs at_once .keyway (.inl rfl)

/-- RACK_ACCEPTED turns on the whole rack (R352). -/
theorem turnClass_rackAccepted (ix : ScopeIx) (v : List Byte) : (Change.val (0x0A20#16, ix) v).turnClass = .rack := by
  simp [Change.turnClass, setInfo, setInfoSingle, numSet]

/-- Changes that take acceptance back (R316). -/
def closes (cs : List Change) : Bool := cs.any fun x => match x with
  | .val key v => key.1 = 0x0A20#16 && fieldBe v 0 1 = 0
  | _ => false

theorem closes_at_once {cs : List Change} (at_once : ∀ x ∈ cs, x.turnClass = .keyway ∨ x.turnClass = .immediate) :
    closes cs = false := by
  refine List.any_eq_false.2 fun x hx closing => ?_
  match x with
  | .val (id, ix) v =>
    obtain ⟨rfl, -⟩ : id = 0x0A20#16 ∧ fieldBe v 0 1 = 0 := by simpa using closing
    exact absurd (at_once _ hx) (by rw [turnClass_rackAccepted]; decide)
  | .keyCreate .. | .keyDelete .. => exact Bool.false_ne_true closing

/-- What a command's turn becomes, its class and the taking back of acceptance aside. -/
theorem State.turnOf_narrow {s : State} {c : Ctx} {cs : List Change} {latches : List Latch} (sound : s.changesOk cs = true)
    (open_ : closes cs = false) (narrow : widest cs ≠ .rack) {u : State} {body : List Byte}
    (turn : s.narrowTurn c cs (widest cs) = Res.ok u body) : s.turnOf c cs latches = Res.ok u body := by
  unfold State.turnOf
  extract_lets cls closing keyways r
  have r_eq : r = Res.ok u body := by
    unfold r cls
    cases h : widest cs with
    | rack => exact absurd h narrow
    | _ => rw [h] at turn; exact turn
  have still : closing = false := open_
  simp only [sound, still, r_eq]
  rfl

/-- A keyway- or immediate-class turn of a command whose changes are sound lands within it. -/
theorem calm_turnOf {s : State} (calm : Calm s) {c : Ctx} (early : c.late = false) {cs : List Change} (sound : s.changesOk cs = true)
    (at_once : ∀ x ∈ cs, x.turnClass = .keyway ∨ x.turnClass = .immediate) (latches : List Latch) :
    ∃ scope start, s.turnOf c cs latches =
      Res.ok (s.turnedAtOnce c cs scope start) (be 4 ((s.turnedAtOnce c cs scope start).hdrEpoch c.h).toNat) := by
  obtain ⟨scope, start, turn⟩ := calm_narrowTurn calm early (cls := widest cs) at_once
  refine ⟨scope, start, State.turnOf_narrow sound (closes_at_once at_once) ?_ turn⟩
  obtain h | h := widest_at_once at_once <;> simp [h]

end Sys2Proof.Machine
end

section
/-! SUPPORT. Events leave the latches of a session (R45, R67). -/

namespace Sys2Proof.Machine

open Sys2Proof.Safety

/-- A session found under a name, with these latches. -/
def State.HasLatches (s : State) (e : Ep) (n : SessRef) (ls : List Latch) : Prop := ∃ x, s.session? e n = some x ∧ x.latches = ls

/-- Every session keeps its latches. -/
structure KeepsLatches (s t : State) : Prop where
  keeps : ∀ e n ls, s.HasLatches e n ls → t.HasLatches e n ls

namespace KeepsLatches

variable {s t u : State}

theorem refl (s : State) : KeepsLatches s s := ⟨fun _ _ _ h => h⟩

theorem trans (h : KeepsLatches s t) (g : KeepsLatches t u) : KeepsLatches s u :=
  ⟨fun e n ls x => g.keeps e n ls (h.keeps e n ls x)⟩

theorem foldl {α : Type} (f : State → α → State) (h : ∀ s a, KeepsLatches s (f s a)) (l : List α) (s : State) :
    KeepsLatches s (l.foldl f s) := by
  induction l generalizing s with
  | nil => exact refl s
  | cons a l ih => exact (h s a).trans (ih _)

theorem of_session (h : ∀ e n, t.session? e n = s.session? e n) : KeepsLatches s t := by
  refine ⟨fun e n ls => ?_⟩
  rintro ⟨x, found, latches⟩
  exact ⟨x, (h e n).trans found, latches⟩

/-- A change of the sessions of one name that keeps their name is seen where that name is looked up, and nowhere else. -/
theorem find_mapNamed {m : SessRef} {f : Session → Session} (named : ∀ x, x.ref = m → (f x).ref = m) {n : SessRef} {x : Session}
    {l : List Session} (found : l.find? (fun q => q.ref = n) = some x) :
    (l.map fun q => if q.ref = m then f q else q).find? (fun q => q.ref = n) = some (if n = m then f x else x) := by
  induction l with
  | nil => cases found
  | cons y l ih =>
    have image : (if y.ref = m then f y else y).ref = y.ref := by
      split
      · next h => rw [named y h, h]
      · rfl
    by_cases here : y.ref = n
    · obtain rfl : y = x := by simpa [here] using found
      rw [List.map_cons, List.find?_cons_of_pos (by rw [image]; simpa using here), here]
    · simp only [List.find?_cons, here, decide_false] at found
      simp only [List.map_cons, List.find?_cons, image, here, decide_false]
      exact ih found

theorem endp_modEp_ne {d e : Ep} (other : d ≠ e) (s : State) (f : Keyway → Keyway) : (s.modEp e f).endp d = s.endp d := by
  cases e with
  | op =>
    cases d with
    | op => exact absurd rfl other
    | kw j => rfl
  | kw k =>
    cases d with
    | op => rfl
    | kw j => exact (State.kw_modKw ..).trans (if_neg fun h => other (congrArg Ep.kw h))

theorem modSession {d : Ep} {m : SessRef} {f : Session → Session} (named : ∀ x, x.ref = m → (f x).ref = m)
    (kept : ∀ x, s.session? d m = some x → (f x).latches = x.latches) : KeepsLatches s (s.modSession d m f) := by
  refine ⟨fun e n ls => ?_⟩
  rintro ⟨x, found, latches⟩
  by_cases same : e = d
  · subst same
    refine ⟨if n = m then f x else x, ?_, ?_⟩
    · rw [State.session?, State.modSession, State.endp_modEp_self]
      exact find_mapNamed named found
    · split
      · next h => rw [kept x (h ▸ found), latches]
      · exact latches
  · refine ⟨x, ?_, latches⟩
    rw [State.session?, State.modSession, endp_modEp_ne same]
    exact found

theorem enterEvent (s : State) (e : Ep) (ev : Event) : KeepsLatches s (s.enterEvent e ev) := by
  refine of_session fun d n => ?_
  rw [State.session?, State.enterEvent]
  by_cases same : d = e
  · subst same
    rw [State.endp_modEp_self]
    rfl
  · rw [endp_modEp_ne same]
    rfl

theorem emit (s : State) (o : Out) : KeepsLatches s (s.emit o) := of_session fun d n => by cases d <;> rfl

theorem sendEvent (s : State) (e : Ep) (q : Session) (ev : Event) (retry : Bool) : KeepsLatches s (s.sendEvent e q ev retry) :=
  emit ..

theorem queue_ref (q : Session) (u : Unacked) : (q.queue u).1.ref = q.ref := by
  unfold Session.queue
  split <;> simp only [Session.ref]

theorem queue_latches (q : Session) (u : Unacked) : (q.queue u).1.latches = q.latches := by
  unfold Session.queue
  split <;> dsimp only

theorem deliver (s : State) (e : Ep) (n : SessRef) (ev : Event) (keep : Bool) : KeepsLatches s (s.deliver e n ev keep) := by
  unfold State.deliver
  split
  · exact refl s
  · next q found =>
    have sent := sendEvent s e q ev false
    split
    · extract_lets s1 u r s2 lost s3
      have name : r.1.ref = n := (queue_ref ..).trans (by simpa using List.find?_some found)
      have queued : KeepsLatches s1 s2 := by
        refine modSession (fun _ _ => name) fun x hx => ?_
        have same : s1.session? e n = s.session? e n := by cases e <;> rfl
        obtain rfl : q = x := Option.some.inj ((found.symm.trans same.symm).trans hx)
        exact queue_latches ..
      have all := sent.trans queued
      split
      · exact all
      · split
        · exact all.trans (enterEvent ..)
        · exact ((all.trans (enterEvent ..)).trans (sendEvent ..)).trans (modSession (fun _ h => h) fun _ _ => rfl)
    · exact sent

theorem raiseAlso (s : State) (e : Ep) (a : Option SessRef) (c : Nat) (b : List Byte) : KeepsLatches s (s.raiseAlso e a c b) := by
  unfold State.raiseAlso
  extract_lets ev targets
  split
  · exact refl s
  · exact (enterEvent s e ev).trans (foldl _ (fun s _ => deliver s ..) _ _)

theorem modPart (s : State) (p : PartId) (f : Part → Part) : KeepsLatches s (s.modPart p f) :=
  of_session fun e n => by
    unfold State.modPart
    split <;> cases e <;> rfl

theorem epochTurned (s : State) (p : PartId) (scope : Nat) (also : Option (KwId × SessRef)) :
    KeepsLatches s (s.epochTurned p scope also) := by
  unfold State.epochTurned
  split
  · exact refl s
  · exact foldl _ (fun s k => raiseAlso ..) _ s

theorem turnEpochs (s : State) (ps : List PartId) (scope : Nat) (also : Option (KwId × SessRef)) :
    KeepsLatches s (s.turnEpochs ps scope also) :=
  foldl _ (fun s p => (modPart s p _).trans (epochTurned ..)) ps s

theorem tellBindings (s : State) (cs : List Change) : KeepsLatches s (s.tellBindings cs) := by
  refine foldl _ (fun s c => ?_) cs s
  split
  · split
    · exact raiseAlso ..
    · exact refl s
  · exact refl s

theorem landTurn (s : State) (e : Ep) (n : SessRef) (cs : List Change) (scope : Nat) (accepted : Bool) (start : Nat) :
    KeepsLatches (s.applyChanges cs) (s.landTurn e n cs scope accepted start) := by
  unfold State.landTurn
  extract_lets ps x qs y z
  have told : KeepsLatches x y := (turnEpochs ..).trans (tellBindings ..)
  have noted : KeepsLatches y z := of_session fun d m => by
    unfold z
    split <;> cases d <;> rfl
  split
  · exact (told.trans noted).trans (of_session fun d m => by cases d <;> rfl)
  · exact told.trans noted

end KeepsLatches

end Sys2Proof.Machine
end

section
/-! SUPPORT. Writes of values that turn at once (R44, R310, R316, R349 to R354). -/

namespace Sys2Proof.Machine

open Sys2Proof.Safety

/-! ### A keyway's value -/

/-- A filter that keeps every entry of a key keeps what is read under it. -/
theorem Tab.get_filter_kept {κ α : Type} [DecidableEq κ] (m : Tab κ α) (d : α) {f : κ × α → Bool} {k : κ}
    (kept : ∀ v, f (k, v) = true) :
    Tab.get (m.filter f) d k = Tab.get m d k := by
  induction m with
  | nil => rfl
  | cons e m ih =>
    obtain ⟨i, v⟩ := e
    by_cases here : k = i
    · subst here
      simp [kept, Tab.get]
    · by_cases stays : f (i, v) = true <;> simp_all [Tab.get]

/-- A value of another class is not lost with a class. -/
theorem State.running_loseClass_other (s : State) {cls : SetClass} {key : SetKey} (other : ∀ i, setInfo key.1 = some i → i.cls ≠ cls)
    (at_ : ScopeIx → Bool) (d : List Byte) : Tab.get (s.loseClass cls at_).cfg.running d key = Tab.get s.cfg.running d key := by
  refine Tab.get_filter_kept _ d fun v => ?_
  cases info : setInfo key.1 with
  | none => simp [info]
  | some i => simp [info, other i info]

/-- What is kept of a keyway's value: KW_BINDING with role NONE reads partition 0 (R44). -/
def keptValue (id : BitVec 16) (v : List Byte) : List Byte := if id = 0x0101#16 then bindingValue v else v

theorem setInfo_binding {i : SetInfo} (info : setInfo 0x0101#16 = some i) : i.cls = .stored := by
  have known : (setInfo 0x0101#16).map SetInfo.cls = some .stored := by simp [setInfo, setInfoSingle]
  rw [info] at known
  exact Option.some.inj known

/-- A change of a keyway's value changes running values alone, and the value is the one kept. -/
theorem State.applyChange_kw (s : State) (id : BitVec 16) (k : KwId) (v : List Byte) :
    ∃ run, s.applyChange (.val (id, .kw k) v) = { s with cfg := { s.cfg with running := run } } ∧
      Tab.get run (setDefault id) (id, .kw k) = keptValue id v := by
  by_cases binding : id = 0x0101#16
  · subst binding
    refine ⟨((s.writeRun (0x0101#16, .kw k) (bindingValue v)).loseClass .session fun ix => ix = .kw k).cfg.running, rfl, ?_⟩
    refine (State.running_loseClass_other _ (fun i info => ?_) _ _).trans ?_
    · rw [setInfo_binding info]
      decide
    · exact (State.running_writeRun ..).trans (if_pos rfl)
  · refine ⟨Tab.set s.cfg.running (id, .kw k) v, ?_, ?_⟩
    · exact if_neg binding
    · rw [Tab.get_set_self, keptValue, if_neg binding]

theorem packetOf_writeRow {r : Instr} {t : Nat} {h : Hdr} {id : BitVec 16} {v : List Byte} (row : writeRow r t h id v) :
    packetOf r = some (t, h, .setSet id v) := by
  obtain rfl | ⟨rfl, rfl⟩ | ⟨n, rfl, rfl⟩ | ⟨rfl, rfl⟩ | ⟨rfl, rfl⟩ | ⟨rfl, rfl⟩ := row <;> rfl

theorem State.applyChanges_kw (s : State) (id : BitVec 16) (k : KwId) (v : List Byte) :
    ∃ run, s.applyChanges [.val (id, .kw k) v] = { s with cfg := { s.cfg with running := run } } ∧
      Tab.get run (setDefault id) (id, .kw k) = keptValue id v := s.applyChange_kw id k v

theorem opSetSet_of_turnOf {c : Ctx} {id : BitVec 16} {v : List Byte} {s : State} {key : SetKey}
    (checked : s.checkWrite c id v = .ok key) : opSetSet c id v s = s.turnOf c [.val key v] [] := by
  rw [opSetSet, checked]

/-- What a keyway-class turn of one value leaves (R349, R354). -/
theorem State.turnedAtOnce_kw (s : State) (c : Ctx) (id : BitVec 16) (k : KwId) (v : List Byte) (scope start : Nat) :
    Tab.get (s.turnedAtOnce c [.val (id, .kw k) v] scope start).cfg.running (setDefault id) (id, .kw k) = keptValue id v ∧
    (∀ p w, s.part p = some w → p ∈ s.changedParts [.val (id, .kw k) v] →
      ∃ x, (s.turnedAtOnce c [.val (id, .kw k) v] scope start).part p = some x ∧ x.epoch = nextEpoch w.epochHigh) ∧
    (s.turnedAtOnce c [.val (id, .kw k) v] scope start).hbm = s.hbm ∧
    (s.turnedAtOnce c [.val (id, .kw k) v] scope start).chips = s.chips ∧
    KeepsLatches s (s.turnedAtOnce c [.val (id, .kw k) v] scope start) := by
  obtain ⟨log, begun⟩ := s.turnStarted_eq c 1 (s.changedParts [.val (id, .kw k) v]).length
  have begin_ : s.turnedAtOnce c [.val (id, .kw k) v] scope start =
      ({ s with rmu := log } : State).landTurn c.ep c.session [.val (id, .kw k) v] scope false start := by
    rw [← begun]
    rfl
  obtain ⟨run, applied, kept⟩ := State.applyChanges_kw { s with rmu := log } id k v
  have tells := State.landTurn_applied { s with rmu := log } c.ep c.session [.val (id, .kw k) v] scope false start
  have latches := KeepsLatches.landTurn { s with rmu := log } c.ep c.session [.val (id, .kw k) v] scope false start
  rw [applied] at tells latches
  rw [begin_]
  refine ⟨?_, fun p w part changed => ?_, tells.hbm, tells.chips, KeepsLatches.trans ?_ latches⟩
  · rw [tells.cfg]
    exact kept
  · exact State.part_landTurn (s := { s with rmu := log }) (by rw [applied]) changed part ..
  · exact KeepsLatches.of_session fun e n => by cases e <;> rfl

theorem calm_of_eventsOnly {s u : State} (calm : Calm s) (h : EventsOnly s u) : Calm u :=
  calm_tells calm (TurnTells.of_eventsOnly h) h.turn

theorem State.changesOk_modSession (s : State) (e : Ep) (n : SessRef) (f : Session → Session) (key : SetKey) (v : List Byte) :
    (s.modSession e n f).changesOk [.val key v] = s.changesOk [.val key v] := by
  cases e <;> rfl

theorem State.changesOk_one (s : State) (key : SetKey) (v : List Byte) : s.changesOk [.val key v] = s.valueOk key v := by
  simp [State.changesOk]

/-- A value that passes its checks is sound in itself (R333). -/
theorem State.checkWrite_ok {s : State} {c : Ctx} {id : BitVec 16} {v : List Byte} {key : SetKey}
    (checked : s.checkWrite c id v = .ok key) :
    ∃ i, setInfo id = some i ∧ key.1 = id ∧ v.length = i.len ∧ i.ok v = true ∧ s.valueOk key v = true := by
  unfold State.checkWrite at checked
  split at checked
  · cases checked
  · next i known =>
    split at checked
    · cases checked
    · split at checked
      · cases checked
      · split at checked
        · cases checked
        · split at checked
          · cases checked
          · next length =>
            split at checked
            · cases checked
            · next sound =>
              split at checked
              · cases checked
              · split at checked
                · cases checked
                · cases checked
                  simp only [Bool.or_eq_true, not_or, Bool.not_eq_true', Bool.not_eq_false] at sound
                  exact ⟨i, known, rfl, not_not.1 length, sound.1, sound.2⟩

theorem turnClass_val {id : BitVec 16} {i : SetInfo} (known : setInfo id = some i) (ix : ScopeIx) (v : List Byte) :
    (Change.val (id, ix) v).turnClass = i.turn := by
  simp only [Change.turnClass, known]

/-- A checked write of a keyway-class value turns at once. -/
theorem calm_opSetSet_kw {s : State} (calm : Calm s) {c : Ctx} (early : c.late = false) {id : BitVec 16} {v : List Byte} {k : KwId}
    {i : SetInfo} (known : setInfo id = some i) (keyway : i.turn = .keyway) (checked : s.checkWrite c id v = .ok (id, .kw k)) :
    ∃ scope start, opSetSet c id v s = Res.ok (s.turnedAtOnce c [.val (id, .kw k) v] scope start)
      (be 4 ((s.turnedAtOnce c [.val (id, .kw k) v] scope start).hdrEpoch c.h).toNat) := by
  obtain ⟨j, -, -, -, -, sound⟩ := State.checkWrite_ok checked
  rw [opSetSet_of_turnOf checked]
  refine calm_turnOf calm early ((s.changesOk_one ..).trans sound) (fun x hx => .inl ?_) []
  obtain rfl := List.mem_singleton.1 hx
  exact (turnClass_val known ..).trans keyway

/-- SET_TURN of one latched keyway-class value turns it at once, the latch gone. -/
theorem calm_opSetTurn_kw {s : State} (calm : Calm s) {c : Ctx} (early : c.late = false) {id : BitVec 16} {v : List Byte} {k : KwId}
    {i : SetInfo} (known : setInfo id = some i) (keyway : i.turn = .keyway) {x : Session}
    (session : s.session? c.ep c.session = some x) (latched : x.latches = [{ key := (id, .kw k), value := v }])
    (may : s.mayTurn c.ep (id, .kw k) = true) (sound : s.changesOk [.val (id, .kw k) v] = true) :
    ∃ scope start, opSetTurn c s = Res.ok
      ((s.modSession c.ep c.session fun q => { q with latches := [] }).turnedAtOnce c [.val (id, .kw k) v] scope start)
      (be 4 (((s.modSession c.ep c.session fun q => { q with latches := [] }).turnedAtOnce c [.val (id, .kw k) v] scope
        start).hdrEpoch c.h).toNat) := by
  have calm' : Calm (s.modSession c.ep c.session fun q => { q with latches := [] }) :=
    calm_of_eventsOnly calm (EventsOnly.modSession ..)
  obtain ⟨scope, start, turn⟩ := calm_turnOf calm' early ((s.changesOk_modSession ..).trans sound) (fun x hx => .inl (by
    obtain rfl := List.mem_singleton.1 hx
    exact (turnClass_val known ..).trans keyway)) [{ key := (id, .kw k), value := v }]
  refine ⟨scope, start, ?_⟩
  simp only [opSetTurn, session, latched]
  simp only [List.isEmpty_cons, Bool.false_eq_true, if_false, List.all_cons, List.all_nil, may, List.map_cons, List.map_nil, turn]
  rfl

end Sys2Proof.Machine
end

section
/-! SUPPORT. A rack-wide turn that nothing holds back: every unit turns at once and the turn completes within its command (R356 to
R358). -/

namespace Sys2Proof.Machine

open Sys2Proof.Safety

/-- What a rack-wide turn without changes left leaves as it stands. -/
structure RackKeeps (s t : State) : Prop where
  hbm : t.hbm = s.hbm
  cfg : t.cfg = s.cfg
  accept : t.accept = s.accept
  clk : t.clk = s.clk
  rackEpoch : t.rackEpoch = s.rackEpoch
  rackEpochHigh : t.rackEpochHigh = s.rackEpochHigh
  partTurns : t.partTurns = s.partTurns

namespace RackKeeps

variable {s t u : State}

theorem refl (s : State) : RackKeeps s s := ⟨rfl, rfl, rfl, rfl, rfl, rfl, rfl⟩

theorem trans (h : RackKeeps s t) (g : RackKeeps t u) : RackKeeps s u where
  hbm := g.hbm.trans h.hbm
  cfg := g.cfg.trans h.cfg
  accept := g.accept.trans h.accept
  clk := g.clk.trans h.clk
  rackEpoch := g.rackEpoch.trans h.rackEpoch
  rackEpochHigh := g.rackEpochHigh.trans h.rackEpochHigh
  partTurns := g.partTurns.trans h.partTurns

theorem of_tells (h : TurnTells s t) : RackKeeps s t := ⟨h.hbm, h.cfg, h.accept, h.clk, h.rackEpoch, h.rackEpochHigh, h.partTurns⟩

theorem of_eventsOnly (h : EventsOnly s t) : RackKeeps s t := of_tells (TurnTells.of_eventsOnly h)

end RackKeeps

/-! ### A unit's turn -/

/-- A rack-wide turn that changes one value of the rack, and no partition's place. -/
structure RackValueTurn (t : Turn) (id : BitVec 16) (v : List Byte) : Prop where
  shapes : t.shapes = []
  changes : t.changes = [.val (id, .rack) v]

section

variable {s : State} {t : Turn} {id : BitVec 16} {v : List Byte}

theorem State.moves_noShapes (none : t.shapes = []) (p : PartId) : s.moves t p = false := by simp [State.moves, none]

theorem State.reshapes_noShapes (none : t.shapes = []) (p : PartId) : s.reshapes t p = false := by simp [State.reshapes, none]

/-- A unit turns when no reset reaches it: the turn of a rack value waits for no quiesce point and no drain (R356). -/
theorem State.unitReady_rackValue (turn : RackValueTurn t id v) {i : SetInfo} (known : setInfo id = some i) (rack : i.turn = .rack)
    (noReset : s.resets = []) (u : TurnUnit) : s.unitReady t u = true := by
  have class_ : (Change.val (id, .rack) v).turnClass = .rack := (turnClass_val known ..).trans rack
  simp [State.unitReady, State.unitResets, noReset, turn.changes, class_, State.moves_noShapes turn.shapes,
    State.reshapes_noShapes turn.shapes]

/-- The partitions a unit's turn adds to those that have turned. -/
def State.unitTurns (s : State) (t : Turn) (u : TurnUnit) : List PartId :=
  (s.unitParts t u).filter fun p => !t.turnedParts.contains p

/-- A unit's turn, where no partition's place changes: its changes take effect, its partitions' epochs advance and are told. -/
theorem State.turnUnit_noShapes (none : t.shapes = []) (u : TurnUnit) :
    ∃ ps mine, mine = t.todo.filter (fun c => s.changeUnit t c = some u) ∧
      s.turnUnit t u = (((s.applyChanges (mine.filter s.stillHas)).turnEpochs ps 2 t.toSession).tellBindings mine,
        { t with turned := t.turned ++ [u], turnedParts := t.turnedParts ++ s.unitTurns t u,
                 todo := t.todo.filter fun c => !mine.contains c }) := by
  unfold State.turnUnit
  extract_lets parts moved ps own shaped late mine s1 s2 s3 before
  have noOwn : own = [] := by simp [own, none]
  have still : shaped = (s, t) := by
    unfold shaped
    rw [noOwn]
    rfl
  have noMoved : moved = [] := List.filter_eq_nil_iff.2 fun p _ => by simp [State.moves_noShapes none]
  have noLate : late = [] := by
    unfold late
    rw [noOwn]
    rfl
  have whose : mine = t.todo.filter (fun c => s.changeUnit t c = some u) := by
    unfold mine
    rw [noLate]
    congr 1
    funext c
    cases c with
    | val key v => obtain ⟨id, ix⟩ := key; cases ix <;> simp [changesOf]
    | _ => simp [changesOf]
  refine ⟨ps, mine, whose, ?_⟩
  unfold s3 s2 s1 before
  rw [noMoved, still]
  rfl

/-- The turn of the RMU puts the rack's value in force (R356). -/
theorem State.turnUnit_rmu (turn : RackValueTurn t id v) (plain : isQuota id = false) (todo : t.todo = [.val (id, .rack) v]) :
    TurnTells (s.applyChange (.val (id, .rack) v)) (s.turnUnit t .rmu).1 ∧
      (s.turnUnit t .rmu).2 = { t with turned := t.turned ++ [.rmu], turnedParts := t.turnedParts ++ s.unitTurns t .rmu, todo := [] } := by
  obtain ⟨ps, mine, whose, turned⟩ := State.turnUnit_noShapes (s := s) turn.shapes .rmu
  have all : mine = [.val (id, .rack) v] := by
    rw [whose, todo]
    simp [State.changeUnit, plain]
  subst all
  rw [turned]
  constructor
  · exact (State.turnEpochs_tells ..).trans (TurnTells.of_eventsOnly (State.tellBindings_eventsOnly ..))
  · rw [todo]
    simp

/-- The turn of a further unit tells its partitions' keyways (R354). -/
theorem State.turnUnit_rest (none : t.shapes = []) (todo : t.todo = []) (u : TurnUnit) :
    TurnTells s (s.turnUnit t u).1 ∧
      (s.turnUnit t u).2 = { t with turned := t.turned ++ [u], turnedParts := t.turnedParts ++ s.unitTurns t u } := by
  obtain ⟨ps, mine, whose, turned⟩ := State.turnUnit_noShapes (s := s) none u
  have no : mine = [] := by rw [whose, todo]; rfl
  subst no
  rw [turned]
  constructor
  · exact (State.turnEpochs_tells ..).trans (TurnTells.of_eventsOnly (State.tellBindings_eventsOnly ..))
  · simp [todo]

/-! ### All units -/

/-- A unit that has not turned and whose condition holds turns (R356). -/
def State.turnIfReady (a : State × Turn) (u : TurnUnit) : State × Turn :=
  if !a.2.turned.contains u && a.1.unitReady a.2 u then a.1.turnUnit a.2 u else a

/-- What a turn of a rack value keeps of itself while its units turn. -/
structure RackValueLeft (t w : Turn) (us : List TurnUnit) : Prop where
  turned : w.turned = us
  units : w.units = t.units
  shapes : w.shapes = []
  todo : w.todo = []

/-- Past the RMU, units turn one after the other and change no value. -/
theorem State.turnUnits_rest {i : SetInfo} (known : setInfo id = some i) (rack : i.turn = .rack) (us : List TurnUnit) {s : State}
    {t : Turn} (noReset : s.resets = []) (turn : RackValueTurn t id v) (todo : t.todo = []) (once : (t.turned ++ us).Nodup) :
    TurnTells s (us.foldl State.turnIfReady (s, t)).1 ∧ RackValueLeft t (us.foldl State.turnIfReady (s, t)).2 (t.turned ++ us) := by
  induction us generalizing s t with
  | nil => exact ⟨TurnTells.refl s, by simp, rfl, turn.shapes, todo⟩
  | cons u us ih =>
    have fresh : t.turned.contains u = false := by
      have := (List.nodup_append.1 once).2.2
      simpa using fun h => this u h u List.mem_cons_self rfl
    have step : State.turnIfReady (s, t) u = s.turnUnit t u :=
      if_pos (by rw [fresh, State.unitReady_rackValue turn known rack noReset]; rfl)
    obtain ⟨told, left⟩ := State.turnUnit_rest (s := s) turn.shapes todo u
    rw [List.foldl_cons, step, ← Prod.mk.eta (p := s.turnUnit t u), left]
    obtain ⟨further, turned, units, shapes, rest⟩ := ih (s := (s.turnUnit t u).1)
      (t := { t with turned := t.turned ++ [u], turnedParts := t.turnedParts ++ s.unitTurns t u })
      (told.resets.trans noReset) ⟨turn.shapes, turn.changes⟩ todo (by simpa using once)
    exact ⟨told.trans further, turned.trans (by simp), units, shapes, rest⟩

/-- Every unit of the turn turns, the RMU first. -/
theorem State.turnReadyUnits_rackValue {i : SetInfo} (known : setInfo id = some i) (rack : i.turn = .rack)
    (plain : isQuota id = false) {us : List TurnUnit} (noReset : s.resets = [])
    (applied : (s.applyChange (.val (id, .rack) v)).resets = []) (turn : RackValueTurn t id v)
    (todo : t.todo = [.val (id, .rack) v]) (fresh : t.turned = []) (units : t.units = .rmu :: us) (once : t.units.Nodup) :
    TurnTells (s.applyChange (.val (id, .rack) v)) (s.turnReadyUnits t).1 ∧ RackValueLeft t (s.turnReadyUnits t).2 t.units := by
  have first : State.turnIfReady (s, t) .rmu = s.turnUnit t .rmu := by
    simp [State.turnIfReady, fresh, State.unitReady_rackValue turn known rack noReset]
  obtain ⟨told, left⟩ := State.turnUnit_rmu (s := s) turn plain todo
  have fold : s.turnReadyUnits t = us.foldl State.turnIfReady (s.turnUnit t .rmu) := by
    rw [← first, ← List.foldl_cons, ← units]
    rfl
  rw [fold, ← Prod.mk.eta (p := s.turnUnit t .rmu), left]
  obtain ⟨further, turned, same, shapes, rest⟩ := State.turnUnits_rest known rack us (s := (s.turnUnit t .rmu).1)
    (t := { t with turned := t.turned ++ [.rmu], turnedParts := t.turnedParts ++ s.unitTurns t .rmu, todo := [] })
    (told.resets.trans applied) ⟨turn.shapes, turn.changes⟩ rfl (by simpa [fresh, units] using once)
  exact ⟨told.trans further, turned.trans (by simp [fresh, units]), same, shapes, rest⟩

theorem State.unitsFor_nodup (s : State) (t : Turn) : (s.unitsFor t).Nodup := by
  unfold State.unitsFor
  extract_lets boxes inBox
  have switches : ((allSwitches.filter fun i => (s.swt i).up).map TurnUnit.switch).Nodup :=
    ((List.nodup_finRange 4).filter _).map fun _ _ h => TurnUnit.switch.inj h
  have parts : (boxes.map TurnUnit.part).Nodup := ((List.nodup_finRange 64).filter _).map fun _ _ h => TurnUnit.part.inj h
  have chips : ((allChips.filter fun n => !s.chipLocked n && !inBox.contains n && (s.chip n).power ≠ .off).map TurnUnit.chip).Nodup :=
    ((List.nodup_finRange 64).filter _).map fun _ _ h => TurnUnit.chip.inj h
  refine List.nodup_append.2 ⟨List.nodup_append.2 ⟨List.nodup_append.2 ⟨List.nodup_singleton _, switches, ?_⟩, parts, ?_⟩,
    chips, ?_⟩
  · rintro x hx y hy rfl
    obtain ⟨i, -, rfl⟩ := List.mem_map.1 hy
    simp at hx
  · rintro x hx y hy rfl
    obtain ⟨p, -, rfl⟩ := List.mem_map.1 hy
    simp at hx
  · rintro x hx y hy rfl
    obtain ⟨n, -, rfl⟩ := List.mem_map.1 hy
    simp at hx

theorem State.unitsFor_rmu (s : State) (t : Turn) : ∃ us, s.unitsFor t = .rmu :: us := ⟨_, rfl⟩

/-! ### The end of the turn -/

theorem State.applyShapes_none (s : State) (also : Option (KwId × SessRef)) : RackKeeps s (s.applyShapes [] also) :=
  ⟨rfl, rfl, rfl, rfl, rfl, rfl, rfl⟩

theorem State.releaseHeld_tells (s : State) : TurnTells s s.releaseHeld :=
  TurnTells.foldl _ (fun s p => TurnTells.modPart s p _) _ s

theorem State.tellUnbound_eventsOnly (s : State) : EventsOnly s s.tellUnbound :=
  EventsOnly.foldl _ (fun _ _ => EventsOnly.raiseK ..) _ s

theorem State.settleTurns_none {s : State} (none : s.partTurns = []) : s.settleTurns = s := by
  rw [State.settleTurns, none]
  rfl

/-- A turn all of whose changes are in force completes under the next rack epoch (R349, R354). -/
theorem State.completeTurn_done {s : State} {t : Turn} (shapes : t.shapes = []) (todo : t.todo = []) (waiting : s.partTurns = []) :
    ∃ x, RackKeeps s x ∧ RackKeeps x.advanceRackEpoch (s.completeTurn t) := by
  unfold State.completeTurn
  extract_lets moved s1 s2 s3 s4 s5 s6 s7
  have placed : RackKeeps s s1 := by
    unfold s1
    rw [shapes]
    exact s.applyShapes_none _
  have released : RackKeeps s1 s2 := by
    unfold s2
    rw [todo, State.rejoinLinks, shapes]
    exact RackKeeps.of_tells (State.releaseHeld_tells _)
  have ended : RackKeeps s2 s3 := ⟨rfl, rfl, rfl, rfl, rfl, rfl, rfl⟩
  have kept := (placed.trans released).trans ended
  have still : moved = 0 := by simp [moved, shapes]
  have told : RackKeeps s3.advanceRackEpoch s6 := by
    unfold s6
    rw [if_pos still]
    exact (RackKeeps.of_eventsOnly (State.tellUnbound_eventsOnly _)).trans (RackKeeps.of_tells (TurnTells.logCompleted ..))
  have closed : RackKeeps s6 s7 := by
    unfold s7
    split <;> exact ⟨rfl, rfl, rfl, rfl, rfl, rfl, rfl⟩
  have all := told.trans closed
  refine ⟨s3, kept, ?_⟩
  rw [State.settleTurns_none (all.partTurns.trans (kept.partTurns.trans waiting))]
  exact all

/-- The turn of a rack value that nothing holds back completes (R356). -/
theorem State.runTurn_rackValue {i : SetInfo} (known : setInfo id = some i) (rack : i.turn = .rack) (plain : isQuota id = false)
    (noReset : s.resets = []) (applied : (s.applyChange (.val (id, .rack) v)).resets = [])
    (noWaiting : (s.applyChange (.val (id, .rack) v)).partTurns = []) (turn : RackValueTurn t id v)
    (todo : t.todo = [.val (id, .rack) v]) (fresh : t.turned = []) :
    ∃ x, RackKeeps (s.applyChange (.val (id, .rack) v)) x ∧ RackKeeps x.advanceRackEpoch (s.runTurn t) := by
  obtain ⟨us, rmu⟩ := s.unitsFor_rmu t
  have turn' : RackValueTurn { t with units := s.unitsFor t } id v := ⟨turn.shapes, turn.changes⟩
  obtain ⟨told, turned, units, shapes, rest⟩ := State.turnReadyUnits_rackValue known rack plain noReset applied turn' todo fresh rmu
    (s.unitsFor_nodup t)
  unfold State.runTurn
  extract_lets w s1 r
  have still : s1 = s := by simp [s1, w, State.startMoves, turn.shapes]
  have ran : r = s.turnReadyUnits w := by unfold r; rw [still]
  rw [ran, if_pos (by rw [turned, units])]
  obtain ⟨x, kept, done⟩ := State.completeTurn_done (s := (s.turnReadyUnits w).1) shapes rest (told.partTurns.trans noWaiting)
  exact ⟨x, (RackKeeps.of_tells told).trans kept, done⟩

/-! ### The command -/

/-- A write of one rack value runs its turn within the command. -/
theorem calm_rackTurn (calm : Calm s) {c : Ctx} (early : c.late = false) {i : SetInfo} (known : setInfo id = some i)
    (rack : i.turn = .rack) (latches : List Latch) :
    ∃ units t, RackValueTurn t id v ∧ t.todo = [.val (id, .rack) v] ∧ t.turned = [] ∧
      s.rackTurn c [.val (id, .rack) v] latches = Res.ok ((s.logStarted c.ep c.session 1 units).runTurn t)
        (be 4 (((s.logStarted c.ep c.session 1 units).runTurn t).hdrEpoch c.h).toNat) := by
  have class_ (ix : ScopeIx) : (Change.val (id, ix) v).turnClass = .rack := (turnClass_val known ..).trans rack
  unfold State.rackTurn
  extract_lets asks vals steps shapes placing ps running full t0 t missing codes q1 q2 q3 s1 s2 s3 r s4 t1
  have noAsks : asks = [] := rfl
  have all : vals = [.val (id, .rack) v] := rfl
  have noShapes : shapes = [] := rfl
  have noPlacing : placing = [] := rfl
  have idle : running = [] := by
    refine List.filter_eq_nil_iff.2 fun p _ => ?_
    rw [noAsks, all]
    simp [class_]
  have room : full = false := calm_notFull calm ps
  have turn : RackValueTurn t id v := ⟨rfl, rfl⟩
  have none : missing = [] := by
    refine List.filter_eq_nil_iff.2 fun u _ => ?_
    simp [State.unitMisses, State.unitResets, calm.noReset]
  have begun : s3 = s.logStarted c.ep c.session 1 t.units.length := by
    unfold s3 s2 s1
    rw [idle, calm_makeEpochRoom calm]
    rfl
  have ready : (s3.unitsFor t).all (s3.unitReady t) = true := by
    refine List.all_eq_true.2 fun u _ => State.unitReady_rackValue turn known rack ?_ u
    rw [begun]
    exact calm.noReset
  refine ⟨t.units.length, t, turn, rfl, rfl, ?_⟩
  rw [if_neg (by simp [all]), if_neg (by simp [calm.noTurn]), if_neg (by simp [noAsks]),
    if_neg (by simp [noShapes, noPlacing, disjointShapes]), if_neg (by simp [idle, room]), if_neg (by simp [none]),
    if_pos ⟨by simp [noPlacing], early, ready⟩, ← begun]

end

end Sys2Proof.Machine
end

section
/-! SUPPORT. SET_SET of the values of the rack's acceptance, and the values of a keyway (R44, R310, R316, R349 to R354). -/

namespace Sys2Proof.Machine

open Sys2Proof.Safety

/-! ### A command's rack-wide turn -/

section

variable {s : State} {c : Ctx} {cs : List Change} {latches : List Latch} {id : BitVec 16} {v : List Byte}

/-- A rack-wide turn, once no open keyway stands in the way of its taking acceptance back (R316). -/
theorem State.turnOf_rack (sound : s.changesOk cs = true) (rack : widest cs = .rack)
    (closed : closes cs = true → ∀ k, s.kwOpen k = false) :
    s.turnOf c cs latches = if (s.rackTurn c cs latches).status = St.ok ∨ (s.rackTurn c cs latches).status = St.accepted ∨
      (s.rackTurn c cs latches).status = St.rolledBack then s.rackTurn c cs latches else { s.rackTurn c cs latches with s := s } := by
  unfold State.turnOf
  extract_lets cls closing keyways r
  have noneOpen : closing = true → keyways = [] := fun h => List.filter_eq_nil_iff.2 fun k _ => by simp [closed h k]
  have free : (closing && !keyways.isEmpty && !c.h.force) = false := by
    cases h : closing with
    | false => rfl
    | true => simp [noneOpen h]
  have kept : (if closing && s.turn.isNone then keyways.foldl State.keywayReset s else s) = s := by
    split
    · next h =>
      rw [noneOpen (Bool.and_eq_true_iff.1 h).1]
      rfl
    · rfl
  have r_eq : r = s.rackTurn c cs latches := by
    unfold r cls
    rw [rack]
    exact congrArg (State.rackTurn · c cs latches) kept
  simp only [r_eq, free, sound, Bool.not_true, Bool.false_eq_true, if_false]
  by_cases ended : (s.rackTurn c cs latches).status = St.ok ∨ (s.rackTurn c cs latches).status = St.accepted
  · rw [if_pos ended, if_pos (ended.imp_right .inl)]
  · obtain ⟨notOk, notAccepted⟩ := not_or.1 ended
    rw [if_neg ended]
    by_cases rolled : (s.rackTurn c cs latches).status = St.rolledBack
    · rw [if_pos rolled, if_pos (.inr (.inr rolled))]
    · rw [if_neg rolled, if_neg (by simp [notOk, notAccepted, rolled])]

/-- Acceptance is not taken back while a keyway is open, without FORCE (R316). -/
theorem State.turnOf_busy (sound : s.changesOk cs = true) (closing : closes cs = true) {k : KwId} (open_ : s.kwOpen k = true)
    (unforced : c.h.force = false) : s.turnOf c cs latches = Res.fail s St.busy := by
  unfold State.turnOf
  extract_lets cls closes keyways r
  have some : keyways.isEmpty = false := by
    refine List.isEmpty_eq_false_iff.2 (List.ne_nil_of_mem (List.mem_filter.2 ⟨List.mem_finRange k, open_⟩))
  have begins : closes = true := closing
  rw [sound, begins, some, unforced]
  rfl

theorem widest_one {x : Change} (rack : x.turnClass = .rack) : widest [x] = .rack := by
  simp [widest, rack, TurnClass.rank]

/-! ### The two rack values -/

theorem setInfo_acceptTest : setInfo 0x0304#16 = some (numSet .rack .stored .operator 1 1 1 0 .rack) := by
  simp [setInfo, setInfoSingle]

theorem setInfo_rackAccepted : setInfo 0x0A20#16 = some (numSet .rack .stored .operator 1 0 1 0 .rack) := by
  simp [setInfo, setInfoSingle]

/-- FAB_ACCEPT_TEST starts the test where none runs (R310). -/
theorem State.applyChange_acceptTest (idle : s.accept.phase = 0) (v : List Byte) :
    s.applyChange (.val (0x0304#16, .rack) v) =
      { s.writeRun (0x0304#16, .rack) v with accept := { phase := 1, since := s.osc } } := by
  simp [State.applyChange, State.osc, idle]

theorem State.applyChange_rackAccepted (s : State) (v : List Byte) :
    s.applyChange (.val (0x0A20#16, .rack) v) = (s.writeRun (0x0A20#16, .rack) v).log Lg.rackAccepted unitRack v := by
  simp [State.applyChange]

/-- What a write of a rack value leaves when its turn has completed: the change in force, under the next rack epoch. -/
theorem calm_opSetSet_rack (calm : Calm s) (early : c.late = false) {i : SetInfo} (known : setInfo id = some i)
    (rack : i.turn = .rack) (plain : isQuota id = false) (checked : s.checkWrite c id v = .ok (id, .rack))
    (closed : closes [.val (id, .rack) v] = true → ∀ k, s.kwOpen k = false)
    (resets : ∀ log, (({ s with rmu := log } : State).applyChange (.val (id, .rack) v)).resets = s.resets)
    (waiting : ∀ log, (({ s with rmu := log } : State).applyChange (.val (id, .rack) v)).partTurns = s.partTurns) :
    ∃ log x u, opSetSet c id v s = Res.ok u (be 4 (u.hdrEpoch c.h).toNat) ∧
      RackKeeps (({ s with rmu := log } : State).applyChange (.val (id, .rack) v)) x ∧ RackKeeps x.advanceRackEpoch u := by
  obtain ⟨j, -, -, -, -, sound⟩ := State.checkWrite_ok checked
  obtain ⟨units, t, turn, todo, fresh, ran⟩ := calm_rackTurn (id := id) (v := v) calm early known rack []
  have started : ∃ log, s.logStarted c.ep c.session 1 units = { s with rmu := log } := ⟨_, rfl⟩
  obtain ⟨log, started⟩ := started
  rw [started] at ran
  obtain ⟨x, kept, done⟩ := State.runTurn_rackValue (s := { s with rmu := log }) known rack plain calm.noReset
    ((resets _).trans calm.noReset) ((waiting _).trans calm.noWaiting) turn todo fresh
  refine ⟨log, x, _, ?_, kept, done⟩
  rw [opSetSet_of_turnOf checked, State.turnOf_rack ((s.changesOk_one ..).trans sound)
    (widest_one ((turnClass_val known ..).trans rack)) closed, ran]
  exact if_pos (.inl rfl)

/-- The value of the rack that a change wrote stands when its turn has completed, under the next rack epoch. -/
theorem State.rackTurn_ends {x y u : State} (kept : RackKeeps x y) (done : RackKeeps y.advanceRackEpoch u) :
    u.cfg = x.cfg ∧ u.accept = x.accept ∧ u.clk = x.clk ∧ u.hbm = x.hbm ∧ u.rackEpoch = nextEpoch x.rackEpochHigh := by
  refine ⟨done.cfg.trans kept.cfg, done.accept.trans kept.accept, done.clk.trans kept.clk, done.hbm.trans kept.hbm, ?_⟩
  rw [done.rackEpoch, ← kept.rackEpochHigh]
  rfl

theorem State.setVal_rack_of_cfg {u : State} (cfg : u.cfg = (s.writeRun (id, .rack) v).cfg) : u.setVal (id, .rack) = v := by
  show Tab.get u.cfg.running (setDefault id) (id, .rack) = v
  rw [cfg, State.running_writeRun, if_pos rfl]

theorem fieldBe_whole {v : List Byte} {n : Nat} (len : v.length = n) : fieldBe v 0 n = ofBe v := by
  rw [fieldBe, field_whole len]

theorem arrived_rackEpochHigh (s : State) (t : Nat) (h : Hdr) (b : Body) (e : Ep) (n : SessRef) :
    (arrived s t h b e n).rackEpochHigh = s.rackEpochHigh :=
  (TurnTells.of_eventsOnly (arrived_frame ..)).rackEpochHigh

theorem closes_rackAccepted (v : List Byte) : closes [.val (0x0A20#16, .rack) v] = true ↔ fieldBe v 0 1 = 0 := by
  simp [closes]

section

variable {u : State} (value : u.setVal (0x0A20#16, .rack) = v) (checked : s.checkWrite c 0x0A20#16 v = .ok (0x0A20#16, .rack))
include value checked

/-- RACK_ACCEPTED as the machine reads it is the byte written, 0 or 1. -/
theorem State.rackSet_accepted : u.rackSet 0x0A20#16 = fieldBe v 0 1 ∧ fieldBe v 0 1 ≤ 1 := by
  obtain ⟨i, known, -, len, range, -⟩ := State.checkWrite_ok checked
  obtain rfl := Option.some.inj (setInfo_rackAccepted.symm.trans known)
  have whole : fieldBe v 0 1 = ofBe v := fieldBe_whole len
  have bound : ofBe v ≤ 1 := by simpa [numSet, inRange] using range
  exact ⟨(congrArg ofBe value).trans whole.symm, whole ▸ bound⟩

theorem State.admits_unaccepted (zero : fieldBe v 0 1 = 0) : u.admits = false := by
  simp [State.admits, (State.rackSet_accepted value checked).1, zero]

/-- Acceptance requires that the rack-time quality is known (R298, R316). -/
theorem State.admits_accepted (clk : u.clk = s.clk) (nonzero : fieldBe v 0 1 ≠ 0) : u.admits = true := by
  obtain ⟨read, bound⟩ := State.rackSet_accepted value checked
  obtain ⟨-, -, -, -, -, sound⟩ := State.checkWrite_ok checked
  have one : fieldBe v 0 1 = 1 := by omega
  have quality : s.clk.quality ≠ .unset := by
    simp [State.valueOk, one, State.acceptable] at sound
    tauto
  simp [State.admits, read, one, clk, quality]

end

/-- Settles O25: a turn that nothing holds back lands within its command, on what its change leaves. -/
theorem valuesTurnAtOnce : Obligations.ValuesTurnAtOnce := by
  refine ⟨fun s t h e q id v k i known keyway => ⟨fun r row ready checked calm => ?set, fun latched ready calm may sound => ?turn⟩,
    fun s t h q id v r row ready checked calm => ⟨fun test idle => ?test, fun accept closed => ?accept,
      fun accept zero unforced ⟨k, open_⟩ => ?busy⟩⟩
  case set =>
    obtain ⟨scope, start, run⟩ := calm_opSetSet_kw (c := ctxAt s t h (.setSet id v) e q) calm rfl known keyway checked
    obtain ⟨value, epochs, hbm, chips, -⟩ := State.turnedAtOnce_kw (arrived s t h (.setSet id v) e q.ref)
      (ctxAt s t h (.setSet id v) e q) id k v scope start
    exact ⟨_, replies_ok (packetOf_writeRow row) ready nofun run, value, epochs, hbm.trans (arrived_hbm ..),
      chips.trans (arrived_frame ..).chips⟩
  case turn =>
    obtain ⟨x, session, latches⟩ := arrived_session (b := .setTurn) ready.toInTurn
    obtain ⟨scope, start, run⟩ := calm_opSetTurn_kw (c := ctxAt s t h .setTurn e q) calm rfl known keyway session
      (latches.trans latched) may sound
    obtain ⟨value, -, hbm, -, keeps⟩ := State.turnedAtOnce_kw ((arrived s t h .setTurn e q.ref).modSession e q.ref fun q =>
      { q with latches := [] }) (ctxAt s t h .setTurn e q) id k v scope start
    obtain ⟨y, found, none⟩ := keeps.keeps e q.ref [] ⟨_, State.session_modSession _ (fun _ => rfl) session, rfl⟩
    refine ⟨_, y, replies_ok rfl ready nofun run, found, none, value,
      hbm.trans ((State.modSession_hbm ..).trans (arrived_hbm ..))⟩
  case test =>
    subst test
    have applied (log : Rmu) := State.applyChange_acceptTest (s := { arrived s t h (.setSet 0x0304#16 v) .op q.ref with rmu := log })
      idle v
    obtain ⟨log, x, u, run, kept, done⟩ := calm_opSetSet_rack (c := ctxAt s t h (.setSet 0x0304#16 v) .op q) calm rfl
      setInfo_acceptTest rfl (by decide) checked nofun (fun log => by rw [applied]; rfl) (fun log => by rw [applied]; rfl)
    obtain ⟨cfg, accept, -, hbm, epoch⟩ := State.rackTurn_ends kept done
    rw [applied] at cfg accept hbm epoch
    exact ⟨u, replies_ok (packetOf_writeRow row) ready nofun run, State.setVal_rack_of_cfg cfg, by rw [accept],
      epoch.trans (congrArg nextEpoch (arrived_rackEpochHigh ..)), hbm.trans (arrived_hbm ..)⟩
  case accept =>
    subst accept
    have applied (log : Rmu) := State.applyChange_rackAccepted
      { arrived s t h (.setSet 0x0A20#16 v) .op q.ref with rmu := log } v
    obtain ⟨log, x, u, run, kept, done⟩ := calm_opSetSet_rack (c := ctxAt s t h (.setSet 0x0A20#16 v) .op q) calm rfl
      setInfo_rackAccepted rfl (by decide) checked (fun closing => closed (by rwa [closes_rackAccepted] at closing))
      (fun log => by rw [applied]; rfl) (fun log => by rw [applied]; rfl)
    obtain ⟨cfg, -, clk, hbm, epoch⟩ := State.rackTurn_ends kept done
    rw [applied] at cfg clk hbm epoch
    have value : u.setVal (0x0A20#16, .rack) = v := State.setVal_rack_of_cfg cfg
    refine ⟨u, replies_ok (packetOf_writeRow row) ready nofun run, value, fun zero => ?_, fun nonzero => ?_,
      epoch.trans (congrArg nextEpoch (arrived_rackEpochHigh ..)), hbm.trans (arrived_hbm ..)⟩
    · exact State.admits_unaccepted value checked zero
    · exact State.admits_accepted value checked clk nonzero
  case busy =>
    subst accept
    obtain ⟨j, -, -, -, -, sound⟩ := State.checkWrite_ok checked
    have run := State.turnOf_busy (c := ctxAt s t h (.setSet 0x0A20#16 v) .op q) (latches := [])
      ((State.changesOk_one ..).trans sound) ((closes_rackAccepted v).2 zero) open_ unforced
    exact replies_of_runOp (r := Res.fail _ _) (packetOf_writeRow row) ready nofun ((opSetSet_of_turnOf checked).trans run) rfl
      (show St.busy ≠ St.internalError by decide)

end

end Sys2Proof.Machine
end

section
/-! SUPPORT. A write of PART_SHAPE: a partition asked for, refused, or there as asked (R40, R245, R354). -/

namespace Sys2Proof.Machine

open Sys2Proof.Safety

/-- What a value of PART_SHAPE asks for: the partition, its class and extents (R40). -/
def shapeOf (p : PartId) (v : List Byte) : PartId × Nat × Nat × Nat × Nat :=
  (p, fieldBe v 0 1, fieldBe v 1 1, fieldBe v 2 1, fieldBe v 3 1)

theorem shapeAsk_shape (p : PartId) (v : List Byte) : shapeAsk (.val (0x0201#16, .part p) v) = some (shapeOf p v) := rfl

theorem setInfo_shape : ∃ i, setInfo 0x0201#16 = some i ∧ i.turn = .rack := by
  simp [setInfo, setInfoSingle]

theorem closes_shape (p : PartId) (v : List Byte) : closes [.val (0x0201#16, .part p) v] = false := by
  simp [closes]

section

variable {s : State} {c : Ctx} {p : PartId} {v : List Byte}

/-- A partition that is not there is asked for by any class but 0. -/
theorem State.asksChange_absent (absent : s.part p = none) (asked : fieldBe v 0 1 ≠ 0) : s.asksChange (shapeOf p v) = true := by
  simp [State.asksChange, shapeOf, absent, asked]

/-- The shape in force asks for nothing. -/
theorem State.asksChange_same {w : Part} (part : s.part p = some w) (cls : fieldBe v 0 1 = w.shape.cls)
    (ex : fieldBe v 1 1 = w.shape.ex) (ey : fieldBe v 2 1 = w.shape.ey) (ez : fieldBe v 3 1 = w.shape.ez) :
    s.asksChange (shapeOf p v) = false := by
  simp [State.asksChange, shapeOf, part, cls, ex, ey, ez]

/-- A new partition is planned where one of its placements is in service, and is else refused (R40, R245). -/
theorem State.shapeStep_absent (absent : s.part p = none) (asked : fieldBe v 0 1 ≠ 0) :
    s.shapeStep (shapeOf p v) =
      if (candidates (fieldBe v 0 1) (fieldBe v 1 1) (fieldBe v 2 1) (fieldBe v 3 1)).any s.placeable then .plan else .noRoom := by
  simp [State.shapeStep, shapeOf, absent, asked]

/-- The write runs its rack-wide turn. -/
theorem opSetSet_shape (checked : s.checkWrite c 0x0201#16 v = .ok (0x0201#16, .part p)) :
    opSetSet c 0x0201#16 v s =
      if (s.rackTurn c [.val (0x0201#16, .part p) v] []).status = St.ok ∨
        (s.rackTurn c [.val (0x0201#16, .part p) v] []).status = St.accepted ∨
        (s.rackTurn c [.val (0x0201#16, .part p) v] []).status = St.rolledBack then s.rackTurn c [.val (0x0201#16, .part p) v] []
      else { s.rackTurn c [.val (0x0201#16, .part p) v] [] with s := s } := by
  obtain ⟨i, known, rack⟩ := setInfo_shape
  obtain ⟨-, -, -, -, -, sound⟩ := State.checkWrite_ok checked
  rw [opSetSet_of_turnOf checked]
  exact State.turnOf_rack ((s.changesOk_one ..).trans sound) (widest_one ((turnClass_val known ..).trans rack))
    (fun closing => absurd closing (by simp [closes_shape]))

theorem State.rackTurn_same (same : s.asksChange (shapeOf p v) = false) :
    s.rackTurn c [.val (0x0201#16, .part p) v] [] = Res.ok s (be 4 (s.hdrEpoch c.h).toNat) := by
  unfold State.rackTurn
  extract_lets asks vals
  have none : asks = [] := by simp [asks, shapeAsk_shape, same]
  exact if_pos ⟨by rw [none]; rfl, rfl⟩

theorem State.rackTurn_noRoom (free : s.turn = none) (asks : s.asksChange (shapeOf p v) = true)
    (full : s.shapeStep (shapeOf p v) = .noRoom) : 
    s.rackTurn c [.val (0x0201#16, .part p) v] [] = Res.fail s St.noResource := by
  unfold State.rackTurn
  extract_lets asked vals
  have one : asked = [shapeOf p v] := by simp [asked, shapeAsk_shape, asks]
  rw [if_neg (by simp [one]), if_neg (by simp [free]), if_pos (by simp [one, full, ShapeStep.noRoom?])]

/-- A planned partition's turn waits for its placement run (R245). -/
theorem calm_rackTurn_plan (calm : Calm s) (asks : s.asksChange (shapeOf p v) = true) (plan : s.shapeStep (shapeOf p v) = .plan)
    (absent : s.part p = none) (room : s.roomFor [shapeOf p v] [] = true) :
    ∃ u w, s.rackTurn c [.val (0x0201#16, .part p) v] [] = Res.accepted u ∧ u.turn = some w ∧ w.placing = [shapeOf p v] ∧
      w.shapes = [] ∧ w.session = c.session ∧ u.parts = s.parts ∧ u.hbm = s.hbm := by
  unfold State.rackTurn
  extract_lets asked vals steps shapes placing ps running full t0 t missing codes q1 q2 q3 s1 s2 s3 r s4 t1
  have one : asked = [shapeOf p v] := by simp [asked, shapeAsk_shape, asks]
  have noVals : vals = [] := rfl
  have noShapes : shapes = [] := by simp [shapes, steps, one, plan]
  have onePlacing : placing = [shapeOf p v] := by simp [placing, steps, one, plan]
  have noParts : ps = [] := by
    unfold ps
    rw [noVals, one]
    simp [State.changedParts, shapeOf, absent]
  have idle : running = [] := by simp [running, noParts]
  have open_ : full = false := by simp [full, noParts]
  have none : missing = [] := by
    refine List.filter_eq_nil_iff.2 fun u _ => ?_
    simp [State.unitMisses, State.unitResets, calm.noReset]
  have begun : s3 = s.logStarted c.ep c.session 1 t.units.length := by
    unfold s3 s2 s1
    rw [idle, calm_makeEpochRoom calm]
    rfl
  rw [if_neg (by simp [one]), if_neg (by simp [calm.noTurn]), if_neg (by simp [one, plan, ShapeStep.noRoom?]),
    if_neg (by simp [noShapes, onePlacing, disjointShapes, room]), if_neg (by simp [idle, open_]), if_neg (by simp [none]),
    if_neg (by simp [onePlacing]), if_neg (by simp [onePlacing])]
  clear_value s3
  subst begun
  exact ⟨_, t1, rfl, rfl, onePlacing, noShapes, rfl, rfl, rfl⟩

end

/-- Settles O26: the ask decides the turn: planned, refused, or none. -/
theorem partShapeWriteWaitsForPlace : Obligations.PartShapeWriteWaitsForPlace := by
  intro s t h q p v r row ready a ask open_ checked
  have run := opSetSet_shape (c := ctxAt s t h (.setSet 0x0201#16 v) .op q) checked
  refine ⟨fun calm absent asked placeable room => ?plan, fun free absent asked nowhere => ?refuse,
    fun w part cls ex ey ez => ?same⟩
  case plan =>
    have step := (State.shapeStep_absent absent asked).trans (if_pos placeable)
    obtain ⟨u, w, ran, turn, placing, shapes, session, parts, hbm⟩ := calm_rackTurn_plan (c := ctxAt s t h (.setSet 0x0201#16 v) .op q)
      calm (State.asksChange_absent absent asked) step absent room
    rw [ran] at run
    exact ⟨u, w, replies_of_runOp (packetOf_writeRow row) ready nofun run rfl (show St.accepted ≠ St.internalError by decide),
      turn, placing, shapes, session, parts.trans (arrived_frame ..).parts, hbm.trans (arrived_hbm ..)⟩
  case refuse =>
    have step := (State.shapeStep_absent absent asked).trans (if_neg (Bool.eq_false_iff.1 nowhere))
    rw [State.rackTurn_noRoom free (State.asksChange_absent absent asked) step] at run
    exact replies_of_runOp (packetOf_writeRow row) ready nofun run rfl (show St.noResource ≠ St.internalError by decide)
  case same =>
    rw [State.rackTurn_same (State.asksChange_same part cls ex ey ez)] at run
    exact replies_of_runOp (packetOf_writeRow row) ready nofun run rfl (show St.ok ≠ St.internalError by decide)

end Sys2Proof.Machine
end

section
/-! SUPPORT. The power of a partition: its cap and policy turn at once, its state changes when every quadrant has it (R91, R95, R96, R263,
R348). -/

namespace Sys2Proof.Machine

open Sys2Proof.Safety

/-! ### Values of a partition that turn at once -/

section

variable {s : State} {p : PartId} {id : BitVec 16}

/-- A change of a partition's value that moves no memory writes the value and leaves the memory. -/
theorem State.applyChange_part (window : id ≠ 0x0204#16) (warm : id ≠ 0x0401#16) (v : List Byte) :
    (s.applyChange (.val (id, .part p) v)).cfg = (s.writeRun (id, .part p) v).cfg ∧
      (s.applyChange (.val (id, .part p) v)).hbm = s.hbm := by
  have regulated (x : State) : x.regulate.cfg = x.cfg := by rw [(LoopsOnly.regulate x).frame]
  simp only [State.applyChange, window, warm, or_self, if_false]
  split
  · exact ⟨by simp, by simp⟩
  · split
    · exact ⟨regulated _, by simp⟩
    · exact ⟨rfl, rfl⟩

theorem State.setVal_part {u : State} (shape : id ≠ 0x0201#16) :
    u.setVal (id, .part p) = Tab.get u.cfg.running (setDefault id) (id, .part p) := if_neg shape

/-- What a turn at once leaves but for epochs, events and records is what its changes leave. -/
theorem State.turnedAtOnce_applied (s : State) (c : Ctx) (cs : List Change) (scope start : Nat) :
    ∃ log, TurnTells (({ s with rmu := log } : State).applyChanges cs) (s.turnedAtOnce c cs scope start) := by
  obtain ⟨log, begun⟩ := s.turnStarted_eq c cs.length (s.changedParts cs).length
  refine ⟨log, ?_⟩
  rw [State.turnedAtOnce, begun]
  exact State.landTurn_applied ..

theorem setInfo_cap : ∃ i, setInfo 0x020A#16 = some i ∧ i.turn = .immediate := by simp [setInfo, setInfoSingle, numSet]
theorem setInfo_divider : ∃ i, setInfo 0x0207#16 = some i ∧ i.turn = .immediate := by simp [setInfo, setInfoSingle, numSet]
theorem setInfo_rotation : ∃ i, setInfo 0x0208#16 = some i ∧ i.turn = .immediate := by simp [setInfo, setInfoSingle, numSet]
theorem setInfo_period : ∃ i, setInfo 0x0209#16 = some i ∧ i.turn = .immediate := by simp [setInfo, setInfoSingle, numSet]

/-- Values of a partition, as a command's changes. -/
def partValues (p : PartId) (vs : List (BitVec 16 × List Byte)) : List Change := vs.map fun x => .val (x.1, .part p) x.2

theorem State.changesOk_partValues (s : State) (p : PartId) (vs : List (BitVec 16 × List Byte)) :
    s.changesOk (partValues p vs) = true := by
  induction vs generalizing s with
  | nil => rfl
  | cons x vs ih => exact ih _

/-- The last of the values written under an ID, or else the one that stood there. -/
def lastValue (id : BitVec 16) (vs : List (BitVec 16 × List Byte)) (was : List Byte) : List Byte :=
  vs.foldl (fun w x => if id = x.1 then x.2 else w) was

/-- Values of a partition that move no memory leave the memory, and the last of them stands. -/
theorem State.applyChanges_partValues {vs : List (BitVec 16 × List Byte)} (plain : ∀ x ∈ vs, x.1 ≠ 0x0204#16 ∧ x.1 ≠ 0x0401#16)
    (s : State) : (s.applyChanges (partValues p vs)).hbm = s.hbm ∧
      ∀ id d, Tab.get (s.applyChanges (partValues p vs)).cfg.running d (id, .part p) =
        lastValue id vs (Tab.get s.cfg.running d (id, .part p)) := by
  induction vs generalizing s with
  | nil => exact ⟨rfl, fun _ _ => rfl⟩
  | cons x vs ih =>
    obtain ⟨window, warm⟩ := plain x List.mem_cons_self
    obtain ⟨cfg, hbm⟩ := State.applyChange_part (s := s) (p := p) window warm x.2
    obtain ⟨hbm', value⟩ := ih (fun y hy => plain y (List.mem_cons_of_mem x hy)) (s.applyChange (.val (x.1, .part p) x.2))
    refine ⟨hbm'.trans hbm, fun id d => (value id d).trans ?_⟩
    rw [cfg, State.running_writeRun, lastValue, lastValue, List.foldl_cons]
    congr 1
    by_cases same : id = x.1 <;> simp [same]

variable {c : Ctx}

/-- Immediate-class values of a partition turn at once, and each stands as it was last written. -/
theorem calm_partValues (calm : Calm s) (early : c.late = false) {vs : List (BitVec 16 × List Byte)}
    (immediate : ∀ x ∈ vs, ∃ i, setInfo x.1 = some i ∧ i.turn = .immediate)
    (plain : ∀ x ∈ vs, x.1 ≠ 0x0204#16 ∧ x.1 ≠ 0x0401#16) :
    ∃ u body, s.turnOf c (partValues p vs) [] = Res.ok u body ∧ u.hbm = s.hbm ∧
      ∀ id, id ≠ 0x0201#16 → u.setVal (id, .part p) = lastValue id vs (s.setVal (id, .part p)) := by
  obtain ⟨scope, start, turn⟩ := calm_turnOf calm early (s.changesOk_partValues p vs) (fun x hx => .inr (by
    obtain ⟨y, hy, rfl⟩ := List.mem_map.1 hx
    obtain ⟨i, known, class_⟩ := immediate y hy
    exact (turnClass_val known ..).trans class_)) []
  obtain ⟨log, tells⟩ := s.turnedAtOnce_applied c (partValues p vs) scope start
  obtain ⟨hbm, value⟩ := State.applyChanges_partValues (p := p) plain { s with rmu := log }
  refine ⟨_, _, turn, tells.hbm.trans hbm, fun id shape => ?_⟩
  rw [State.setVal_part shape, State.setVal_part shape, tells.cfg]
  exact value id _

/-- PWR_CAP grants what PWR_PART_MAX allows, at least 150 W a quadrant (R263). -/
theorem calm_opPwrCap (calm : Calm s) (early : c.late = false) (part : c.part? s = some p) (w : BitVec 32) :
    let most := s.partSet p 0x0605#16 * (s.partQuads p).length
    let granted := if w = 0 then most else max (150 * (s.partQuads p).length) (if most = 0 then w.toNat else min w.toNat most)
    ∃ u, opPwrCap c w s = Res.ok u (be 4 granted) ∧ u.setVal (0x020A#16, .part p) = be 4 granted ∧ u.hbm = s.hbm := by
  intro most granted
  obtain ⟨u, body, turn, hbm, value⟩ := calm_partValues (p := p) calm early (vs := [(0x020A#16, be 4 granted)])
    (by simpa using setInfo_cap) (by simp)
  refine ⟨u, ?_, ?_, hbm⟩
  · simp only [opPwrCap, part]
    exact congrArg (fun r : Res => if r.status = St.ok then { r with body := be 4 granted } else r) turn
  · rw [value 0x020A#16 (by decide)]
    simp only [lastValue, List.foldl_cons, List.foldl_nil, if_true]

/-- POLICY_SET writes its three values in one turn (R91, R348). -/
theorem calm_opPolicySet (calm : Calm s) (early : c.late = false) (part : c.part? s = some p) {d r : BitVec 8} {n : BitVec 16}
    (range : paramsOk (.policySet d r n) = true) :
    ∃ u, opPolicySet c d r n s = Res.ok u ∧ u.partSet p 0x0207#16 = d.toNat ∧ u.partSet p 0x0208#16 = r.toNat ∧
      u.partSet p 0x0209#16 = n.toNat ∧ u.hbm = s.hbm := by
  obtain ⟨u, body, turn, hbm, value⟩ := calm_partValues (p := p) calm early
    (vs := [(0x0207#16, be 1 d.toNat), (0x0208#16, be 1 r.toNat), (0x0209#16, be 2 n.toNat)])
    (by simpa using ⟨setInfo_divider, setInfo_rotation, setInfo_period⟩) (by simp)
  have allowed : (4 ≤ d.toNat && d.toNat ≤ 6 && r.toNat ≤ 1 && 10 ≤ n.toNat && n.toNat ≤ 1000) = true := range
  have turned : s.turnOf c [.val (0x0207#16, .part p) (be 1 d.toNat), .val (0x0208#16, .part p) (be 1 r.toNat),
      .val (0x0209#16, .part p) (be 2 n.toNat)] [] = Res.ok u body := turn
  refine ⟨u, ?_, ?_, ?_, ?_, hbm⟩
  · simp only [opPolicySet, part, allowed, turned]
    rfl
  · rw [State.partSet, State.setNum, value _ (by decide)]
    simp [lastValue]
    omega
  · rw [State.partSet, State.setNum, value _ (by decide)]
    simp [lastValue]
    omega
  · rw [State.partSet, State.setNum, value _ (by decide)]
    simp [lastValue]
    omega

end

end Sys2Proof.Machine
end

section
/-! SUPPORT. PWR_STATE: what a fall or a rise of a partition's power starts, before its state changes (R53, R95, R96). -/

namespace Sys2Proof.Machine

open Sys2Proof.Safety

/-- Every partition has the power state it had. -/
structure KeepsPower (s t : State) : Prop where
  power : ∀ p, (t.part p).map Part.power = (s.part p).map Part.power

namespace KeepsPower

variable {s t u : State}

theorem refl (s : State) : KeepsPower s s := ⟨fun _ => rfl⟩

theorem trans (h : KeepsPower s t) (g : KeepsPower t u) : KeepsPower s u := ⟨fun p => (g.power p).trans (h.power p)⟩

theorem of_parts (h : t.parts = s.parts) : KeepsPower s t := ⟨fun p => by rw [State.part, h, State.part]⟩

theorem ofParts (g : KeepsPower t u) (h : t.parts = s.parts) : KeepsPower s u := (of_parts h).trans g

theorem of_eventsOnly (h : EventsOnly s t) : KeepsPower s t := of_parts h.parts

theorem foldl {α : Type} (f : State → α → State) (h : ∀ s a, KeepsPower s (f s a)) (l : List α) (s : State) :
    KeepsPower s (l.foldl f s) := by
  induction l generalizing s with
  | nil => exact refl s
  | cons a l ih => exact (h s a).trans (ih _)

theorem modPart (s : State) (p : PartId) {f : Part → Part} (kept : ∀ v, (f v).power = v.power) : KeepsPower s (s.modPart p f) := by
  refine ⟨fun q => ?_⟩
  rw [State.part_modPart]
  split
  · next h => subst h; cases s.part q <;> simp [kept]
  · rfl

theorem setPart {p : PartId} {v w : Part} (part : s.part p = some v) (kept : w.power = v.power) : KeepsPower s (s.setPart p (some w)) := by
  refine ⟨fun q => ?_⟩
  rw [State.part_setPart]
  split
  · next h => subst h; simp [part, kept]
  · rfl

theorem of_part {p : PartId} {v : Part} (h : KeepsPower s t) (part : s.part p = some v) :
    ∃ w, t.part p = some w ∧ w.power = v.power := by
  have same := h.power p
  rw [part] at same
  exact Option.map_eq_some_iff.1 same

/-! ### Queues and waves -/

theorem enqueue (s : State) (x : CellId) (q : Fin 4) (m : Msg) : KeepsPower s (s.enqueue x q m) := by
  unfold State.enqueue
  extract_lets c b
  split
  · unfold State.sawBacklog
    split
    · exact ofParts (modPart _ _ fun _ => rfl) rfl
    · exact of_parts rfl
  · exact of_parts rfl

theorem settleIn (s : State) (x : CellId) (q : Fin 4) (f : Nat) : KeepsPower s (s.settleIn x q f) := by
  induction f generalizing s with
  | zero => exact refl s
  | succ f ih =>
    unfold State.settleIn
    split
    · exact refl s
    · split
      · exact ofParts ((enqueue ..).trans (ih _)) rfl
      · exact refl s

theorem offer (s : State) (x : CellId) (q : Fin 4) (m : Msg) : KeepsPower s (s.offer x q m) := by
  unfold State.offer State.enterWaiting
  exact ofParts (settleIn ..) rfl

theorem entryHinges (s : State) (v : Part) (w : Wave) : KeepsPower s (s.entryHinges v w) := by
  refine foldl _ (fun s x => ?_) _ s
  split
  · exact foldl _ (fun s i => offer ..) _ s
  · exact refl s

theorem carryChip (s : State) (v : Part) (w : Wave) (old : List (ChipId × Fin 640 × Fin 640)) (n : ChipId) :
    KeepsPower s (s.carryChip v w old n) := by
  refine foldl _ (fun t m => ?_) _ s
  split
  · unfold State.carryBlock
    extract_lets buf s1
    refine of_parts (foldl_keeps _ State.parts ?_ _ s1)
    exact fun _ _ => rfl
  · exact refl t

theorem carryOnce (s : State) (p : PartId) (n : Nat) (chip : ChipId) : KeepsPower s (s.carryOnce p n chip) := by
  unfold State.carryOnce
  split
  · exact refl s
  · split
    · exact refl s
    · split
      · exact refl s
      · exact (carryChip ..).trans (modPart _ _ fun _ => rfl)

theorem completeWaves (s : State) (p : PartId) (f : Nat) : KeepsPower s (s.completeWaves p f) := by
  induction f generalizing s with
  | zero => exact refl s
  | succ f ih =>
    unfold State.completeWaves
    split
    · exact refl s
    · next v part =>
      split
      · exact refl s
      · split
        · extract_lets s1 s2 s3
          have carried : KeepsPower s s1 := foldl _ (fun s n => carryOnce ..) _ s
          obtain ⟨w, there, same⟩ := carried.of_part part
          have passed : KeepsPower s1 s2 := setPart there same.symm
          have told : KeepsPower s2 s3 := by
            unfold s3
            split
            · exact (of_eventsOnly (EventsOnly.raiseS ..)).trans (of_parts rfl)
            · exact refl s2
          exact ((carried.trans passed).trans told).trans (ih _)
        · exact refl s

theorem armCalendar_parts (s : State) (p : PartId) (v : Part) (n : Nat) (chip : ChipId) :
    (s.armCalendar p v n chip).parts = s.parts := by
  unfold State.armCalendar
  split
  · split
    · extract_lets f s1
      refine (foldl_keeps _ State.parts (fun x i => ?_) _ s1).trans rfl
      split <;> rfl
    · rfl
  · rfl

theorem startWave (s : State) (p : PartId) (w : Wave) : KeepsPower s (s.startWave p w) := by
  unfold State.startWave
  split
  · exact refl s
  · extract_lets s1 v n s2 idle s3
    have hinged : KeepsPower s s1 := (entryHinges ..).trans (modPart _ _ fun _ => rfl)
    have loaded : KeepsPower s1 s2 := foldl _ (fun s x => by
      refine of_parts ?_
      unfold State.loadShadow
      extract_lets n
      split <;> rfl) _ s1
    have armed : KeepsPower s2 s3 := foldl _ (fun s c => of_parts (armCalendar_parts ..)) _ s2
    exact ((hinged.trans loaded).trans armed).trans (completeWaves ..)

theorem startAttempt (s : State) (p : PartId) : KeepsPower s (s.startAttempt p) := by
  unfold State.startAttempt
  split
  · exact refl s
  · split
    · extract_lets s1
      have begun : KeepsPower s s1 := modPart _ _ fun _ => rfl
      split
      · exact begun.trans (startWave ..)
      · exact begun
    · exact refl s

end KeepsPower

theorem State.endRun_parts (s : State) (n : ChipId) (run : TmbRun) (status : Nat) (tail : List Byte) :
    (s.endRun n run status tail).parts = s.parts := by
  unfold State.endRun
  extract_lets s1
  split
  · exact (EventsOnly.raiseS ..).parts
  · rfl

theorem State.endRuns_parts (s : State) (p : PartId) (on : Option ChipId) (status : Nat) (tail : List Byte) :
    (s.endRuns p on status tail).parts = s.parts :=
  foldl_keeps _ State.parts (fun x _ => foldl_keeps _ State.parts (fun _ _ => State.endRun_parts ..) _ x) _ s

theorem State.override_parts (s : State) (p : PartId) (cause policy imposed : Nat) :
    (s.override p cause policy imposed).parts = s.parts :=
  (override_frame ..).parts

section

variable {s : State} {p : PartId} {v : Part} {c : Ctx} {n r : BitVec 8}

/-- A SHUT of what runs waits for FORCE (R96). -/
def shutsLive (s : State) (p : PartId) (v : Part) (n : BitVec 8) : Bool := n = 2 && (v.hasProgram || s.partRuns p)

theorem opPwrState_busy (kwPart : c.part? s = some p) (part : s.part p = some v) (busy : shutsLive s p v n = true)
    (unforced : c.h.force = false) : opPwrState c n r s = Res.fail s St.busy := by
  simp only [opPwrState, kwPart, part]
  refine if_pos ?_
  rw [unforced]
  simpa [shutsLive] using busy

/-- The partition drained for a forced SHUT, its Tumbler runs ended. -/
theorem State.drained_part (part : s.part p = some v) :
    ∃ w, ((s.drainProgram p).endRuns p none St.cancelled).part p = some w ∧ w.power = v.power ∧
      (v.prog = .running → w.prog = .draining s.osc none) := by
  rw [State.part, State.endRuns_parts, ← State.part, State.drainProgram]
  split
  · refine ⟨setProg v (.draining s.osc none), ?_, rfl, fun _ => rfl⟩
    rw [State.part_modPart, if_pos rfl, part]
    rfl
  · next idle =>
    refine ⟨v, part, rfl, fun running => absurd ?_ idle⟩
    rw [part, Option.map_some, running]

/-- A PWR_STATE that runs is an open operation, the partition in the power state it had (R53, R95). -/
theorem opPwrState_accepted (kwPart : c.part? s = some p) (part : s.part p = some v)
    (free : shutsLive s p v n = false ∨ c.h.force = true) :
    ∃ u o w, opPwrState c n r s = Res.accepted u ∧ o ∈ u.ops ∧ o.ep = c.ep ∧ o.session = c.session ∧
      o.kind = .pwrState p n.toNat (r.getLsbD 0) ∧ u.part p = some w ∧ w.power = v.power ∧
      (shutsLive s p v n = true → v.prog = .running → w.prog = .draining s.osc none) ∧ u.hbm = s.hbm := by
  unfold opPwrState
  split
  · next none => rw [kwPart] at none; cases none
  · next j found =>
    obtain rfl : p = j := Option.some.inj (kwPart.symm.trans found)
    extract_lets busy s1 was s2 s3
    have same : busy = shutsLive s p v n := by
      unfold busy shutsLive
      rw [part]
      rfl
    have stopped : ∃ w, s1.part p = some w ∧ w.power = v.power ∧
        (busy = true → v.prog = .running → w.prog = .draining s.osc none) := by
      unfold s1
      split
      · obtain ⟨w, there, power, prog⟩ := State.drained_part part
        exact ⟨w, there, power, fun _ => prog⟩
      · next idle => exact ⟨v, part, rfl, fun h => absurd h idle⟩
    obtain ⟨w1, there1, power1, prog1⟩ := stopped
    have risen : ∃ w, s2.part p = some w ∧ w.power = v.power ∧
        (busy = true → v.prog = .running → w.prog = .draining s.osc none) := by
      unfold s2
      split
      · next rise =>
        obtain ⟨w, there, power⟩ := (KeepsPower.startAttempt s1 p).of_part there1
        exact ⟨w, there, power.trans power1, fun h => absurd h (by simp [rise.2])⟩
      · exact ⟨w1, there1, power1, prog1⟩
    obtain ⟨w, there, power, prog⟩ := risen
    have stepped : s3.parts = s2.parts := by
      unfold s3
      split
      · exact State.override_parts ..
      · rfl
    have hbm : s3.hbm = s.hbm := by
      simp only [s3, s2, s1]
      repeat' split
      all_goals simp
    refine ⟨_, _, w, if_neg ?_, List.mem_append_right _ List.mem_cons_self, rfl, rfl, rfl, ?_, power, ?_, hbm⟩
    · rw [same]
      obtain idle | forced := free
      · simp [idle]
      · simp [forced]
    · show s3.part p = some w
      rw [State.part, stepped]
      exact there
    · rw [← same]
      exact prog

end

end Sys2Proof.Machine
end

section
/-! SUPPORT. The change of a partition's power state, and its event (R95, R96, R346). -/

namespace Sys2Proof.Machine

open Sys2Proof.Safety

/-! ### The event of an operation goes out (R67) -/

section

variable {s a x : State} {e : Ep} {n : SessRef} {q : Session}

/-- An event delivered to an open session is sent to its event address. -/
theorem State.deliver_sends (open_ : s.session? e n = some q) (ev : Event) (keep : Bool) :
    Out.packet q.lastVia q.evAddr q.evPort (epKeyway e) true false ev.code ev.seq ev.epoch q.num 0 s.clk.quality.code s.rackNs ev.body ∈
      (s.deliver e n ev keep).out := by
  have sent : Out.packet q.lastVia q.evAddr q.evPort (epKeyway e) true false ev.code ev.seq ev.epoch q.num 0 s.clk.quality.code
      s.rackNs ev.body ∈ (s.sendEvent e q ev false).out := List.mem_append_right _ List.mem_cons_self
  unfold State.deliver
  split
  · next none => rw [open_] at none; cases none
  · next found =>
    obtain rfl := Option.some.inj (open_.symm.trans found)
    split
    · extract_lets s1 u r s2 lost s3
      have queued : s2.out = s1.out := State.modSession_out ..
      have entered : s3.out = s1.out := (State.modEp_out ..).trans queued
      split
      · rw [queued]; exact sent
      · split
        · rw [entered]; exact sent
        · rw [State.modSession_out]
          refine List.mem_append_left _ ?_
          rw [entered]
          exact sent
    · exact sent

theorem State.session?_enterEvent (s : State) (e : Ep) (ev : Event) (n : SessRef) : (s.enterEvent e ev).session? e n = s.session? e n := by
  rw [State.session?, State.enterEvent, State.endp_modEp_self]
  rfl

/-- A session-routed event is told to its session, where that is open. -/
theorem told_raiseS (sessions : x.session? e n = a.session? e n) (clk : x.clk = a.clk) (code : Nat) (body : List Byte) :
    Told a (x.raiseS e n code body) e n code body := by
  intro q open_
  have there : x.session? e n = some q := sessions.trans open_
  refine ⟨(x.eventOf e code n.num body).seq, (x.eventOf e code n.num body).epoch, ?_⟩
  have sent := State.deliver_sends ((State.session?_enterEvent x e (x.eventOf e code n.num body) n).trans there)
    (x.eventOf e code n.num body) true
  have clock : (x.enterEvent e (x.eventOf e code n.num body)).clk = a.clk := (EventsOnly.enterEvent ..).clk.trans clk
  rw [State.rackNs, clock] at sent
  rw [State.raiseS, if_neg (by simp [there])]
  exact sent

end

/-! ### The loss of the grid (R96, R346) -/

/-- The channels of all keyways and of the operator, and the clock, are as they were. -/
structure KeepsChannels (s t : State) : Prop where
  kws : t.kws = s.kws
  opr : t.opr = s.opr
  clk : t.clk = s.clk

namespace KeepsChannels

variable {s t u : State}

theorem refl (s : State) : KeepsChannels s s := ⟨rfl, rfl, rfl⟩

theorem trans (h : KeepsChannels s t) (g : KeepsChannels t u) : KeepsChannels s u :=
  ⟨g.kws.trans h.kws, g.opr.trans h.opr, g.clk.trans h.clk⟩

theorem foldl {α : Type} (f : State → α → State) (h : ∀ s a, KeepsChannels s (f s a)) (l : List α) (s : State) :
    KeepsChannels s (l.foldl f s) := by
  induction l generalizing s with
  | nil => exact refl s
  | cons a l ih => exact (h s a).trans (ih _)

theorem session (h : KeepsChannels s t) (e : Ep) (n : SessRef) : t.session? e n = s.session? e n := by
  cases e with
  | kw k => simp only [State.session?, State.endp, State.kw, h.kws]
  | op => simp only [State.session?, State.endp, h.opr]

theorem modPart (s : State) (p : PartId) (f : Part → Part) : KeepsChannels s (s.modPart p f) := by
  unfold State.modPart
  split <;> exact ⟨rfl, rfl, rfl⟩

theorem clearFabric (s : State) (p : PartId) (v : Part) : KeepsChannels s (s.clearFabric p v) := by
  unfold State.clearFabric
  refine trans (foldl _ ?_ v.chips s) ⟨rfl, rfl, rfl⟩
  exact fun _ _ => ⟨rfl, rfl, rfl⟩

theorem dropProgram (s : State) (p : PartId) : KeepsChannels s (s.dropProgram p) := by
  unfold State.dropProgram
  split
  · exact refl s
  · next v _ =>
    have cleared := clearFabric (s.clearCells v) p v
    exact ⟨cleared.kws, cleared.opr, cleared.clk⟩

theorem loseGrid (s : State) (p : PartId) : KeepsChannels s (s.loseGrid p) := by
  unfold State.loseGrid
  split
  · exact refl s
  · extract_lets mine s1 s2 s3 s4
    have cleared : KeepsChannels s s4 := ((dropProgram s p).trans (modPart s1 p _)).trans ⟨rfl, rfl, rfl⟩
    refine cleared.trans (foldl _ ?_ _ s4)
    exact fun _ _ => ⟨rfl, rfl, rfl⟩

theorem gateFor (s : State) (p : PartId) (was now : Nat) : KeepsChannels s (s.gateFor p was now) := by
  unfold State.gateFor
  split
  · exact modPart ..
  · split
    · unfold State.ungate
      split <;> exact ⟨rfl, rfl, rfl⟩
    · exact refl s

end KeepsChannels

section

variable {s : State} {p : PartId} {v : Part}

theorem State.part_dropProgram (part : s.part p = some v) :
    ∃ w, (s.dropProgram p).part p = some w ∧ w.running = none := by
  unfold State.dropProgram
  split
  · next none => rw [part] at none; cases none
  · exact ⟨_, Tab.get_set_self .., rfl⟩

/-- A partition whose grid has lost its power has no configuration and no program (R346). -/
theorem State.part_loseGrid (part : s.part p = some v) :
    ∃ w, (s.loseGrid p).part p = some w ∧ w.configs = [] ∧ w.running = none := by
  unfold State.loseGrid
  split
  · next none => rw [part] at none; cases none
  · extract_lets mine s1 s2 s3 s4
    obtain ⟨w, there, stopped⟩ := State.part_dropProgram part
    have cleared : s4.part p = some { w with configs := [], staged := none } := by
      show (s1.modPart p _).part p = _
      rw [State.part_modPart, if_pos rfl, there]
      rfl
    refine ⟨_, Eq.trans ?_ cleared, rfl, stopped⟩
    refine congrArg (fun x => Tab.get x none p) (foldl_keeps _ State.parts ?_ _ s4)
    exact fun _ _ => rfl

/-- The clock of the cells follows the power state; what the partition holds stays. -/
theorem State.part_gateFor (part : s.part p = some v) (was now : Nat) :
    ∃ w, (s.gateFor p was now).part p = some w ∧ w.configs = v.configs ∧ w.running = v.running := by
  unfold State.gateFor
  split
  · refine ⟨{ v with gated := v.chips.map fun n => (n, s.cycleOn n) }, ?_, rfl, rfl⟩
    rw [State.gate, State.part_modPart, if_pos rfl, part]
    rfl
  · split
    · unfold State.ungate
      split
      · next none => rw [part] at none; cases none
      · next w there =>
        obtain rfl := Option.some.inj (part.symm.trans there)
        exact ⟨_, Tab.get_set_self .., rfl, rfl⟩
    · exact ⟨v, part, rfl, rfl⟩

/-- The grid as the new state leaves it, before the partition has that state. -/
def State.settleGrid (s : State) (p : PartId) (v : Part) (n : Nat) (r : Bool) : State :=
  (if n = 2 ∧ r = false ∧ v.power ≠ 2 then s.loseGrid p else s).gateFor p v.power n

theorem KeepsChannels.settleGrid (s : State) (p : PartId) (v : Part) (n : Nat) (r : Bool) : KeepsChannels s (s.settleGrid p v n r) := by
  unfold State.settleGrid
  split
  · exact (loseGrid ..).trans (gateFor ..)
  · exact gateFor ..

/-- The partition is still there; with the grid's power its configurations and its program go (R346). -/
theorem State.part_settleGrid (part : s.part p = some v) (n : Nat) (r : Bool) :
    ∃ w, (s.settleGrid p v n r).part p = some w ∧
      (n = 2 → r = false → v.power ≠ 2 → w.configs = [] ∧ w.running = none) := by
  unfold State.settleGrid
  split
  · obtain ⟨w, there, configs, running⟩ := State.part_loseGrid part
    obtain ⟨x, found, sameConfigs, sameRunning⟩ := State.part_gateFor there v.power n
    exact ⟨x, found, fun _ _ _ => ⟨sameConfigs.trans configs, sameRunning.trans running⟩⟩
  · next stays =>
    obtain ⟨x, found, -, -⟩ := State.part_gateFor part v.power n
    exact ⟨x, found, fun low lost up => absurd ⟨low, lost, up⟩ stays⟩

theorem exec_powerStateChanged_ends {t : Nat} {o : Op} {n : Nat} {r : Bool} (part : s.part p = some v)
    (move : s.powerOp p = some (o, n, r)) (ready : n ≤ v.power ∨ v.hasProgram = false ∨ (v.quiesced = true ∧ n < 2)) :
    exec (.powerStateChanged t p) s = .next (((((s.tick t).settleGrid p v n r).modPart p fun x =>
      { setPower x n with quiesced := x.heldByTurn && x.quiesced }).raiseS o.ep o.session Ev.powerStateChanged
        [BitVec.ofNat 8 n]).endOp o.id) := by
  have part : (s.tick t).part p = some v := part
  have move : (s.tick t).powerOp p = some (o, n, r) := move
  show execPowerStateChanged t p s = _
  simp only [execPowerStateChanged, part, move]
  exact if_pos (by simpa [or_assoc] using ready)

end

/-! ### POLICY_SET's range and PWR_READ's figures (R53, R348) -/

/-- A command that passed its early checks has its parameters in range. -/
theorem State.paramsOk_of_early {s : State} {c : Ctx} {b : Body} (early : s.early c b = none) : paramsOk b = true := by
  by_contra range
  have range : paramsOk b = false := by simpa using range
  unfold State.early at early
  simp only [range, Bool.not_false, Bool.true_or, if_true] at early
  split at early
  · cases early
  · split at early
    · cases early
    · split at early <;> cases early

theorem opPwrRead_figures {s : State} {c : Ctx} {p : PartId} (part : c.part? s = some p) :
    runOp c .pwrRead s = Res.ok s (be 4 (s.wattsOf (s.partQuads p)) ++ be 2 (s.meter.watts / 500) ++
      be 1 (Config.utilisation s.meter.sec % 101) ++ be 1 (if s.serviceDue then 1 else 0)) := by
  simp only [runOp, opPwrRead, part]

/-- Settles O27: values turn at once, the figures are read, and a change of state runs to its event. -/
theorem powerCommandsComplete : Obligations.PowerCommandsComplete := by
  intro s t h k q p v
  refine ⟨fun n r ready kwPart part => ⟨fun busy unforced => ?busy, fun free => ?state⟩, fun w ready kwPart calm => ?cap,
    fun d r n ready kwPart calm => ?policy, fun ready kwPart => ?read, fun o n r part move reached => ?changed⟩
  case busy =>
    exact replies_of_runOp (r := Res.fail _ _) rfl ready nofun
      (opPwrState_busy (c := ctxAt s t h (.pwrState n r) (.kw k) q) kwPart part busy unforced) rfl
      (show St.busy ≠ St.internalError by decide)
  case state =>
    obtain ⟨u, o, w, run, mem, ep, session, kind, there, power, drains, hbm⟩ :=
      opPwrState_accepted (c := ctxAt s t h (.pwrState n r) (.kw k) q) (r := r) kwPart part free
    exact ⟨u, o, w, replies_of_runOp rfl ready nofun run rfl (show St.accepted ≠ St.internalError by decide), mem, ep, session, kind,
      there, power, drains, hbm.trans (arrived_hbm ..)⟩
  case cap =>
    obtain ⟨u, run, value, hbm⟩ := calm_opPwrCap (c := ctxAt s t h (.pwrCap w) (.kw k) q) calm rfl kwPart w
    exact ⟨u, replies_ok rfl ready nofun run, value, hbm.trans (arrived_hbm ..)⟩
  case policy =>
    obtain ⟨u, run, divider, rotation, period, hbm⟩ :=
      calm_opPolicySet (c := ctxAt s t h (.policySet d r n) (.kw k) q) calm rfl kwPart (State.paramsOk_of_early ready.checked)
    exact ⟨u, replies_ok rfl ready nofun run, divider, rotation, period, hbm.trans (arrived_hbm ..)⟩
  case read => exact replies_ok rfl ready nofun (opPwrRead_figures (c := ctxAt s t h .pwrRead (.kw k) q) kwPart)
  case changed =>
    obtain ⟨x, there, held⟩ := State.part_settleGrid (s := s.tick t) part n r
    have kept := KeepsChannels.settleGrid (s.tick t) p v n r
    refine ⟨_, { setPower x n with quiesced := x.heldByTurn && x.quiesced }, exec_powerStateChanged_ends part move reached, ?_, rfl,
      State.op?_endOp .., ?_, held, ?_⟩
    · rw [State.part, State.endOp_parts, (EventsOnly.raiseS ..).parts]
      show ((((s.tick t).settleGrid p v n r)).modPart p _).part p = _
      rw [State.part_modPart, if_pos rfl, there]
      rfl
    · have channels := kept.trans (KeepsChannels.modPart _ p fun y => { setPower y n with quiesced := y.heldByTurn && y.quiesced })
      exact told_raiseS (channels.session ..) channels.clk _ _
    · simp [State.settleGrid, hbm_ite]

end Sys2Proof.Machine
end

section
/-! SUPPORT. Cells and their queues: what enters a queue, what a send, a receive and an arrival change (R79, R99 to R107, R117). -/

namespace Sys2Proof.Machine

open Sys2Proof.Safety

namespace CellState

variable (k : CellState) (q x : Fin 4) (ms : List Msg)

theorem queue_setQueue_self : (k.setQueue q ms).queue q = ms := Tab.get_set_self ..

theorem queue_setQueue_ne (h : x ≠ q) : (k.setQueue q ms).queue x = k.queue x := Tab.get_set_ne _ _ _ h

end CellState

theorem EventsOnly.cells {s t : State} (h : EventsOnly s t) : t.cells = s.cells := by rw [h]
theorem EventsOnly.mesh {s t : State} (h : EventsOnly s t) : t.mesh = s.mesh := by rw [h]

namespace State

variable (s : State) (p : PartId) (x d : CellId) (q : Fin 4) (m : Msg)

theorem cell_modCell_self (f : CellState → CellState) : (s.modCell x f).cell x = f (s.cell x) := by rw [cell_modCell, if_pos rfl]

theorem cell_modCell_ne (f : CellState → CellState) (h : d ≠ x) : (s.modCell x f).cell d = s.cell d := by rw [cell_modCell, if_neg h]

theorem cell_modPart (f : Part → Part) : (s.modPart p f).cell d = s.cell d := by rw [cell, cell, modPart_cells]

/-! ### The end of a blocked instruction (R101, R107) -/

/-- CELL cycles for which a cell's instruction was blocked. -/
def lostCycles : Nat := if (s.cell x).blocked = none then 0 else s.cycleOn x.chip - (s.cell x).blockedAt

theorem lostCycles_free (free : (s.cell x).blocked = none) : s.lostCycles x = 0 := if_pos free

theorem lostCycles_blocked {b : Blocked} (blocked : (s.cell x).blocked = some b) :
    s.lostCycles x = s.cycleOn x.chip - (s.cell x).blockedAt := if_neg (by rw [blocked]; nofun)

theorem slipBy_none : s.slipBy p x 0 = s := if_pos (.inl rfl)

theorem slipBy_tagged (lost : Nat) (tagged : s.partSet p 0x0203#16 ≠ 0) : s.slipBy p x lost = s := if_pos (.inr tagged)

theorem slipBy_cell_ne (lost : Nat) (h : d ≠ x) : (s.slipBy p x lost).cell d = s.cell d := by
  unfold slipBy
  split
  · rfl
  · rw [cell_modPart, cell_modCell_ne _ _ _ _ h]

theorem slipBy_cell (lost : Nat) :
    (s.slipBy p x lost).cell x =
      { s.cell x with slip := (s.cell x).slip + if s.partSet p 0x0203#16 = 0 then lost else 0 } := by
  unfold slipBy
  split
  · next none =>
    rcases none with none | tagged
    · simp [none]
    · simp [tagged]
  · next slips =>
    rw [cell_modPart, cell_modCell_self, if_pos (by omega)]

theorem slipBy_mesh (lost : Nat) : (s.slipBy p x lost).mesh = s.mesh := by
  unfold slipBy
  split
  · rfl
  · exact modPart_mesh ..

theorem slipBy_waitIn (lost : Nat) : (s.slipBy p x lost).waitIn = s.waitIn := by
  unfold slipBy
  split
  · rfl
  · exact modPart_waitIn ..

theorem blockCell_cell (b : Blocked) :
    (s.blockCell x b).cell x = { s.cell x with
      blocked := some b, blockedAt := if (s.cell x).blocked = none then s.cycleOn x.chip else (s.cell x).blockedAt } :=
  cell_modCell_self ..

theorem unblockCell_cell :
    (s.unblockCell p x).cell x =
      { s.cell x with blocked := none, slip := (s.cell x).slip + if s.partSet p 0x0203#16 = 0 then s.lostCycles x else 0 } := by
  unfold unblockCell
  rw [slipBy_cell, cell_modCell_self]
  rfl

theorem unblockCell_cell_ne (h : d ≠ x) : (s.unblockCell p x).cell d = s.cell d := by
  unfold unblockCell
  rw [slipBy_cell_ne _ _ _ _ _ h, cell_modCell_ne _ _ _ _ h]

theorem unblockCell_mesh : (s.unblockCell p x).mesh = s.mesh := slipBy_mesh ..

theorem unblockCell_waitIn : (s.unblockCell p x).waitIn = s.waitIn := slipBy_waitIn ..

/-- No schedule slips where the instruction was not blocked, nor in a TAGGED partition. -/
theorem unblockCell_parts (h : (s.cell x).blocked = none ∨ s.partSet p 0x0203#16 ≠ 0) : (s.unblockCell p x).parts = s.parts := by
  show (State.slipBy _ p x (s.lostCycles x)).parts = s.parts
  rcases h with free | tagged
  · rw [lostCycles_free _ _ free, slipBy_none]
    rfl
  · refine (congrArg State.parts (slipBy_tagged _ p x _ ?_)).trans rfl
    exact tagged

/-! ### An input queue takes messages (R79, R101, R117) -/

theorem enqueue_chip (short : (s.cell x).extended.contains q = false) :
    s.enqueue x q m = s.modCell x fun c => c.setQueue q (c.queue q ++ [m]) := by
  unfold enqueue
  exact if_neg (by rw [short]; nofun)

theorem enqueue_backlog (extended : (s.cell x).extended.contains q = true) :
    s.enqueue x q m = (s.modCell x fun c => { c with backlog := Tab.set c.backlog q (((s.cell x).behind q).push m) }).sawBacklog x
      (((s.cell x).behind q).push m) := by
  unfold enqueue
  exact if_pos extended

theorem sawBacklog_cell (b : Backlog) : (s.sawBacklog x b).cell d = s.cell d := by
  unfold sawBacklog
  split
  · exact cell_modPart ..
  · rfl

theorem sawBacklog_mesh (b : Backlog) : (s.sawBacklog x b).mesh = s.mesh := by
  unfold sawBacklog
  split
  · exact modPart_mesh ..
  · rfl

end State

/-- Messages have entered queue q of cell x, on the chip or in its backlog; the other queues, the other cells and the mesh are as they
were. -/
structure QueueFed (x : CellId) (q : Fin 4) (s t : State) : Prop where
  fed : ∃ new, (t.cell x).queue q = (s.cell x).queue q ++ new
  others : ∀ y, y ≠ q → (t.cell x).queue y = (s.cell x).queue y
  blocked : (t.cell x).blocked = (s.cell x).blocked
  slip : (t.cell x).slip = (s.cell x).slip
  cells : ∀ d, d ≠ x → t.cell d = s.cell d
  mesh : t.mesh = s.mesh

namespace QueueFed

variable {x : CellId} {q : Fin 4} {s t u : State}

theorem refl (s : State) : QueueFed x q s s := ⟨⟨[], by simp⟩, fun _ _ => rfl, rfl, rfl, fun _ _ => rfl, rfl⟩

theorem trans (h : QueueFed x q s t) (g : QueueFed x q t u) : QueueFed x q s u := by
  obtain ⟨new, fed⟩ := h.fed
  obtain ⟨more, fed'⟩ := g.fed
  exact ⟨⟨new ++ more, by rw [fed', fed, List.append_assoc]⟩, fun y other => (g.others y other).trans (h.others y other),
    g.blocked.trans h.blocked, g.slip.trans h.slip, fun d apart => (g.cells d apart).trans (h.cells d apart), g.mesh.trans h.mesh⟩

theorem enqueue (s : State) (x : CellId) (q : Fin 4) (m : Msg) : QueueFed x q s (s.enqueue x q m) := by
  cases extended : (s.cell x).extended.contains q
  case false =>
    rw [State.enqueue_chip _ _ _ _ extended]
    refine ⟨⟨[m], ?_⟩, fun y other => ?_, ?_, ?_, fun d apart => State.cell_modCell_ne _ _ _ _ apart, rfl⟩
    · rw [State.cell_modCell_self, CellState.queue_setQueue_self]
    · rw [State.cell_modCell_self, CellState.queue_setQueue_ne _ _ _ _ other]
    · rw [State.cell_modCell_self]
      rfl
    · rw [State.cell_modCell_self]
      rfl
  case true =>
    rw [State.enqueue_backlog _ _ _ _ extended]
    refine ⟨⟨[], ?_⟩, fun y other => ?_, ?_, ?_, fun d apart => ?_, State.sawBacklog_mesh ..⟩
    · rw [State.sawBacklog_cell, State.cell_modCell_self, List.append_nil]
      rfl
    · rw [State.sawBacklog_cell, State.cell_modCell_self]
      rfl
    · rw [State.sawBacklog_cell, State.cell_modCell_self]
    · rw [State.sawBacklog_cell, State.cell_modCell_self]
    · rw [State.sawBacklog_cell, State.cell_modCell_ne _ _ _ _ apart]

theorem settleIn (s : State) (x : CellId) (q : Fin 4) (f : Nat) : QueueFed x q s (s.settleIn x q f) := by
  induction f generalizing s with
  | zero => exact refl s
  | succ f ih =>
    unfold State.settleIn
    split
    · exact refl s
    · next e _ =>
      split
      · have entered := enqueue { s with waitIn := s.waitIn.erase e } x q e.2.2
        exact QueueFed.trans ⟨entered.fed, entered.others, entered.blocked, entered.slip, entered.cells, entered.mesh⟩ (ih _)
      · exact refl s

end QueueFed

/-- Where nothing waits for a queue, nothing enters it. -/
theorem State.enterWaiting_idle {s : State} {x : CellId} {q : Fin 4} (idle : ∀ e ∈ s.waitIn, (e.1, e.2.1) ≠ (x, q)) :
    s.enterWaiting x q = s := by
  have none : (s.waitIn.find? fun e => e.1 = x && e.2.1 = q) = none :=
    List.find?_eq_none.2 fun e mem => by simpa using idle e mem
  unfold State.enterWaiting
  cases s.waitIn.length with
  | zero => rfl
  | succ f => rw [State.settleIn, none]

/-! ### A receive (R101) -/

section

variable {s u : State} {p : PartId} {c : CellId} {q : Fin 4} {v : Part} {g : CellCfg} {m : Msg} {d : CellId} {dq : Fin 4}

/-- A receive has taken the head of queue q of a cell, which runs on; what waited for the room has entered. -/
structure Received (s u : State) (p : PartId) (c : CellId) (q : Fin 4) (lost : Nat) : Prop where
  taken : ∃ new, (u.cell c).queue q = ((s.cell c).queue q).tail ++ new ∧ ((∀ e ∈ s.waitIn, (e.1, e.2.1) ≠ (c, q)) → new = [])
  free : (u.cell c).blocked = none
  slip : s.partSet p 0x0203#16 = 0 → (u.cell c).slip = (s.cell c).slip + lost
  others : ∀ x, x ≠ q → (u.cell c).queue x = (s.cell c).queue x
  cells : ∀ d, d ≠ c → u.cell d = s.cell d
  mesh : u.mesh = s.mesh
  hbm : u.hbm = s.hbm

theorem State.takeHead_received (s : State) (p : PartId) (c : CellId) (q : Fin 4) :
    Received s (s.takeHead p c q) p c q (s.lostCycles c) := by
  let popped := s.modCell c fun k => k.setQueue q (k.queue q).tail
  let runs := popped.unblockCell p c
  have fed : QueueFed c q runs (s.takeHead p c q) := QueueFed.settleIn ..
  have popCell : popped.cell c = (s.cell c).setQueue q ((s.cell c).queue q).tail := State.cell_modCell_self ..
  have lost : popped.lostCycles c = s.lostCycles c := by
    rw [State.lostCycles, State.lostCycles, popCell]
    rfl
  have runCell : runs.cell c = { (s.cell c).setQueue q ((s.cell c).queue q).tail with
      blocked := none, slip := (s.cell c).slip + if s.partSet p 0x0203#16 = 0 then s.lostCycles c else 0 } := by
    rw [State.unblockCell_cell, lost, popCell]
    rfl
  have waits : runs.waitIn = s.waitIn := State.unblockCell_waitIn ..
  have head : (runs.cell c).queue q = ((s.cell c).queue q).tail := by
    rw [runCell]
    exact CellState.queue_setQueue_self ..
  refine ⟨?_, ?_, fun static => ?_, fun x other => ?_, fun d apart => ?_, ?_, by simp [State.takeHead]⟩
  · obtain ⟨new, grown⟩ := fed.fed
    refine ⟨new, by rw [grown, head], fun idle => ?_⟩
    have still : s.takeHead p c q = runs := State.enterWaiting_idle (waits ▸ idle)
    rw [still] at grown
    exact List.self_eq_append_right.1 grown
  · rw [fed.blocked, runCell]
  · rw [fed.slip, runCell]
    simp [static]
  · rw [fed.others x other, runCell]
    exact CellState.queue_setQueue_ne _ _ _ _ other
  · rw [fed.cells d apart, State.unblockCell_cell_ne _ _ _ _ apart, State.cell_modCell_ne _ _ _ _ apart]
  · rw [fed.mesh, State.unblockCell_mesh]
    rfl

theorem exec_cellReceive {t : Nat} {srcs : List (Fin 80 × Fin 64)} (runs : (s.tick t).cellRuns c = some (p, v, g))
    (free : (s.cell c).blocked = none) (bound : insOf g q = some srcs) (source : srcs ≠ [] ∨ g.notifyQ = some q ∨ g.abortQ = some q) :
    exec (.cellReceive t c q) s =
      .next (if (s.cell c).ready q then (s.tick t).takeHead p c q else (s.tick t).blockCell c (.recv q)) := by
  have free : ((s.tick t).cell c).blocked.isSome = false := by
    show (s.cell c).blocked.isSome = false
    rw [free]
    rfl
  have named : (srcs.isEmpty && g.notifyQ ≠ some q && g.abortQ ≠ some q) = false := by
    rcases source with source | source | source <;> simp [source]
  show execCellReceive t c q s = _
  simp only [execCellReceive, runs, free, bound, named]
  exact (apply_ite Host.Outcome.next ..).symm

theorem exec_blockedReceive {t : Nat} (runs : (s.tick t).cellRuns c = some (p, v, g)) (blocked : (s.cell c).blocked = some (.recv q))
    (ready : (s.cell c).ready q = true) : exec (.blockedInstructionComplete t c) s = .next ((s.tick t).takeHead p c q) := by
  have blocked : ((s.tick t).cell c).blocked = some (.recv q) := blocked
  show execBlockedInstructionComplete t c s = _
  simp only [execBlockedInstructionComplete, runs, blocked]
  exact congrArg Host.Outcome.next (if_pos ready)

/-! ### A send (R79, R99, R101) -/

/-- The message of a send, as it leaves its cell now. -/
def State.flight (s : State) (c : CellId) (q : Fin 4) (d : CellId) (dq : Fin 4) (m : Msg) : InFlight :=
  { src := c, srcQ := q, dst := d, dstQ := dq, msg := m, sentAt := s.cycleOn c.chip }

/-- A message has left its cell, which runs on. -/
structure Sent (s u : State) (p : PartId) (c : CellId) (q : Fin 4) (f : InFlight) : Prop where
  mesh : u.mesh = s.mesh ++ [f]
  free : (u.cell c).blocked = none
  empty : (u.cell c).sent q = []
  slip : s.partSet p 0x0203#16 = 0 → (u.cell c).slip = (s.cell c).slip + s.lostCycles c
  parts : (s.cell c).blocked = none ∨ s.partSet p 0x0203#16 ≠ 0 → u.parts = s.parts
  hbm : u.hbm = s.hbm

theorem State.sendTo_sent {x : Fin 80} {r : Fin 64}
    (goes : s.crosses p c { chip := c.chip, c := x, r := r } = true ∨
      s.canTake { chip := c.chip, c := x, r := r } dq m (s.inFlightWords { chip := c.chip, c := x, r := r } dq) = true) :
    Sent s (s.sendTo p c q x r dq m) p c q (s.flight c q { chip := c.chip, c := x, r := r } dq m) := by
  let out := (s.launch c q { chip := c.chip, c := x, r := r } dq m).modCell c fun k => { k with outq := Tab.set k.outq q [] }
  have leaves : s.sendTo p c q x r dq m = out.unblockCell p c := if_pos (by simpa using goes)
  have outCell : out.cell c = { s.cell c with outq := Tab.set (s.cell c).outq q [] } := State.cell_modCell_self ..
  have lost : out.lostCycles c = s.lostCycles c := by
    rw [State.lostCycles, State.lostCycles, outCell]
    rfl
  rw [leaves]
  refine ⟨State.unblockCell_mesh .., ?_, ?_, fun static => ?_, fun h => ?_, State.unblockCell_hbm ..⟩
  · rw [State.unblockCell_cell]
  · rw [State.unblockCell_cell, outCell]
    exact Tab.get_set_self ..
  · have static : out.partSet p 0x0203#16 = 0 := static
    rw [State.unblockCell_cell, lost, outCell, if_pos static]
  · exact State.unblockCell_parts _ _ _ (h.imp (fun free => by rw [outCell]; exact free) id)

theorem State.sendTo_blocks {x : Fin 80} {r : Fin 64} (inside : s.crosses p c { chip := c.chip, c := x, r := r } = false)
    (full : s.canTake { chip := c.chip, c := x, r := r } dq m (s.inFlightWords { chip := c.chip, c := x, r := r } dq) = false) :
    s.sendTo p c q x r dq m = (s.modCell c fun k => { k with outq := Tab.set k.outq q [m] }).blockCell c (.send q) :=
  if_neg (by simp [inside, full])

theorem exec_cellSend {t : Nat} {x : Fin 80} {r : Fin 64} (runs : (s.tick t).cellRuns c = some (p, v, g))
    (bound : outOf g q = some (.cell x r dq)) (kind : m.kind.toNat < 3) (free : (s.cell c).blocked = none) :
    exec (.cellSend t c q m) s = .next ((s.tick t).sendTo p c q x r dq m) := by
  have free : ((s.tick t).cell c).blocked.isSome = false := by
    show (s.cell c).blocked.isSome = false
    rw [free]
    rfl
  have allowed : ¬3 ≤ m.kind.toNat := by omega
  show execCellSend t c q m s = _
  simp only [execCellSend, runs, free, bound, allowed]
  rfl

theorem exec_blockedSend {t : Nat} {x : Fin 80} {r : Fin 64} {ms : List Msg} (runs : (s.tick t).cellRuns c = some (p, v, g))
    (bound : outOf g q = some (.cell x r dq)) (blocked : (s.cell c).blocked = some (.send q)) (held : (s.cell c).sent q = m :: ms) :
    exec (.blockedInstructionComplete t c) s = .next ((s.tick t).sendTo p c q x r dq m) := by
  have blocked : ((s.tick t).cell c).blocked = some (.send q) := blocked
  have held : ((s.tick t).cell c).sent q = m :: ms := held
  show execBlockedInstructionComplete t c s = _
  simp only [execBlockedInstructionComplete, runs, blocked, bound, held]

/-! ### An arrival (R104, R105, R117) -/

/-- The oldest message of an output queue is no longer on its way. -/
def State.offMesh (s : State) (c : CellId) (q : Fin 4) : State :=
  { s with mesh := dropFirst (fun x => decide (x.src = c) && decide (x.srcQ = q)) s.mesh }

theorem exec_messageArrival {t : Nat} {f : InFlight} (owner : s.quadOwner (cellQuad c) = some p)
    (oldest : (s.mesh.find? fun x => decide (x.src = c) && decide (x.srcQ = q)) = some f)
    (due : f.sentAt + meshCycles c f.dst ≤ (s.tick t).cycleOn c.chip) :
    ((s.tick t).crosses p c f.dst = false → (s.tick t).canTake f.dst f.dstQ f.msg 0 = true →
      exec (.messageArrival t c q) s = .next (((s.tick t).offMesh c q).enqueue f.dst f.dstQ f.msg)) ∧
    ((s.tick t).crosses p c f.dst = true → ∃ vc,
      exec (.messageArrival t c q) s = .next (((s.tick t).offMesh c q).wardDrop p 3 vc vc 0)) := by
  have owner : (s.tick t).quadOwner (cellQuad c) = some p := owner
  have oldest : ((s.tick t).mesh.find? fun x => decide (x.src = c) && decide (x.srcQ = q)) = some f := oldest
  have due : ¬(s.tick t).cycleOn c.chip < f.sentAt + meshCycles c f.dst := by omega
  refine ⟨fun inside room => ?_, fun outside => ?_⟩
  · show execMessageArrival t c q s = _
    simp only [execMessageArrival, oldest, owner, due, inside, room]
    rfl
  · refine ⟨(((s.tick t).part p).bind fun v => v.shape.vchip c.chip).getD 0, ?_⟩
    show execMessageArrival t c q s = _
    simp only [execMessageArrival, oldest, owner, due, outside]
    rfl

theorem State.enqueue_extended_log (extended : (s.cell d).extended.contains dq = true) :
    ((s.enqueue d dq m).cell d).queue dq = (s.cell d).queue dq ∧ ((s.enqueue d dq m).cell d).log dq = (s.cell d).log dq ++ [m] := by
  rw [State.enqueue_backlog _ _ _ _ extended, State.sawBacklog_cell, State.cell_modCell_self]
  refine ⟨rfl, ?_⟩
  rw [CellState.log, CellState.behind, Tab.get_set_self]
  rfl

/-- A packet or a message dropped by the ward is counted against its partition (R51). -/
theorem State.wardDrop_counted (part : s.part p = some v) (check vc vd : Nat) (at_ : Addr) :
    ∃ w, (s.wardDrop p check vc vd at_).part p = some w ∧ w.fabric = bump32 v.fabric 1 1 ∧
      EventsOnly (s.setPart p (some w)) (s.wardDrop p check vc vd at_) := by
  refine ⟨{ v with fabric := bump32 v.fabric 1 1, perDropSeen := v.perDropSeen || !v.perGap }, ?_, rfl, ?_⟩
  all_goals
    simp only [State.wardDrop, part]
    split
  · exact State.part_setPart_self ..
  · rw [State.part, (EventsOnly.raisePart ..).parts]
    exact State.part_setPart_self ..
  · exact EventsOnly.refl _
  · exact EventsOnly.raisePart ..

end

/-- Settles O34: sends and receives go by `sendTo` and `takeHead`, arrivals by `enqueue` and the ward's drop. -/
theorem cellMessagesComplete : Obligations.CellMessagesComplete := by
  intro s t c p
  refine ⟨fun v g runs => ⟨fun q m dc dr dq bound => ⟨fun kind free goes => ?sent, fun kind free inside full => ?blocks,
    fun ms blocked held goes => ?goesOn⟩, fun q srcs bound source => ⟨fun free ready => ?taken, fun free ready => ?waits⟩,
    fun q blocked ready => ?receivesOn⟩, fun q f owner oldest due => ⟨fun inside room => ?arrives, fun v part outside => ?dropped⟩⟩
  case sent =>
    have sent := State.sendTo_sent (q := q) goes
    exact ⟨_, exec_cellSend runs bound kind free, sent.mesh, sent.free, sent.empty, sent.hbm, sent.parts (.inl free)⟩
  case blocks =>
    refine ⟨_, (exec_cellSend runs bound kind free).trans (congrArg Host.Outcome.next (State.sendTo_blocks inside full)), rfl, ?_⟩
    rw [State.blockCell_cell, State.cell_modCell_self]
    exact ⟨rfl, Tab.get_set_self .., if_pos free, rfl, rfl, rfl⟩
  case goesOn =>
    have sent := State.sendTo_sent (q := q) goes
    exact ⟨_, exec_blockedSend runs bound blocked held, sent.mesh, sent.free, fun tagged => sent.parts (.inr tagged),
      fun static => (sent.slip static).trans (congrArg _ (State.lostCycles_blocked _ _ blocked)), sent.hbm⟩
  case taken =>
    have got := State.takeHead_received (s.tick t) p c q
    obtain ⟨new, taken, idle⟩ := got.taken
    exact ⟨_, new, (exec_cellReceive runs free bound source).trans (congrArg Host.Outcome.next (if_pos ready)), taken, idle,
      got.free, got.others, got.cells, got.mesh, got.hbm⟩
  case waits =>
    refine ⟨(s.tick t).blockCell c (.recv q), (exec_cellReceive runs free bound source).trans (by rw [ready]; rfl), ?_⟩
    rw [State.blockCell_cell]
    exact ⟨rfl, if_pos free, rfl, rfl, rfl, rfl⟩
  case receivesOn =>
    have got := State.takeHead_received (s.tick t) p c q
    obtain ⟨new, taken, idle⟩ := got.taken
    exact ⟨_, new, exec_blockedReceive runs blocked ready, taken, idle, got.free,
      fun static => (got.slip static).trans (congrArg _ (State.lostCycles_blocked _ _ blocked)), got.others, got.cells, got.mesh, got.hbm⟩
  case arrives =>
    have fed := QueueFed.enqueue ((s.tick t).offMesh c q) f.dst f.dstQ f.msg
    refine ⟨_, (exec_messageArrival owner oldest due).1 inside room, fed.mesh, fun short => ?_,
      fun extended => State.enqueue_extended_log (s := (s.tick t).offMesh c q) extended, fed.cells, State.enqueue_hbm ..⟩
    rw [State.enqueue_chip ((s.tick t).offMesh c q) _ _ _ short, State.cell_modCell_self]
    exact ⟨CellState.queue_setQueue_self .., rfl⟩
  case dropped =>
    obtain ⟨vc, run⟩ := (exec_messageArrival owner oldest due).2 outside
    obtain ⟨w, there, counted, events⟩ := State.wardDrop_counted (s := (s.tick t).offMesh c q) part 3 vc vc 0
    exact ⟨_, w, run, events.mesh, events.cells, there, counted, events.hbm⟩

end Sys2Proof.Machine
end

section
/-! SUPPORT. Packets of the fabric: sends, receipts, the forward stage and the switches (R48, R51, R142 to R164). -/

namespace Sys2Proof.Machine

open Sys2Proof.Safety

/-! ### Receive sides -/

theorem Link.heard_stage (k : Link) (sy : List Nat) (bad : Bool) : (k.heard sy bad).stage = k.stage := by
  unfold Link.heard
  split <;> rfl

theorem Link.heard_prioNext (k : Link) (sy : List Nat) (bad : Bool) : (k.heard sy bad).prioNext = k.prioNext := by
  unfold Link.heard
  split <;> rfl

theorem Link.endTest_uncTimes (k : Link) (now hold : Nat) : (k.endTest now hold).uncTimes = k.uncTimes := by
  unfold Link.endTest
  split <;> rfl

theorem Link.endTest_uncAt (k : Link) (now hold : Nat) : (k.endTest now hold).uncAt = k.uncAt := by
  unfold Link.endTest
  split <;> rfl

/-- The newest of the last sixteen events is the one now. -/
theorem Link.uncEvent_last (k : Link) (rack osc : Nat) : (k.uncEvent rack osc).uncTimes.getLast? = some rack := by
  have kept : k.uncTimes.length + 1 - 16 ≤ k.uncTimes.length := by omega
  rw [Link.uncEvent, List.drop_append_of_le_length kept, List.getLast?_concat]

namespace State

variable (s : State)

theorem link_modLink_self (l : LinkId) (f : Link → Link) : (s.modLink l f).link l = f (s.link l) := by rw [link_modLink, if_pos rfl]

theorem link_of_links {s t : State} (h : t.links = s.links) (l : LinkId) : t.link l = s.link l := by rw [link, link, h]

/-- What a change of both receive sides of a link leaves alone. -/
theorem link_modSides_keeps {β : Type} (g : Link → β) {f : Link → Link} (kept : ∀ k, g (f k) = g k) (l m : LinkId) :
    g ((s.modSides l f).link m) = g (s.link m) := by
  have near : ∀ (s : State) (l : LinkId), g ((s.modLink l f).link m) = g (s.link m) := by
    intro s l
    rw [link_modLink]
    split
    · next same => rw [kept, same]
    · rfl
  unfold modSides modFar
  split
  · exact (near _ _).trans (near _ _)
  · exact near s l

theorem modSides_landings (l : LinkId) (f : Link → Link) : (s.modSides l f).landings = s.landings := by
  unfold modSides modFar
  split <;> rfl

theorem swPort_modSwPort_self (sw : SwId) (q : Fin 32) (f : Link → Link) : (s.modSwPort sw q f).swPort sw q = f (s.swPort sw q) := by
  simp only [swPort, modSwPort, swt_modSw, if_true, Tab.get_set_self]

theorem swPort_emit (o : Out) (sw : SwId) (q : Fin 32) : (s.emit o).swPort sw q = s.swPort sw q := rfl

theorem swPort_heard_prioNext (sw : SwId) (p q : Fin 32) (sy : List Nat) (bad : Bool) :
    ((s.modSwPort sw p fun k => k.heard sy bad).swPort sw q).prioNext = (s.swPort sw q).prioNext := by
  simp only [swPort, modSwPort, swt_modSw, if_true, Tab.get_set]
  split
  · next same => rw [Link.heard_prioNext, same]
  · rfl

theorem carries_modLink {f : Link → Link} (service : ∀ k, (f k).inService = k.inService)
    (quarantined : ∀ k, (f k).quarantined = k.quarantined) (l m : LinkId) : (s.modLink l f).carries m = s.carries m := by
  have kept : ((s.modLink l f).link m).inService = (s.link m).inService ∧
      ((s.modLink l f).link m).quarantined = (s.link m).quarantined := by
    rw [link_modLink]
    split
    · next same => exact ⟨by rw [service, same], by rw [quarantined, same]⟩
    · exact ⟨rfl, rfl⟩
  rw [carries, carries, kept.1, kept.2]
  rfl

theorem carries_modSwPort (sw : SwId) (p : Fin 32) (f : Link → Link) (l : LinkId) : (s.modSwPort sw p f).carries l = s.carries l := by
  have up : ∀ i, ((s.modSwPort sw p f).swt i).up = (s.swt i).up := by
    intro i
    rw [modSwPort, swt_modSw]
    split
    · next same => rw [same]
    · rfl
  rw [carries, carries, up]
  rfl

/-! ### Slot misses (R159, R160) -/

variable {s} {o : PartId} {v : Part}

theorem slotMiss_counted (part : s.part o = some v) : ∃ w, (s.slotMiss o).part o = some w ∧ w.fabric = bump32 v.fabric 0 1 :=
  ⟨{ v with fabric := bump32 v.fabric 0 1, perMisses := if v.perGap then v.perMisses else v.perMisses + 1 },
    by rw [slotMiss, part_modPart, if_pos rfl, part]; rfl, rfl⟩

theorem missOf_counted {k : NetPkt} (part : s.part o = some v) (type : k.type ≠ .null) :
    ∃ w, (s.missOf k (some o)).part o = some w ∧ w.fabric = bump32 v.fabric 0 1 := by
  have missed : s.missOf k (some o) = s.slotMiss o := by
    cases named : k.type with
    | null => exact absurd named type
    | _ => simp only [missOf, named]
  rw [missed]
  exact slotMiss_counted part

theorem missOf_links (k : NetPkt) (owner : Option PartId) : (s.missOf k owner).links = s.links := by
  unfold missOf slotMiss
  split
  · rfl
  · exact modPart_links ..
  · rfl

theorem missOf_landings (k : NetPkt) (owner : Option PartId) : (s.missOf k owner).landings = s.landings := by
  unfold missOf slotMiss
  split
  · rfl
  · exact modPart_landings ..
  · rfl

/-! ### A landing that notifies (R158) leaves links as they are -/

variable (s) (x : CellId) (q : Fin 4) (m : Msg)

theorem enqueue_links : (s.enqueue x q m).links = s.links := by
  unfold enqueue
  extract_lets c b
  split
  · unfold sawBacklog
    split
    · exact modPart_links ..
    · rfl
  · rfl

theorem settleIn_links (f : Nat) : (s.settleIn x q f).links = s.links := by
  induction f generalizing s with
  | zero => rfl
  | succ f ih =>
    unfold settleIn
    split
    · rfl
    · split
      · exact (ih _).trans (enqueue_links ..)
      · rfl

theorem notify_links (p : PartId) (n : ChipId) (tag : BitVec 16) (imm : BitVec 25) : (s.notify p n tag imm).links = s.links := by
  unfold notify
  split
  · exact settleIn_links ..
  · rfl

variable {s}

/-- A packet that is no collective's leaves links and memory as they are where it has landed. -/
theorem landing_frame {p : PartId} {k : NetPkt} (streams : ∀ x ∈ s.landings, x.leg.isSome = true → sentSlot k ∉ x.left) :
    (s.landing p k).links = s.links ∧ (s.landing p k).hbm = s.hbm := by
  unfold landing
  extract_lets mine
  split
  · exact ⟨rfl, rfl⟩
  · next y found =>
    extract_lets left rest s1
    have named : sentSlot k ∈ y.left := by
      have := List.find?_some found
      simp only [mine, Bool.and_eq_true, List.contains_iff_mem] at this
      exact this.2
    have plain : y.leg = none := by
      by_contra some
      exact streams y (List.mem_of_find?_eq_some found) (Option.isSome_iff_ne_none.2 some) named
    rw [plain]
    split
    · exact ⟨notify_links .., notify_hbm ..⟩
    · exact ⟨rfl, rfl⟩

/-- The ward lets a packet in whose address lies in its partition's tenant memory on this chip (R48). -/
theorem ingress_lands {k : NetPkt} {q : QuadId} (owner : Option PartId) (part : s.part k.dpart = some v)
    (quad : v.shape.quad? (addrVq k.raddr) = some q) (here : quadChip q = k.dchip)
    (room : addrOff k.raddr + k.payload.length ≤ s.tenantLimit k.dpart) (opened : s.quadShut q = false) :
    s.ingress owner k = (s.twrite k.dpart k.raddr k.payload, true) := by
  have target : ((s.part k.dpart).bind fun v => (v.shape.quad? (addrVq k.raddr)).filter fun q =>
      quadChip q = k.dchip && decide (addrOff k.raddr + k.payload.length ≤ s.tenantLimit k.dpart)) = some q := by
    rw [part, Option.bind_some, quad]
    simp [here, room]
  unfold ingress
  extract_lets found
  have found : found = some q := target
  rw [found]
  simp only [opened]
  rfl

end State

/-! ### Sends and receipts (R157 to R159) -/

section

variable {s : State} {t : Nat} {l : LinkId} {k : NetPkt} {crc : BitVec 32} {sy : List Nat}

theorem exec_fabricSend {c : CellId} {p : PartId} {v : Part} {g : CellCfg} {q : Fin 4} {m : Msg}
    (runs : (s.tick t).cellRuns c = some (p, v, g)) (free : (s.cell c).blocked = none) (bound : outOf g q = some .fabric)
    (kind : m.kind = 2) (words : m.data.length = 3) (sound : (descriptor p c m (s.cell c).swapped).lengthOk = true) :
    exec (.fabricSend t c q m) s =
      .next (State.flushSends { s.tick t with sends := s.sends ++ [descriptor p c m (s.cell c).swapped] } c.chip) := by
  have free : ((s.tick t).cell c).blocked.isSome = false := by
    show (s.cell c).blocked.isSome = false
    rw [free]
    rfl
  have sound : (descriptor p c m ((s.tick t).cell c).swapped).lengthOk = true := sound
  show execFabricSend t c q m s = _
  simp only [execFabricSend, runs, free, bound, kind, words, sound]
  rfl

/-- The receive side of a link once its packet is counted. -/
def State.hears (s : State) (l : LinkId) (sy : List Nat) (bad : Bool) : State := s.modLink l fun k => k.heard sy bad

theorem State.hears_link (s : State) (l : LinkId) (sy : List Nat) (bad : Bool) : (s.hears l sy bad).link l = (s.link l).heard sy bad :=
  State.link_modLink_self ..

theorem State.leaveStage_empty {at_ : LinkId} (empty : (s.link at_).stage = none) : s.leaveStage at_ = s := by
  unfold State.leaveStage
  rw [empty]

section

variable (up : s.chipUp l.chip = true) (service : (s.link l).inService = true) (empty : (s.link l).stage = none)

include up service empty

theorem exec_received_bad (bad : uncorrectable sy = true ∨ crcGood k crc = false) :
    exec (.fabricPacketReceived t l.chip l.port k.toNetHdr k.payload crc sy) s =
      .next ((((((s.tick t).hears l sy true).modLink l fun x => x.uncEvent (s.tick t).rackNs (s.tick t).osc).endTests l)).missOf k
        ((s.tick t).slotOwner ((s.tick t).senderOf l).1 ((s.tick t).senderOf l).2)) := by
  have up : ((s.tick t).chipUp l.chip && ((s.tick t).link l).inService) = true := by
    show (s.chipUp l.chip && (s.link l).inService) = true
    rw [up, service]
    rfl
  have bad : (uncorrectable sy || !crcGood k crc) = true := by simpa using bad
  show execFabricPacketReceived t l.chip l.port k.toNetHdr k.payload crc sy s = _
  simp only [execFabricPacketReceived, up, State.leaveStage_empty (s := s.tick t) empty, bad, if_true]
  rfl

/-- A good packet for another chip waits in the forward stage (R151). -/
theorem exec_received_stages (good : uncorrectable sy = false) (crcOk : crcGood k crc = true) (net : (s.tick t).netOff l.chip = false)
    (type : k.type = .data ∨ k.type = .vault ∨ k.type = .host) (other : k.dchip ≠ l.chip) :
    exec (.fabricPacketReceived t l.chip l.port k.toNetHdr k.payload crc sy) s =
      .next (((s.tick t).hears l sy false).modLink l fun x => { x with stage := some (k, absSlot (s.tick t).osc + 1) }) := by
  have up : ((s.tick t).chipUp l.chip && ((s.tick t).link l).inService) = true := by
    show (s.chipUp l.chip && (s.link l).inService) = true
    rw [up, service]
    rfl
  have good : (uncorrectable sy || !crcGood k crc) = false := by simp [good, crcOk]
  have net : (((s.tick t).modLink l fun x => x.heard sy false).netOff l.chip) = false := net
  show execFabricPacketReceived t l.chip l.port k.toNetHdr k.payload crc sy s = _
  simp only [execFabricPacketReceived, up, State.leaveStage_empty (s := s.tick t) empty, good, net, if_true, Bool.false_eq_true, if_false]
  rcases type with type | type | type
  all_goals
    simp only [type]
    exact if_pos other

/-- A good packet at its destination meets the ward there (R148). -/
theorem exec_received_here (good : uncorrectable sy = false) (crcOk : crcGood k crc = true) (net : (s.tick t).netOff l.chip = false)
    (type : k.type = .data) (tenant : k.fw = false) (here : k.dchip = l.chip) :
    exec (.fabricPacketReceived t l.chip l.port k.toNetHdr k.payload crc sy) s =
      (let r := ((s.tick t).hears l sy false).ingress ((s.tick t).slotOwner ((s.tick t).senderOf l).1 ((s.tick t).senderOf l).2) k
       .next (if r.2 then r.1.landing k.dpart k else r.1)) := by
  have up : ((s.tick t).chipUp l.chip && ((s.tick t).link l).inService) = true := by
    show (s.chipUp l.chip && (s.link l).inService) = true
    rw [up, service]
    rfl
  have good : (uncorrectable sy || !crcGood k crc) = false := by simp [good, crcOk]
  have net : (((s.tick t).modLink l fun x => x.heard sy false).netOff l.chip) = false := net
  show execFabricPacketReceived t l.chip l.port k.toNetHdr k.payload crc sy s = _
  simp only [execFabricPacketReceived, up, State.leaveStage_empty (s := s.tick t) empty, good, net, type, here, tenant,
    ne_eq, not_true_eq_false, if_true, Bool.false_eq_true, if_false]
  rfl

end

/-! ### The forward stage (R151) -/

section

variable {at_ h : LinkId} {slot : Nat} (staged : (s.link at_).stage = some (k, slot)) (due : slot ≤ absSlot s.osc)

include staged due

theorem State.leaveStage_leaves (hop : s.nextHop at_ k (slot % 256) = some h) (may : s.mayForward h (slot % 256) k = true)
    (carries : s.carries h = true) :
    s.leaveStage at_ = (s.modLink at_ fun x => { x with stage := none }).emit (.fabric h slot (netWire k)) := by
  have carries : (s.modLink at_ fun x => { x with stage := none }).carries h = true := by
    refine (State.carries_modLink s ?_ ?_ at_ h).trans carries
    all_goals exact fun _ => rfl
  have hop : (s.modLink at_ fun x => { x with stage := none }).nextHop at_ k (slot % 256) = some h := hop
  have may : (s.modLink at_ fun x => { x with stage := none }).mayForward h (slot % 256) k = true := may
  simp only [State.leaveStage, staged, due, hop, may, carries]
  rfl

theorem State.leaveStage_denied (denied : ∀ h, s.nextHop at_ k (slot % 256) = some h → s.mayForward h (slot % 256) k = false) :
    s.leaveStage at_ = (((s.modLink at_ fun x => { x with stage := none }).modPart k.dpart fun v =>
      { v with fabric := bump32 v.fabric 3 1 }).slotMiss k.dpart) := by
  simp only [State.leaveStage, staged, due, if_true]
  split
  · next h hop =>
    have may : (s.modLink at_ fun x => { x with stage := none }).mayForward h (slot % 256) k = false := denied h hop
    simp only [may]
    rfl
  · rfl

end

/-! ### The switches (R152, R155, R164) -/

section

variable {sw : SwId} {port q : Fin 32} {owner : Option PartId}

theorem State.switchOut_next (carries : s.carries (switchPortLink sw q) = true) (type : k.type ≠ .prio0) :
    s.switchOut sw q k owner = s.emit (.switchOut sw q (absSlot s.osc + 1) (netWire k)) := by
  simp only [State.switchOut, carries, type]
  rfl

theorem State.switchOut_prio0 (carries : s.carries (switchPortLink sw q) = true) (type : k.type = .prio0) :
    let slot := mgmtFrom (max (absSlot s.osc + 1) (s.swPort sw q).prioNext)
    s.switchOut sw q k owner = (s.modSwPort sw q fun x => { x with prioNext := slot + 1 }).emit (.switchOut sw q slot (netWire k)) := by
  simp only [State.switchOut, carries, type]
  rfl

/-- The switch port's receive side once its packet is counted. -/
def State.swHears (s : State) (sw : SwId) (port : Fin 32) (sy : List Nat) : State := s.modSwPort sw port fun x => x.heard sy false

theorem State.swHears_carries : (s.swHears sw port sy).carries l = s.carries l := State.carries_modSwPort ..

variable (up : (s.swt sw).up = true) (good : uncorrectable sy = false) (crcOk : crcGood k crc = true)

include up good crcOk

theorem exec_switchForward_relayed (type : k.type = .host ∨ k.type = .vault ∨ k.type = .prio0)
    (way : (portTo sw k.dchip <|> portTo sw (relayChip k.dchip)) = some q) :
    exec (.switchForward t sw port k crc sy) s = .next (((s.tick t).swHears sw port sy).switchOut sw q k
      ((s.tick t).slotOwner (switchPortLink sw port) ((slotAt (s.tick t).osc + 243) % 256))) := by
  have up : ((s.tick t).swt sw).up = true := up
  have good : (uncorrectable sy || !crcGood k crc) = false := by simp [good, crcOk]
  show execSwitchForward t sw port k crc sy s = _
  simp only [execSwitchForward, up, good, way]
  rcases type with type | type | type
  all_goals
    simp only [type]
    rfl

theorem exec_switchForward_tenant (type : k.type = .data) :
    let owner := (s.tick t).slotOwner (switchPortLink sw port) ((slotAt (s.tick t).osc + 243) % 256)
    let vc := fun n => (s.part (owner.getD k.dpart)).bind fun v => v.shape.vchip n
    exec (.switchForward t sw port k crc sy) s = .next
      (match (vc k.dchip).bind fun _ => portTo sw k.dchip with
       | some q => ((s.tick t).swHears sw port sy).switchOut sw q k owner
       | none => ((s.tick t).swHears sw port sy).wardDrop (owner.getD k.dpart) 4 ((vc k.schip).getD 0) ((vc k.dchip).getD 0xFFFF)
           k.raddr) := by
  intro owner vc
  have up : ((s.tick t).swt sw).up = true := up
  have good : (uncorrectable sy || !crcGood k crc) = false := by simp [good, crcOk]
  show execSwitchForward t sw port k crc sy s = _
  simp only [execSwitchForward, up, good, type]
  show (match (vc k.dchip).bind fun _ => portTo sw k.dchip with
    | some q => _
    | none => _) = _
  split <;> rfl

end

end

/-- Settles O39: each packet by its lemma: send, receipt, stage and switch. -/
theorem fabricPacketsComplete : Obligations.FabricPacketsComplete := by
  intro s t
  refine ⟨fun c p v g q m runs free bound kind words sound => exec_fabricSend runs free bound kind words sound,
    fun l k crc sy up service empty => ⟨fun bad => ?bad, fun good crcOk net => ⟨fun type other => ?stages,
      fun v q type tenant here part quad local_ room opened streams => ?lands⟩⟩,
    fun at_ k slot staged due => ⟨fun l hop may carries => ?leaves, fun v part denied => ?denied⟩,
    fun sw port k crc sy up good crcOk => ⟨fun q type way carries => ?relayed, fun q type way carries => ?prio0,
      fun v q type part mine way carries => ?tenant, fun v type part astray => ?ward⟩⟩
  case bad =>
    refine ⟨_, exec_received_bad up service empty bad, ?_, ?_, fun o v type owner part => ?_, ?_, ?_⟩
    · rw [State.link_of_links (State.missOf_links ..), State.endTests,
        State.link_modSides_keeps _ Link.uncTimes fun x => Link.endTest_uncTimes .., State.link_modLink_self]
      exact Link.uncEvent_last ..
    · rw [State.link_of_links (State.missOf_links ..), State.endTests,
        State.link_modSides_keeps _ Link.uncAt fun x => Link.endTest_uncAt .., State.link_modLink_self]
      rfl
    · rw [owner]
      refine State.missOf_counted ?_ type
      rw [State.part, State.endTests, State.modSides_parts]
      exact part
    · simp [State.hears]
    · rw [State.missOf_landings, State.endTests, State.modSides_landings]
      rfl
  case stages =>
    refine ⟨_, exec_received_stages up service empty good crcOk net type other, ?_, ?_, rfl, rfl⟩
    · rw [State.link_modLink_self]
    · rw [State.link_modLink_self, State.hears_link]
      rfl
  case lands =>
    have lands := State.ingress_lands (s := (s.tick t).hears l sy false)
      ((s.tick t).slotOwner ((s.tick t).senderOf l).1 ((s.tick t).senderOf l).2) part quad (local_.trans here.symm) room opened
    obtain ⟨links, hbm⟩ := State.landing_frame (s := ((s.tick t).hears l sy false).twrite k.dpart k.raddr k.payload)
      (p := k.dpart) streams
    refine ⟨(((s.tick t).hears l sy false).twrite k.dpart k.raddr k.payload).landing k.dpart k,
      (exec_received_here up service empty good crcOk net type tenant here).trans (by simp only [lands, if_true]), ?_, ?_⟩
    · rw [State.link_of_links links]
      exact congrArg Link.counts (State.hears_link ..)
    · rw [hbm]
      have at_ : ((s.tick t).hears l sy false).phys k.dpart k.raddr = hbmAddr q (addrOff k.raddr) := by
        show s.phys k.dpart k.raddr = _
        simp only [State.phys, part, quad]
      rw [← at_]
      rfl
  case leaves =>
    refine ⟨_, congrArg Host.Outcome.next (State.leaveStage_leaves (s := s.tick t) staged due hop may carries), rfl, ?_, rfl, rfl⟩
    exact congrArg Link.stage (State.link_modLink_self (s.tick t) at_ fun x => { x with stage := none })
  case denied =>
    have counted : (((s.tick t).modLink at_ fun x => { x with stage := none }).modPart k.dpart fun v =>
        { v with fabric := bump32 v.fabric 3 1 }).part k.dpart = some { v with fabric := bump32 v.fabric 3 1 } := by
      rw [State.part_modPart, if_pos rfl]
      exact congrArg (Option.map _) part
    obtain ⟨w, there, missed⟩ := State.slotMiss_counted counted
    refine ⟨_, w, congrArg Host.Outcome.next (State.leaveStage_denied (s := s.tick t) staged due denied), ?_, ?_, there, missed, ?_⟩
    · simp [State.slotMiss]
    · rw [State.link_of_links (s := (s.tick t).modLink at_ fun x => { x with stage := none }) (by simp [State.slotMiss]),
        State.link_modLink_self]
    · simp [State.slotMiss]
  case relayed =>
    have notPrio : k.type ≠ .prio0 := by rcases type with type | type <;> simp [type]
    refine ⟨_, exec_switchForward_relayed up good crcOk (by tauto) way, ?_⟩
    rw [State.switchOut_next (State.swHears_carries.trans carries) notPrio]
    exact ⟨rfl, rfl, rfl⟩
  case prio0 =>
    have next : ((State.swHears (s.tick t) sw port sy).swPort sw q).prioNext = (s.swPort sw q).prioNext :=
      State.swPort_heard_prioNext ..
    refine ⟨_, exec_switchForward_relayed up good crcOk (.inr (.inr type)) way, ?_⟩
    rw [State.switchOut_prio0 (State.swHears_carries.trans carries) type, next]
    refine ⟨rfl, ?_, rfl, rfl⟩
    rw [State.swPort_emit, State.swPort_modSwPort_self]
    rfl
  case tenant =>
    obtain ⟨vd, found⟩ := Option.isSome_iff_exists.1 mine
    refine ⟨_, exec_switchForward_tenant up good crcOk type, ?_⟩
    simp only [part, Option.bind_some, found, way]
    rw [State.switchOut_next (State.swHears_carries.trans carries) (by simp [type])]
    exact ⟨rfl, rfl, rfl⟩
  case ward =>
    have nowhere : ((v.shape.vchip k.dchip).bind fun _ => portTo sw k.dchip) = none := by
      rcases astray with astray | astray
      · rw [astray]
        rfl
      · rw [astray]
        cases v.shape.vchip k.dchip <;> rfl
    obtain ⟨w, there, counted, events⟩ := State.wardDrop_counted (s := (s.tick t).swHears sw port sy) part 4
      ((v.shape.vchip k.schip).getD 0) ((v.shape.vchip k.dchip).getD 0xFFFF) k.raddr
    refine ⟨_, w, (exec_switchForward_tenant up good crcOk type).trans ?_, there, counted, events.hbm⟩
    simp only [part, Option.bind_some, nowhere]

end Sys2Proof.Machine
end

section
/-! SUPPORT. A step of the queue, and a command from its place in the sequence to its reply (R58 to R65). -/

namespace Sys2Proof.Machine

open Sys2Proof.Safety

/-- Settles O1: a step takes the front of the queue by its definition. -/
theorem stepRunsFrontCommand : Obligations.StepRunsFrontCommand := by
  refine ⟨fun c rest s front => ?_, fun s empty => ?_⟩
  · simp only [step, front]
  · simp only [step, empty]

/-- Settles O2: a command whose checks pass is answered as its handler answers. -/
theorem commandRunsAndIsAnswered : Obligations.CommandRunsAndIsAnswered := by
  intro i s t h b e q packet ready r run now sound lookup
  exact replies_of_runOp packet ready lookup run now sound

end Sys2Proof.Machine
end

section
/-! SUPPORT. A command out of its sequence: held, refused, or answered from the cache (R59, R60). -/

namespace Sys2Proof.Machine

open Sys2Proof.Safety

/-- An admitted command of an open session finds its place in the session's sequence. -/
theorem exec_sequenced {i : Instr} {s : State} {t : Nat} {h : Hdr} {b : Body} {e : Ep} {q : Session}
    (packet : packetOf i = some (t, h, b)) (admitted : (s.tick t).letIn h = (s.tick t, some e)) (header : headerOk e h = true)
    (numbered : h.session ≠ 0) (session : (s.tick t).bearing? e h.session.toNat = some q) :
    exec i s = .next
      (((s.tick t).heard e q.ref h).sequence e { q with lastCmd := (s.tick t).osc, lastVia := h.via } h b) := by
  rw [exec_packet s packet, receive, admitted]
  simp only [State.handle, header, Bool.not_true, Bool.false_eq_true, if_false, numbered, session]

section

variable {a : State} {e : Ep} {q : Session} {h : Hdr} (b : Body)

theorem State.sequence_held (ahead : 1 ≤ (h.seq - q.next).toNat) (near : (h.seq - q.next).toNat ≤ 63)
    (new : ∀ x ∈ q.held, x.hdr.seq ≠ h.seq) :
    a.sequence e q h b = a.modSession e q.ref fun q =>
      { q with held := q.held ++ [{ hdr := h, body := b, since := a.osc, arrived := a.rackNs }] } := by
  have fresh : (q.held.any fun x => x.hdr.seq = h.seq) = false := by simpa using new
  rw [State.sequence, if_neg (by omega), if_pos near, fresh]
  rfl

theorem State.sequence_gap (far : 64 ≤ (h.seq - q.next).toNat) (ahead : (h.seq - q.next).toNat < 2 ^ 31) :
    a.sequence e q h b = a.reply h (opcodeOf b) St.seqGap (a.hdrEpoch h) (be 4 q.next.toNat) := by
  rw [State.sequence, if_neg (by omega), if_neg (by omega), if_pos ahead]

theorem State.sequence_stale (behind : 2 ^ 31 ≤ (h.seq - q.next).toNat) (old : (h.seq - q.next).toNat < 2 ^ 32 - 256) :
    a.sequence e q h b = a.reply h (opcodeOf b) St.staleSeq (a.hdrEpoch h) [] := by
  rw [State.sequence, if_neg (by omega), if_neg (by omega), if_neg (by omega), if_pos old]

theorem State.sequence_cached {r : CachedReply} {st : Nat} (recent : 2 ^ 32 - 256 ≤ (h.seq - q.next).toNat)
    (cached : (q.replies.find? fun r => r.seq = h.seq) = some r) (answered : r.status = some st) :
    a.sequence e q h b = a.resend h r st := by
  rw [State.sequence, if_neg (by omega), if_neg (by omega), if_neg (by omega), if_neg (by omega)]
  simp only [cached, answered]

end

/-- Settles O4: the distance from E decides between the ranges of R59 and R60. -/
theorem sequenceOutOfTurn : Obligations.SequenceOutOfTurn := by
  intro i s t h b e q packet admitted header numbered session a d
  have place := exec_sequenced packet admitted header numbered session
  refine ⟨fun ahead near new => ?_, fun far ahead => ?_, fun behind old => ?_, fun r st recent cached answered => ?_⟩
  · exact place.trans (congrArg _ (State.sequence_held b ahead near new))
  · exact place.trans (congrArg _ (State.sequence_gap b far ahead))
  · exact place.trans (congrArg _ (State.sequence_stale b behind old))
  · exact place.trans (congrArg _ (State.sequence_cached b recent cached answered))

end Sys2Proof.Machine
end

section
/-! SUPPORT. Fills, copies and transfers as they are accepted (R71, R77, R372, R373). -/

namespace Sys2Proof.Machine

open Sys2Proof.Safety

section

variable {i : Instr} {s : State} {t : Nat} {h : Hdr} {b : Body} {e : Ep} {q : Session}

/-- A command whose handler opens an operation is answered ACCEPTED. -/
theorem replies_accepted {u : State} (packet : packetOf i = some (t, h, b)) (ready : Ready s t h b e q)
    (lookup : ∀ a n m, b ≠ .krLookup a n m)
    (run : runOp (ctxAt s t h b e q) b (arrived s t h b e q.ref) = Res.accepted u) : Replies i s t h b e q u St.accepted [] :=
  replies_of_runOp packet ready lookup run rfl (show St.accepted ≠ St.internalError by decide)

end

section

variable {c : Ctx} {s : State} {k : KwId} {p : PartId} {x : XferArgs} {z : Qp}

theorem runOp_memFill_accepted {addr len pat} (owns : c.part? s = some p) :
    runOp c (.memFill addr len pat) s = Res.accepted (s.addOp c.ep c.session c.h.seq c.epoch (.fill p addr len.toNat pat)) := by
  simp only [runOp, opMemFill, owns]

theorem runOp_memCopy_accepted {src dst len} (owns : c.part? s = some p) :
    runOp c (.memCopy src dst len) s = Res.accepted (s.addOp c.ep c.session c.h.seq c.epoch (.copy p src dst len.toNat)) := by
  simp only [runOp, opMemCopy, owns]

/-- The state in which a transfer of a queue pair is accepted: an idle pair's ACK timeout runs from now (R373). -/
def State.xferStarted (s : State) (e : Ep) (k : KwId) (qpn : BitVec 24) : State :=
  if (s.qpXfers e qpn).isEmpty then s.startAckTimer k qpn else s

/-- A transfer of a working queue pair is accepted (R373). -/
theorem startXfer_accepted (kw : c.kw? = some k) (owns : c.part? s = some p) (pair : (s.kw k).qp? x.qpn = some z)
    (works : z.error = false) (kind : PartId → OpKind) :
    startXfer c x kind s = Res.accepted ((s.xferStarted c.ep k x.qpn).addOp c.ep c.session c.h.seq c.epoch (kind p)) := by
  simp only [startXfer, kw, owns, pair, works, Bool.false_eq_true, if_false, State.xferStarted]

section

variable (kw : c.kw? = some k) (owns : c.part? s = some p) (pair : (s.kw k).qp? x.qpn = some z) (works : z.error = false)
include kw owns pair works

theorem runOp_xferOut_accepted :
    runOp c (.xferOut x) s = Res.accepted
      ((s.xferStarted c.ep k x.qpn).addOp c.ep c.session c.h.seq c.epoch (.xferOut p x)) :=
  startXfer_accepted kw owns pair works _

/-- An XFER_IN asks the host for its bytes while fewer than sixteen READs of its pair are outstanding (R77). -/
theorem runOp_xferIn_requested (room : (s.qpReads c.ep x.qpn).length < 16) :
    runOp c (.xferIn x) s = Res.accepted
      (((s.xferStarted c.ep k x.qpn).addOp c.ep c.session c.h.seq c.epoch (.xferIn p x)).emit
        (.rdmaRead z.gid z.hostQpn x.remoteVa x.remoteRkey x.len.toNat)) := by
  simp only [runOp, opXferIn, startXfer_accepted kw owns pair works, kw, pair]
  exact if_pos ⟨rfl, room⟩

theorem runOp_xferIn_waits (full : 16 ≤ (s.qpReads c.ep x.qpn).length) :
    runOp c (.xferIn x) s = Res.accepted
      ((s.xferStarted c.ep k x.qpn).addOp c.ep c.session c.h.seq c.epoch (.xferIn p x)) := by
  simp only [runOp, opXferIn, startXfer_accepted kw owns pair works, kw, pair]
  exact if_neg fun room => absurd room.2 (Nat.not_lt.2 full)

end

end

/-- Settles O9: each handler opens its operation, a transfer's after its pair's ACK timeout. -/
theorem transfersAreAccepted : Obligations.TransfersAreAccepted := by
  intro s t h k q p
  refine ⟨fun addr len pat ready owns => ?_, fun src dst len ready owns => ?_, fun x z ready owns pair works => ?_,
    fun x z ready owns pair works => ⟨fun room => ?_, fun full => ?_⟩⟩
  · exact replies_accepted rfl ready nofun (runOp_memFill_accepted owns)
  · exact replies_accepted rfl ready nofun (runOp_memCopy_accepted owns)
  · exact replies_accepted rfl ready nofun (runOp_xferOut_accepted rfl owns pair works)
  · exact replies_accepted rfl ready nofun (runOp_xferIn_requested rfl owns pair works room)
  · exact replies_accepted rfl ready nofun (runOp_xferIn_waits rfl owns pair works full)

end Sys2Proof.Machine
end

section
/-! SUPPORT. The handlers that load, stop and report a partition's programs (R71, R106, R113, R154, R355). -/

namespace Sys2Proof.Machine

open Sys2Proof.Safety

/-! ### Configurations by number (R106) -/

namespace Part

variable (v : Part) (c : Configuration)

theorem config?_setConfig_self : (v.setConfig c).config? c.num = some c := by
  have gone : (v.configs.filter fun x => x.num ≠ c.num).find? (fun x => x.num = c.num) = none := by
    simp [List.find?_eq_none]
  simp only [setConfig, config?, List.find?_append, gone, Option.none_or, List.find?_cons, decide_true]

theorem config?_setConfig_ne {m : Nat} (other : m ≠ c.num) : (v.setConfig c).config? m = v.config? m := by
  simp only [setConfig, config?, List.find?_append, List.find?_filter]
  have same : (fun x : Configuration => decide (decide (x.num ≠ c.num) = true ∧ decide (x.num = m) = true)) =
      fun x => decide (x.num = m) := by
    funext x
    by_cases here : x.num = m <;> simp [here, other]
  have apart : [c].find? (fun x => x.num = m) = none := by simp [Ne.symm other]
  rw [same, apart, Option.or_none]

end Part

theorem State.modPart_eq {s : State} {p : PartId} {v : Part} (part : s.part p = some v) (f : Part → Part) :
    s.modPart p f = s.setPart p (some (f v)) := by
  rw [State.modPart, part]

/-- The configuration PROG_LOAD lists, its calendar as it was (R106). -/
def Part.loadedConfig (v : Part) (n : Nat) (img : ProgramImage) : Configuration :=
  { num := n, prog := some img, cal := (v.config? n).bind Configuration.cal }

/-- The configuration CAL_LOAD lists, its program as it was (R154). -/
def Part.calendarConfig (v : Part) (n : Nat) (cal : Calendar) : Configuration :=
  { num := n, prog := (v.config? n).bind Configuration.prog, cal := some cal }

/-! ### The handlers -/

section

variable {c : Ctx} {s : State} {p : PartId} {v : Part} {n : BitVec 16} {img : ProgramImage} {addr : Addr} {len : BitVec 64}
  (owns : c.part? s = some p)
include owns

theorem runOp_progLoad_staged (part : s.part p = some v) (named : n ≠ 0xFFFF#16) (intact : img.intact = true)
    (formats : img.formats.all formatOk = true) (fits : img.cells.all cellFits = true)
    (mode : img.mode.toNat = s.partSet p 0x0203#16) (cut : Config.cuts.contains img.cut = true) :
    runOp c (.progLoad n addr len img) s = Res.ok
      (s.setPart p (some { v.setConfig (v.loadedConfig n.toNat img) with staged := some n.toNat })) := by
  simp only [runOp, opProgLoad, owns, if_neg named, intact, formats, fits, mode, cut, State.modPart_eq part, ne_eq,
    not_true_eq_false, Bool.not_true, Bool.or_self, Bool.false_eq_true, if_false]
  rfl

theorem runOp_progLoad_invalid (named : n ≠ 0xFFFF#16)
    (bad : img.intact = false ∨ img.formats.all formatOk = false ∨ img.cells.all cellFits = false) :
    runOp c (.progLoad n addr len img) s = Res.fail s St.programInvalid := by
  have refused : (!img.intact || !img.formats.all formatOk || !img.cells.all cellFits) = true := by
    obtain bad | bad | bad := bad <;> simp [bad]
  simp only [runOp, opProgLoad, owns, if_neg named, refused, if_true]

theorem runOp_calLoad_kept (part : s.part p = some v) (named : n ≠ 0xFFFF#16) :
    runOp c (.calLoad n addr len) s = Res.ok
      (s.setPart p (some (v.setConfig (v.calendarConfig n.toNat (parseCalendar (s.tread p addr len.toNat)))))) := by
  simp only [runOp, opCalLoad, owns, if_neg named, State.modPart_eq part]
  rfl

theorem runOp_progStop_idle (part : s.part p = some v) (idle : v.prog = .idle) {d} :
    runOp c (.progStop d) s = Res.ok s := by
  simp only [runOp, opProgStop, owns, part, idle]

/-- A stop of a running program, drained or at once, opens its operation (R71, R355). -/
theorem runOp_progStop_running (part : s.part p = some v) (running : v.prog = .running) (d : BitVec 8) :
    runOp c (.progStop d) s = Res.accepted
      ((s.addOp c.ep c.session c.h.seq c.epoch (.progStop p)).setPart p (some (setProg v
        (if d = 1 then .draining s.osc (some s.nextOp) else .stopping St.ok (some s.nextOp))))) := by
  have opened : (s.addOp c.ep c.session c.h.seq c.epoch (.progStop p)).part p = some v := part
  simp only [runOp, opProgStop, owns, part, running, State.modPart_eq opened]
  split <;> rfl

theorem runOp_progStatus (part : s.part p = some v) :
    runOp c .progStatus s = Res.ok s (be 2 ((v.running.map Configuration.num).getD 0xFFFF) ++ be 2 (v.staged.getD 0xFFFF) ++
      be 8 v.hinges ++ be 4 v.spills) := by
  simp only [runOp, opProgStatus, owns, Option.bind_some, part]

end

theorem progLoad_named {s : State} {c : Ctx} {n : BitVec 16} {addr : Addr} {len : BitVec 64} {img : ProgramImage}
    (early : s.early c (.progLoad n addr len img) = none) : n ≠ 0xFFFF#16 := by
  simpa [paramsOk] using State.paramsOk_of_early early

theorem calLoad_named {s : State} {c : Ctx} {n : BitVec 16} {addr : Addr} {len : BitVec 64}
    (early : s.early c (.calLoad n addr len) = none) : n ≠ 0xFFFF#16 := by
  simpa [paramsOk] using State.paramsOk_of_early early

/-- Settles O13: each handler's answer, and what is listed under each number after it. -/
theorem programCommandsComplete : Obligations.ProgramCommandsComplete := by
  intro s t h k q p v
  refine ⟨fun n addr len img ready owns part intact formats fits mode cut => ?load, fun n addr len img ready owns bad => ?invalid,
    fun n addr len ready owns part => ?calendar, fun d ready owns part => ⟨fun idle => ?idle, fun running drain => ?drain,
    fun running now => ?stop⟩, fun ready owns part => ?status⟩
  case load =>
    have named := progLoad_named ready.checked
    exact ⟨_, replies_ok rfl ready nofun (runOp_progLoad_staged owns part named intact formats fits mode cut), rfl,
      v.config?_setConfig_self (v.loadedConfig n.toNat img), fun m other => v.config?_setConfig_ne _ other, rfl, rfl, rfl⟩
  case invalid =>
    exact replies_of_runOp rfl ready nofun (runOp_progLoad_invalid owns (progLoad_named ready.checked) bad) rfl
      (show St.programInvalid ≠ St.internalError by decide)
  case calendar =>
    have named := calLoad_named ready.checked
    exact ⟨_, replies_ok rfl ready nofun (runOp_calLoad_kept owns part named), v.config?_setConfig_self (v.calendarConfig ..),
      fun m other => v.config?_setConfig_ne _ other, rfl, rfl⟩
  case idle => exact replies_ok rfl ready nofun (runOp_progStop_idle (c := ctxAt s t h (.progStop d) (.kw k) q) owns part idle)
  case drain =>
    have run := runOp_progStop_running (c := ctxAt s t h (.progStop d) (.kw k) q) owns part running d
    rw [if_pos drain] at run
    exact replies_accepted rfl ready nofun run
  case stop =>
    have run := runOp_progStop_running (c := ctxAt s t h (.progStop d) (.kw k) q) owns part running d
    rw [if_neg (by rw [now]; decide)] at run
    exact replies_accepted rfl ready nofun run
  case status => exact replies_ok rfl ready nofun (runOp_progStatus owns part)

end Sys2Proof.Machine
end

section
/-! SUPPORT. The handlers of the diagnostics group (R84, R169, R327, R370, R375). -/

namespace Sys2Proof.Machine

open Sys2Proof.Safety

section

variable {c : Ctx} {s : State} {cls : BitVec 16} {k : KwId}

theorem runOp_diagCounters_keyway (kw : c.kw? = some k) (keyway : cls = 0x0009#16 ∨ cls = 0x000B#16) :
    runOp c (.diagCounters cls 0) s = Res.ok s (counterBody ((s.kw k).counters cls.toNat)) := by
  obtain rfl | rfl := keyway <;> simp [runOp, opDiagCounters, kw, classPart, classKw]

theorem runOp_diagCounters_partition {p : PartId} {v : Part} (kw : c.kw? = some k) (owns : s.kwPart k = some p)
    (part : s.part p = some v) (ofPart : cls = 0x0006#16 ∨ cls = 0x0007#16 ∨ cls = 0x000A#16 ∨ cls = 0x000C#16) :
    runOp c (.diagCounters cls 0) s = Res.ok s (counterBody (v.counters cls.toNat)) := by
  obtain rfl | rfl | rfl | rfl := ofPart <;> simp [runOp, opDiagCounters, kw, owns, part, classPart, classKw]

/-- The ECC class of a keyway's partition notes what its stacks have corrected, and returns their counts (R84; log 133). -/
theorem runOp_diagCounters_partEcc {p : PartId} {v : Part} (ep : c.ep = .kw k) (owns : s.kwPart k = some p) (part : s.part p = some v) :
    runOp c (.diagCounters 5 0) s = Res.ok (s.correctedAll (stacksOf v.shape.quads))
      (counterBody ((s.correctedAll (stacksOf v.shape.quads)).partEcc v)) := by
  have kw : c.kw? = some k := by simp only [Ctx.kw?, ep]
  simp [runOp, opDiagCounters, ep, kw, owns, part, classKw]

theorem runOp_diagCounters_chip {unit : BitVec 16} (ep : c.ep = .op) (every : c.h.keyway = 0xFF#8) (chip : cls = 5 ∨ cls = 8) :
    runOp c (.diagCounters cls unit) s = s.chipCounters cls.toNat unit.toNat := by
  obtain rfl | rfl := chip <;> simp [runOp, opDiagCounters, ep, every]

section

variable {unit : Nat} {n : ChipId} (named : unit = n.val) (serves : s.chipLocked n = false) (calm : s.resettingChip n = false)
include named serves calm

theorem State.chipCounters_links : s.chipCounters 8 unit = Res.ok s (counterBody (s.linkValues n)) := by
  subst named
  simp [chipCounters, serves, calm]

theorem State.chipCounters_ecc :
    s.chipCounters 5 unit = Res.ok (s.correctedAll (stacksOf (chipQuads n)))
      (counterBody ((List.finRange 8).flatMap ((s.correctedAll (stacksOf (chipQuads n))).eccOf n))) := by
  subst named
  simp [chipCounters, serves, calm]

end

/-- DIAG_EVENTS_READ reads the history of the keyway named, or the operator's where none is (R375). -/
theorem runOp_diagEventsRead {x : BitVec 32} {n : BitVec 16} (counted : n ≠ 0) :
    let o : Ep := (c.kw?.map Ep.kw).getD .op
    runOp c (.diagEventsRead x n) s =
      Res.ok s (takeFitting 8192 ((((s.endp o).eventsFrom x).take n.toNat).map fun y => y.bytes (epKeyway o))) := by
  cases kw : c.kw? <;> simp only [runOp, opDiagEventsRead, kw, if_neg counted, Option.map_none, Option.map_some, Option.getD_none,
    Option.getD_some]

theorem runOp_diagDumpRead {n : BitVec 16} {off : BitVec 64} {len : BitVec 32} {d : Dump} (kept : s.dump? c n.toNat = some d)
    (inside : off.toNat < d.length) :
    runOp c (.diagDumpRead n off len) s = Res.ok s (field d.bytes off.toNat (min len.toNat (d.length - off.toNat))) := by
  simp only [runOp, opDiagDumpRead, kept]
  exact if_neg (Nat.not_le.2 inside)

end

/-- Settles O31: each class of counters by the unit it belongs to, and the other reads by their handlers. -/
theorem diagnosticsComplete : Obligations.DiagnosticsComplete := by
  intro s t h e q
  refine ⟨fun cls k keyway ready kw => ?keyway, fun cls k p v ofPart ready kw owns part => ?partition,
    fun k p v channel ready owns part => ?partEcc, fun unit n named channel every cls ready serves calm => ⟨?links, ?ecc⟩,
    fun x n ready => ?events, fun bs ready => ?echo, fun n off len d ready kept inside => ?dump⟩
  case keyway => exact replies_ok rfl ready nofun (runOp_diagCounters_keyway kw keyway)
  case partition => exact replies_ok rfl ready nofun (runOp_diagCounters_partition kw owns part ofPart)
  case partEcc =>
    subst channel
    exact replies_ok rfl ready nofun (runOp_diagCounters_partEcc rfl owns part)
  case links =>
    rintro rfl
    exact replies_ok rfl ready nofun
      ((runOp_diagCounters_chip channel every (.inr rfl)).trans (State.chipCounters_links named serves calm))
  case ecc =>
    rintro rfl
    exact replies_ok rfl ready nofun
      ((runOp_diagCounters_chip channel every (.inl rfl)).trans (State.chipCounters_ecc named serves calm))
  case events =>
    have counted : n ≠ 0 := by simpa [paramsOk] using State.paramsOk_of_early ready.checked
    exact replies_ok rfl ready nofun (runOp_diagEventsRead counted)
  case echo => exact replies_ok rfl ready nofun rfl
  case dump => exact replies_ok rfl ready nofun (runOp_diagDumpRead kept inside)

end Sys2Proof.Machine
end

section
/-! SUPPORT. Session 0 and SESSION_OPEN (R58, R65, R70, R71, R339). -/

namespace Sys2Proof.Machine

open Sys2Proof.Safety

/-! ### Events and the sessions that bear a number -/

/-- Of an owner, every number is borne as before but for events queued, and no further number is assigned. -/
structure KeepsBearers (e : Ep) (s t : State) : Prop where
  lastNum : (t.endp e).lastNum = (s.endp e).lastNum
  bears : ∀ n q, s.bearing? e n = some q → ∃ us, t.bearing? e n = some { q with unacked := us }

namespace KeepsBearers

variable {e : Ep} {s t u : State}

theorem of_same (last : (t.endp e).lastNum = (s.endp e).lastNum) (same : ∀ n, t.bearing? e n = s.bearing? e n) : KeepsBearers e s t :=
  ⟨last, fun n q borne => ⟨q.unacked, (same n).trans borne⟩⟩

theorem refl (s : State) : KeepsBearers e s s := of_same rfl fun _ => rfl

theorem trans (h : KeepsBearers e s t) (g : KeepsBearers e t u) : KeepsBearers e s u := by
  refine ⟨g.lastNum.trans h.lastNum, fun n q borne => ?_⟩
  obtain ⟨us, between⟩ := h.bears n q borne
  obtain ⟨vs, after⟩ := g.bears n _ between
  exact ⟨vs, after⟩

theorem foldl {α : Type} (f : State → α → State) (h : ∀ s a, KeepsBearers e s (f s a)) (l : List α) (s : State) :
    KeepsBearers e s (l.foldl f s) :=
  foldl_invariant (KeepsBearers e s) f (fun b a hb => hb.trans (h b a)) l s (refl s)

/-- A change of the sessions of one name that keeps their number is seen where that number is looked up. -/
theorem find_mapNamed {m : SessRef} {f : Session → Session} (numbered : ∀ x, x.ref = m → (f x).num = x.num) {n : Nat} {x : Session}
    {l : List Session} (found : l.find? (fun q => q.num = n) = some x) :
    (l.map fun q => if q.ref = m then f q else q).find? (fun q => q.num = n) = some (if x.ref = m then f x else x) := by
  have same : ((fun q : Session => decide (q.num = n)) ∘ fun q => if q.ref = m then f q else q) = fun q => decide (q.num = n) := by
    funext y
    by_cases here : y.ref = m <;> simp [here, numbered y]
  rw [List.find?_map, same, found, Option.map_some]

/-- A change of one session's unacknowledged events. -/
theorem modSession {m : SessRef} {f : Session → Session}
    (kept : ∀ x, s.session? e m = some x → ∃ us, f x = { x with unacked := us }) (numbered : ∀ x, x.ref = m → (f x).num = x.num) :
    KeepsBearers e s (s.modSession e m f) := by
  refine ⟨by rw [State.modSession, State.endp_modEp_self]; rfl, fun n q borne => ?_⟩
  have found : (s.modSession e m f).bearing? e n = some (if q.ref = m then f q else q) := by
    rw [State.bearing?, State.modSession, State.endp_modEp_self]
    exact find_mapNamed numbered borne
  by_cases here : q.ref = m
  · obtain ⟨us, same⟩ := kept q (here ▸ State.session_of_bearing borne)
    exact ⟨us, by rw [found, if_pos here, same]⟩
  · exact ⟨q.unacked, by rw [found, if_neg here]⟩

theorem enterEvent (s : State) (ev : Event) : KeepsBearers e s (s.enterEvent e ev) := by
  refine of_same ?_ fun n => ?_
  · rw [State.enterEvent, State.endp_modEp_self]
  · rw [State.bearing?, State.enterEvent, State.endp_modEp_self]
    rfl

theorem sendEvent (s : State) (q : Session) (ev : Event) (retry : Bool) : KeepsBearers e s (s.sendEvent e q ev retry) :=
  of_same (by cases e <;> rfl) fun n => by cases e <;> rfl

theorem queue_unacked (q : Session) (u : Unacked) : ∃ us, (q.queue u).1 = { q with unacked := us } := by
  unfold Session.queue
  split <;> exact ⟨_, rfl⟩

theorem deliver (s : State) (n : SessRef) (ev : Event) (keep : Bool) : KeepsBearers e s (s.deliver e n ev keep) := by
  unfold State.deliver
  split
  · exact refl s
  · next q found =>
    have sent := sendEvent (e := e) s q ev false
    split
    · extract_lets s1 u r s2 lost s3
      obtain ⟨us, queued⟩ := queue_unacked q u
      have named : q.ref = n := by simpa using List.find?_some found
      have all : KeepsBearers e s s2 := by
        refine sent.trans (modSession (fun x hx => ⟨us, ?_⟩) fun x hx => ?_)
        · have same : s1.session? e n = s.session? e n := by cases e <;> rfl
          obtain rfl : q = x := Option.some.inj ((found.symm.trans same.symm).trans hx)
          exact queued
        · exact (congrArg Session.num queued).trans (congrArg SessRef.num (named.trans hx.symm))
      split
      · exact all
      · split
        · exact all.trans (enterEvent ..)
        · exact ((all.trans (enterEvent ..)).trans (sendEvent ..)).trans (modSession (fun _ _ => ⟨_, rfl⟩) fun _ _ => rfl)
    · exact sent

/-- A RESET still owed is told to a session that opens (R339). -/
theorem payReset (s : State) (n : SessRef) : KeepsBearers e s (s.payReset e n) := by
  unfold State.payReset
  split
  · have paid : KeepsBearers e s (s.modEp e fun w => { w with resetOwed := false }) :=
      of_same (by rw [State.endp_modEp_self]) fun n => by rw [State.bearing?, State.endp_modEp_self]; rfl
    dsimp only
    split
    · exact paid.trans (foldl _ (fun s _ => deliver ..) _ _)
    · exact paid
  · exact refl s

end KeepsBearers

theorem State.payReset_frame (s : State) (e : Ep) (n : SessRef) : EventsOnly s (s.payReset e n) := by
  unfold State.payReset
  split
  · dsimp only
    split
    · exact (EventsOnly.modEp ..).trans (EventsOnly.foldl _ (fun s _ => EventsOnly.deliver ..) _ _)
    · exact EventsOnly.modEp ..
  · exact EventsOnly.refl s

theorem State.payReset_notOwed {s : State} {e : Ep} (n : SessRef) (settled : (s.endp e).resetOwed = false) : s.payReset e n = s := by
  rw [State.payReset, settled]
  rfl

/-! ### Session 0 (R65) -/

section

variable {i : Instr} {s : State} {t : Nat} {h : Hdr} {b : Body} {e : Ep}

theorem exec_sessionless (packet : packetOf i = some (t, h, b)) (admitted : (s.tick t).letIn h = (s.tick t, some e))
    (header : headerOk e h = true) (zero : h.session = 0) : exec i s = .next ((s.tick t).sessionless e h b) := by
  rw [exec_packet s packet, receive, admitted]
  simp only [State.handle, header, Bool.not_true, Bool.false_eq_true, if_false, zero, if_true]

/-- An opcode marked S runs on session 0 and is answered as its handler answers (R65). -/
theorem exec_zero (packet : packetOf i = some (t, h, b)) (ready : ReadyZero s t h b e) {r : Res}
    (run : runOp (ctxZero s t h e) b (s.tick t) = r) (sound : r.status ≠ St.internalError) :
    exec i s = .next (r.s.reply h (opcodeOf b) r.status ((s.tick t).hdrEpoch h) r.body) := by
  have epoch : ¬((ctxZero s t h e).h.epoch ≠ 0 ∧ (ctxZero s t h e).h.epoch ≠ (ctxZero s t h e).epoch) := fun x => x.1 ready.epoch
  have dumped : dumpFault r = r := if_neg sound
  have marked := ready.marked
  have body : runBody (ctxZero s t h e) b (s.tick t) = r := by
    simp only [runBody, ready.checked, if_neg epoch, ready.available, run, dumped]
    cases b with
    | krLookup a n m => cases marked
    | _ => rfl
  have context : ctxOf (s.tick t) e SessRef.none h (s.tick t).rackNs = ctxZero s t h e := rfl
  rw [exec_sessionless packet ready.admitted ready.header ready.zero, State.sessionless]
  simp only [marked, Bool.not_true, Bool.and_false, Bool.false_eq_true, if_false, context, body]
  rfl

theorem exec_zero_ok (packet : packetOf i = some (t, h, b)) (ready : ReadyZero s t h b e) {u : State} {body : List Byte}
    (run : runOp (ctxZero s t h e) b (s.tick t) = Res.ok u body) :
    exec i s = .next (u.reply h (opcodeOf b) St.ok ((s.tick t).hdrEpoch h) body) :=
  exec_zero packet ready run (show St.ok ≠ St.internalError by decide)

theorem exec_zero_noSession (packet : packetOf i = some (t, h, b)) (admitted : (s.tick t).letIn h = (s.tick t, some e))
    (header : headerOk e h = true) (zero : h.session = 0) (known : opcodeKnown e b = true) (unmarked : isSessionless b = false) :
    exec i s = .next ((s.tick t).reply h (opcodeOf b) St.noSession ((s.tick t).hdrEpoch h) (List.replicate 9 0)) := by
  rw [exec_sessionless packet admitted header zero, State.sessionless]
  simp only [known, unmarked, Bool.not_false, Bool.and_self, if_true]
  rfl

end

/-! ### SESSION_OPEN (R58, R70, R71) -/

/-- The cut a session opens under: the one asked for, by default the keyway's; the operator's have none (R133). -/
def State.openCut (s : State) (e : Ep) (a : OpenArgs) : BitVec 32 :=
  match e with
  | .kw k => if a.cut = 0 then BitVec.ofNat 32 (s.setNum 0x0105#16 (.kw k)) else a.cut
  | .op => 0

/-- The session of this nonce that was opened in the last 10 s (R71). -/
def State.opened? (s : State) (e : Ep) (a : OpenArgs) : Option Session :=
  (s.endp e).sessions.find? fun q => q.nonce = a.nonce && decide (s.osc - q.openedAt ≤ 10000000000)

/-- The owner with a further session under a number (R58). -/
def Keyway.enlist (w : Keyway) (n : Nat) (q : Session) : Keyway :=
  { w with sessions := w.sessions ++ [q], lastNum := n, opened := w.opened + 1, ended := w.ended.filter fun e => e.1 ≠ n }

theorem Keyway.nextNumber_free {w : Keyway} {n : Nat} (next : w.nextNumber = some n) : w.bearing? n = none := by
  simpa using List.find?_some next

theorem Keyway.bearing_enlist {w : Keyway} {n : Nat} {q : Session} (free : w.bearing? n = none) (number : q.num = n) :
    (w.enlist n q).bearing? n = some q := by
  rw [Keyway.bearing?] at free ⊢
  simp [Keyway.enlist, List.find?_append, free, number]

/-- The session that SESSION_OPEN lists under a number (R58). -/
def State.newSession (s : State) (c : Ctx) (a : OpenArgs) (n : Nat) : Session :=
  Session.fresh n (s.endp c.ep).opened a (s.openCut c.ep a) c.h.via s.osc

/-- The state in which a session has opened. -/
def State.withSession (s : State) (e : Ep) (n : Nat) (q : Session) : State := (s.modEp e fun w => w.enlist n q).payReset e q.ref

section

variable {c : Ctx} {s : State} {a : OpenArgs}

theorem runOp_sessionOpen_again {q : Session} (again : s.opened? c.ep a = some q) :
    runOp c (.sessionOpen a) s = Res.ok s (be 2 q.num) := by
  rw [State.opened?] at again
  simp only [runOp, opSessionOpen, again]

/-- A session opens under the next free number, and is told of a RESET still owed (R58, R71, R339). -/
theorem runOp_sessionOpen_opens {n : Nat} (new : s.opened? c.ep a = none)
    (cut : c.ep ≠ .op → cutWellFormed (s.openCut c.ep a) = true ∧ Config.cuts.contains (s.openCut c.ep a) = true)
    (room : (s.endp c.ep).sessions.length < 1024) (next : (s.endp c.ep).nextNumber = some n) :
    runOp c (.sessionOpen a) s = Res.ok (s.withSession c.ep n (s.newSession c a n)) (be 2 n) := by
  have formed : ¬(c.ep ≠ .op ∧ (!cutWellFormed (s.openCut c.ep a)) = true) := fun x => by simpa [(cut x.1).1] using x.2
  have known : ¬(c.ep ≠ .op ∧ (!Config.cuts.contains (s.openCut c.ep a)) = true) := fun x => by
    rw [(cut x.1).2] at x
    exact absurd x.2 (by decide)
  rw [State.opened?] at new
  have run : runOp c (.sessionOpen a) s = opSessionOpen c a s := rfl
  rw [run, opSessionOpen]
  simp only [new, next]
  exact (if_neg formed).trans ((if_neg known).trans (if_neg (Nat.not_le.2 room)))

end

section

variable {s : State} {e : Ep} {n : Nat} {q : Session}

theorem State.withSession_frame : EventsOnly s (s.withSession e n q) :=
  (EventsOnly.modEp ..).trans (State.payReset_frame ..)

theorem State.withSession_borne (free : (s.endp e).bearing? n = none) (number : q.num = n) :
    ∃ us, (s.withSession e n q).bearing? e n = some { q with unacked := us } := by
  refine (KeepsBearers.payReset _ _).bears n q ?_
  rw [State.bearing?, State.endp_modEp_self]
  exact Keyway.bearing_enlist free number

theorem State.withSession_lastNum : ((s.withSession e n q).endp e).lastNum = n := by
  rw [State.withSession, (KeepsBearers.payReset _ _).lastNum, State.endp_modEp_self]
  rfl

/-- Where no RESET is owed, nothing is sent and the sessions that were open stay so (R339). -/
theorem State.withSession_notOwed (settled : (s.endp e).resetOwed = false) :
    s.withSession e n q = s.modEp e fun w => w.enlist n q :=
  State.payReset_notOwed _ (by rw [State.endp_modEp_self]; exact settled)

theorem State.withSession_out (settled : (s.endp e).resetOwed = false) : (s.withSession e n q).out = s.out := by
  rw [State.withSession_notOwed settled, State.modEp_out]

theorem State.withSession_stays (settled : (s.endp e).resetOwed = false) {x : Session} (listed : x ∈ (s.endp e).sessions) :
    x ∈ ((s.withSession e n q).endp e).sessions := by
  rw [State.withSession_notOwed settled, State.endp_modEp_self]
  exact List.mem_append_left _ listed

theorem State.reply_out (s : State) (h : Hdr) (op st : Nat) (epoch : BitVec 32) (body : List Byte) :
    (s.reply h op st epoch body).out = s.out ++ [.packet h.via h.src h.udp h.keyway.toNat false false op h.seq epoch
      h.session.toNat st s.clk.quality.code s.rackNs body] := rfl

theorem State.bearing_reply (s : State) (e : Ep) (n : Nat) (h : Hdr) (op st : Nat) (epoch : BitVec 32) (body : List Byte) :
    (s.reply h op st epoch body).bearing? e n = s.bearing? e n := by cases e <;> rfl

theorem State.endp_reply (s : State) (e : Ep) (h : Hdr) (op st : Nat) (epoch : BitVec 32) (body : List Byte) :
    (s.reply h op st epoch body).endp e = s.endp e := by cases e <;> rfl

end

/-- Settles O5: session 0 by its two cases, SESSION_OPEN by what its handler lists and what a RESET still owed leaves of it. -/
theorem sessionZeroCompletes : Obligations.SessionZeroCompletes := by
  refine ⟨fun i s t h b e packet => ⟨fun ready r run sound => exec_zero packet ready run sound,
    fun admitted header zero known unmarked => exec_zero_noSession packet admitted header zero known unmarked⟩,
    fun s t h a e ready => ?_⟩
  intro b w cut again
  refine ⟨fun q found => ?again, fun n new fit room next => ?opens⟩
  case again =>
    exact exec_zero_ok rfl ready (runOp_sessionOpen_again (c := ctxZero s t h e) (s := s.tick t) found)
  case opens =>
    let q := b.newSession (ctxZero s t h e) a n
    have done : exec (.sessionOpen t h a) s = .next ((b.withSession e n q).reply h 0x0002 St.ok (b.hdrEpoch h) (be 2 n)) :=
      exec_zero_ok rfl ready (runOp_sessionOpen_opens (c := ctxZero s t h e) new fit room next)
    have frame : EventsOnly b (b.withSession e n q) := State.withSession_frame
    obtain ⟨us, borne⟩ := State.withSession_borne (e := e) (q := q) (Keyway.nextNumber_free next) rfl
    refine ⟨_, _, done, (State.bearing_reply ..).trans borne, rfl, rfl, rfl, rfl, rfl, rfl, rfl, rfl, rfl, rfl,
      ?last, frame.hbm, frame.parts, frame.cfg, fun settled => ⟨?out, fun x listed => ?stays⟩⟩
    case last => exact (congrArg Keyway.lastNum (State.endp_reply ..)).trans State.withSession_lastNum
    case out =>
      rw [State.reply_out, State.withSession_out settled, State.rackNs, frame.clk]
      rfl
    case stays =>
      rw [State.endp_reply]
      exact State.withSession_stays settled listed

end Sys2Proof.Machine
end

section
/-! SUPPORT. The timers of a session, and a fenced command that waited (R59, R63, R66, R68, R377). -/

namespace Sys2Proof.Machine

open Sys2Proof.Safety

/-! ### No session opens or closes -/

/-- Every owner has the sessions it had, by their names. -/
structure KeepsNames (s t : State) : Prop where
  names : ∀ e, (t.endp e).sessions.map Session.ref = (s.endp e).sessions.map Session.ref

namespace KeepsNames

variable {s t u : State}

theorem refl (s : State) : KeepsNames s s := ⟨fun _ => rfl⟩

theorem trans (h : KeepsNames s t) (g : KeepsNames t u) : KeepsNames s u := ⟨fun e => (g.names e).trans (h.names e)⟩

theorem foldl {α : Type} (f : State → α → State) (h : ∀ s a, KeepsNames s (f s a)) (l : List α) (s : State) :
    KeepsNames s (l.foldl f s) :=
  foldl_invariant (KeepsNames s) f (fun b a hb => hb.trans (h b a)) l s (refl s)

theorem of_owners (kws : t.kws = s.kws) (opr : t.opr = s.opr) : KeepsNames s t := by
  refine ⟨fun e => ?_⟩
  cases e with
  | op => rw [State.endp, State.endp, opr]
  | kw k => rw [State.endp, State.endp, State.kw, State.kw, kws]

theorem modEp (s : State) (e : Ep) {f : Keyway → Keyway} (kept : ∀ w, (f w).sessions.map Session.ref = w.sessions.map Session.ref) :
    KeepsNames s (s.modEp e f) := by
  refine ⟨fun d => ?_⟩
  by_cases same : d = e
  · rw [same, State.endp_modEp_self, kept]
  · rw [KeepsLatches.endp_modEp_ne same]

theorem modSession (s : State) (e : Ep) {n : SessRef} {f : Session → Session} (named : ∀ x, x.ref = n → (f x).ref = n) :
    KeepsNames s (s.modSession e n f) := by
  refine modEp s e fun w => ?_
  simp only [Keyway.modSession, List.map_map]
  refine List.map_congr_left fun x _ => ?_
  by_cases here : x.ref = n <;> simp [here, named]

theorem emit (s : State) (o : Out) : KeepsNames s (s.emit o) := of_owners rfl rfl

theorem enterEvent (s : State) (e : Ep) (ev : Event) : KeepsNames s (s.enterEvent e ev) := modEp s e fun _ => rfl

theorem deliver (s : State) (e : Ep) (n : SessRef) (ev : Event) (keep : Bool) : KeepsNames s (s.deliver e n ev keep) := by
  unfold State.deliver
  split
  · exact refl s
  · next q found =>
    have named : q.ref = n := by simpa using List.find?_some found
    split
    · extract_lets s1 u r s2 lost s3
      have queued : KeepsNames s s2 :=
        trans (t := s1) (emit ..) (modSession s1 e fun _ _ => (KeepsLatches.queue_ref q u).trans named)
      split
      · exact queued
      · split
        · exact queued.trans (enterEvent ..)
        · exact ((queued.trans (enterEvent ..)).trans (emit ..)).trans (modSession _ e fun _ h => h)
    · exact emit ..

theorem raiseAlso (s : State) (e : Ep) (a : Option SessRef) (c : Nat) (b : List Byte) : KeepsNames s (s.raiseAlso e a c b) := by
  unfold State.raiseAlso
  extract_lets ev targets
  split
  · exact refl s
  · exact (enterEvent s e ev).trans (foldl _ (fun s _ => deliver s ..) _ _)

theorem setQuality (s : State) (q : Quality) : KeepsNames s (s.setQuality q) := by
  unfold State.setQuality
  split
  · exact refl s
  · exact trans (t := { s with clk := { s.clk with quality := q } }) (of_owners rfl rfl) (foldl _ (fun s k => raiseAlso s ..) _ _)

theorem stepTime (s : State) (theta : Int) (cause : Byte) : KeepsNames s (s.stepTime theta cause) := by
  refine trans ?_ (setQuality _ _)
  exact of_owners rfl rfl

theorem stepIfClosed (s : State) : KeepsNames s s.stepIfClosed := by
  unfold State.stepIfClosed
  split
  · exact stepTime ..
  · exact refl s

theorem evictTo (i : Fin 128) (limit n : Nat) (s : State) : KeepsNames s (s.evictTo i limit n) := by
  induction n generalizing s with
  | zero => exact refl s
  | succ n ih =>
    unfold State.evictTo
    split
    · exact refl s
    · split
      · exact refl s
      · exact trans (t := s.dropWarm i _) (of_owners rfl rfl) (ih _)

theorem fitQuota (s : State) (i : Fin 128) : KeepsNames s (s.fitQuota i) := (evictTo i _ _ s).trans (of_owners rfl rfl)

theorem krSweep (s : State) : KeepsNames s s.krSweep := by
  unfold State.krSweep
  extract_lets dead y x
  exact trans (t := x) (of_owners rfl rfl) (foldl _ fitQuota _ _)

theorem endHandle (s : State) (k : KwId) (n : Nat) : KeepsNames s (s.endHandle k n) := by
  unfold State.endHandle
  extract_lets busy
  split
  · exact modEp s (.kw k) fun _ => rfl
  · refine trans (modEp s (.kw k) fun w => ?_) (krSweep _)
    rfl

theorem endHandles (s : State) (k : KwId) (n : SessRef) : KeepsNames s (s.endHandles k n) :=
  foldl _ (fun s _ => endHandle s ..) _ _

end KeepsNames

theorem State.session_none_iff {s : State} {e : Ep} {n : SessRef} :
    s.session? e n = none ↔ n ∉ (s.endp e).sessions.map Session.ref := by
  simp [State.session?, Keyway.session?, List.find?_eq_none]

theorem KeepsNames.session_none {s t : State} (h : KeepsNames s t) {e : Ep} {n : SessRef} (gone : s.session? e n = none) :
    t.session? e n = none := by
  rw [State.session_none_iff, h.names, ← State.session_none_iff]
  exact gone

/-! ### Sessions that close (R66) -/

theorem State.removeSession_session (s : State) (e : Ep) (n : SessRef) : (s.removeSession e n).session? e n = none := by
  rw [State.session?, State.removeSession, State.endp_modEp_self]
  simp [Keyway.session?, List.find?_eq_none]

/-- A session that has closed is found no more (R66). -/
theorem State.closeSession_session (s : State) (e : Ep) (n : SessRef) : (s.closeSession e n).session? e n = none := by
  unfold State.closeSession
  split
  · next gone => exact gone
  · next q found =>
    extract_lets x y
    have removed : y.session? e n = none := State.removeSession_session x e n
    split
    · exact removed
    · next k =>
      extract_lets z z' z''
      have settled : KeepsNames y z'' := by
        refine (KeepsNames.endHandles y k n).trans (KeepsNames.of_owners ?_ ?_) <;> unfold z'' <;> split <;> rfl
      exact (settled.trans (KeepsNames.stepIfClosed z'')).session_none removed

/-! ### Replies to commands that were held (R59) -/

/-- Commands answered one after the other, with the same status and body, change nothing but what has left. -/
theorem State.replies_eq (s : State) (hs : List HeldCmd) (st : Nat) (body : List Byte) :
    hs.foldl (fun s x => s.reply x.hdr (opcodeOf x.body) st (s.hdrEpoch x.hdr) body) s =
      { s with out := s.out ++ hs.map fun x => replyPacket s x.hdr (opcodeOf x.body) st body } := by
  induction hs generalizing s with
  | nil => simp
  | cons x hs ih =>
    have left (f : HeldCmd → Out) : (s.out ++ [f x]) ++ hs.map f = s.out ++ (x :: hs).map f := by
      rw [List.append_assoc, List.singleton_append, List.map_cons]
    rw [List.foldl_cons, ih, ← left fun x => replyPacket s x.hdr (opcodeOf x.body) st body]
    rfl

/-! ### The timers -/

section

variable {s : State} {t : Nat} {e : Ep} {n : BitVec 16} {q : Session} (session : (s.tick t).bearing? e n.toNat = some q)
include session

theorem exec_sessionExpired (idle : q.lastCmd + (s.tick t).idleNs e ≤ (s.tick t).osc) :
    exec (.sessionExpired t e n) s = .next (((s.tick t).raiseS e q.ref Ev.sessionExpired (be 2 q.num)).closeSession e q.ref) := by
  change execSessionExpired t e n s = _
  simp only [execSessionExpired, session, if_pos idle]

/-- Where every held command is due, all are answered SEQ_GAP and none stays held (R59). -/
theorem exec_seqGapHoldExpiry (due : ∀ x ∈ q.held, x.since + 2000000 ≤ (s.tick t).osc) :
    exec (.seqGapHoldExpiry t e n) s = .next
      (({ s.tick t with out := s.out ++ q.held.map fun x => replyPacket (s.tick t) x.hdr (opcodeOf x.body) St.seqGap (be 4 q.next.toNat) } :
        State).modSession e q.ref fun q => { q with held := q.held.filter fun h => !decide (h.since + 2000000 ≤ (s.tick t).osc) }) := by
  have all : q.held.filter (fun x => decide (x.since + 2000000 ≤ (s.tick t).osc)) = q.held := List.filter_eq_self.2 (by simpa using due)
  change execSeqGapHoldExpiry t e n s = _
  simp only [execSeqGapHoldExpiry, session, all, State.replies_eq]
  rfl

theorem exec_eventResend {x : BitVec 32} {v : Unacked} (waits : (q.unacked.find? fun u => u.ev.seq = x) = some v)
    (due : v.lastSend + 10000000 ≤ (s.tick t).osc) :
    exec (.eventResend t e n x) s = .next (((s.tick t).sendEvent e q v.ev true).modSession e q.ref fun q =>
      if v.sends + 1 < 8 then
        { q with unacked := q.unacked.map fun y => if y.ev.seq = x then { y with sends := v.sends + 1, lastSend := (s.tick t).osc } else y }
      else { q with unacked := q.unacked.filter fun y => y.ev.seq ≠ x }) := by
  change execEventResend t e n x s = _
  simp only [execEventResend, session, waits, if_pos due]

end

/-! ### A fenced PING (R63, R377) -/

/-- A PING of an owner passes every check. -/
theorem runBody_ping {s : State} {c : Ctx} (len : c.h.len = 0) (epoch : c.h.epoch = 0) : runBody c .ping s = Res.ok s := by
  have known : opcodeKnown c.ep .ping = true := by cases c.ep <;> rfl
  have rights : s.mayRun c.ep .ping = true := by cases c.ep <;> rfl
  have size : c.h.len = bodyLength .ping := len
  have range : paramsOk .ping = true := rfl
  have channel : channelOk c .ping = true := rfl
  have setting : s.settingRights c.ep .ping = true := rfl
  have early : s.early c .ping = none := by
    simp only [State.early, known, rights, size, range, channel, setting, Bool.not_true, Bool.or_self, Bool.false_eq_true, ne_eq,
      not_true_eq_false, if_false]
    split <;> rfl
  have free : s.unavailable c .ping = none := by
    unfold State.unavailable
    split <;> rfl
  simp only [runBody, early, free, epoch]
  rfl

/-- A PING that waited alone starts once no operation of its session is left, and ends by FENCE_DONE (R63, R377). -/
theorem State.startAll_ping {s : State} {e : Ep} {q : Session} {x : HeldCmd} (session : s.session? e q.ref = some q)
    (waits : q.waiting = [x]) (ping : x.body = .ping) (len : x.hdr.len = 0) (epoch : x.hdr.epoch = 0) (free : s.opsOf e q.ref = []) :
    s.startAll e q.ref 1 = (s.modSession e q.ref fun q => { q with waiting := [] }).raiseS e q.ref Ev.fenceDone
      (be 4 x.hdr.seq.toNat ++ be 2 0x0005 ++ be 2 0) := by
  have ran (s : State) : s.startWaiting e q.ref x = s.raiseS e q.ref Ev.fenceDone (be 4 x.hdr.seq.toNat ++ be 2 0x0005 ++ be 2 0) := by
    have run := runBody_ping (s := s) (c := { ctxOf s e q.ref x.hdr x.arrived with late := true }) len epoch
    simp only [State.startWaiting, ping, run, Res.ok, State.lateEnd, List.append_nil]
    rfl
  simp only [State.startAll, session, waits, free, List.isEmpty_nil, Bool.not_true, Bool.and_false, Bool.false_eq_true, if_false, ran]

theorem State.session_of_owners {s t : State} {e : Ep} (same : t.endp e = s.endp e) (n : SessRef) : t.session? e n = s.session? e n := by
  rw [State.session?, same, State.session?]

/-- Settles O7: each timer by what it does to its session, the fenced PING by its start. -/
theorem sessionTimersComplete : Obligations.SessionTimersComplete := by
  refine ⟨fun s t e n q session => ⟨fun idle => ?expired, fun due => ?gap, fun x v waits due => ?resend⟩,
    fun s t e n q x session waits ping len epoch free => ?fence⟩
  case expired => exact ⟨_, exec_sessionExpired session idle, rfl, State.closeSession_session ..⟩
  case gap =>
    have found := State.session_of_bearing session
    refine ⟨_, _, exec_seqGapHoldExpiry session due,
      State.session_modSession _ (fun _ => rfl) ((State.session_of_owners (by cases e <;> rfl) _).trans found), ?none, rfl, rfl,
      by rw [State.modSession, State.modEp_out], by rw [State.modSession, State.modEp_hbm]; rfl,
      by rw [State.modSession, State.modEp_parts]; rfl, by rw [State.modSession, State.modEp_ops]; rfl⟩
    case none => simpa [List.filter_eq_nil_iff] using due
  case resend =>
    have found := State.session_of_bearing session
    refine ⟨_, _, exec_eventResend session waits due,
      State.session_modSession _ (fun y => by split <;> rfl) ((State.session_of_owners (by cases e <;> rfl) _).trans found),
      by rw [State.modSession, State.modEp_out]; rfl, fun again => ?again, fun last => ?last,
      by rw [State.modSession, State.modEp_hbm]; rfl, by rw [State.modSession, State.modEp_parts]; rfl⟩
    case again =>
      intro y listed here
      rw [if_pos again] at listed
      obtain ⟨z, -, rfl⟩ := List.mem_map.1 listed
      by_cases same : z.ev.seq = x
      · rw [if_pos same]
        exact ⟨rfl, rfl⟩
      · rw [if_neg same] at here
        exact absurd here same
    case last =>
      intro y listed
      rw [if_neg (by omega)] at listed
      simpa using (List.mem_filter.1 listed).2
  case fence =>
    have found := State.session_of_bearing session
    change execFencedCommandStart t e n s = _
    simp only [execFencedCommandStart, session, waits, List.length_singleton]
    rw [State.startAll_ping found waits ping len epoch free]

end Sys2Proof.Machine
end

section
/-! SUPPORT. What a host's RoCE packets and frames do at a queue pair and at a port (R77, R168, R373, R374). -/

namespace Sys2Proof.Machine

open Sys2Proof.Safety

section

variable {s : State} {t : Nat} {port : HostPortId} {src : BitVec 128} {qpn : BitVec 24} {k : KwId} {z : Qp}

/-! ### Packets of an admitted queue pair (R77, R374) -/

section

variable (admitted : (s.tick t).rdmaAdmit port src qpn = .admitted k z)
include admitted

theorem exec_rdmaRefusedOperation (ce : Bool) :
    exec (.rdmaRefusedOperation t port { gid := src, marked := ce } qpn) s =
      .next (((s.tick t).sendCnps port (if ce then 1 else 0)).emit (.rdmaNak port qpn true)) := by
  change execRdmaRefusedOperation t port { gid := src, marked := ce } qpn s = _
  simp only [execRdmaRefusedOperation, admitted]

theorem exec_hostNakReceived {syn : Byte} (fatal : syn = 2 ∨ syn = 3 ∨ syn = 4) :
    exec (.hostNakReceived t port src qpn syn) s = .next ((s.tick t).failQp k qpn syn) := by
  change execHostNakReceived t port src qpn syn s = _
  simp only [execHostNakReceived, admitted, if_pos fatal]

theorem exec_cnpReceived :
    exec (.cnpReceived t port src qpn) s =
      .next { s.tick t with rateCuts := Tab.set s.rateCuts port (Tab.get s.rateCuts 0 port + 1) } := by
  change execCnpReceived t port src qpn s = _
  simp only [execCnpReceived, admitted]
  rfl

end

/-! ### The ACK timeout of a queue pair (R373) -/

/-- A change of a queue pair that keeps its number is found under that number. -/
theorem Keyway.qp?_map {w : Keyway} {f : Qp → Qp} (numbered : ∀ x, (f x).qpn = x.qpn) (found : w.qp? qpn = some z) :
    ({ w with qps := w.qps.map fun x => if x.qpn = qpn then f x else x } : Keyway).qp? qpn = some (f z) := by
  have here : z.qpn = qpn := by simpa using List.find?_some found
  have same : ((fun x : Qp => decide (x.qpn = qpn)) ∘ fun x => if x.qpn = qpn then f x else x) = fun x => decide (x.qpn = qpn) := by
    funext x
    by_cases named : x.qpn = qpn <;> simp [named, numbered]
  rw [Keyway.qp?] at found ⊢
  rw [List.find?_map, same, found, Option.map_some, if_pos here]

section

variable (found : (s.kw k).qp? qpn = some z) (works : z.error = false) (timed : z.timeout ≠ 0)
  (carries : (s.qpXfers (.kw k) qpn).isEmpty = false) (late : z.since + 4096 * 2 ^ z.timeout ≤ (s.tick t).osc)
include found works timed carries late

/-- An unanswered transfer is retried while the pair's count allows it; then its pair fails (R373). -/
theorem exec_qpAckTimeout :
    exec (.qpAckTimeout t k qpn) s = .next
      (if z.retriesUsed < z.retry then
        (s.tick t).modKw k fun w => { w with qps := w.qps.map fun x =>
          if x.qpn = qpn then { x with retriesUsed := x.retriesUsed + 1, since := (s.tick t).osc } else x }
       else (s.tick t).failQp k qpn 1) := by
  have pair : ((s.tick t).kw k).qp? qpn = some z := found
  have due : ¬(z.error = true ∨ z.timeout = 0 ∨ ((s.tick t).qpXfers (.kw k) qpn).isEmpty = true ∨
      (s.tick t).osc < z.since + ackTimeoutNs z.timeout) := by
    have empty : ((s.tick t).qpXfers (.kw k) qpn).isEmpty = false := carries
    simp [works, timed, empty, ackTimeoutNs, late]
  change execQpAckTimeout t k qpn s = _
  simp only [execQpAckTimeout, pair, if_neg due]
  split <;> rfl

end

end

/-! ### Frames at a host port (R168) -/

section

variable {s : State} {t : Nat} {port : HostPortId} {f : HostFrame}

/-- The chip a frame goes to: the ingest chip of its partition (R168). -/
def State.frameChip (s : State) (f : HostFrame) : ChipId := ((s.part f.part).map Part.ingestChip).getD 0

/-- A frame sent on in the host slots of its partition (R168). -/
def State.sendFrame (s : State) (port : HostPortId) (f : HostFrame) : Option (State × List Nat) :=
  s.switchSend (hostPortSwitch port) f.part (s.frameChip f) true (firmwarePkts .host (s.frameChip f) (s.frameChip f) f.part 0 f.bytes)

/-- The port's buffer with a frame that leaves in these slots. -/
def HostPort.enqueue (q : HostPort) (now : Nat) (f : HostFrame) (slots : List Nat) : HostPort :=
  { q with queue := (q.queue.filter fun e => decide (absSlot now ≤ e.1)) ++
      slots.zipIdx.map fun e => (e.1, min 1280 (f.bytes.length - 1280 * e.2)) }

section

variable (live : (s.tick t).portLive port = true)
include live

theorem exec_hostFrameIngress_full (full : 33554432 < (s.port port).fill (s.tick t).osc + f.bytes.length) :
    exec (.hostFrameIngress t port f) s = .next ((s.tick t).modPort port fun q => { q with drops := sat64 q.drops 1 }) := by
  change execHostFrameIngress t port f s = _
  simp only [execHostFrameIngress, live, if_true]
  exact if_pos full

variable (room : (s.port port).fill (s.tick t).osc + f.bytes.length ≤ 33554432)
include room

theorem exec_hostFrameIngress_noWay (noWay : (s.tick t).sendFrame port f = none) :
    exec (.hostFrameIngress t port f) s = .next ((s.tick t).modPort port fun q => { q with drops := sat64 q.drops 1 }) := by
  change execHostFrameIngress t port f s = _
  rw [State.sendFrame, State.frameChip] at noWay
  simp only [execHostFrameIngress, live, if_true, noWay]
  exact if_neg (Nat.not_lt.2 room)

/-- A frame that leaves enters the buffer; above the limit of FAB_HOST_ECN_FILL it is marked and answered by a CNP (R168). -/
theorem exec_hostFrameIngress_leaves {b : State} {slots : List Nat}
    (sent : (s.tick t).sendFrame port f = some (b, slots)) :
    exec (.hostFrameIngress t port f) s = .next
      (if 33554432 * b.rackSet 0x0303#16 < (s.port port).fill (s.tick t).osc * 100 then
        ((b.modPort port fun q => q.enqueue b.osc f slots).modPort port fun q => { q with marked := sat64 q.marked 1 }).emit
          (.rdmaCnp port)
       else b.modPort port fun q => q.enqueue b.osc f slots) := by
  change execHostFrameIngress t port f s = _
  rw [State.sendFrame, State.frameChip] at sent
  simp only [execHostFrameIngress, live, if_true, sent]
  refine (if_neg (Nat.not_lt.2 room)).trans ?_
  split
  · next above => exact (congrArg _ (if_pos above)).symm
  · next below => exact (congrArg _ (if_neg below)).symm

end

end

/-- Settles O12: packets by their admission, the timeout by the retries left, a frame by the room and the way it finds. -/
theorem hostRdmaEventsComplete : Obligations.HostRdmaEventsComplete := by
  refine ⟨fun s t port src qpn k z admitted => ⟨fun ce => exec_rdmaRefusedOperation admitted ce,
      fun syn fatal => exec_hostNakReceived admitted fatal, ⟨_, exec_cnpReceived admitted, Tab.get_set_self .., rfl, rfl⟩⟩,
    fun s t k qpn z found works timed carries late => ⟨fun left => ?retry, fun spent => ?fails⟩,
    fun s t port f live => ⟨fun full => exec_hostFrameIngress_full live full, fun room =>
      ⟨fun noWay => ?noWay, fun b slots sent => ?leaves⟩⟩⟩
  case retry =>
    have done := exec_qpAckTimeout found works timed carries late
    rw [if_pos left] at done
    refine ⟨_, { z with retriesUsed := z.retriesUsed + 1, since := (s.tick t).osc }, done, ?_, rfl, rfl, works, rfl⟩
    rw [State.kw_modKw_self]
    exact Keyway.qp?_map (f := fun x => { x with retriesUsed := x.retriesUsed + 1, since := (s.tick t).osc }) (fun _ => rfl) found
  case fails =>
    have done := exec_qpAckTimeout found works timed carries late
    rwa [if_neg (Nat.not_lt.2 spent)] at done
  case noWay => exact exec_hostFrameIngress_noWay live room noWay
  case leaves =>
    have done := exec_hostFrameIngress_leaves live room sent
    split at done
    · next above =>
      refine ⟨_, done, rfl, rfl, rfl, fun below => absurd above (Nat.not_lt.2 below), fun _ => ⟨rfl, ?_⟩⟩
      have marked : ∀ x : State, (x.emit (.rdmaCnp port)).port port = x.port port := fun _ => rfl
      rw [marked, State.port_modPort, if_pos rfl, State.port_modPort, if_pos rfl]
      rfl
    · next below => exact ⟨_, done, rfl, rfl, rfl, fun _ => rfl, fun above => absurd above below⟩

end Sys2Proof.Machine
end

section
/-! SUPPORT. REQ_SUBMIT and REQ_SOURCE: a request taken under its tag, a source joined, held or answered again (R72, R210 to R214). -/

namespace Sys2Proof.Machine

open Sys2Proof.Safety

/-! ### Sources dropped and counted (R214, R227) -/

/-- Keyways change, and of partitions their ingest counters; nothing else does. -/
structure CountsOnly (s t : State) : Prop where
  frame : t = { s with kws := t.kws, parts := t.parts }
  counts : ∀ p v, s.part p = some v → ∃ xs, t.part p = some { v with ingest := xs }

namespace CountsOnly

variable {s t u : State}

theorem refl (s : State) : CountsOnly s s := ⟨rfl, fun _ v part => ⟨v.ingest, part⟩⟩

theorem trans (h : CountsOnly s t) (g : CountsOnly t u) : CountsOnly s u := by
  refine ⟨by rw [g.frame, h.frame], fun p v part => ?_⟩
  obtain ⟨xs, between⟩ := h.counts p v part
  obtain ⟨ys, after⟩ := g.counts p _ between
  exact ⟨ys, after⟩

theorem modKw (s : State) (k : KwId) (f : Keyway → Keyway) : CountsOnly s (s.modKw k f) := ⟨rfl, fun _ v part => ⟨v.ingest, part⟩⟩

theorem ingestBump (s : State) (p : PartId) (i n : Nat) : CountsOnly s (s.ingestBump p i n) := by
  constructor
  · unfold State.ingestBump State.modPart
    split <;> rfl
  · intro q v part
    rw [State.ingestBump, State.part_modPart]
    split
    · next here => exact ⟨bump v.ingest i n, by rw [← here, part]; rfl⟩
    · exact ⟨v.ingest, part⟩

theorem dropStale (s : State) (k : KwId) (now : Nat) : CountsOnly s (s.dropStale k now) :=
  foldl_invariant (CountsOnly s) _ (fun _ _ h => h.trans (ingestBump ..)) _ _ (modKw ..)

theorem hbm (h : CountsOnly s t) : t.hbm = s.hbm := by rw [h.frame]
theorem reqs (h : CountsOnly s t) : t.reqs = s.reqs := by rw [h.frame]

theorem request (h : CountsOnly s t) (k : KwId) (g : BitVec 64) : t.request? k g = s.request? k g := State.request_of_reqs h.reqs k g

theorem openReqs (h : CountsOnly s t) (p : PartId) : t.openReqs p = s.openReqs p := by rw [State.openReqs, h.reqs, State.openReqs]

theorem insertKeyOf (h : CountsOnly s t) (k : KwId) (n : Nat) : t.insertKeyOf k n = s.insertKeyOf k n := by
  rw [h.frame]
  rfl

theorem maxOpen (h : CountsOnly s t) (p : PartId) : t.partSet p 0x0507#16 = s.partSet p 0x0507#16 := by
  rw [h.frame]
  rfl

theorem startedCut (h : CountsOnly s t) {p : PartId} {v : Part} (part : s.part p = some v) {cut : BitVec 32}
    (started : v.startedCut cut = true) : ((t.part p).any fun v => v.startedCut cut) = true := by
  obtain ⟨xs, after⟩ := h.counts p v part
  rw [after]
  exact started

theorem kvbOf (h : CountsOnly s t) {p : PartId} {v : Part} (part : s.part p = some v) (m : BitVec 32) : t.kvbOf p m = s.kvbOf p m := by
  obtain ⟨xs, after⟩ := h.counts p v part
  rw [State.kvbOf, after, State.kvbOf, part]

end CountsOnly

/-! ### A request under its tag (R210) -/

section

variable (s : State) (e : Ep) (n : SessRef) (seq epoch : BitVec 32) (kind : OpKind)

theorem State.request_addOp (k : KwId) (g : BitVec 64) : (s.addOp e n seq epoch kind).request? k g = s.request? k g := rfl

theorem State.heldFor_addOp (k : KwId) (g : BitVec 64) : (s.addOp e n seq epoch kind).heldFor k g = s.heldFor k g := rfl

theorem State.ops_addOp : ((s.addOp e n seq epoch kind).ops.any fun o => o.ep = e && o.session = n && o.kind = kind) = true := by
  simp [State.addOp]

end

namespace State

variable (s : State) (k : KwId) (p : PartId) (r : Request) (dead : Nat)

/-- A request stands under its tag in place of a completed one; the sources held for it leave, `dead` of them counted (R210, R214). -/
def enterRequest : State :=
  let s := ((s.dropHeld k r.tag).ingestBump p 2 dead).ingestBump p 0 1
  { s with reqs := s.reqs.filter (fun (x : Request) => !(x.kw = k && x.tag = r.tag)) ++ [r] }

theorem enterRequest_counts :
    CountsOnly s (((s.dropHeld k r.tag).ingestBump p 2 dead).ingestBump p 0 1) :=
  ((CountsOnly.modKw ..).trans (CountsOnly.ingestBump ..)).trans (CountsOnly.ingestBump ..)

theorem enterRequest_hbm : (s.enterRequest k p r dead).hbm = s.hbm := (s.enterRequest_counts k p r dead).hbm

theorem enterRequest_reqs :
    (s.enterRequest k p r dead).reqs = s.reqs.filter (fun x => !(x.kw = k && x.tag = r.tag)) ++ [r] :=
  congrArg (fun rs : List Request => rs.filter (fun x => !(x.kw = k && x.tag = r.tag)) ++ [r]) (s.enterRequest_counts k p r dead).reqs

theorem request_enterRequest (kw : r.kw = k) : (s.enterRequest k p r dead).request? k r.tag = some r := by
  have gone : (s.reqs.filter fun x => !(x.kw = k && x.tag = r.tag)).find? (fun x => x.kw = k && x.tag = r.tag) = none := by
    rw [List.find?_eq_none]
    intro x listed
    have apart := (List.mem_filter.1 listed).2
    simpa [imp_iff_not_or] using apart
  rw [request?, enterRequest_reqs, List.find?_append, gone, Option.none_or]
  simp [kw]

theorem request_enterRequest_ne (kw : r.kw = k) {j : KwId} {g : BitVec 64} (other : (j, g) ≠ (k, r.tag)) :
    (s.enterRequest k p r dead).request? j g = s.request? j g := by
  have apart : [r].find? (fun x => x.kw = j && x.tag = g) = none := by
    have : ¬(r.kw = j ∧ r.tag = g) := fun same => other (by rw [← same.1, ← same.2, kw])
    simpa using this
  rw [request?, enterRequest_reqs, List.find?_append, apart, Option.or_none, List.find?_filter, request?]
  congr 1
  funext x
  by_cases here : x.kw = j ∧ x.tag = g
  · have : ¬(x.kw = k ∧ x.tag = r.tag) := fun same => other (by rw [← here.1, ← here.2, same.1, same.2])
    simp_all [imp_iff_not_or]
  · simp_all

/-- No source is held any longer under a tag whose request stands. -/
theorem heldFor_enterRequest : (s.enterRequest k p r dead).heldFor k r.tag = [] := by
  have kws : (s.enterRequest k p r dead).kw k = (s.dropHeld k r.tag).kw k := by
    rw [State.kw, enterRequest, State.kw]
    simp [ingestBump]
  rw [heldFor, kws, dropHeld, kw_modKw_self]
  simp

end State

theorem State.request_dropStale_closed {s : State} {k : KwId} {g : BitVec 64} {now : Nat}
    (free : (s.request? k g).all (fun r => !r.isOpen) = true) : ((s.dropStale k now).request? k g).filter Request.isOpen = none := by
  rw [(CountsOnly.dropStale s k now).request]
  cases found : s.request? k g <;> simp_all

/-- A source as its request judges it on its arrival (R213). -/
def Request.judged (r : Request) (x : Source) : Source :=
  { x with accepted := accepts r.rx r.window (((r.sources.find? fun z => z.index = 0).map Source.stamp).getD 0) x }

/-! ### The handlers -/

section

variable {c : Ctx} {s : State} {k : KwId} {p : PartId} {v : Part} {now : Nat}

/-- The sources held for a submitted request that can be its own (R214). -/
def ownSources (a : ReqArgs) (held : List HeldSource) : List HeldSource := held.filter fun h => h.src.index < a.sources.toNat

theorem runOp_reqSubmit_accepted {x : ReqArgs} {q : Session} (kw : c.kw? = some k) (owns : c.part? s = some p)
    (session : s.session? c.ep c.session = some q) (part : s.part p = some v) (arrival : c.arrived = now)
    (free : (s.request? k x.tag).all (fun r => !r.isOpen) = true) (cut : v.startedCut q.cut = true)
    (table : (s.kvbOf p q.model).isSome = true) (inserts : (s.insertKeyOf k x.insertSlot.toNat).isSome = true)
    (room : (s.openReqs p).length <
      ((((s.dropStale k now).heldFor k x.tag).head?).map HeldSource.maxOpen).getD (s.partSet p 0x0507#16)) :
    let b := s.dropStale k now
    let held := b.heldFor k x.tag
    runOp c (.reqSubmit x) s = Res.accepted
      ((b.enterRequest k p (b.newRequest c k p q x held) (held.length - (ownSources x held).length)).addOp c.ep c.session c.h.seq c.epoch
        (.request x.tag)) := by
  intro b held
  have counted : CountsOnly s b := CountsOnly.dropStale s k now
  have closed : ¬((b.request? k x.tag).any Request.isOpen = true) := by
    rw [counted.request]
    cases found : s.request? k x.tag with
    | none => simp
    | some r => simpa [found] using free
  have runs : ¬((!(b.part p).any fun v => v.startedCut q.cut) = true) := by rw [counted.startedCut part cut]; decide
  have loaded : ¬((b.kvbOf p q.model).isNone = true) := by
    rw [counted.kvbOf part]
    cases found : s.kvbOf p q.model <;> simp_all
  have keyed : ¬((b.insertKeyOf k x.insertSlot.toNat).isNone = true) := by
    rw [counted.insertKeyOf]
    cases found : s.insertKeyOf k x.insertSlot.toNat <;> simp_all
  have fits : ¬((b.openReqs p).length ≥ ((held.head?).map HeldSource.maxOpen).getD (b.partSet p 0x0507#16)) := by
    rw [counted.openReqs, counted.maxOpen]
    exact Nat.not_le.2 room
  have run : runOp c (.reqSubmit x) s = opReqSubmit c x s := rfl
  rw [run, opReqSubmit]
  simp only [kw, owns, session, arrival]
  exact (if_neg closed).trans ((if_neg runs).trans ((if_neg loaded).trans ((if_neg keyed).trans (if_neg fits))))

section

variable {x : SourceArgs} (kw : c.kw? = some k) (owns : c.part? s = some p) (arrival : c.arrived = now)
include kw owns arrival

/-- The source of a REQ_SOURCE, as it arrived. -/
def arrivedSource (c : Ctx) (x : SourceArgs) (now : Nat) : Source :=
  { index := x.index.toNat, flags := x.flags, stamp := stampOf x.stamp now, arrived := now, text := x.text, via := c.h.via,
    accepted := false }

section

variable (free : (s.request? k x.tag).all (fun r => !r.isOpen) = true)
include free

theorem runOp_reqSource_held
    (new : (((s.dropStale k now).heldFor k x.tag).find? fun z => z.src.index = x.index.toNat) = none)
    (room : ((s.dropStale k now).kw k).heldSources.length < 64) :
    runOp c (.reqSource x) s = Res.ok ((s.dropStale k now).modKw k fun w =>
      { w with heldSources := w.heldSources ++ [(s.dropStale k now).holdSource p k x.tag (arrivedSource c x now)] }) := by
  have run : runOp c (.reqSource x) s = opReqSource c x s := rfl
  rw [run, opReqSource]
  simp only [kw, owns, arrival, State.request_dropStale_closed free, new]
  exact if_neg (Nat.not_le.2 room)

theorem runOp_reqSource_heldAgain {z : HeldSource}
    (again : (((s.dropStale k now).heldFor k x.tag).find? fun z => z.src.index = x.index.toNat) = some z) :
    runOp c (.reqSource x) s = if sameContent (arrivedSource c x now) z.src then Res.ok (s.dropStale k now)
      else Res.fail (s.dropStale k now) St.badParameter := by
  have run : runOp c (.reqSource x) s = opReqSource c x s := rfl
  rw [run, opReqSource]
  simp only [kw, owns, arrival, State.request_dropStale_closed free, again]
  rfl

end

section

variable {r : Request} (found : s.request? k x.tag = some r) (receives : r.stage = .receiving) (declared : x.index.toNat < r.declared)
include found receives declared

/-- A source that comes in time joins its request (R213). -/
theorem runOp_reqSource_joins (new : (r.sources.find? fun z => z.index = x.index.toNat) = none) (waits : r.fusing = false)
    (early : now ≤ r.rx + r.window) :
    runOp c (.reqSource x) s = Res.ok ((s.dropStale k now).modReq k x.tag fun z => { z with sources := z.sources ++
      [r.judged (arrivedSource c x now)] }) := by
  have isOpen : ((s.dropStale k now).request? k x.tag).filter Request.isOpen = some r := by
    rw [(CountsOnly.dropStale s k now).request, found]
    simp [Request.isOpen, receives]
  have intime : (!r.fusing && decide (now ≤ r.rx + r.window)) = true := by simp [waits, early]
  have run : runOp c (.reqSource x) s = opReqSource c x s := rfl
  rw [run, opReqSource]
  simp only [kw, owns, arrival, isOpen, new, intime, receives, if_true]
  exact (if_neg (by simp)).trans (if_neg (Nat.not_le.2 declared))

theorem runOp_reqSource_again {z : Source} (again : (r.sources.find? fun z => z.index = x.index.toNat) = some z) :
    runOp c (.reqSource x) s = if sameContent (arrivedSource c x now) z then Res.ok (s.dropStale k now)
      else Res.fail (s.dropStale k now) St.badParameter := by
  have isOpen : ((s.dropStale k now).request? k x.tag).filter Request.isOpen = some r := by
    rw [(CountsOnly.dropStale s k now).request, found]
    simp [Request.isOpen, receives]
  have run : runOp c (.reqSource x) s = opReqSource c x s := rfl
  rw [run, opReqSource]
  simp only [kw, owns, arrival, isOpen, again, receives]
  exact (if_neg (by simp)).trans (if_neg (Nat.not_le.2 declared))

end

end

end

/-! ### The statement about them -/

section

variable {s : State} {t : Nat} {h : Hdr} {k : KwId} {q : Session}

/-- The session of a command that has arrived has the model and the cut it was opened with. -/
theorem arrived_session_opened {b : Body} {e : Ep} (ready : InTurn s t h e q) :
    ∃ x, (arrived s t h b e q.ref).session? e q.ref = some x ∧ x.model = q.model ∧ x.cut = q.cut := by
  have heard := State.session_modSession (fun q => { q with lastCmd := (s.tick t).osc, lastVia := h.via }) (fun _ => rfl)
    (State.session_of_bearing ready.session)
  exact ⟨_, State.session_modSession _ (fun _ => rfl) heard, rfl, rfl⟩

/-- A source repeated is answered as before where its content is the same, and refused where not (R212). -/
theorem reqSource_repeated {x : SourceArgs} {u : State} {same : Bool} (ready : Ready s t h (.reqSource x) (.kw k) q)
    (run : runOp (ctxAt s t h (.reqSource x) (.kw k) q) (.reqSource x) (arrived s t h (.reqSource x) (.kw k) q.ref) =
      if same then Res.ok u else Res.fail u St.badParameter) :
    Replies (.reqSource t h x) s t h (.reqSource x) (.kw k) q u (if same then St.ok else St.badParameter) [] := by
  cases same
  · exact replies_of_runOp rfl ready nofun run rfl (show St.badParameter ≠ St.internalError by decide)
  · exact replies_ok rfl ready nofun run

end

/-- Settles O18: a request by what stands under its tag, a source by whether its request is still to come. -/
theorem requestsAreSubmitted : Obligations.RequestsAreSubmitted := by
  intro s t h k q p v
  refine ⟨fun x ready => ?submit, fun x ready => ?source⟩
  case submit =>
    intro a held owns part free cut table inserts room
    obtain ⟨y, session, model, same⟩ := arrived_session_opened (b := .reqSubmit x) ready.toInTurn
    let c := ctxAt s t h (.reqSubmit x) (.kw k) q
    let b := a.dropStale k a.rackNs
    let r := b.newRequest c k p y x held
    let dead := held.length - (ownSources x held).length
    have arrival : c.arrived = a.rackNs := (arrived_rackNs ..).symm
    have counted : CountsOnly a b := CountsOnly.dropStale ..
    have run : runOp c (.reqSubmit x) a =
        Res.accepted ((b.enterRequest k p r dead).addOp (.kw k) q.ref h.seq (a.hdrEpoch h) (.request x.tag)) :=
      runOp_reqSubmit_accepted rfl owns session part arrival free (same ▸ cut) (model ▸ table) inserts room
    refine ⟨_, r, replies_accepted rfl ready nofun run, (State.request_addOp ..).trans (b.request_enterRequest k p r dead rfl),
      rfl, rfl, rfl, model, same, rfl, rfl, rfl, rfl, ?rx, ?sources, (State.heldFor_addOp ..).trans (b.heldFor_enterRequest k p r dead),
      State.ops_addOp .., ?hbm, fun j g other => ?others⟩
    case rx => exact congrArg ((held.head?.map HeldSource.rx).getD ·) arrival
    case sources => exact List.map_map ..
    case hbm => exact (State.addOp_hbm ..).trans <| (State.enterRequest_hbm ..).trans (counted.hbm.trans (arrived_hbm ..))
    case others =>
      have before : a.request? j g = s.request? j g := State.request_of_reqs (arrived_frame ..).reqs j g
      exact (State.request_addOp ..).trans <| (b.request_enterRequest_ne k p r dead rfl other).trans ((counted.request j g).trans before)
  case source =>
    intro a b y owns
    let c := ctxAt s t h (.reqSource x) (.kw k) q
    have arrival : c.arrived = a.rackNs := (arrived_rackNs ..).symm
    have counted : CountsOnly a b := CountsOnly.dropStale ..
    have before := arrived_frame s t h (.reqSource x) (.kw k) q.ref
    refine ⟨fun free => ⟨fun new room => ?held, fun z again => ?heldAgain⟩, fun r found receives declared =>
      ⟨fun new waits early => ?joins, fun z again => ?again⟩⟩
    case held =>
      have run := runOp_reqSource_held (c := c) rfl owns arrival free new room
      exact ⟨_, replies_ok rfl ready nofun run, congrArg Keyway.heldSources (State.kw_modKw_self ..), counted.reqs.trans before.reqs,
        counted.hbm.trans before.hbm⟩
    case heldAgain => exact reqSource_repeated ready (runOp_reqSource_heldAgain (c := c) rfl owns arrival free again)
    case joins =>
      have run := runOp_reqSource_joins (c := c) rfl owns arrival found receives declared new waits early
      exact ⟨_, replies_ok rfl ready nofun run, State.request_modReq (fun _ => rfl) (fun _ => rfl) ((counted.request ..).trans found),
        counted.hbm.trans before.hbm⟩
    case again => exact reqSource_repeated ready (runOp_reqSource_again (c := c) rfl owns arrival found receives declared again)

end Sys2Proof.Machine
end

section
/-! SUPPORT. The end of a stop or a drain (R71, R355). -/

namespace Sys2Proof.Machine

open Sys2Proof.Safety

/-! ### What the end of a program leaves of its partition -/

/-- Every partition stands as before in what `f` reads of it. -/
structure KeepsPart {β : Type} (f : Part → β) (s t : State) : Prop where
  same : ∀ p, (t.part p).map f = (s.part p).map f

namespace KeepsPart

variable {β : Type} {f : Part → β} {s t u : State}

theorem refl (s : State) : KeepsPart f s s := ⟨fun _ => rfl⟩

theorem trans (h : KeepsPart f s t) (g : KeepsPart f t u) : KeepsPart f s u := ⟨fun p => (g.same p).trans (h.same p)⟩

theorem foldl {α : Type} (g : State → α → State) (h : ∀ s a, KeepsPart f s (g s a)) (l : List α) (s : State) :
    KeepsPart f s (l.foldl g s) :=
  foldl_invariant (KeepsPart f s) g (fun b a hb => hb.trans (h b a)) l s (refl s)

theorem of_parts (h : t.parts = s.parts) : KeepsPart f s t := ⟨fun p => by rw [State.part, h, State.part]⟩

theorem modPart (s : State) (p : PartId) {g : Part → Part} (kept : ∀ v, f (g v) = f v) : KeepsPart f s (s.modPart p g) := by
  refine ⟨fun q => ?_⟩
  rw [State.part_modPart]
  split
  · next here => subst here; cases s.part q <;> simp [kept]
  · rfl

/-- A change of every partition. -/
theorem mapParts {g : Part → Part} (kept : ∀ v, f (g v) = f v)
    (h : t.parts = s.parts.map fun (e : PartId × Option Part) => (e.1, e.2.map g)) : KeepsPart f s t := by
  refine ⟨fun q => ?_⟩
  rw [State.part, State.part, h]
  induction s.parts with
  | nil => rfl
  | cons e es ih =>
    obtain ⟨p, v⟩ := e
    simp only [List.map_cons, Tab.get]
    split
    · cases v <;> simp [kept]
    · exact ih

theorem part_of (h : KeepsPart f s t) {p : PartId} {v : Part} (part : s.part p = some v) : ∃ w, t.part p = some w ∧ f w = f v := by
  have same := h.same p
  rw [part] at same
  exact Option.map_eq_some_iff.1 same

theorem fitQuota (s : State) (i : Fin 128) : KeepsPart f s (s.fitQuota i) := by
  have evict (n : Nat) (s : State) (limit : Nat) : (s.evictTo i limit n).parts = s.parts := by
    induction n generalizing s with
    | zero => rfl
    | succ n ih =>
      unfold State.evictTo
      split
      · rfl
      · split
        · rfl
        · exact ih _
  exact of_parts (evict ..)

/-- The sweep of the Keyring takes blocks of the hot tiers alone. -/
theorem krSweep (kept : ∀ v hot, f { v with hot := hot } = f v) (s : State) : KeepsPart f s s.krSweep := by
  unfold State.krSweep
  extract_lets dead y x
  refine trans (t := x) (mapParts ?_ rfl) (foldl _ fitQuota _ _)
  exact fun v => kept v _

end KeepsPart

/-- What a partition has loaded: its place, its configurations and the one that runs. -/
def Part.loaded (v : Part) : Shape × List Configuration × Option Configuration := (v.shape, v.configs, v.running)

theorem Part.loaded_eq_iff {v w : Part} :
    w.loaded = v.loaded ↔ w.shape = v.shape ∧ w.configs = v.configs ∧ w.running = v.running := by
  simp only [Part.loaded, Prod.mk.injEq]

/-- Every partition keeps its place, its loaded configurations and the one that runs. -/
abbrev KeepsLoaded := KeepsPart Part.loaded

namespace KeepsLoaded

open KeepsPart

theorem dropOrphan (s : State) (r : Request) : KeepsLoaded s (s.dropOrphan r) := by
  unfold State.dropOrphan
  split
  · exact refl s
  · exact of_parts rfl

theorem endRequest (s : State) (k : KwId) (g : BitVec 64) (st : Nat) (reset : Option Nat) : KeepsLoaded s (s.endRequest k g st reset) := by
  unfold State.endRequest
  split
  · exact refl s
  · split
    · extract_lets ended r x y
      have marked : KeepsLoaded s x := of_parts rfl
      have left : KeepsLoaded s y :=
        (marked.trans (modPart x _ (g := fun v => v.dropChunk k g) fun _ => rfl)).trans (krSweep (fun _ _ => rfl) _)
      exact (left.trans (of_parts (EventsOnly.raiseS ..).parts)).trans (dropOrphan ..)
    · exact refl s

theorem endRequests (s : State) (rs : List Request) (st : Nat) (reset : Option Nat) : KeepsLoaded s (s.endRequests rs st reset) :=
  foldl _ (fun s _ => endRequest s ..) _ _

theorem abortMember (s : State) (p : PartId) (g : Group) (seq i st : Nat) : KeepsLoaded s (s.abortMember p g seq i st) := by
  unfold State.abortMember
  split
  · exact refl s
  · split
    · split
      · extract_lets x y
        have stopped : KeepsLoaded s y := trans (t := x) (modPart s p fun _ => rfl) (of_parts rfl)
        split
        · refine stopped.trans (foldl _ (fun s j => ?_) _ _)
          split
          · exact of_parts rfl
          · exact refl s
        · exact stopped
      · exact refl s
    · exact refl s

theorem abortChip (s : State) (p : PartId) (n : ChipId) : KeepsLoaded s (s.abortChip p n) := by
  unfold State.abortChip
  split
  · exact refl s
  · refine foldl _ (fun s g => ?_) _ _
    split
    · exact foldl _ (fun s _ => abortMember s ..) _ _
    · exact refl s

theorem abortPart (s : State) (p : PartId) : KeepsLoaded s (s.abortPart p) := by
  unfold State.abortPart
  split
  · exact refl s
  · exact foldl _ (fun s n => abortChip s ..) _ _

end KeepsLoaded

/-! ### A partition without a program -/

/-- A partition that has no program left: nothing runs, waits or is taken (R71). -/
def Part.withoutProgram (v : Part) : Part :=
  { v with running := none, prog := .idle, waves := [], rot := [], rotPlan := none, rotDone := [], taken := none, drainStart := none,
           drainRetry := none }

/-- The partition after its program is dropped. -/
theorem State.part_dropProgram_eq {s : State} {p : PartId} {v : Part} (part : s.part p = some v) :
    (s.dropProgram p).part p = some v.withoutProgram := by
  simp only [State.dropProgram, part]
  exact Tab.get_set_self ..

theorem State.raiseStopped_parts (s : State) (v : Part) (op : Option Nat) (st : Nat) : (s.raiseStopped v op st).parts = s.parts := by
  unfold State.raiseStopped
  extract_lets body
  split
  · exact (EventsOnly.raiseS ..).parts
  · split
    · exact (EventsOnly.raiseS ..).parts
    · rfl

/-- A program that is stopped or drained leaves its partition, in its place with its configurations (R71, R355). -/
theorem State.part_finishStop {s : State} {p : PartId} {v : Part} (part : s.part p = some v)
    (ends : (∃ st op, v.prog = .stopping st op) ∨ ∃ since op, v.prog = .draining since op) :
    ∃ w : Part, (s.finishStop p).part p = some w.withoutProgram ∧ w.shape = v.shape ∧ w.configs = v.configs := by
  have cleared (rs : List Request) (op : Option Nat) (st : Nat) :
      ∃ w : Part, (((((s.endRequests rs St.cancelled).abortPart p).dropProgram p).raiseStopped v op st).part p = some w.withoutProgram) ∧
        w.shape = v.shape ∧ w.configs = v.configs := by
    obtain ⟨w, there, kept⟩ := ((KeepsLoaded.endRequests s rs St.cancelled none).trans (KeepsLoaded.abortPart _ p)).part_of part
    obtain ⟨shape, configs, -⟩ := Part.loaded_eq_iff.1 kept
    refine ⟨w, ?_, shape, configs⟩
    rw [State.part, State.raiseStopped_parts, ← State.part]
    exact State.part_dropProgram_eq there
  obtain ⟨st, op, stopping⟩ | ⟨since, op, draining⟩ := ends
  · simp only [State.finishStop, part, stopping]
    exact cleared ..
  · simp only [State.finishStop, part, draining]
    exact cleared ..

theorem exec_progStopped {s : State} {p : PartId} {v : Part} {st : Nat} {op : Option Nat} (t : Nat) (part : s.part p = some v)
    (stopping : v.prog = .stopping st op) : exec (.progStopped t p) s = .next ((s.tick t).finishStop p).settleTurns := by
  have there : (s.tick t).part p = some v := part
  change execProgStopped t p s = _
  simp only [execProgStopped, there, Option.map_some, stopping]

theorem exec_drainStop {s : State} {p : PartId} {v : Part} {since : Nat} {op : Option Nat} (t : Nat) (part : s.part p = some v)
    (draining : v.prog = .draining since op) : exec (.drainStop t p) s = .next ((s.tick t).finishStop p).settleTurns := by
  have there : (s.tick t).part p = some v := part
  change execDrainStop t p s = _
  simp only [execDrainStop, there, Option.map_some, draining]

/-- Settles O15: both rows end the program alike, and then settle the turns. -/
theorem programStops : Obligations.ProgramStops := by
  intro s t p v i part row
  have ran : exec i s = .next ((s.tick t).finishStop p).settleTurns := by
    obtain ⟨st, op, stopping, rfl⟩ | ⟨since, op, draining, rfl⟩ := row
    · exact exec_progStopped t part stopping
    · exact exec_drainStop t part draining
  have ends : (∃ st op, v.prog = .stopping st op) ∨ ∃ since op, v.prog = .draining since op :=
    row.imp (fun ⟨st, op, stopping, _⟩ => ⟨st, op, stopping⟩) fun ⟨since, op, draining, _⟩ => ⟨since, op, draining⟩
  obtain ⟨w, left, shape, configs⟩ := State.part_finishStop (s := s.tick t) part ends
  exact ⟨_, (s.tick t).finishStop p, w.withoutProgram, ran, rfl, State.settleTurns_none, left, rfl, rfl, rfl, rfl, shape, configs,
    State.finishStop_hbm ..⟩

end Sys2Proof.Machine
end

section
/-! SUPPORT. The state in which the statement about the operator's commands fails: a keyway reset while a READ of its keyway is
outstanding. -/

namespace Sys2Proof.Machine

open Sys2Proof.Safety

/-! ### A keyway reset during an XFER_IN

The transfers of a keyway that is reset fail with its queue pairs, and what a failed READ has written of its destination is undefined
(R373): the statement keeps every byte of memory. -/

namespace ResetMidRead

/-- A partition of one quadrant of chip 0. -/
def part : Part := Part.fresh { cls := 0, ex := 1, ey := 1, ez := 1, chip := 0, kmask := 1 } 0

/-- The READ that keyway 0 has outstanding: one byte, to its address 64. -/
def read : Op :=
  { id := 0, ep := .kw 0, session := { num := 1, serial := 0 }, seq := 1, epoch := 1,
    kind := .xferIn 0 { qpn := 17, addr := 64, len := 1, remoteVa := 0, remoteRkey := 1 } }

/-- The queue pair it stands on. -/
def pair : Qp :=
  { qpn := 17, psn := 18, gid := 3, hostQpn := 4, hostPsn := 5, retry := 7, timeout := 31, error := false, retriesUsed := 0, since := 0 }

/-- The operator's session. -/
def session : Session :=
  { num := 1, serial := 0, nonce := 7, openedAt := 0, model := 1, cut := 0, evAddr := 9, evPort := 8000, eventsAll := true, next := 1,
    replies := [], lastCmd := 0, lastVia := .mgmt 0, unacked := [], base := none, latches := [], held := [], waiting := [] }

/-- A rack with that partition, keyway bound and READ, its memory `m`; the operator's channel admits every source. -/
def state (m : Memory) : State :=
  { State.reset with
    ready := true
    rmu := { Rmu.init with up := true }
    kws := [(0, { Keyway.init with qps := [pair] })]
    opr := { Keyway.init with sessions := [session], lastNum := 1, opened := 1 }
    ops := [read]
    nextOp := 1
    cfg := { State.reset.cfg with
      running := [((0x0101#16, .kw 0), [0, 1]), ((0x0A10#16, .rack), 1 :: List.replicate 136 0)] }
    parts := [(0, some part)]
    hbm := m }

/-- The operator's packet that resets keyway 0. -/
def hdr : Hdr :=
  { via := .mgmt 0, src := 5, udp := 7432, keyway := 0, session := 1, seq := 1, epoch := 0, retry := false, fence := false,
    force := false, len := 0 }

theorem admitted (m : Memory) : ((state m).tick 1).letIn hdr = ((state m).tick 1, some .op) := by
  have managed : ((state m).tick 1).managed = true := rfl
  have listed : sourceListed hdr.src (((state m).tick 1).setVal (0x0A10#16, .rack)) = true :=
    (by decide : sourceListed 5 (1 :: List.replicate 136 0) = true)
  refine State.letIn_state ?_
  rw [State.letIn]
  simp only [show hdr.via = .mgmt 0 from rfl, managed, listed, if_true]
  rfl

theorem ready (m : Memory) : Ready (state m) 1 hdr .opKeywayReset .op session where
  admitted := admitted m
  header := rfl
  numbered := by decide
  session := rfl
  due := rfl
  noneHeld := rfl
  noneWaiting := rfl
  unfenced := rfl
  checked := rfl
  epoch := rfl
  available := rfl

/-- The state in which the command runs. -/
def before (m : Memory) : State := arrived (state m) 1 hdr .opKeywayReset .op session.ref

/-- The state in which the keyway's transfers fail: its endpoint is lost, and no request was open. -/
def failing (m : Memory) : State :=
  let s := (before m).loseEndpoint 0 0
  { s with reqs := s.reqs.filter fun r => r.kw ≠ 0 }

theorem part_failing (m : Memory) : (failing m).part 0 = some part := rfl

theorem requested (m : Memory) : (failing m).requested read = true := by
  have ops : (failing m).ops = [read] := rfl
  simp [State.requested, State.readsOut, State.qpReads, ops, read, readLimit]

/-- The destination is still the partition's, so the failed READ leaves free bytes there (R373). -/
theorem inTenant (m : Memory) : (failing m).opInTenant read.kind = true := by
  have spill : (failing m).partSet 0 0x0204#16 = 48 := rfl
  have hot : (failing m).partSet 0 0x0401#16 = 8 := rfl
  have quads : part.nQuads = 1 := rfl
  show (failing m).rangeOk 0 64 1 = true
  simp only [State.rangeOk, part_failing, State.tenantLimit, spill, hot, quads]
  decide

theorem phys (m : Memory) : (failing m).phys 0 64 = 64 := by
  have quad : part.shape.quad? (addrVq 64) = some 0 := by decide
  simp only [State.phys, part_failing, quad]
  decide

theorem failXfers (m : Memory) : (failing m).failXfers [read] = ((failing m).scramble 64 1).xferEnd read St.qpFailed := by
  have kind : read.kind = .xferIn 0 { qpn := 17, addr := 64, len := 1, remoteVa := 0, remoteRkey := 1 } := rfl
  simp only [State.failXfers, List.map_cons, List.map_nil, List.foldl_cons, List.foldl_nil, State.xferFail, requested, inTenant,
    Bool.and_self, if_true]
  simp only [kind, phys]
  rfl

/-- After the reset the byte at address 64 is a free one, whatever stood there. -/
theorem read_keywayReset (m : Memory) : Memory.read ((before m).keywayReset 0).hbm 64 = Config.freeByte 0 := by
  have left : ((before m).keywayReset 0).hbm = ((failing m).failXfers [read]).hbm := by
    simp only [State.keywayReset, State.log_hbm, State.stepIfClosed_hbm, State.dropSessionSettings_hbm]
    rfl
  have fresh : (failing m).fresh = 0 := rfl
  rw [left, failXfers, State.xferEnd_hbm, State.scramble, State.useFresh_hbm, read_hbmPaste, if_pos (by omega), fresh, freeMem,
    Memory.read_ofBytes]
  rfl

end ResetMidRead

open ResetMidRead in
/-- Refutes O32 in its clause on OP_KEYWAY_RESET: the byte a READ was to fill is free after the reset, so it cannot be both bytes that
stood there in two racks that differ in it alone. -/
theorem not_operatorCommandsComplete : ¬ Obligations.OperatorCommandsComplete := by
  intro claim
  have kept (m : Memory) : Memory.read m 64 = Config.freeByte 0 := by
    obtain ⟨reset, -⟩ := claim (state m) 1 hdr session
    obtain ⟨u, -, rfl, -, -, -, -, hbm⟩ := reset 0 (ready m) rfl
    rw [← read_keywayReset m]
    exact congrArg (Memory.read · 64) hbm.symm
  have zero : Memory.read [] 64 = 0 := rfl
  have one : Memory.read [(64, 1)] 64 = 1 := rfl
  exact absurd ((zero.symm.trans (kept [])).trans ((kept [(64, 1)]).symm.trans one)) (by decide)

end Sys2Proof.Machine
end

section
/-! SUPPORT. What leaves the trays, the running resets and the failed resets of trays as they are. -/

namespace Sys2Proof.Machine

open Sys2Proof.Safety

/-! ### The parts of a level 3 -/

/-- The requests, runs, problems and operations of a partition end with a level 3 or higher (R73, R76). -/
def State.endWork (s : State) (p : PartId) (level : Nat) (locked : List ChipId) : State :=
  let s := s.endRequests (s.openReqs p) St.resetAborted (some level)
  let s := locked.foldl (fun s n => s.endRuns p (some n) St.lockedOut) s
  let s := (s.endRuns p none St.resetAborted (be 1 level)).freeProblems p none
  s.ops.foldl (fun s o => s.abortOp p level o) s

/-- Groups, program, delta bases and handles go (R76, R182, R198, R219). -/
def State.loseContent (s : State) (p : PartId) : State := (((s.loseGroups p).dropProgram p).loseBases p).losePins p

/-- A partition without a configuration, a batch or a hot block. -/
def Part.emptied (v : Part) : Part :=
  { v with configs := [], staged := none, former := [], prepared := [], hot := [], alarmArmed := true, quiesced := false }

/-- Uncommitted claims of a partition go (R76). -/
def State.loseClaims (s : State) (p : PartId) : State :=
  { s with kr := { s.kr with dir := s.kr.dir.filter fun b => b.committed || b.by_ ≠ p } }

/-- Uncommitted claims, queue pairs and SESSION values go (R76, R341). -/
def State.loseTies (s : State) (p : PartId) : State := (((s.loseClaims p).failQps p).loseSessionClass p).stepIfClosed

/-- The quadrants of a partition zeroed (R40). -/
def State.zeroPart (s : State) (p : PartId) : State := s.zeroQuads (s.partQuads p)

/-- Level 3 in its parts: what ends, what is lost, and memory zeroed at the end. -/
theorem State.resetPartition_eq (s : State) (p : PartId) (level : Nat) (locked : List ChipId) :
    s.resetPartition p level locked =
      ((((s.endWork p level locked).loseContent p).modPart p Part.emptied).loseTies p).zeroPart p := by
  unfold State.resetPartition
  extract_lets requests runs freed work content empty dir claims ties
  have ended : s.endWork p level locked = work := rfl
  have lost : work.loseContent p = content := rfl
  have left : content.modPart p Part.emptied = empty := rfl
  have claimed : empty.loseClaims p = claims := rfl
  rw [ended, lost, left, State.loseTies, claimed, State.zeroPart]

/-- The trays, the running resets and the resets of trays that are to be tried again are as they were. -/
structure KeepsUnits (s t : State) : Prop where
  trays : t.trays = s.trays
  resets : t.resets = s.resets
  retry5 : t.retry5 = s.retry5

namespace KeepsUnits

variable {s t u : State}

theorem refl (s : State) : KeepsUnits s s := ⟨rfl, rfl, rfl⟩

theorem trans (h : KeepsUnits s t) (g : KeepsUnits t u) : KeepsUnits s u :=
  ⟨g.trays.trans h.trays, g.resets.trans h.resets, g.retry5.trans h.retry5⟩

theorem foldl {α : Type} (f : State → α → State) (h : ∀ s a, KeepsUnits s (f s a)) (l : List α) (s : State) :
    KeepsUnits s (l.foldl f s) :=
  foldl_invariant (KeepsUnits s) f (fun b a hb => hb.trans (h b a)) l s (refl s)

theorem of_events (h : EventsOnly s t) : KeepsUnits s t := ⟨h.trays, h.resets, by rw [h]⟩

theorem of_keyring (h : KeyringOnly s t) : KeepsUnits s t := by rw [h]; exact ⟨rfl, rfl, rfl⟩

theorem of_ports (h : PortsOnly s t) : KeepsUnits s t := by rw [h]; exact ⟨rfl, rfl, rfl⟩

theorem of_records (h : RecordsOnly s t) : KeepsUnits s t := by rw [h.frame]; exact ⟨rfl, rfl, rfl⟩

theorem of_loops (h : LoopsOnly s t) : KeepsUnits s t := by rw [h.frame]; exact ⟨rfl, rfl, rfl⟩

theorem modPart (s : State) (p : PartId) (f : Part → Part) : KeepsUnits s (s.modPart p f) :=
  ⟨State.modPart_trays .., State.modPart_resets .., State.modPart_retry5 ..⟩

theorem modChip (s : State) (n : ChipId) (f : Chip → Chip) : KeepsUnits s (s.modChip n f) := ⟨rfl, rfl, rfl⟩

/-! ### The ends of requests, operations and runs -/

theorem dropOrphan (s : State) (r : Request) : KeepsUnits s (s.dropOrphan r) := by
  unfold State.dropOrphan
  split
  · exact refl s
  · exact ⟨rfl, rfl, rfl⟩

theorem endRequest (s : State) (k : KwId) (g : BitVec 64) (st : Nat) (reset : Option Nat) : KeepsUnits s (s.endRequest k g st reset) := by
  unfold State.endRequest
  split
  · exact refl s
  · split
    · extract_lets ended r x y
      have marked : KeepsUnits s x := ⟨rfl, rfl, rfl⟩
      have left : KeepsUnits s y := (marked.trans (modPart x _ _)).trans (of_keyring (KeyringOnly.krSweep _))
      exact (left.trans (of_events (EventsOnly.raiseS ..))).trans (dropOrphan ..)
    · exact refl s

theorem endRequests (s : State) (rs : List Request) (st : Nat) (reset : Option Nat) : KeepsUnits s (s.endRequests rs st reset) :=
  foldl _ (fun s _ => endRequest s ..) _ _

theorem dropOp (s : State) (o : Option Nat) : KeepsUnits s (s.dropOp o) := by
  cases o <;> exact ⟨rfl, rfl, rfl⟩

/-- An operation ends with an event. -/
theorem raisedEnd (s : State) (id : Nat) (e : Ep) (n : SessRef) (c : Nat) (b : List Byte) :
    KeepsUnits s ((s.raiseS e n c b).endOp id) :=
  (of_events (EventsOnly.raiseS ..)).trans ⟨rfl, rfl, rfl⟩

theorem xferEnd (s : State) (o : Op) (st : Nat) (tail : List Byte) : KeepsUnits s (s.xferEnd o st tail) :=
  trans (t := s.endOp o.id) ⟨rfl, rfl, rfl⟩ (of_events (EventsOnly.raiseS ..))

theorem endRun (s : State) (n : ChipId) (run : TmbRun) (st : Nat) (tail : List Byte) : KeepsUnits s (s.endRun n run st tail) := by
  unfold State.endRun
  extract_lets x
  have left : KeepsUnits s x := modChip ..
  split
  · exact left.trans (raisedEnd ..)
  · exact left

theorem endRuns (s : State) (p : PartId) (on : Option ChipId) (st : Nat) (tail : List Byte) :
    KeepsUnits s (s.endRuns p on st tail) :=
  foldl _ (fun s _ => foldl _ (fun s _ => endRun s ..) _ s) _ _

theorem freeProblems (s : State) (p : PartId) (on : Option ChipId) : KeepsUnits s (s.freeProblems p on) := ⟨rfl, rfl, rfl⟩

theorem endHandle (s : State) (k : KwId) (n : Nat) : KeepsUnits s (s.endHandle k n) := of_keyring (KeyringOnly.endHandle ..)

theorem abortOp (s : State) (p : PartId) (level : Nat) (o : Op) : KeepsUnits s (s.abortOp p level o) := by
  have only {c : Prop} [Decidable c] {x : State} (h : KeepsUnits s x) : KeepsUnits s (if c then x else s) := by
    split
    · exact h
    · exact refl s
  unfold State.abortOp
  split
  case h_1 | h_2 | h_3 | h_4 => exact only (xferEnd ..)
  case h_5 =>
    refine only ?_
    extract_lets x
    have left : KeepsUnits s x := raisedEnd ..
    split
    · split
      · exact left.trans (endHandle ..)
      · exact left
    · exact left
  case h_6 => exact only (raisedEnd ..)
  case h_7 | h_8 => exact only ⟨rfl, rfl, rfl⟩
  all_goals exact refl s

/-! ### Groups and programs -/

theorem abortMember (s : State) (p : PartId) (g : Group) (seq i st : Nat) : KeepsUnits s (s.abortMember p g seq i st) := by
  unfold State.abortMember
  split
  · exact refl s
  · split
    · split
      · extract_lets x y
        have stopped : KeepsUnits s y := (modPart s p _).trans (u := y) ⟨rfl, rfl, rfl⟩
        split
        · refine stopped.trans (foldl _ (fun s j => ?_) _ _)
          split
          · exact ⟨rfl, rfl, rfl⟩
          · exact refl s
        · exact stopped
      · exact refl s
    · exact refl s

theorem abortChip (s : State) (p : PartId) (n : ChipId) : KeepsUnits s (s.abortChip p n) := by
  unfold State.abortChip
  split
  · exact refl s
  · refine foldl _ (fun s g => ?_) _ _
    split
    · exact foldl _ (fun s _ => abortMember s ..) _ _
    · exact refl s

theorem abortPart (s : State) (p : PartId) : KeepsUnits s (s.abortPart p) := by
  unfold State.abortPart
  split
  · exact refl s
  · exact foldl _ (fun s n => abortChip s ..) _ _

theorem loseGroups (s : State) (p : PartId) : KeepsUnits s (s.loseGroups p) := (abortPart s p).trans (modPart ..)

theorem reportAbort (s : State) (p : PartId) (g : Nat) (x : Instance) (st : Nat) : KeepsUnits s (s.reportAbort p g x st) := by
  unfold State.reportAbort
  split
  · exact refl s
  · exact trans (t := s.modPart p _) (modPart ..)
      ((of_events (EventsOnly.raisePart ..)).trans (foldl _ (fun s r => endRequest s ..) _ _))

theorem dropGroups (s : State) (p : PartId) : KeepsUnits s (s.dropGroups p) := by
  unfold State.dropGroups
  split
  · exact refl s
  · exact (abortPart s p).trans (foldl _ (fun s g => foldl _ (fun s x => reportAbort s ..) _ s) _ _)

theorem dropProgram (s : State) (p : PartId) : KeepsUnits s (s.dropProgram p) := by
  unfold State.dropProgram
  split
  · exact refl s
  · next v _ =>
    extract_lets ids x y
    have cleared : KeepsUnits s x := trans (t := s.clearCells v) ⟨rfl, rfl, rfl⟩
      (trans (foldl _ (fun s n => modChip s n _) v.chips _) ⟨rfl, rfl, rfl⟩)
    exact cleared.trans ⟨rfl, rfl, rfl⟩

theorem zeroQuads (s : State) (qs : List QuadId) : KeepsUnits s (s.zeroQuads qs) :=
  foldl State.zeroQuad (fun _ _ => ⟨rfl, rfl, rfl⟩) _ _

theorem endXfers (s : State) (p : PartId) : KeepsUnits s (s.endXfers p) := by
  refine foldl _ (fun s o => ?_) _ _
  split
  case h_5 => exact refl s
  all_goals
    split
    · exact xferEnd ..
    · exact refl s

theorem endPart (s : State) (p : PartId) : KeepsUnits s (s.endPart p) := by
  unfold State.endPart
  split
  · exact refl s
  · have ended := (((endRequests s (s.openReqs p) St.cancelled none).trans (endRuns _ p none St.cancelled [])).trans
      (freeProblems _ p none)).trans (dropGroups _ p)
    extract_lets x y z w
    have idle : KeepsUnits s z := (ended.trans (endXfers y p)).trans (dropProgram _ p)
    clear_value z
    exact (idle.trans (u := w) ⟨rfl, rfl, rfl⟩).trans (zeroQuads ..)

/-! ### Settings and turns -/

theorem fitHot (p : PartId) (n : Nat) (s : State) : KeepsUnits s (s.fitHot p n) := by
  induction n generalizing s with
  | zero => exact refl s
  | succ n ih =>
    unfold State.fitHot
    split
    · exact refl s
    · split
      · exact refl s
      · split
        · exact trans (t := s.modPart p _) (modPart ..) (ih _)
        · exact refl s

theorem zeroBetween (s : State) (p : PartId) (old new : Nat) : KeepsUnits s (s.zeroBetween p old new) := by
  refine foldl _ (fun s q => ?_) _ _
  exact ⟨rfl, rfl, rfl⟩

theorem applyChange (s : State) (c : Change) : KeepsUnits s (s.applyChange c) := by
  unfold State.applyChange
  split
  · exact ⟨rfl, rfl, rfl⟩
  · next i =>
    extract_lets k r x
    have drawn : KeepsUnits s (if i.val < 64 then x.drawKey i k.label else x) := by split <;> exact ⟨rfl, rfl, rfl⟩
    exact drawn.trans (of_keyring (KeyringOnly.krSweep _))
  · next key v =>
    have written : KeepsUnits s (s.writeRun key v) := ⟨rfl, rfl, rfl⟩
    split
    · extract_lets old x
      split
      · exact (written.trans (zeroBetween ..)).trans (fitHot ..)
      · split
        · exact written.trans (modPart ..)
        · split
          · exact written.trans (of_loops (LoopsOnly.regulate _))
          · exact written
    · split <;> exact ⟨rfl, rfl, rfl⟩
    · extract_lets x
      split
      · split
        · exact written.trans (of_keyring (KeyringOnly.fitQuota ..))
        · exact written
      · split
        · split <;> exact ⟨rfl, rfl, rfl⟩
        · split
          · exact ⟨rfl, rfl, rfl⟩
          · split
            · exact written.trans (of_loops (LoopsOnly.rebudget _))
            · exact written

theorem applyChanges (s : State) (cs : List Change) : KeepsUnits s (s.applyChanges cs) := foldl _ applyChange _ _

theorem epochTurned (s : State) (p : PartId) (scope : Nat) (also : Option (KwId × SessRef)) :
    KeepsUnits s (s.epochTurned p scope also) :=
  of_events (State.epochTurned_eventsOnly ..)

theorem turnEpochs (s : State) (ps : List PartId) (scope : Nat) (also : Option (KwId × SessRef)) :
    KeepsUnits s (s.turnEpochs ps scope also) :=
  foldl _ (fun s p => trans (t := s.advanceEpoch p) (modPart ..) (epochTurned ..)) _ _

theorem landTurn (s : State) (e : Ep) (n : SessRef) (cs : List Change) (scope : Nat) (accepted : Bool) (start : Nat) :
    KeepsUnits s (s.landTurn e n cs scope accepted start) := by
  unfold State.landTurn
  extract_lets ps x qs y z
  have told : KeepsUnits s y :=
    ((applyChanges s cs).trans (turnEpochs ..)).trans (of_events (State.tellBindings_eventsOnly ..))
  have noted : KeepsUnits s z := by
    refine told.trans ?_
    unfold z
    split
    · exact ⟨rfl, rfl, rfl⟩
    · exact refl y
  split
  · exact noted.trans ⟨rfl, rfl, rfl⟩
  · exact noted

theorem resumeIfFree (s : State) (p : PartId) : KeepsUnits s (s.resumeIfFree p) := by
  unfold State.resumeIfFree
  split
  · split
    · exact ⟨rfl, rfl, rfl⟩
    · exact refl s
  · exact refl s

theorem landWaiting (n : Nat) (s : State) : KeepsUnits s (s.landWaiting n) := by
  induction n generalizing s with
  | zero => exact refl s
  | succ n ih =>
    unfold State.landWaiting
    split
    · exact refl s
    · next t _ =>
      extract_lets x y z
      have started : KeepsUnits s x := ⟨rfl, rfl, rfl⟩
      have landed : KeepsUnits s (y.endOp t.op) := (started.trans (landTurn ..)).trans ⟨rfl, rfl, rfl⟩
      exact (landed.trans (foldl _ resumeIfFree t.parts _)).trans (ih z)

theorem settleTurns (s : State) : KeepsUnits s s.settleTurns := landWaiting _ s

/-! ### A turn rolled back (R357) -/

theorem unshape (s : State) (p : PartId) (before : Option Part) : KeepsUnits s (s.unshape p before) := by
  unfold State.unshape
  split
  · exact (endPart s p).trans ⟨rfl, rfl, rfl⟩
  · exact ((endPart s p).trans (zeroQuads ..)).trans ⟨rfl, rfl, rfl⟩

theorem restoreVal (s : State) (key : SetKey) (v : List Byte) : KeepsUnits s (s.restoreVal key v) := by
  unfold State.restoreVal
  split
  · exact ⟨rfl, rfl, rfl⟩
  · exact (applyChange ..).trans (of_events (State.tellBindings_eventsOnly ..))

theorem releaseHeld (s : State) : KeepsUnits s s.releaseHeld := foldl _ (fun s p => modPart s p _) _ _

theorem turnBack (s : State) (t : Turn) : KeepsUnits s (s.turnBack t) := by
  unfold State.turnBack
  extract_lets r x y undone z w ps v
  have keys : KeepsUnits s x := by
    unfold x
    split
    · exact ⟨rfl, rfl, rfl⟩
    · exact refl s
  have shapes : KeepsUnits s y := keys.trans (foldl _ (fun s e => unshape s ..) _ _)
  have found : KeepsUnits s z :=
    shapes.trans (foldl (fun s (e : SetKey × List Byte) => s.writeRun e.1 e.2) (fun _ _ => ⟨rfl, rfl, rfl⟩) _ _)
  have values : KeepsUnits s w := found.trans (foldl _ (fun s e => restoreVal s ..) _ _)
  refine (values.trans (foldl _ (fun s p => ?_) _ _)).trans (releaseHeld _)
  extract_lets q
  have epoch : KeepsUnits s q := by unfold q; split <;> exact modPart ..
  exact epoch.trans (epochTurned ..)

theorem restoreLatches (s : State) (e : Ep) (n : SessRef) (ls : List Latch) : KeepsUnits s (s.restoreLatches e n ls) :=
  of_events (EventsOnly.modSession ..)

theorem rollBack (s : State) (t : Turn) (missed : List TurnUnit) : KeepsUnits s (s.rollBack t missed) := by
  unfold State.rollBack
  extract_lets codes x y z w v
  have logged : KeepsUnits s w :=
    ((turnBack s t).trans (u := y) ⟨rfl, rfl, rfl⟩).trans ((restoreLatches y t.ep t.session t.latches).trans ⟨rfl, rfl, rfl⟩)
  have dropped : KeepsUnits s v := by
    refine logged.trans ?_
    unfold v
    split
    · exact ⟨rfl, rfl, rfl⟩
    · exact refl w
  exact dropped.trans (settleTurns v)

theorem missByReset (s : State) : KeepsUnits s s.missByReset := by
  unfold State.missByReset
  split
  · exact refl s
  · extract_lets missed
    split
    · exact refl s
    · exact rollBack ..

/-! ### What a reset does to partitions and chips -/

theorem loseBases (s : State) (p : PartId) : KeepsUnits s (s.loseBases p) := by
  refine foldl _ (fun s k => ?_) _ _
  exact ⟨rfl, rfl, rfl⟩

theorem losePins (s : State) (p : PartId) : KeepsUnits s (s.losePins p) := by
  unfold State.losePins
  extract_lets x
  have ended : KeepsUnits s x := foldl _ (fun s k => foldl _ (fun s h => endHandle s ..) _ s) _ _
  exact ended.trans ⟨rfl, rfl, rfl⟩

theorem xferFail (s : State) (o : Op) (requested : Bool) : KeepsUnits s (s.xferFail o requested) := by
  unfold State.xferFail
  split
  · refine trans ?_ (xferEnd ..)
    split
    · exact ⟨rfl, rfl, rfl⟩
    · exact refl s
  · exact xferEnd ..

theorem failQp (s : State) (k : KwId) (qpn : BitVec 24) (syndrome : Byte) : KeepsUnits s (s.failQp k qpn syndrome) := by
  unfold State.failQp
  extract_lets x y
  have told : KeepsUnits s y := trans (t := x) ⟨rfl, rfl, rfl⟩ (of_events (EventsOnly.raiseK ..))
  exact told.trans (foldl _ (fun s e => xferFail s ..) _ _)

theorem failQps (s : State) (p : PartId) : KeepsUnits s (s.failQps p) :=
  foldl _ (fun s _ => foldl _ (fun s _ => failQp s ..) _ s) _ _

theorem setQuality (s : State) (q : Quality) : KeepsUnits s (s.setQuality q) := by
  unfold State.setQuality
  split
  · exact refl s
  · extract_lets c x
    have set : KeepsUnits s x := ⟨rfl, rfl, rfl⟩
    exact set.trans (of_events (EventsOnly.raiseOpen ..))

theorem stepIfClosed (s : State) : KeepsUnits s s.stepIfClosed := by
  unfold State.stepIfClosed
  split
  · unfold State.stepTime
    extract_lets c x z
    have stepped : KeepsUnits s z := ⟨rfl, rfl, rfl⟩
    exact stepped.trans (trans (t := z.log ..) ⟨rfl, rfl, rfl⟩ (setQuality ..))
  · exact refl s

theorem endWork (s : State) (p : PartId) (level : Nat) (locked : List ChipId) : KeepsUnits s (s.endWork p level locked) := by
  have requests := (endRequests s (s.openReqs p) St.resetAborted (some level)).trans
    (foldl (fun s n => s.endRuns p (some n) St.lockedOut) (fun s n => endRuns s ..) locked _)
  have runs := (requests.trans (endRuns _ p none St.resetAborted (be 1 level))).trans (freeProblems _ p none)
  exact runs.trans (foldl _ (fun s o => abortOp s ..) _ _)

theorem loseContent (s : State) (p : PartId) : KeepsUnits s (s.loseContent p) :=
  (((loseGroups s p).trans (dropProgram _ p)).trans (loseBases _ p)).trans (losePins _ p)

theorem loseTies (s : State) (p : PartId) : KeepsUnits s (s.loseTies p) := by
  have claims : KeepsUnits s (s.loseClaims p) := ⟨rfl, rfl, rfl⟩
  have qps := claims.trans (failQps _ p)
  have values : KeepsUnits s (((s.loseClaims p).failQps p).loseSessionClass p) := qps.trans ⟨rfl, rfl, rfl⟩
  exact values.trans (stepIfClosed _)

theorem resetPartition (s : State) (p : PartId) (level : Nat) (locked : List ChipId) :
    KeepsUnits s (s.resetPartition p level locked) := by
  rw [State.resetPartition_eq]
  exact ((((endWork s p level locked).trans (loseContent _ p)).trans (modPart ..)).trans (loseTies _ p)).trans (zeroQuads ..)

theorem boxCounters (s : State) (n : ChipId) : KeepsUnits s (s.boxCounters n) := by
  refine foldl _ (fun s q => ?_) _ _
  exact modChip ..

theorem resetChip (s : State) (n : ChipId) (level : Nat) : KeepsUnits s (s.resetChip n level) := by
  unfold State.resetChip
  extract_lets a b c
  have dark : KeepsUnits s a := (boxCounters s n).trans (of_ports (PortsOnly.setPorts ..))
  have links : KeepsUnits s b := by
    refine dark.trans (foldl _ (fun s q => ?_) _ _)
    exact ⟨rfl, rfl, rfl⟩
  have quads : KeepsUnits s c := by
    refine links.trans (foldl _ (fun s q => ?_) _ _)
    exact ⟨rfl, rfl, rfl⟩
  exact quads.trans (modChip c n _)

theorem loseRunning (s : State) (p : PartId) : KeepsUnits s (s.loseRunning p) := by
  unfold State.loseRunning
  extract_lets x
  have lost : KeepsUnits s x := ⟨rfl, rfl, rfl⟩
  exact lost.trans (modPart ..)

theorem resetChips (s : State) (ns : List ChipId) (level : Nat) (locked : List ChipId) (ps : List PartId) :
    KeepsUnits s (s.resetChips ns level locked ps) := by
  refine trans (foldl _ (fun s p => ?_) _ _) (foldl _ (fun s n => resetChip s ..) _ _)
  have tables : KeepsUnits s ((s.resetPartition p level locked).loseTables p ns) := (resetPartition ..).trans (modPart ..)
  exact tables.trans (loseRunning _ p)

theorem resetContext (s : State) (level : Nat) (p : PartId) : KeepsUnits s (s.resetContext level p) := by
  unfold State.resetContext
  split
  · exact refl s
  · extract_lets a b
    have ended : KeepsUnits s b := (endRequests ..).trans (abortPart ..)
    split
    · exact ended
    · next v _ =>
      extract_lets ids run x y z
      have cleared : KeepsUnits s y := ended.trans ⟨rfl, rfl, rfl⟩
      exact (cleared.trans (foldl _ (fun s n => modChip s n _) _ _)).trans ⟨rfl, rfl, rfl⟩

theorem settleIngest (s : State) (p : PartId) : KeepsUnits s (s.settleIngest p) := by
  unfold State.settleIngest
  split
  · exact refl s
  · extract_lets n
    split
    · exact refl s
    · exact trans (t := s.setPart p _) ⟨rfl, rfl, rfl⟩ (modPart ..)

theorem dumpPart (s : State) (p : PartId) (level detector : Nat) (chip : Option ChipId) (detail : List Byte) :
    KeepsUnits s (s.dumpPart p level detector chip detail) := by
  unfold State.dumpPart
  split
  · exact refl s
  · extract_lets d x
    have counted : KeepsUnits s x := trans (t := s.useFresh 1) ⟨rfl, rfl, rfl⟩ (modPart ..)
    exact counted.trans ⟨rfl, rfl, rfl⟩

theorem loseIngest (s : State) (p : PartId) (ns : List ChipId) (level : Nat) : KeepsUnits s (s.loseIngest p ns level) := by
  unfold State.loseIngest
  split
  · exact refl s
  · split
    · exact foldl _ (fun s k => of_keyring (KeyringOnly.loseEndpoint ..)) _ _
    · exact refl s

theorem raiseReset (s : State) (ps : List PartId) (level : Nat) : KeepsUnits s (s.raiseReset ps level) :=
  foldl _ (fun _ _ => of_events (EventsOnly.raisePart ..)) _ _

theorem escalationNotice (s : State) (p : PartId) (n : ChipId) (level : Nat) : KeepsUnits s (s.escalationNotice p n level) := by
  refine foldl _ (fun s d => ?_) _ _
  split
  · exact refl s
  · exact ⟨rfl, rfl, rfl⟩

end KeepsUnits

end Sys2Proof.Machine
end

section
/-! SUPPORT. The start of a reset, step by step (R318, R319, R322, R323, R326). -/

namespace Sys2Proof.Machine

open Sys2Proof.Safety

/-! ### The steps -/

/-- The running reset of a request that starts now. -/
def State.runOfReq (s : State) (q : ResetReq) : ResetRun :=
  { level := q.level, scope := q.scope, detector := q.detector, chip := q.chip, startOsc := s.osc, startRack := s.rackNs, op := q.op }

/-- RESET_STARTED in the log. -/
def State.logStart (s : State) (q : ResetReq) : State :=
  s.log Lg.resetStarted (scopeUnit q.scope) (le 2 (scopeUnit q.scope).toNat ++ le 1 q.level ++ le 1 q.detector)

/-- A reset enters the list of those that run, logged and counted (R322). -/
def State.openReset (s : State) (q : ResetReq) : State :=
  let s := ((s.logStart q).countReset q).1
  { s with resets := s.resets ++ [s.runOfReq q] }

/-- The count of a reset that starts, 0 where none is kept. -/
def State.startCount (s : State) (q : ResetReq) : Nat := ((s.logStart q).countReset q).2

/-- The chips that a reset locks out (R323). -/
def State.startLocked (s : State) (q : ResetReq) : List ChipId := if locksOut q.level (s.startCount q) then scopeChips q.scope else []

/-- A turn misses the units of a level 4 or 5 (R357). -/
def State.missReset (s : State) (q : ResetReq) : State := if 4 ≤ q.level then s.missByReset else s

/-- A level 5 takes the power of its tray. -/
def State.darkTray (s : State) (x : Scope) : State :=
  match x with
  | .tray t => if (s.tray t).powered then s.trayOff t else s
  | _ => s

/-- The dumps, counts and notices of a reset that starts, and RESET to its keyways (R326, R318). -/
def State.tellReset (s : State) (q : ResetReq) (ps : List PartId) : State :=
  let ns := scopeChips q.scope
  let s := ps.foldl (fun s p => s.dumpPart p q.level q.detector q.chip (s.partDetail p q)) s
  let s := ns.foldl (fun s n => s.dumpChip n q.level q.detector q.detail) s
  let s := ps.foldl (fun s p => s.modPart p fun v => { v with recovery := bump v.recovery (levelCounter q.level) 1 }) s
  let s := match q.level, ps, q.chip with
    | 1, p :: _, some n | 2, p :: _, some n | 3, p :: _, some n => s.escalationNotice p n q.level
    | _, _, _ => s
  let s := if 4 ≤ q.level then ps.foldl (fun s p => s.loseIngest p ns q.level) s else s
  s.raiseReset ps q.level

/-- What a level clears (R76, R318). -/
def State.clearReset (s : State) (q : ResetReq) (ps : List PartId) (locked : List ChipId) : State :=
  match q.level, q.scope with
  | 1, _ => ps.foldl (State.resetContext · 1) s
  | 2, .block _ n b => (ps.foldl (State.resetContext · 2) s).zeroBlock n b
  | 2, _ => ps.foldl (State.resetContext · 2) s
  | 3, _ => ps.foldl (fun s p => s.resetPartition p 3 []) s
  | _, _ => s.resetChips (scopeChips q.scope) q.level locked ps

/-- After a level 4 or 5 without a lockout other chips take the ingest (R28). -/
def State.settleReset (s : State) (q : ResetReq) (ps : List PartId) (locked : List ChipId) : State :=
  if 4 ≤ q.level ∧ locked = [] then ps.foldl State.settleIngest s else s

/-- The lockout of a unit that has been reset too often ends its reset (R323). -/
def State.lockReset (s : State) (q : ResetReq) (count : Nat) : State :=
  if locksOut q.level count then ({ s with resets := s.resets.filter fun r => r.scope ≠ q.scope }.lockOut q.scope count).dropOp q.op else s

/-- A reset starts step by step. -/
theorem State.startReset_eq (s : State) {q : ResetReq} (unit : q.level ≠ 6) :
    s.startReset q =
      ((((((s.openReset q).missReset q).darkTray q.scope).tellReset q (s.scopeParts q.scope)).clearReset q (s.scopeParts q.scope)
        (s.startLocked q)).settleReset q (s.scopeParts q.scope) (s.startLocked q)).lockReset q (s.startCount q) := by
  unfold State.startReset
  rw [if_neg unit]
  extract_lets ps ns c x locked run opened missed dark dumped boxed counted noticed lost told cleared settled
  have opened' : s.openReset q = opened := rfl
  have missed' : opened.missReset q = missed := rfl
  have dark' : missed.darkTray q.scope = dark := rfl
  have told' : dark.tellReset q ps = told := rfl
  have cleared' : told.clearReset q ps locked = cleared := rfl
  have settled' : cleared.settleReset q ps locked = settled := rfl
  rw [opened', missed', dark']
  change _ = (((dark.tellReset q ps).clearReset q ps locked).settleReset q ps locked).lockReset q c.2
  rw [told', cleared', settled']
  rfl

/-! ### What the steps of every level leave -/

theorem RecordsOnly.countReset (s : State) (q : ResetReq) : RecordsOnly s (s.countReset q).1 := by
  unfold State.countReset
  split
  · exact refl s
  · split
    · exact ⟨rfl, rfl⟩
    · exact ⟨rfl, rfl⟩
    · exact refl s

/-- The list of resets with one more, under records. -/
theorem State.openReset_frame (s : State) (q : ResetReq) :
    ∃ t, RecordsOnly s t ∧ s.openReset q = { t with resets := s.resets ++ [t.runOfReq q] } := by
  have counted : RecordsOnly s ((s.logStart q).countReset q).1 := (RecordsOnly.log ..).trans (RecordsOnly.countReset ..)
  refine ⟨_, counted, ?_⟩
  have same : ((s.logStart q).countReset q).1.resets = s.resets := by rw [counted.frame]
  rw [← same]
  rfl

namespace KeepsUnits

theorem tellReset (s : State) (q : ResetReq) (ps : List PartId) : KeepsUnits s (s.tellReset q ps) := by
  unfold State.tellReset
  extract_lets ns dumped boxed counted noticed lost
  have chips : KeepsUnits s boxed := by
    refine (foldl _ (fun s p => dumpPart s ..) _ _).trans (foldl _ (fun s n => ?_) _ _)
    exact ⟨rfl, rfl, rfl⟩
  have bumped : KeepsUnits s counted := chips.trans (foldl _ (fun s p => modPart s ..) _ _)
  have told : KeepsUnits s noticed := by
    refine bumped.trans ?_
    unfold noticed
    split
    case h_4 => exact refl _
    all_goals exact escalationNotice ..
  have gone : KeepsUnits s lost := by
    refine told.trans ?_
    unfold lost
    split
    · exact foldl _ (fun s p => loseIngest s ..) _ _
    · exact refl _
  exact gone.trans (raiseReset ..)

theorem clearReset (s : State) (q : ResetReq) (ps : List PartId) (locked : List ChipId) : KeepsUnits s (s.clearReset q ps locked) := by
  unfold State.clearReset
  split
  · exact foldl _ (fun s p => resetContext s ..) _ _
  · exact (foldl _ (fun s p => resetContext s ..) _ _).trans ⟨rfl, rfl, rfl⟩
  · exact foldl _ (fun s p => resetContext s ..) _ _
  · exact foldl _ (fun s p => resetPartition s ..) _ _
  · exact resetChips ..

theorem missReset (s : State) (q : ResetReq) : KeepsUnits s (s.missReset q) := by
  unfold State.missReset
  split
  · exact missByReset s
  · exact refl s

theorem settleReset (s : State) (q : ResetReq) (ps : List PartId) (locked : List ChipId) : KeepsUnits s (s.settleReset q ps locked) := by
  unfold State.settleReset
  split
  · exact foldl _ settleIngest _ _
  · exact refl s

end KeepsUnits

namespace KeepsLoaded

open KeepsPart

theorem dumpPart (s : State) (p : PartId) (level detector : Nat) (chip : Option ChipId) (detail : List Byte) :
    KeepsLoaded s (s.dumpPart p level detector chip detail) := by
  unfold State.dumpPart
  split
  · exact refl s
  · extract_lets d x
    have counted : KeepsLoaded s x := trans (t := s.useFresh 1) (of_parts rfl) (modPart _ _ fun _ => rfl)
    exact counted.trans (of_parts rfl)

theorem escalationNotice (s : State) (p : PartId) (n : ChipId) (level : Nat) : KeepsLoaded s (s.escalationNotice p n level) := by
  refine foldl _ (fun s d => ?_) _ _
  split
  · exact refl s
  · exact of_parts rfl

/-- The notices of a level 1, 2 or 3 leave what is loaded. -/
theorem tellReset (s : State) {q : ResetReq} (low : q.level < 4) (ps : List PartId) : KeepsLoaded s (s.tellReset q ps) := by
  unfold State.tellReset
  extract_lets ns dumped boxed counted noticed lost
  have same : lost = noticed := if_neg (by omega)
  have chips : KeepsLoaded s boxed := by
    refine (foldl _ (fun s p => dumpPart s ..) _ _).trans (foldl _ (fun s n => ?_) _ _)
    exact of_parts rfl
  have bumped : KeepsLoaded s counted := by
    refine chips.trans (foldl _ (fun s p => modPart s p ?_) _ _)
    exact fun _ => rfl
  have told : KeepsLoaded s noticed := by
    refine bumped.trans ?_
    unfold noticed
    split
    case h_4 => exact refl _
    all_goals exact escalationNotice ..
  rw [same]
  exact told.trans (foldl _ (fun s p => of_parts (EventsOnly.raisePart ..).parts) _ _)

end KeepsLoaded

theorem State.tellReset_hbm (s : State) {q : ResetReq} (low : q.level < 4) (ps : List PartId) : (s.tellReset q ps).hbm = s.hbm := by
  unfold State.tellReset
  extract_lets ns dumped boxed counted noticed lost
  have same : lost = noticed := if_neg (by omega)
  have bumped : counted.hbm = s.hbm :=
    (foldl_keeps _ State.hbm (fun s p => State.modPart_hbm ..) _ _).trans
      ((foldl_keeps _ State.hbm (fun s n => State.dumpChip_hbm ..) _ _).trans
        (foldl_keeps _ State.hbm (fun s p => State.dumpPart_hbm ..) _ _))
  have told : noticed.hbm = counted.hbm := by
    unfold noticed
    split
    case h_4 => rfl
    all_goals exact State.escalationNotice_hbm ..
  rw [same]
  exact (State.raiseReset_hbm ..).trans (told.trans bumped)

/-! ### Levels 1 to 3 act on a partition -/

theorem locksOut_low {level : Nat} (low : level < 4) (count : Nat) : locksOut level count = false := by
  simp only [locksOut, Bool.or_eq_false_iff, Bool.and_eq_false_iff, decide_eq_false_iff_not]
  omega

/-- A level 1, 2 or 3 opens, tells and clears. -/
theorem State.startReset_low (s : State) {q : ResetReq} (low : q.level < 4) (scope : ∀ y, q.scope ≠ .tray y) :
    s.startReset q =
      ((s.openReset q).tellReset q (s.scopeParts q.scope)).clearReset q (s.scopeParts q.scope) [] := by
  have missed (t : State) : t.missReset q = t := if_neg (by omega)
  have lit (t : State) : t.darkTray q.scope = t := by
    unfold State.darkTray
    split
    · next y here => exact absurd here (scope y)
    · rfl
  have settled (t : State) (ps : List PartId) : t.settleReset q ps [] = t := if_neg (by omega)
  have unlocked (t : State) (n : Nat) : t.lockReset q n = t := by
    rw [State.lockReset, locksOut_low low]
    exact if_neg (by simp)
  have none : s.startLocked q = [] := by
    rw [State.startLocked, locksOut_low low]
    exact if_neg (by simp)
  rw [State.startReset_eq s (by omega), none, missed, lit, settled, unlocked]

/-- What stands before a level 1, 2 or 3 clears: the partition with what it has loaded, memory, and the reset in its list. -/
structure Opened (s t : State) (q : ResetReq) : Prop where
  loaded : KeepsLoaded s t
  hbm : t.hbm = s.hbm
  resets : ∃ r : ResetRun, t.resets = s.resets ++ [r] ∧ r.level = q.level ∧ r.scope = q.scope ∧ r.startOsc = s.osc

theorem State.openReset_opened (s : State) {q : ResetReq} (low : q.level < 4) (ps : List PartId) :
    Opened s ((s.openReset q).tellReset q ps) q := by
  obtain ⟨t, records, opened⟩ := s.openReset_frame q
  have parts : (s.openReset q).parts = s.parts := by rw [opened, records.frame]
  have clk : t.clk = s.clk := by rw [records.frame]
  have resets : (s.openReset q).resets = s.resets ++ [t.runOfReq q] := by rw [opened]
  refine ⟨(KeepsPart.of_parts parts).trans (KeepsLoaded.tellReset _ low ps), ?_, t.runOfReq q, ?_, rfl, rfl, ?_⟩
  · rw [State.tellReset_hbm _ low, opened, records.frame]
  · exact (KeepsUnits.tellReset ..).resets.trans resets
  · exact congrArg Clock.osc clk

/-- A level 1 or 2 ends with the partition's record written: no wave, no taken batch, what it had loaded; its sends are gone. -/
theorem State.resetContext_eq {s : State} {p : PartId} {v : Part} (part : s.part p = some v) (level : Nat) :
    ∃ (t : State) (w : Part), s.resetContext level p = t.setPart p (some w) ∧ w.taken = none ∧ w.waves = [] ∧ w.loaded = v.loaded ∧
      ∀ x ∈ t.sends, x.part ≠ p := by
  unfold State.resetContext
  split
  · next gone => exact absurd (part.symm.trans gone) nofun
  · next v₀ here =>
    extract_lets ended aborted
    obtain ⟨w, there, kept⟩ :=
      ((KeepsLoaded.endRequests s _ St.resetAborted (some level)).trans (KeepsLoaded.abortPart ended p)).part_of part
    split
    · next gone => exact absurd (there.symm.trans gone) nofun
    · next w₀ here' =>
      obtain rfl := Option.some.inj (there.symm.trans here')
      extract_lets ids run cleared y z
      refine ⟨z, _, rfl, rfl, rfl, kept, ?_⟩
      have sends : z.sends = y.sends := by
        refine foldl_keeps _ State.sends (fun s n => ?_) _ _
        rfl
      rw [sends]
      exact fun x mem => by simpa using (List.mem_filter.1 mem).2

/-- A level 1 or 2 leaves a partition without a wave, a taken batch or a send, and with what it had loaded. -/
theorem State.part_resetContext {s : State} {p : PartId} {v : Part} (part : s.part p = some v) (level : Nat) :
    ∃ w, (s.resetContext level p).part p = some w ∧ w.taken = none ∧ w.waves = [] ∧ w.loaded = v.loaded ∧
      ∀ x ∈ (s.resetContext level p).sends, x.part ≠ p := by
  obtain ⟨t, w, eq, taken, waves, kept, sends⟩ := State.resetContext_eq part level
  refine ⟨w, ?_, taken, waves, kept, ?_⟩
  · rw [eq, State.part_setPart_self]
  · rw [eq]
    exact sends

/-- Level 1 of a partition (R76). -/
theorem State.startReset_part {s : State} {q : ResetReq} {p : PartId} {v : Part} (idle : s.resets = []) (level : q.level = 1)
    (scope : q.scope = .part p) (mine : s.scopeParts (.part p) = [p]) (part : s.part p = some v) :
    ∃ w r, (s.startReset q).part p = some w ∧ w.taken = none ∧ w.waves = [] ∧ w.loaded = v.loaded ∧ (s.startReset q).resets = [r] ∧
      r.level = 1 ∧ r.scope = .part p ∧ r.startOsc = s.osc ∧ (∀ x ∈ (s.startReset q).sends, x.part ≠ p) ∧
      (s.startReset q).hbm = s.hbm := by
  have low : q.level < 4 := by omega
  obtain ⟨loaded, hbm, r, resets, rl, rs, ro⟩ := s.openReset_opened low [p]
  obtain ⟨w', there, kept'⟩ := loaded.part_of part
  obtain ⟨w, left, taken, waves, kept, sends⟩ := State.part_resetContext there 1
  have eq : s.startReset q = ((s.openReset q).tellReset q [p]).resetContext 1 p := by
    rw [s.startReset_low low (by simp [scope]), scope, mine]
    simp only [State.clearReset, level, List.foldl_cons, List.foldl_nil]
  rw [eq]
  refine ⟨w, r, left, taken, waves, kept.trans kept', ?_, rl.trans level, rs.trans scope, ro, sends, ?_⟩
  · rw [(KeepsUnits.resetContext ..).resets, resets, idle, List.nil_append]
  · rw [State.resetContext_hbm, hbm]

theorem State.zeroBlock_resets (s : State) (n : ChipId) (b : Fin 640) : (s.zeroBlock n b).resets = s.resets := rfl

/-- Level 2 of a block (R76). -/
theorem State.startReset_block {s : State} {q : ResetReq} {p : PartId} {n : ChipId} {b : Fin 640} {v : Part} (idle : s.resets = [])
    (level : q.level = 2) (scope : q.scope = .block p n b) (mine : s.scopeParts (.block p n b) = [p]) (part : s.part p = some v) :
    ∃ w r, (s.startReset q).part p = some w ∧ w.taken = none ∧ w.waves = [] ∧ w.loaded = v.loaded ∧ (s.startReset q).resets = [r] ∧
      r.level = 2 ∧ r.startOsc = s.osc ∧ (∀ x ∈ (s.startReset q).bufs, x.1 ≠ (n, b)) ∧ (∀ x ∈ (s.startReset q).acc, x.1 ≠ (n, b)) ∧
      (s.startReset q).hbm = s.hbm := by
  have low : q.level < 4 := by omega
  obtain ⟨loaded, hbm, r, resets, rl, -, ro⟩ := s.openReset_opened low [p]
  obtain ⟨w', there, kept'⟩ := loaded.part_of part
  obtain ⟨w, left, taken, waves, kept, -⟩ := State.part_resetContext there 2
  have eq : s.startReset q = (((s.openReset q).tellReset q [p]).resetContext 2 p).zeroBlock n b := by
    rw [s.startReset_low low (by simp [scope]), scope, mine]
    simp only [State.clearReset, level, scope, List.foldl_cons, List.foldl_nil]
  rw [eq]
  refine ⟨w, r, left, taken, waves, kept.trans kept', ?_, rl.trans level, ro, ?_, ?_, ?_⟩
  · rw [State.zeroBlock_resets, (KeepsUnits.resetContext ..).resets, resets, idle, List.nil_append]
  · exact fun x mem => by simpa using (List.mem_filter.1 mem).2
  · exact fun x mem => by simpa using (List.mem_filter.1 mem).2
  · rw [State.zeroBlock_hbm, State.resetContext_hbm, hbm]

/-! ### Level 3 empties a partition -/

namespace KeepsPart

variable {β : Type} {f : Part → β}

theorem endHandle (kept : ∀ v hot, f { v with hot := hot } = f v) (s : State) (k : KwId) (n : Nat) : KeepsPart f s (s.endHandle k n) := by
  unfold State.endHandle
  extract_lets busy
  split
  · exact of_parts rfl
  · exact trans (t := s.modKw k _) (of_parts rfl) (krSweep kept _)

theorem loseBases (s : State) (p : PartId) : KeepsPart f s (s.loseBases p) := by
  refine foldl _ (fun s k => ?_) _ _
  exact of_parts rfl

theorem losePins (kept : ∀ v hot, f { v with hot := hot } = f v) (s : State) (p : PartId) : KeepsPart f s (s.losePins p) := by
  unfold State.losePins
  extract_lets x
  have ended : KeepsPart f s x := foldl _ (fun s k => foldl _ (fun s h => endHandle kept s ..) _ s) _ _
  exact ended.trans (of_parts rfl)

theorem xferEnd (s : State) (o : Op) (st : Nat) (tail : List Byte) : KeepsPart f s (s.xferEnd o st tail) :=
  trans (t := s.endOp o.id) (of_parts rfl) (of_parts (EventsOnly.raiseS ..).parts)

theorem xferFail (s : State) (o : Op) (requested : Bool) : KeepsPart f s (s.xferFail o requested) := by
  unfold State.xferFail
  split
  · refine trans ?_ (xferEnd ..)
    split
    · exact of_parts rfl
    · exact refl s
  · exact xferEnd ..

theorem failQp (s : State) (k : KwId) (qpn : BitVec 24) (syndrome : Byte) : KeepsPart f s (s.failQp k qpn syndrome) := by
  unfold State.failQp
  extract_lets x y
  have told : KeepsPart f s y := trans (t := x) (of_parts rfl) (of_parts (EventsOnly.raiseK ..).parts)
  exact told.trans (foldl _ (fun s e => xferFail s ..) _ _)

/-- A step of rack time ends the periods of every partition. -/
theorem stepIfClosed (kept : ∀ now v, f (endPeriod now v) = f v) (s : State) : KeepsPart f s s.stepIfClosed := by
  have quality (s : State) (q : Quality) : KeepsPart f s (s.setQuality q) := by
    unfold State.setQuality
    split
    · exact refl s
    · exact trans (t := { s with clk := { s.clk with quality := q } }) (of_parts rfl) (of_parts (EventsOnly.raiseOpen ..).parts)
  unfold State.stepIfClosed
  split
  · unfold State.stepTime
    extract_lets c x z
    have stepped : KeepsPart f s z := mapParts (fun v => kept x.rackNs v) rfl
    exact (stepped.trans (of_parts (t := z.log ..) rfl)).trans (quality ..)
  · exact refl s

/-- The ties of a partition with the Keyring, its queue pairs and settings go, and its record stays. -/
theorem loseTies (kept : ∀ now v, f (endPeriod now v) = f v) (s : State) (p : PartId) : KeepsPart f s (s.loseTies p) := by
  have claims : KeepsPart f s (s.loseClaims p) := of_parts rfl
  have qps := claims.trans (foldl _ (fun s k => foldl _ (fun s q => failQp s ..) _ s) _ _ : KeepsPart f _ ((s.loseClaims p).failQps p))
  have values : KeepsPart f s (((s.loseClaims p).failQps p).loseSessionClass p) := qps.trans (of_parts rfl)
  exact values.trans (stepIfClosed kept _)

end KeepsPart

namespace KeepsLoaded

open KeepsPart

theorem endRuns (s : State) (p : PartId) (on : Option ChipId) (st : Nat) (tail : List Byte) : KeepsLoaded s (s.endRuns p on st tail) :=
  of_parts (State.endRuns_parts ..)

theorem freeProblems (s : State) (p : PartId) (on : Option ChipId) : KeepsLoaded s (s.freeProblems p on) := of_parts rfl

theorem abortOp (s : State) (p : PartId) (level : Nat) (o : Op) : KeepsLoaded s (s.abortOp p level o) := by
  have only {c : Prop} [Decidable c] {x : State} (h : KeepsLoaded s x) : KeepsLoaded s (if c then x else s) := by
    split
    · exact h
    · exact refl s
  have raised (id : Nat) (e : Ep) (n : SessRef) (c : Nat) (b : List Byte) : KeepsLoaded s ((s.raiseS e n c b).endOp id) :=
    (of_parts (EventsOnly.raiseS ..).parts).trans (of_parts rfl)
  unfold State.abortOp
  split
  case h_1 | h_2 | h_3 | h_4 => exact only (xferEnd ..)
  case h_5 =>
    refine only ?_
    extract_lets x
    have left : KeepsLoaded s x := raised ..
    split
    · split
      · exact left.trans (endHandle (fun _ _ => rfl) ..)
      · exact left
    · exact left
  case h_6 => exact only (raised ..)
  case h_7 | h_8 => exact only (of_parts rfl)
  all_goals exact refl s

theorem endWork (s : State) (p : PartId) (level : Nat) (locked : List ChipId) : KeepsLoaded s (s.endWork p level locked) := by
  have requests := (endRequests s (s.openReqs p) St.resetAborted (some level)).trans
    (foldl (fun s n => s.endRuns p (some n) St.lockedOut) (fun s n => endRuns s ..) locked _)
  have runs := (requests.trans (endRuns _ p none St.resetAborted (be 1 level))).trans
    (freeProblems _ p none)
  exact runs.trans (foldl _ (fun s o => abortOp s ..) _ _)

end KeepsLoaded

/-- What the loss of a partition's content fixes: its place, that nothing runs, and groups that go. -/
def Part.stopped (v : Part) : Shape × ProgState × List Group := (v.shape, v.prog, v.groups)

/-- The groups that are left are going (R183). -/
theorem Part.reapGroups_dying (v : Part) :
    ∀ g ∈ ({ v with groups := v.groups.map fun g => { g with dying := true } } : Part).reapGroups.groups, g.dying = true := by
  intro g mem
  obtain ⟨g', -, rfl⟩ := List.mem_map.1 (List.mem_filter.1 mem).1
  rfl

theorem State.part_loseContent {s : State} {p : PartId} {v : Part} (part : s.part p = some v) :
    ∃ w, (s.loseContent p).part p = some w ∧ w.shape = v.shape ∧ w.prog = .idle ∧ ∀ g ∈ w.groups, g.dying = true := by
  obtain ⟨w, there, kept⟩ := (KeepsLoaded.abortPart s p).part_of part
  have lost : (s.loseGroups p).part p = some ({ w with groups := w.groups.map fun g => { g with dying := true } } : Part).reapGroups := by
    rw [State.loseGroups, State.part_modPart, if_pos rfl, there, Option.map_some]
  have dropped := State.part_dropProgram_eq lost
  obtain ⟨x, left, same⟩ := ((KeepsPart.loseBases (f := Part.stopped) _ p).trans (KeepsPart.losePins (fun _ _ => rfl) _ p)).part_of dropped
  simp only [Part.stopped, Prod.mk.injEq] at same
  obtain ⟨shape, prog, groups⟩ := same
  refine ⟨x, left, shape.trans (Part.loaded_eq_iff.1 kept).1, prog, ?_⟩
  rw [groups]
  exact w.reapGroups_dying

/-- What an emptied partition is judged by. -/
def Part.bare (v : Part) : Shape × ProgState × List Group × List Configuration × List HotBlock :=
  (v.shape, v.prog, v.groups, v.configs, v.hot)

/-- A level 3 leaves a partition in its place, idle, without configurations and hot blocks, its groups going and its memory zero. -/
theorem State.part_resetPartition {s : State} {p : PartId} {v : Part} (part : s.part p = some v) (level : Nat) (locked : List ChipId) :
    ∃ w, (s.resetPartition p level locked).part p = some w ∧ w.prog = .idle ∧ w.configs = [] ∧ (∀ g ∈ w.groups, g.dying = true) ∧
      w.hot = [] ∧ w.shape = v.shape ∧
      ∀ x ∈ v.shape.quads, ∀ off, off < 2 ^ 36 → Memory.read (s.resetPartition p level locked).hbm (hbmAddr x off) = 0 := by
  obtain ⟨a, ended, kept⟩ := (KeepsLoaded.endWork s p level locked).part_of part
  obtain ⟨b, lost, shape, prog, groups⟩ := State.part_loseContent ended
  have empty : (((s.endWork p level locked).loseContent p).modPart p Part.emptied).part p = some b.emptied := by
    rw [State.part_modPart, if_pos rfl, lost, Option.map_some]
  obtain ⟨w, left, same⟩ := (KeepsPart.loseTies (f := Part.bare) (fun _ _ => rfl) _ p).part_of empty
  simp only [Part.bare, Prod.mk.injEq] at same
  obtain ⟨shape', prog', groups', configs, hot⟩ := same
  have place : w.shape = v.shape := shape'.trans (shape.trans (Part.loaded_eq_iff.1 kept).1)
  rw [State.resetPartition_eq]
  refine ⟨w, ?_, prog'.trans prog, configs, ?_, hot, place, ?_⟩
  · rw [State.part, State.zeroPart, State.zeroQuads, foldl_keeps State.zeroQuad State.parts (fun s q => rfl)]
    exact left
  · rw [groups']
    exact groups
  · intro x mem off bound
    refine read_zeroQuads _ _ x ?_ off bound
    rw [State.partQuads, left, Option.map_some, Option.getD_some, place]
    exact mem

/-- Level 3 of a partition (R76, R318). -/
theorem State.startReset_wholePart {s : State} {q : ResetReq} {p : PartId} {v : Part} (idle : s.resets = []) (level : q.level = 3)
    (scope : q.scope = .part p) (mine : s.scopeParts (.part p) = [p]) (part : s.part p = some v) :
    ∃ w r, (s.startReset q).part p = some w ∧ w.prog = .idle ∧ w.configs = [] ∧ (∀ g ∈ w.groups, g.dying = true) ∧ w.hot = [] ∧
      w.shape = v.shape ∧ (s.startReset q).resets = [r] ∧ r.level = 3 ∧ r.startOsc = s.osc ∧
      ∀ x ∈ v.shape.quads, ∀ off, off < 2 ^ 36 → Memory.read (s.startReset q).hbm (hbmAddr x off) = 0 := by
  have low : q.level < 4 := by omega
  obtain ⟨loaded, -, r, resets, rl, -, ro⟩ := s.openReset_opened low [p]
  obtain ⟨v', there, kept⟩ := loaded.part_of part
  have place : v'.shape = v.shape := (Part.loaded_eq_iff.1 kept).1
  obtain ⟨w, left, prog, configs, groups, hot, shape, zero⟩ := State.part_resetPartition there 3 []
  have eq : s.startReset q = ((s.openReset q).tellReset q [p]).resetPartition p 3 [] := by
    rw [s.startReset_low low (by simp [scope]), scope, mine]
    simp only [State.clearReset, level, List.foldl_cons, List.foldl_nil]
  rw [eq]
  refine ⟨w, r, left, prog, configs, groups, hot, shape.trans place, ?_, rl.trans level, ro, place ▸ zero⟩
  rw [(KeepsUnits.resetPartition ..).resets, resets, idle, List.nil_append]

end Sys2Proof.Machine
end

section
/-! SUPPORT. Levels 4 and 5: chips that are reset, trays that go dark (R76, R97, R318, R323). -/

namespace Sys2Proof.Machine

open Sys2Proof.Safety

/-! ### Trays that are dark stay so -/

/-- A tray without power gets none, and the resets of trays to be tried again are as they were. -/
structure KeepsDark (s t : State) : Prop where
  dark : ∀ y, (s.tray y).powered = false → (t.tray y).powered = false
  retry5 : t.retry5 = s.retry5

namespace KeepsDark

variable {s t u : State}

theorem of_units (h : KeepsUnits s t) : KeepsDark s t := ⟨fun y off => by rw [State.tray_of_trays h.trays, off], h.retry5⟩

theorem refl (s : State) : KeepsDark s s := of_units (KeepsUnits.refl s)

theorem trans (h : KeepsDark s t) (g : KeepsDark t u) : KeepsDark s u :=
  ⟨fun y off => g.dark y (h.dark y off), g.retry5.trans h.retry5⟩

theorem foldl {α : Type} (f : State → α → State) (h : ∀ s a, KeepsDark s (f s a)) (l : List α) (s : State) :
    KeepsDark s (l.foldl f s) :=
  foldl_invariant (KeepsDark s) f (fun b a hb => hb.trans (h b a)) l s (refl s)

/-- A tray is cut. -/
theorem cutTray (s : State) (y : TrayId) {f : Tray → Tray} (off : ∀ x, (f x).powered = false) : KeepsDark s (s.modTray y f) := by
  refine ⟨fun z dark => ?_, rfl⟩
  rw [State.tray_modTray]
  split
  · exact off _
  · exact dark

theorem trayOff (s : State) (y : TrayId) : KeepsDark s (s.trayOff y) := by
  obtain ⟨t, records, -, ports⟩ := State.trayOff_frame (s := s) y
  have cut : KeepsDark t (t.modTray y fun x => { x with powered := false }) := cutTray t y fun _ => rfl
  have marked : KeepsDark t { t.modTray y fun x => { x with powered := false } with place := { s.place with due := true } } :=
    ⟨cut.dark, cut.retry5⟩
  exact ((of_units (KeepsUnits.of_records records)).trans marked).trans (of_units (KeepsUnits.of_ports ports))

theorem darkTray (s : State) (x : Scope) : KeepsDark s (s.darkTray x) := by
  unfold State.darkTray
  split
  · split
    · exact trayOff ..
    · exact refl s
  · exact refl s

end KeepsDark

theorem State.trayOff_dark (s : State) (y : TrayId) : ((s.trayOff y).tray y).powered = false := by
  obtain ⟨t, -, -, ports⟩ := State.trayOff_frame (s := s) y
  have same : (s.trayOff y).tray y = (t.modTray y fun x => { x with powered := false }).tray y :=
    State.tray_of_trays (KeepsUnits.of_ports ports).trays y
  rw [same, State.tray_modTray_self]

theorem State.darkTray_dark (s : State) (y : TrayId) : ((s.darkTray (.tray y)).tray y).powered = false := by
  unfold State.darkTray
  dsimp only
  split
  · exact s.trayOff_dark y
  · next off => exact Bool.eq_false_iff.2 off

/-! ### Chips that are reset -/

/-- A chip that a level 4 or 5 has gone through: out of service, its clock slow, its calendar and identities gone (R97, R318). -/
structure Chip.IsReset (c : Chip) (level : Nat) : Prop where
  power : c.power = .locked ∨ level = 5 ∧ c.power = .off
  divider : c.divider = 4
  mtxGate : c.mtxGate = false
  cal : c.cal = []
  seen : c.seen = []
  last : c.lastResetLevel = level

theorem Chip.requestDivider_divider (c : Chip) (d now : Nat) : (c.requestDivider d now).divider = d := by
  unfold Chip.requestDivider
  split
  · rfl
  · split
    · next same => exact same.symm
    · rfl

theorem State.chip_resetChip_self (s : State) (n : ChipId) (level : Nat) : ((s.resetChip n level).chip n).IsReset level := by
  unfold State.resetChip
  extract_lets dark links quads
  rw [State.chip_modChip_self]
  refine ⟨?_, Chip.requestDivider_divider .., rfl, rfl, rfl, rfl⟩
  dsimp only
  split
  · next off => exact .inr ⟨by simpa using (Bool.and_eq_true_iff.1 off).1, rfl⟩
  · exact .inl rfl

theorem State.setPorts_chips (s : State) (n : ChipId) (up : Bool) : (s.setPorts n up).chips = s.chips := by
  refine foldl_keeps _ State.chips (fun s p => ?_) _ _
  unfold State.setLink State.modBoth
  split <;> rfl

/-- Another chip stays as it was. -/
theorem State.chip_resetChip_of_ne (s : State) {n m : ChipId} (other : m ≠ n) (level : Nat) : (s.resetChip n level).chip m = s.chip m := by
  have boxed : (s.boxCounters n).chip m = s.chip m := by
    refine foldl_keeps _ (fun s : State => s.chip m) (fun s p => ?_) _ _
    rw [State.bbox, State.chip_modChip, if_neg other]
  unfold State.resetChip
  extract_lets dark links quads
  have ports : dark.chip m = s.chip m := (State.chip_of_chips (State.setPorts_chips ..) m).trans boxed
  have counted : links.chips = dark.chips := by
    refine foldl_keeps _ State.chips (fun s p => ?_) _ _
    rfl
  have released : quads.chips = links.chips := by
    refine foldl_keeps _ State.chips (fun s p => ?_) _ _
    rfl
  rw [State.chip_modChip, if_neg other, State.chip_of_chips (released.trans counted), ports]

theorem State.chip_foldl_resetChip_of_not_mem {ns : List ChipId} {n : ChipId} (out : n ∉ ns) (s : State) (level : Nat) :
    (ns.foldl (State.resetChip · · level) s).chip n = s.chip n := by
  induction ns generalizing s with
  | nil => rfl
  | cons m ns ih =>
    obtain ⟨other, out⟩ := not_or.1 (fun h => out (List.mem_cons.2 h))
    rw [List.foldl_cons, ih out, State.chip_resetChip_of_ne _ other]

/-- Every chip of a list is reset. -/
theorem State.chip_foldl_resetChip {ns : List ChipId} {n : ChipId} (mem : n ∈ ns) (s : State) (level : Nat) :
    ((ns.foldl (State.resetChip · · level) s).chip n).IsReset level := by
  induction ns generalizing s with
  | nil => exact absurd mem nofun
  | cons m ns ih =>
    rw [List.foldl_cons]
    by_cases later : n ∈ ns
    · exact ih later _
    · obtain rfl : n = m := (List.mem_cons.1 mem).resolve_right later
      rw [State.chip_foldl_resetChip_of_not_mem later]
      exact State.chip_resetChip_self ..

theorem State.chip_resetChips (s : State) {ns : List ChipId} {n : ChipId} (mem : n ∈ ns) (level : Nat) (locked : List ChipId)
    (ps : List PartId) : ((s.resetChips ns level locked ps).chip n).IsReset level :=
  State.chip_foldl_resetChip mem ..

/-! ### After a level 4 or 5: ingest and lockout -/

/-- Every chip is as it was, or was only locked. -/
structure LocksChips (s t : State) : Prop where
  chip : ∀ n, t.chip n = s.chip n ∨ t.chip n = { s.chip n with power := .locked }

namespace LocksChips

variable {s t u : State}

theorem of_chips (h : t.chips = s.chips) : LocksChips s t := ⟨fun n => .inl (State.chip_of_chips h n)⟩

theorem refl (s : State) : LocksChips s s := of_chips rfl

theorem trans (h : LocksChips s t) (g : LocksChips t u) : LocksChips s u := by
  refine ⟨fun n => ?_⟩
  rcases h.chip n with a | a <;> rcases g.chip n with b | b <;> simp [a, b]

theorem foldl {α : Type} (f : State → α → State) (h : ∀ s a, LocksChips s (f s a)) (l : List α) (s : State) :
    LocksChips s (l.foldl f s) :=
  foldl_invariant (LocksChips s) f (fun b a hb => hb.trans (h b a)) l s (refl s)

/-- A chip that has been reset stands so under a lock. -/
theorem isReset (h : LocksChips s t) {n : ChipId} {level : Nat} (reset : (s.chip n).IsReset level) : (t.chip n).IsReset level := by
  rcases h.chip n with same | locked
  · rwa [same]
  · rw [locked]
    exact ⟨.inl rfl, reset.divider, reset.mtxGate, reset.cal, reset.seen, reset.last⟩

theorem settleIngest (s : State) (p : PartId) : LocksChips s (s.settleIngest p) := by
  unfold State.settleIngest
  split
  · exact refl s
  · extract_lets n
    split
    · exact refl s
    · exact of_chips (State.modPart_chips ..)

theorem lockChip (s : State) (n : ChipId) : LocksChips s ((s.modChip n fun c => { c with power := .locked }).setPorts n false) := by
  refine trans (t := s.modChip n fun c => { c with power := .locked }) ⟨fun m => ?_⟩ (of_chips (State.setPorts_chips ..))
  rw [State.chip_modChip]
  split
  · next same => exact .inr (by rw [same])
  · exact .inl rfl

end LocksChips

/-- Chips are locked at most, and trays lose power at most. -/
structure LocksOnly (s t : State) : Prop where
  chips : LocksChips s t
  dark : KeepsDark s t

namespace LocksOnly

variable {s t u : State}

theorem of_units (chips : t.chips = s.chips) (units : KeepsUnits s t) : LocksOnly s t := ⟨.of_chips chips, .of_units units⟩

theorem refl (s : State) : LocksOnly s s := ⟨.refl s, .refl s⟩

theorem trans (h : LocksOnly s t) (g : LocksOnly t u) : LocksOnly s u := ⟨h.chips.trans g.chips, h.dark.trans g.dark⟩

theorem foldl {α : Type} (f : State → α → State) (h : ∀ s a, LocksOnly s (f s a)) (l : List α) (s : State) : LocksOnly s (l.foldl f s) :=
  foldl_invariant (LocksOnly s) f (fun b a hb => hb.trans (h b a)) l s (refl s)

theorem modPart (s : State) (p : PartId) (f : Part → Part) : LocksOnly s (s.modPart p f) :=
  of_units (State.modPart_chips ..) (.modPart ..)

theorem lockChip (s : State) (n : ChipId) : LocksOnly s ((s.modChip n fun c => { c with power := .locked }).setPorts n false) :=
  ⟨.lockChip s n, .of_units ((KeepsUnits.modChip s n _).trans (.of_ports (PortsOnly.setPorts ..)))⟩

theorem copyBoxes (s : State) (ns : List ChipId) : LocksOnly s (s.copyBoxes ns) := by
  have records := RecordsOnly.copyBoxes s ns
  exact of_units (by rw [records.frame]) (.of_records records)

theorem checkService (s : State) : LocksOnly s s.checkService := by
  unfold State.checkService
  split
  · have due : LocksOnly s { s with serviceDue := true } := of_units rfl ⟨rfl, rfl, rfl⟩
    have told := EventsOnly.foldl _ (fun s k => EventsOnly.raiseK s k Ev.serviceDue [1]) (List.finRange 64) { s with serviceDue := true }
    exact due.trans (of_units told.chips (.of_events told))
  · exact refl s

theorem lockOut (s : State) (x : Scope) (count : Nat) : LocksOnly s (s.lockOut x count) := by
  unfold State.lockOut
  extract_lets listed ns chips copied asked waits
  have list : LocksOnly s listed := by
    unfold listed
    split <;> exact of_units rfl ⟨rfl, rfl, rfl⟩
  have lock : LocksOnly s chips := list.trans (foldl _ lockChip _ _)
  clear_value chips
  have copy : LocksOnly s copied := by
    refine lock.trans ?_
    unfold copied
    split
    · exact copyBoxes ..
    · exact ⟨.of_chips rfl, .cutTray _ _ fun _ => rfl⟩
    · exact refl _
  clear_value copied
  have ask : LocksOnly s asked := copy.trans (of_units (t := asked) rfl ⟨rfl, rfl, rfl⟩)
  have wait : LocksOnly s waits := ask.trans (foldl _ (fun s p => modPart s p _) _ _)
  exact wait.trans (checkService _)

theorem lockReset (s : State) (q : ResetReq) (count : Nat) : LocksOnly s (s.lockReset q count) := by
  unfold State.lockReset
  split
  · have ended : LocksOnly s { s with resets := s.resets.filter fun r => r.scope ≠ q.scope } :=
      ⟨.of_chips rfl, fun _ => id, rfl⟩
    have dropped (t : State) : LocksOnly t (t.dropOp q.op) := of_units (by cases q.op <;> rfl) (.dropOp ..)
    exact (ended.trans (lockOut ..)).trans (dropped _)
  · exact refl s

theorem settleReset (s : State) (q : ResetReq) (ps : List PartId) (locked : List ChipId) :
    LocksOnly s (s.settleReset q ps locked) := by
  refine ⟨?_, .of_units (.settleReset ..)⟩
  unfold State.settleReset
  split
  · exact .foldl _ LocksChips.settleIngest _ _
  · exact .refl s

end LocksOnly

/-! ### Levels 4 and 5 -/

theorem State.clearReset_high (s : State) {q : ResetReq} (high : 4 ≤ q.level) (ps : List PartId) (locked : List ChipId) :
    s.clearReset q ps locked = s.resetChips (scopeChips q.scope) q.level locked ps := by
  unfold State.clearReset
  split <;> first | omega | rfl

/-- The chips of a scope that starts a level 4 or 5 are reset. -/
theorem State.chip_startReset (s : State) {q : ResetReq} (high : 4 ≤ q.level) (unit : q.level ≠ 6) {n : ChipId}
    (mem : n ∈ scopeChips q.scope) :
    ((s.startReset q).chip n).IsReset q.level := by
  rw [State.startReset_eq s unit, State.clearReset_high _ high]
  exact ((LocksOnly.settleReset ..).trans (LocksOnly.lockReset ..)).chips.isReset (State.chip_resetChips _ mem ..)

/-- What follows the power of a tray leaves dark trays dark. -/
theorem State.startReset_keepsDark (s : State) {q : ResetReq} (unit : q.level ≠ 6) :
    KeepsDark (((s.openReset q).missReset q).darkTray q.scope) (s.startReset q) := by
  rw [State.startReset_eq s unit]
  exact (KeepsDark.of_units ((KeepsUnits.tellReset ..).trans (.clearReset ..))).trans
    ((LocksOnly.settleReset ..).trans (LocksOnly.lockReset ..)).dark

/-- The resets of trays to be tried again are as they were. -/
theorem State.startReset_retry5 (s : State) {q : ResetReq} (unit : q.level ≠ 6) : (s.startReset q).retry5 = s.retry5 := by
  obtain ⟨t, records, opened⟩ := s.openReset_frame q
  have open5 : (s.openReset q).retry5 = s.retry5 := by rw [opened, records.frame]
  exact (s.startReset_keepsDark unit).retry5.trans (((KeepsDark.of_units (.missReset ..)).trans (.darkTray ..)).retry5.trans open5)

/-- Level 4 of a chip (R97, R318). -/
theorem State.startReset_chip (s : State) {q : ResetReq} {n : ChipId} (level : q.level = 4) (scope : q.scope = .chip n) :
    ((s.startReset q).chip n).IsReset 4 :=
  level ▸ s.chip_startReset (by omega) (by omega) (by simp [scope, scopeChips])

/-- Level 5 of a tray (R318): the tray is dark, its chips out of service. -/
theorem State.startReset_tray (s : State) {q : ResetReq} {y : TrayId} (level : q.level = 5) (scope : q.scope = .tray y) :
    ((s.startReset q).tray y).powered = false ∧ ∀ n ∈ trayChips y, ((s.startReset q).chip n).power ≠ .up := by
  refine ⟨(s.startReset_keepsDark (by omega)).dark y ?_, fun n mem up => ?_⟩
  · rw [scope]
    exact State.darkTray_dark ..
  · have reset := s.chip_startReset (q := q) (n := n) (by omega) (by omega) (by rw [scope]; exact mem)
    rcases reset.power with locked | ⟨-, off⟩
    · exact absurd (locked.symm.trans up) nofun
    · exact absurd (off.symm.trans up) nofun

/-- Level 6 (R318). -/
theorem State.startReset_rack (s : State) {q : ResetReq} (level : q.level = 6) :
    (s.startReset q).ready = false ∧ (s.startReset q).rmu.commanded = true ∧ (s.startReset q).hbm = [] ∧
      ∀ p, (s.startReset q).part p = none := by
  have eq : s.startReset q = (s.logStart q).rackOff.modRmu fun m => { m with commanded := true } := by
    unfold State.startReset
    exact if_pos level
  have down := (s.logStart q).rackOff_isDown
  generalize (s.logStart q).rackOff = t at eq down
  rw [eq]
  exact ⟨down.ready, rfl, down.hbm, down.part⟩

end Sys2Proof.Machine
end

section
/-! SUPPORT. Requests taken, and the ends of resets (R76, R318 to R320, R323). -/

namespace Sys2Proof.Machine

open Sys2Proof.Safety

/-! ### A request is taken -/

/-- With no reset running a request whose unit is there starts. -/
theorem State.takeRequest_start {s : State} {q : ResetReq} (idle : s.resets = []) (live : s.moot q = false) :
    s.takeRequest q = s.startReset q := by
  have met : s.met q = [] := by simp only [State.met, idle, List.filter_nil]
  have same : { s with resets := s.resets.filter fun r => !([] : List ResetRun).contains r } = s := by
    have all : (s.resets.filter fun r => !([] : List ResetRun).contains r) = s.resets := by rw [idle, List.filter_nil]
    rw [all]
  unfold State.takeRequest
  split
  · next r found => exact absurd (List.mem_of_find?_eq_some found) (by simp [idle])
  · simp only [met, live, List.all_nil, if_true, Bool.false_eq_true, if_false, List.foldl_nil, same]

theorem exec_resetStarted {s : State} {q : ResetReq} (t : Nat) (idle : s.resets = [])
    (found : s.resetReqs.find? (s.tick t).takeable = some q) (fresh : (s.tick t).recurs q = none) (live : (s.tick t).moot q = false) :
    exec (.resetStarted t) s = .next (State.startReset { s.tick t with resetReqs := s.resetReqs.erase q } q) := by
  change execResetStarted t s = _
  have found' : (s.tick t).resetReqs.find? (s.tick t).takeable = some q := found
  have fresh' : State.recurs { s.tick t with resetReqs := (s.tick t).resetReqs.erase q } q = none := fresh
  have taken : State.takeRequest { s.tick t with resetReqs := (s.tick t).resetReqs.erase q } q = _ := State.takeRequest_start idle live
  simp only [execResetStarted, found', fresh', taken]
  rfl

/-! ### Units back in service -/

/-- Everything but links, switches and partitions is as it was. -/
def LinksOnly (s t : State) : Prop := t = { s with links := t.links, sw := t.sw, parts := t.parts }

namespace LinksOnly

variable {s t u : State}

theorem refl (s : State) : LinksOnly s s := rfl

theorem trans (h : LinksOnly s t) (g : LinksOnly t u) : LinksOnly s u := by
  unfold LinksOnly at *
  rw [g, h]

theorem foldl {α : Type} (f : State → α → State) (h : ∀ s a, LinksOnly s (f s a)) (l : List α) (s : State) :
    LinksOnly s (l.foldl f s) :=
  foldl_invariant (LinksOnly s) f (fun b a hb => hb.trans (h b a)) l s (refl s)

theorem trays (h : LinksOnly s t) : t.trays = s.trays := by rw [h]

theorem setPorts (s : State) (n : ChipId) (up : Bool) : LinksOnly s (s.setPorts n up) := by
  refine foldl _ (fun s p => ?_) _ _
  unfold State.setLink State.modBoth
  split <;> rfl

theorem retrain (s : State) (n : ChipId) : LinksOnly s (s.retrain n) := by
  refine foldl _ (fun s p => ?_) _ _
  unfold State.modSides State.modFar
  split <;> rfl

theorem modPart (s : State) (p : PartId) (f : Part → Part) : LinksOnly s (s.modPart p f) := by
  unfold State.modPart
  split <;> rfl

theorem settleIngest (s : State) (p : PartId) : LinksOnly s (s.settleIngest p) := by
  unfold State.settleIngest
  split
  · exact refl s
  · extract_lets n
    split
    · exact refl s
    · exact trans (t := s.setPart p _) rfl (modPart ..)

end LinksOnly

theorem State.chip_foldl_up {ns : List ChipId} {n : ChipId} (mem : n ∈ ns) (s : State) :
    ((ns.foldl (fun s n => s.modChip n fun c => { c with power := .up }) s).chip n).power = .up := by
  induction ns generalizing s with
  | nil => exact absurd mem nofun
  | cons m ns ih =>
    rw [List.foldl_cons]
    rcases List.mem_cons.1 mem with rfl | later
    · refine foldl_invariant (fun s : State => (s.chip n).power = .up) _ (fun s k up => ?_) ns _ (by rw [State.chip_modChip_self])
      rw [State.chip_modChip]
      split
      · rfl
      · exact up
    · exact ih later _

/-- What the return of a unit leaves as it was, and what it brings back. -/
structure BackUp (s t : State) (x : Scope) : Prop where
  resets : t.resets = s.resets
  clk : t.clk = s.clk
  cfg : t.cfg = s.cfg
  chips : ∀ n ∈ scopeChips x, s.chipLocked n = false → s.chipHeldOut n = false → (t.chip n).power = .up
  tray : ∀ y, x = .tray y → s.heldOut (unitTray y) = false → (t.tray y).powered = true

theorem State.backInService_backUp (s : State) (r : ResetRun) : BackUp s (s.backInService r) r.scope := by
  unfold State.backInService
  extract_lets lit ns up linked
  have links : LinksOnly up linked := .foldl _ (fun s n => (LinksOnly.setPorts s n true).trans (.retrain _ n)) _ _
  have ends : LinksOnly up (if ns = [] then linked else
      (linked.scopeParts r.scope).foldl (fun s p => if (s.part p).any Part.waiting then s else s.settleIngest p) linked) := by
    split
    · exact links
    · refine links.trans (.foldl _ (fun s p => ?_) _ _)
      split
      · exact .refl s
      · exact .settleIngest s p
  have litFrame : lit = { s with trays := lit.trays } := by
    unfold lit
    split
    · split <;> rfl
    · rfl
  have upUnits : KeepsUnits lit up := .foldl _ (fun s n => .modChip s n _) _ _
  have upClk : up.clk = lit.clk := by
    refine foldl_keeps _ State.clk (fun s n => ?_) _ _
    rfl
  have upCfg : up.cfg = lit.cfg := by
    refine foldl_keeps _ State.cfg (fun s n => ?_) _ _
    rfl
  refine ⟨?_, ?_, ?_, fun n mem free mine => ?_, fun y here mine => ?_⟩
  · rw [ends, upUnits.resets, litFrame]
  · rw [ends]
    exact upClk.trans (by rw [litFrame])
  · rw [ends]
    exact upCfg.trans (by rw [litFrame])
  · have listed : n ∈ ns := by
      refine List.mem_filter.2 ⟨mem, ?_⟩
      have free' : lit.chipLocked n = false := by rw [litFrame]; exact free
      have mine' : lit.chipHeldOut n = false := by rw [litFrame]; exact mine
      rw [free', mine']
      rfl
    rw [State.chip_of_chips (by rw [ends])]
    exact State.chip_foldl_up listed lit
  · have on : (lit.tray y).powered = true := by
      unfold lit
      rw [here]
      simp only [mine, Bool.false_eq_true, if_false, State.tray_modTray_self]
    have same := State.tray_of_trays (ends.trays.trans upUnits.trays) y
    rw [same, on]

/-! ### The end of a reset (R319, R320) -/

/-- The window that a reset's end opens (R320). -/
def State.windowOf (s : State) (r : ResetRun) (x : Scope) : Window :=
  { level := r.level, scope := x, chip := r.chip, endOsc := s.osc + s.rackSet 0x0902#16 * 1000000 }

/-- A reset leaves the list of those that run. -/
def State.dropReset (s : State) (x : Scope) : State := { s with resets := s.resets.filter fun y => y.scope ≠ x }

/-- RESET_DONE in the log. -/
def State.logDone (s : State) (r : ResetRun) (x : Scope) : State :=
  s.log Lg.resetDone (scopeUnit x) (le 2 (scopeUnit x).toNat ++ le 1 r.level ++ le 4 ((s.osc - r.startOsc) / 1000))

/-- The window of a reset in place of its scope's older one. -/
def State.openWindow (s : State) (r : ResetRun) (x : Scope) : State :=
  { s with windows := s.windows.filter (fun (y : Window) => y.scope ≠ x) ++ [s.windowOf r x] }

/-- The state that a done reset leaves: its units in service, its window open, its operation ended. -/
def State.endReset (s : State) (r : ResetRun) (x : Scope) : State :=
  (((((s.dropReset x).backInService r).logDone r x)).openWindow r x).dropOp r.op

theorem exec_resetDone {s : State} {x : Scope} {r : ResetRun} (t : Nat) (found : (s.resets.find? fun r => r.scope = x) = some r)
    (free : (s.tick t).resetHeld r = false) (ok : Bool) :
    exec (.resetDone t x ok) s =
      if r.startOsc + resetDeadlineNs r.level < (s.tick t).osc then .next ((s.tick t).failRun r 0)
      else if !ok then .next ((s.tick t).failRun r 2) else .next ((s.tick t).endReset r x).settleTurns := by
  change execResetDone t x ok s = _
  have found' : ((s.tick t).resets.find? fun r => r.scope = x) = some r := found
  unfold execResetDone
  extract_lets a
  change (match (s.tick t).resets.find? fun r => r.scope = x with | none => _ | some r => _) = _
  rw [found']
  dsimp only
  rw [if_neg (by rw [show a = s.tick t from rfl, free]; nofun)]
  rfl

theorem exec_resetDeadline {s : State} {x : Scope} {r : ResetRun} (t : Nat) (found : (s.resets.find? fun r => r.scope = x) = some r)
    (free : (s.tick t).resetHeld r = false) (late : r.startOsc + resetDeadlineNs r.level ≤ (s.tick t).osc) :
    exec (.resetDeadline t x) s = .next ((s.tick t).failRun r 0) := by
  change execResetDeadline t x s = _
  have found' : ((s.tick t).resets.find? fun r => r.scope = x) = some r := found
  simp only [execResetDeadline, found', free, late, decide_true, Bool.not_false, Bool.and_self, if_true]

/-- What a done reset leaves (R319, R320). -/
theorem State.endReset_spec (s : State) {r : ResetRun} {x : Scope} (here : r.scope = x) :
    (∀ y ∈ (s.endReset r x).resets, y.scope ≠ x) ∧ s.windowOf r x ∈ (s.endReset r x).windows ∧
      (∀ o, r.op = some o → (s.endReset r x).op? o = none) ∧
      (∀ n ∈ scopeChips x, s.chipLocked n = false → s.chipHeldOut n = false → ((s.endReset r x).chip n).power = .up) ∧
      (∀ y, x = .tray y → s.heldOut (unitTray y) = false → ((s.endReset r x).tray y).powered = true) ∧
      (s.endReset r x).hbm = s.hbm := by
  obtain ⟨resets, clk, cfg, chips, tray⟩ := here ▸ (s.dropReset x).backInService_backUp r
  unfold State.endReset
  generalize back : (s.dropReset x).backInService r = t at *
  have hbm : t.hbm = s.hbm := by rw [← back, State.backInService_hbm, State.dropReset]
  have window : (t.logDone r x).windowOf r x = s.windowOf r x := by
    have same : t.rackSet 0x0902#16 = s.rackSet 0x0902#16 := by
      simp only [State.rackSet, State.setNum, State.setVal, cfg]
      rfl
    have osc : t.osc = s.osc := congrArg Clock.osc clk
    change ({ level := r.level, scope := x, chip := r.chip, endOsc := t.osc + t.rackSet 0x0902#16 * 1000000 } : Window) = _
    rw [same, osc]
    rfl
  have dropped : KeepsUnits ((t.logDone r x).openWindow r x) (((t.logDone r x).openWindow r x).dropOp r.op) := .dropOp ..
  refine ⟨?_, ?_, ?_, ?_, ?_, ?_⟩
  · rw [dropped.resets]
    change ∀ y ∈ t.resets, y.scope ≠ x
    rw [resets]
    exact fun y mem => by simpa using (List.mem_filter.1 mem).2
  · have same : (((t.logDone r x).openWindow r x).dropOp r.op).windows = ((t.logDone r x).openWindow r x).windows := by
      cases r.op <;> rfl
    rw [same, ← window]
    exact List.mem_append_right _ (List.mem_singleton_self _)
  · intro o op
    rw [op]
    exact State.op?_endOp ..
  · intro n mem free mine
    have same : (((t.logDone r x).openWindow r x).dropOp r.op).chips = t.chips := by cases r.op <;> rfl
    rw [State.chip_of_chips same]
    exact chips n mem free mine
  · intro y unit mine
    rw [State.tray_of_trays (dropped.trays.trans (rfl : _ = t.trays))]
    exact tray y unit mine
  · have same : (((t.logDone r x).openWindow r x).dropOp r.op).hbm = t.hbm := by cases r.op <;> rfl
    rw [same, hbm]

/-! ### A level that follows another (R320) -/

/-- The request that follows a failed level. -/
def State.trayReq (s : State) (y : TrayId) (chip : Option ChipId) : ResetReq :=
  { level := 5, scope := .tray y, detector := 10, chip := chip, op := none, firedAt := s.osc, detail := [] }

/-- A level 5 that is asked for while no reset runs starts, unless its tray is locked out (R318, R323). -/
theorem State.takeRequest_tray {s : State} {y : TrayId} (idle : s.resets = []) (free : s.lockedTrays.contains y = false) (now : State)
    (chip : Option ChipId) :
    s.takeRequest (now.trayReq y chip) = s.startReset (now.trayReq y chip) := State.takeRequest_start idle free

/-- A level 4 that has failed goes on as level 5 of its tray. -/
theorem State.failRun_chip {s : State} {r : ResetRun} {n : ChipId} (idle : s.resets = [r]) (level : r.level = 4) (scope : r.scope = .chip n)
    (free : s.lockedTrays.contains (trayOf n) = false) :
    ((s.failRun r 0).tray (trayOf n)).powered = false ∧ ∀ m ∈ trayChips (trayOf n), ((s.failRun r 0).chip m).power ≠ .up := by
  unfold State.failRun
  extract_lets ended
  have none : ended.resets = [] := by simp [ended, idle]
  have dropped : KeepsUnits ended (ended.dropOp r.op) := .dropOp ..
  have locked : (ended.dropOp r.op).lockedTrays = s.lockedTrays := by cases r.op <;> rfl
  generalize ended.dropOp r.op = a at dropped locked
  unfold State.failLevel
  extract_lets logged failed
  have kept : KeepsUnits a failed := KeepsUnits.trans (t := logged) ⟨rfl, rfl, rfl⟩ (.foldl _ (fun s p => .modPart s p _) _ _)
  have same : failed.lockedTrays = a.lockedTrays :=
    (foldl_keeps _ State.lockedTrays (fun s p => State.modPart_lockedTrays ..) _ _).trans rfl
  have next : failed.nextLevel r.level r.scope r.chip Option.none = some (5, .tray (trayOf n)) := by rw [level, scope]; rfl
  rw [next]
  dsimp only
  have idle' : failed.resets = [] := kept.resets.trans (dropped.resets.trans none)
  have free' : failed.lockedTrays.contains (trayOf n) = false := by rw [same, locked, free]
  have start := State.takeRequest_tray idle' free' failed r.chip
  unfold State.trayReq at start
  rw [start]
  exact State.startReset_tray failed rfl rfl

/-- A level 5 that has failed is tried again after 60 s. -/
theorem exec_level5Retry {s : State} {y : TrayId} {e : TrayId × Nat} (t : Nat) (found : (s.retry5.find? fun e => e.1 = y) = some e)
    (due : e.2 + 60000000000 ≤ (s.tick t).osc) (idle : s.resets = []) (free : s.lockedTrays.contains y = false) :
    ∃ a : State, exec (.level5Retry t y) s = .next (a.startReset (a.trayReq y none)) ∧ ∀ z ∈ a.retry5, z.1 ≠ y := by
  let a : State := { s.tick t with retry5 := (s.tick t).retry5.filter fun x => x.1 ≠ y }
  have start : a.takeRequest (a.trayReq y none) = a.startReset (a.trayReq y none) :=
    State.takeRequest_tray (s := a) idle free a none
  refine ⟨a, ?_, fun z mem => by simpa using (List.mem_filter.1 mem).2⟩
  have found' : ((s.tick t).retry5.find? fun e => e.1 = y) = some e := found
  change execLevel5Retry t y s = _
  simp only [execLevel5Retry, found', due, if_true]
  exact congrArg Host.Outcome.next start

theorem State.failRun_late {s : State} {x : Scope} {r : ResetRun} (t : Nat) (found : (s.resets.find? fun r => r.scope = x) = some r)
    (free : (s.tick t).resetHeld r = false) (late : r.startOsc + resetDeadlineNs r.level < (s.tick t).osc) (ok : Bool) :
    exec (.resetDone t x ok) s = .next ((s.tick t).failRun r 0) ∧ exec (.resetDeadline t x) s = .next ((s.tick t).failRun r 0) := by
  refine ⟨?_, exec_resetDeadline t found free late.le⟩
  rw [exec_resetDone t found free, if_pos late]

/-! ### Windows pass -/

/-- With no request waiting, the windows of a scope that have passed go, and the others stay (R320). -/
theorem exec_escalateWindowExpiry {s : State} (t : Nat) (x : Scope) (none : s.resetReqs = []) :
    ∃ u, exec (.escalateWindowExpiry t x) s = .next u ∧ (∀ w ∈ u.windows, w.scope = x → (s.tick t).osc ≤ w.endOsc) ∧
      (∀ w ∈ s.windows, w.scope ≠ x ∨ (s.tick t).osc ≤ w.endOsc → w ∈ u.windows) ∧ u.parts = s.parts ∧ u.hbm = s.hbm := by
  refine ⟨_, rfl, fun w mem here => ?_, fun w mem kept => ?_, rfl, rfl⟩
  · have stays := (List.mem_filter.1 mem).2
    simpa [none, here] using stays
  · refine List.mem_filter.2 ⟨mem, ?_⟩
    rcases kept with other | open_
    · simp [other]
    · simp [open_]

end Sys2Proof.Machine
end

section
/-! SUPPORT. The obligation on resets (R76, R318 to R320, R323). -/

namespace Sys2Proof.Machine

/-! ### Units that are there to be reset -/

theorem State.moot_part {s : State} {q : ResetReq} {p : PartId} {v : Part} (scope : q.scope = .part p) (part : s.part p = some v) :
    s.moot q = false := by
  simp only [State.moot, scope, part, Option.isNone_some]

theorem State.moot_block {s : State} {q : ResetReq} {p : PartId} {n : ChipId} {b : Fin 640} {v : Part} (scope : q.scope = .block p n b)
    (part : s.part p = some v) : s.moot q = false := by
  simp only [State.moot, scope, part, Option.isNone_some]

theorem State.moot_chip {s : State} {q : ResetReq} {n : ChipId} (scope : q.scope = .chip n) (free : s.chipLocked n = false)
    (on : (s.chip n).power ≠ .off) : s.moot q = false := by
  simp only [State.moot, scope, free, on, decide_false, Bool.or_self]

theorem State.moot_tray {s : State} {q : ResetReq} {y : TrayId} (scope : q.scope = .tray y) (free : s.lockedTrays.contains y = false) :
    s.moot q = false := by
  simp only [State.moot, scope, free]

theorem State.moot_rack {s : State} {q : ResetReq} (scope : q.scope = .rack) : s.moot q = false := by
  simp only [State.moot, scope]

/-- Settles O55: a request starts by its level; a reset ends, fails or goes over to its tray; windows pass. -/
theorem resetsRun : Obligations.ResetsRun := by
  intro s t a
  refine ⟨fun q idle found fresh => ?starts, fun x r found free => ⟨fun inTime => ⟨?failed, ?done⟩, State.failRun_late t found free⟩,
    ?late4, ?retried, fun x none => exec_escalateWindowExpiry t x none⟩
  case starts =>
    let b : State := { a with resetReqs := s.resetReqs.erase q }
    have start (live : a.moot q = false) : exec (.resetStarted t) s = .next (b.startReset q) := exec_resetStarted t idle found fresh live
    refine ⟨?level1, ?level2, ?level3, ?level4, ?level5, ?level6⟩
    case level1 =>
      intro p v level scope mine part
      obtain ⟨w, r, left, taken, waves, kept, rest⟩ := State.startReset_part (s := b) idle level scope mine part
      obtain ⟨shape, configs, running⟩ := Part.loaded_eq_iff.1 kept
      exact ⟨_, w, r, start (State.moot_part scope part), left, taken, waves, shape, configs, running, rest⟩
    case level2 =>
      intro p v n k level scope mine part
      obtain ⟨w, r, left, taken, waves, kept, rest⟩ := State.startReset_block (s := b) idle level scope mine part
      obtain ⟨shape, configs, -⟩ := Part.loaded_eq_iff.1 kept
      exact ⟨_, w, r, start (State.moot_block scope part), left, taken, waves, shape, configs, rest⟩
    case level3 =>
      intro p v level scope mine part
      obtain ⟨w, r, rest⟩ := State.startReset_wholePart (s := b) idle level scope mine part
      exact ⟨_, w, r, start (State.moot_part scope part), rest⟩
    case level4 =>
      intro n level scope free on
      obtain ⟨power, divider, mtxGate, cal, seen, last⟩ := b.startReset_chip level scope
      have locked := power.resolve_right fun h => absurd h.1 (by decide)
      exact ⟨_, start (State.moot_chip scope free on), locked, divider, mtxGate, cal, seen, last⟩
    case level5 =>
      intro y level scope free
      exact ⟨_, start (State.moot_tray scope free), b.startReset_tray level scope⟩
    case level6 =>
      intro level scope
      exact ⟨_, start (State.moot_rack scope), b.startReset_rack level⟩
  case failed => rw [exec_resetDone t found free, if_neg (Nat.not_lt.2 inTime)]; rfl
  case done =>
    have here : r.scope = x := by simpa using List.find?_some found
    obtain ⟨resets, window, op, chips, tray, hbm⟩ := a.endReset_spec here
    refine ⟨a.endReset r x, a.windowOf r x, ?_, resets, window, rfl, rfl, rfl, op, chips, tray, hbm⟩
    rw [exec_resetDone t found free, if_neg (Nat.not_lt.2 inTime), if_neg nofun]
  case late4 =>
    intro n r idle level scope cool late free
    have found : (s.resets.find? fun r => r.scope = .chip n) = some r := by simp [idle, scope]
    have cool' : (a.chip n).tripped = [] := cool
    have held : a.resetHeld r = false := by simp only [State.resetHeld, scope, cool', List.isEmpty_nil, Bool.not_true]
    have due : r.startOsc + resetDeadlineNs r.level ≤ a.osc := by rw [level]; exact late
    exact ⟨_, exec_resetDeadline t found held due, State.failRun_chip (s := a) idle level scope free⟩
  case retried =>
    intro y e found due idle free
    obtain ⟨b, ran, gone⟩ := exec_level5Retry t found due idle free
    have same : (b.startReset (b.trayReq y none)).retry5 = b.retry5 := b.startReset_retry5 (show 5 ≠ 6 by decide)
    exact ⟨_, ran, same ▸ gone, b.startReset_tray rfl rfl⟩

end Sys2Proof.Machine
end

section
/-! SUPPORT. What the sensor hub and the records of a chip's cooling leave of it, and the steps of its loop (R85, R86, R269 to R273). -/

namespace Sys2Proof.Machine

/-! ### Units and settings in a state whose tables are the same -/

namespace State

variable {s t : State}

theorem quad_of_quads (h : t.quads = s.quads) (q : QuadId) : t.quad q = s.quad q := by rw [quad, h, quad]

theorem milli_of_cfg (h : t.cfg = s.cfg) (id : BitVec 16) : t.milli id = s.milli id := by
  simp only [milli, rackSet, setNum, setVal, h]

end State

/-! ### The hub and the records of a chip -/

/-- A chip but for the hub's readings, the instant it was last hot, and its black box. -/
def Chip.bare (c : Chip) : Chip := { c with junctions := [], stackTemps := [], railMa := 0, hotAt := 0, bb := [], bseq := 0 }

/-- The hub reads a chip and records are made: another chip is as it was, and this one but for its readings and its black box. -/
structure WatchesChip (n : ChipId) (s t : State) : Prop where
  frame : t = { s with rmu := t.rmu, kws := t.kws, opr := t.opr, out := t.out, fresh := t.fresh, chips := t.chips }
  others : ∀ m, m ≠ n → t.chip m = s.chip m
  bare : (t.chip n).bare = (s.chip n).bare

namespace WatchesChip

variable {n : ChipId} {s t u : State}

theorem refl (s : State) : WatchesChip n s s := ⟨rfl, fun _ _ => rfl, rfl⟩

theorem trans (h : WatchesChip n s t) (g : WatchesChip n t u) : WatchesChip n s u :=
  ⟨by rw [g.frame, h.frame], fun m other => (g.others m other).trans (h.others m other), g.bare.trans h.bare⟩

theorem foldl {α : Type} (f : State → α → State) (h : ∀ s a, WatchesChip n s (f s a)) (l : List α) (s : State) :
    WatchesChip n s (l.foldl f s) :=
  foldl_invariant (WatchesChip n s) f (fun b a hb => hb.trans (h b a)) l s (refl s)

theorem of_records (h : RecordsOnly s t) : WatchesChip n s t := by
  have chips : t.chips = s.chips := by rw [h.frame]
  exact ⟨by rw [h.frame], fun m _ => State.chip_of_chips chips m, congrArg Chip.bare (State.chip_of_chips chips n)⟩

theorem modChip (s : State) {f : Chip → Chip} (same : (f (s.chip n)).bare = (s.chip n).bare) : WatchesChip n s (s.modChip n f) :=
  ⟨rfl, fun m other => (s.chip_modChip n m f).trans (if_neg other), by rw [State.chip_modChip_self, same]⟩

theorem bbox (s : State) (c k : Nat) (d : List Byte) : WatchesChip n s (s.bbox n c k d) := by
  unfold State.bbox
  exact modChip s (by simp only [Chip.bare])

theorem logChip (s : State) (c : Nat) (m : ChipId) (d : List Byte) : WatchesChip n s (s.logChip c m d) := of_records ⟨rfl, rfl⟩

theorem overrideChip (s : State) (m : ChipId) : WatchesChip n s (s.overrideChip m) := by
  refine foldl _ (fun s p => ?_) _ _
  split
  · exact of_records (RecordsOnly.override ..)
  · split
    · exact of_records (RecordsOnly.override ..)
    · exact refl s

theorem logHbm (s : State) (i : Nat) (temp : Int) (isSet : Bool) : WatchesChip n s (s.logHbm n i temp isSet) :=
  (logChip s _ n _).trans (bbox ..)

theorem sample (s : State) (x : SensorId) (v : Int) : WatchesChip n s (s.sample n x v) := by
  have sampled (c : Chip) (rail : Nat) : (c.sampled x v rail).bare = c.bare := by cases x <;> rfl
  exact (modChip s (sampled ..)).trans (of_records ⟨rfl, rfl⟩)

theorem stillHot (s : State) : WatchesChip n s (s.stillHot n) := by
  unfold State.stillHot
  split
  · exact modChip s rfl
  · exact refl s

section Fields

variable (h : WatchesChip n s t)
include h

theorem clk : t.clk = s.clk := by rw [h.frame]
theorem osc : t.osc = s.osc := congrArg Clock.osc h.clk
theorem parts : t.parts = s.parts := by rw [h.frame]
theorem hbm : t.hbm = s.hbm := by rw [h.frame]
theorem quads : t.quads = s.quads := by rw [h.frame]
theorem resetReqs : t.resetReqs = s.resetReqs := by rw [h.frame]
theorem milli (id : BitVec 16) : t.milli id = s.milli id := State.milli_of_cfg (by rw [h.frame]) id
theorem power : (t.chip n).power = (s.chip n).power := (congrArg Chip.power h.bare :)
theorem divider : (t.chip n).divider = (s.chip n).divider := (congrArg Chip.divider h.bare :)
theorem powerDiv : (t.chip n).powerDiv = (s.chip n).powerDiv := (congrArg Chip.powerDiv h.bare :)
theorem mtxGate : (t.chip n).mtxGate = (s.chip n).mtxGate := (congrArg Chip.mtxGate h.bare :)
theorem thermSteps : (t.chip n).thermSteps = (s.chip n).thermSteps := (congrArg Chip.thermSteps h.bare :)
theorem lastStep : (t.chip n).lastStep = (s.chip n).lastStep := (congrArg Chip.lastStep h.bare :)
theorem failed : (t.chip n).failed = (s.chip n).failed := (congrArg Chip.failed h.bare :)
theorem tripped : (t.chip n).tripped = (s.chip n).tripped := (congrArg Chip.tripped h.bare :)
theorem chipLocked : t.chipLocked n = s.chipLocked n := by rw [h.frame]; rfl
theorem chipUp : t.chipUp n = s.chipUp n := by simp only [State.chipUp, h.power, h.chipLocked]

end Fields

end WatchesChip

/-! ### Governing temperatures (R85, R270) -/

theorem highest_le {xs : List Int} {v : Int} (le : ∀ x ∈ xs, x ≤ v) : (highest xs).all (fun g => decide (g ≤ v)) = true := by
  cases xs with
  | nil => rfl
  | cons x xs =>
    have fold (ys : List Int) (y : Int) (hy : y ≤ v) (hys : ∀ z ∈ ys, z ≤ v) : ys.foldl max y ≤ v := by
      induction ys generalizing y with
      | nil => exact hy
      | cons z ys ih =>
        obtain ⟨hz, rest⟩ := List.forall_mem_cons.1 hys
        exact ih _ (max_le hy hz) rest
    obtain ⟨hx, rest⟩ := List.forall_mem_cons.1 le
    exact decide_eq_true (fold xs x hx rest)

theorem reaches_eq_false {g : Option Int} {v w : Int} (le : g.all (fun x => decide (x ≤ v)) = true) (below : v < w) :
    reaches g w = false := by
  cases g with
  | none => rfl
  | some x => exact decide_eq_false (by have := of_decide_eq_true le; omega)

/-- Once the governing temperature has been read at v, no junction that works reads more. -/
theorem Chip.cooledTo_governing {c : Chip} {n : ChipId} {v : Int}
    (failed : ∀ e ∈ c.junctions, c.failed.contains (.junction n e.1) = true → e.2 ≤ v) :
    (c.cooledTo n none v).governing.all (fun g => decide (g ≤ v)) = true := by
  refine highest_le fun x mem => ?_
  simp only [cooledTo, List.map_map, List.mem_map, Function.comp_apply] at mem
  obtain ⟨e, here, rfl⟩ := mem
  split
  · next bad => exact failed e here bad
  · exact min_le_right ..

/-- The same of a quadrant's two stacks. -/
theorem Chip.cooledTo_governingHbm {c : Chip} {n : ChipId} {k : Fin 4} {v : Int}
    (failed : ∀ e ∈ c.stackTemps, c.failed.contains (.stack n e.1) = true → e.1.val / 2 = k.val → e.2 ≤ v) :
    ((c.cooledTo n (some k) v).governingHbm k.val).all (fun g => decide (g ≤ v)) = true := by
  refine highest_le fun x mem => ?_
  simp only [cooledTo, List.mem_map, List.mem_filter, decide_eq_true_eq] at mem
  obtain ⟨e', ⟨⟨e, here, rfl⟩, mine⟩, rfl⟩ := mem
  split at mine
  · next out =>
    rw [if_pos out]
    simp only [Bool.or_eq_true, decide_eq_true_eq] at out
    exact failed e here (out.resolve_right (not_not.2 mine)) mine
  · next out =>
    rw [if_neg out]
    exact min_le_right ..

namespace State

variable (s : State) (n : ChipId)

theorem stillHot_governing : ((s.stillHot n).chip n).governing = (s.chip n).governing := by
  unfold stillHot
  split
  · rw [chip_modChip_self]; rfl
  · rfl

theorem stillHotHbm_frame (k : Fin 4) : s.stillHotHbm n k = { s with quads := (s.stillHotHbm n k).quads } := by
  unfold stillHotHbm
  split <;> rfl

theorem quad_stillHotHbm_of_ne (k : Fin 4) {q : QuadId} (other : q ≠ quadOf n k) : (s.stillHotHbm n k).quad q = s.quad q := by
  unfold stillHotHbm
  split
  · rw [quad_modQuad, if_neg other]
  · rfl

theorem stillHotHbm_hbmThrottled (k : Fin 4) :
    ((s.stillHotHbm n k).quad (quadOf n k)).hbmThrottled = (s.quad (quadOf n k)).hbmThrottled := by
  unfold stillHotHbm
  split
  · rw [quad_modQuad, if_pos rfl]
  · rfl

end State

/-! ### Throttling (R270) -/

/-- A chip one throttle step further. -/
def Chip.throttled (c : Chip) (now : Nat) : Chip :=
  { c.requestDivider (min 6 (max c.divider c.powerDiv + 1)) now with
    mtxGate := c.mtxGate || c.divider = 6, thermSteps := min 6 (max c.divider c.powerDiv + 1) - 4, lastStep := now }

theorem Chip.requestDivider_power (c : Chip) (d now : Nat) : (c.requestDivider d now).power = c.power := by
  unfold Chip.requestDivider
  split
  · rfl
  · split <;> rfl

theorem Chip.throttled_divider (c : Chip) (now : Nat) : (c.throttled now).divider = min 6 (max c.divider c.powerDiv + 1) :=
  Chip.requestDivider_divider ..

theorem Chip.throttled_power (c : Chip) (now : Nat) : (c.throttled now).power = c.power := Chip.requestDivider_power ..

theorem WatchesChip.throttle (s : State) (n : ChipId) (x : Fin 16) (temp : Int) :
    WatchesChip n (s.modChip n (·.throttled s.osc)) (s.throttle n x temp) := by
  unfold State.throttle
  extract_lets c d g detail stepped
  exact ((WatchesChip.logChip stepped _ n detail).trans (WatchesChip.bbox ..)).trans (WatchesChip.overrideChip ..)

section

variable {s : State} {t : Nat} {n : ChipId} {temp : Int}

/-- The chip as the hub reads a junction now. -/
def State.readJunction (s : State) (n : ChipId) (x : Fin 16) (temp : Int) : State := (s.sample n (.junction n x) temp).stillHot n

theorem WatchesChip.readJunction (s : State) (n : ChipId) (x : Fin 16) (temp : Int) : WatchesChip n s (s.readJunction n x temp) :=
  (WatchesChip.sample s _ _).trans (WatchesChip.stillHot _)

/-- A chip in service whose governing junction has reached the threshold throttles (R270). -/
theorem State.readJunction_hot {s : State} {n : ChipId} {x : Fin 16} {temp : Int} (up : s.chipUp n = true)
    (hot : reaches ((s.sample n (.junction n x) temp).chip n).governing (s.milli 0x0701#16) = true) :
    ((s.readJunction n x temp).chipUp n && reaches ((s.readJunction n x temp).chip n).governing
      ((s.readJunction n x temp).milli 0x0701#16)) = true := by
  have read := WatchesChip.readJunction s n x temp
  have same : ((s.readJunction n x temp).chip n).governing = ((s.sample n (.junction n x) temp).chip n).governing :=
    State.stillHot_governing ..
  rw [read.chipUp, up, read.milli, same, hot, Bool.and_self]

theorem exec_thermalThrottle_throttles {x : Fin 16} (up : s.chipUp n = true)
    (hot : reaches (((s.tick t).sample n (.junction n x) temp).chip n).governing ((s.tick t).milli 0x0701#16) = true)
    (ungated : (s.chip n).mtxGate = false) (first : (s.chip n).thermSteps = 0) :
    exec (.thermalThrottle t n x temp) s = .next (((s.tick t).readJunction n x temp).throttle n x temp) := by
  have read := WatchesChip.readJunction (s.tick t) n x temp
  have first' : decide ((((s.tick t).readJunction n x temp).chip n).thermSteps = 0) = true :=
    decide_eq_true (read.thermSteps.trans first)
  have ungated' : (!(((s.tick t).readJunction n x temp).chip n).mtxGate) = true := by rw [read.mtxGate.trans ungated]; rfl
  exact if_pos (Bool.and_eq_true_iff.2 ⟨Bool.and_eq_true_iff.2 ⟨State.readJunction_hot (s := s.tick t) up hot, first'⟩, ungated'⟩)

theorem exec_throttleStep_throttles {x : Fin 16} (up : s.chipUp n = true)
    (hot : reaches (((s.tick t).sample n (.junction n x) temp).chip n).governing ((s.tick t).milli 0x0701#16) = true)
    (ungated : (s.chip n).mtxGate = false) (further : 0 < (s.chip n).thermSteps)
    (due : (s.chip n).lastStep + 10000000 ≤ (s.tick t).osc) :
    exec (.throttleStep t n x temp) s = .next (((s.tick t).readJunction n x temp).throttle n x temp) := by
  have read := WatchesChip.readJunction (s.tick t) n x temp
  have further' : decide (0 < (((s.tick t).readJunction n x temp).chip n).thermSteps) = true :=
    decide_eq_true (read.thermSteps.symm ▸ further)
  have ungated' : (!(((s.tick t).readJunction n x temp).chip n).mtxGate) = true := by rw [read.mtxGate.trans ungated]; rfl
  have due' : decide ((((s.tick t).readJunction n x temp).chip n).lastStep + 10000000 ≤
      ((s.tick t).readJunction n x temp).osc) = true := by
    rw [read.lastStep, read.osc]
    exact decide_eq_true due
  exact if_pos (Bool.and_eq_true_iff.2 ⟨Bool.and_eq_true_iff.2
    ⟨Bool.and_eq_true_iff.2 ⟨State.readJunction_hot (s := s.tick t) up hot, further'⟩, ungated'⟩, due'⟩)

/-- One step: the divider rises to at most 6, and at /6 MTX is gated (R270). -/
theorem State.throttle_steps {w : State} (read : WatchesChip n s w) (ungated : (s.chip n).mtxGate = false) (x : Fin 16) (temp : Int) :
    let u := w.throttle n x temp
    (u.chip n).divider = min 6 (max (s.chip n).divider (s.chip n).powerDiv + 1) ∧
      ((u.chip n).mtxGate = true ↔ (s.chip n).divider = 6) ∧ (u.chip n).thermSteps = (u.chip n).divider - 4 ∧
      (u.chip n).lastStep = s.osc ∧ (u.chip n).power = (s.chip n).power ∧ (∀ m, m ≠ n → u.chip m = s.chip m) ∧
      u.parts = s.parts ∧ u.hbm = s.hbm := by
  intro u
  have stepped : WatchesChip n (w.modChip n (·.throttled w.osc)) u := WatchesChip.throttle ..
  have self : (w.modChip n (·.throttled w.osc)).chip n = (w.chip n).throttled w.osc := State.chip_modChip_self ..
  have divider : (u.chip n).divider = min 6 (max (s.chip n).divider (s.chip n).powerDiv + 1) := by
    rw [stepped.divider, self, Chip.throttled_divider, read.divider, read.powerDiv]
  refine ⟨divider, ?gate, ?steps, ?last, ?power, fun m other => ?others, stepped.parts.trans read.parts, stepped.hbm.trans read.hbm⟩
  case gate =>
    rw [stepped.mtxGate, self]
    show ((w.chip n).mtxGate || decide ((w.chip n).divider = 6)) = true ↔ _
    rw [read.mtxGate, ungated, read.divider, Bool.false_or, decide_eq_true_iff]
  case steps =>
    rw [divider, stepped.thermSteps, self, ← read.divider, ← read.powerDiv]
    rfl
  case last => rw [stepped.lastStep, self, ← read.osc]; rfl
  case power => rw [stepped.power, self, Chip.throttled_power, read.power]
  case others => rw [stepped.others m other, State.chip_modChip, if_neg other, read.others m other]

/-! ### Recovery (R271) -/

/-- A chip one step back: MTX gating first, then a divider step, never below what the power loops ask for. -/
def Chip.recovered (c : Chip) (now : Nat) : Chip :=
  if c.mtxGate then { c with mtxGate := false, lastStep := now }
  else
    let left := if c.thermSteps - 1 + 4 ≤ c.powerDiv then 0 else c.thermSteps - 1
    { c.requestDivider (max (4 + left) c.powerDiv) now with thermSteps := left, lastStep := now }

theorem Chip.recovered_gated {c : Chip} (gated : c.mtxGate = true) (now : Nat) :
    c.recovered now = { c with mtxGate := false, lastStep := now } := if_pos gated

theorem Chip.recovered_ungated {c : Chip} (ungated : c.mtxGate = false) (now : Nat) :
    (c.recovered now).divider = max (4 + (c.thermSteps - 1)) c.powerDiv ∧
      (c.powerDiv < 4 + (c.thermSteps - 1) → (c.recovered now).thermSteps = c.thermSteps - 1) ∧ (c.recovered now).lastStep = now := by
  unfold Chip.recovered
  rw [if_neg (by rw [ungated]; exact Bool.false_ne_true)]
  refine ⟨(Chip.requestDivider_divider ..).trans ?_, fun above => if_neg (by omega), rfl⟩
  split <;> omega

theorem WatchesChip.unthrottle (s : State) (n : ChipId) : WatchesChip n (s.modChip n (·.recovered s.osc)) (s.unthrottle n) := by
  unfold State.unthrottle
  extract_lets c detail x
  exact (WatchesChip.logChip x _ n detail).trans (WatchesChip.bbox ..)

/-- A step undone on the state in which the governing temperature has been read: what it changes of the chip, and what it leaves. -/
theorem State.unthrottle_cooled (s : State) (n : ChipId) (quad : Option (Fin 4)) (temp : Int) :
    let w := s.modChip n fun c => c.cooledTo n quad temp
    (w.modChip n (·.recovered w.osc)).chip n = ((s.chip n).cooledTo n quad temp).recovered s.osc ∧
      WatchesChip n (w.modChip n (·.recovered w.osc)) (w.unthrottle n) ∧ (w.unthrottle n).parts = s.parts ∧
      (w.unthrottle n).hbm = s.hbm := by
  intro w
  have back := WatchesChip.unthrottle w n
  have self : w.chip n = (s.chip n).cooledTo n quad temp := State.chip_modChip_self ..
  exact ⟨by rw [State.chip_modChip_self, self]; rfl, back, back.parts, back.hbm⟩

/-- The chip as it is read at a temperature, well below the threshold: one step is undone (R271). -/
theorem exec_thermalRecover_chip (below : temp < (s.tick t).milli 0x0701#16 - (s.tick t).milli 0x0703#16)
    (due : max (s.chip n).lastStep (s.chip n).hotAt + 100000000 ≤ (s.tick t).osc)
    (failed : ∀ e ∈ (s.chip n).junctions, (s.chip n).failed.contains (.junction n e.1) = true → e.2 ≤ temp)
    (steps : (s.chip n).mtxGate = true ∨ 0 < (s.chip n).thermSteps) :
    exec (.thermalRecover t n none temp) s = .next (((s.tick t).modChip n fun c => c.cooledTo n none temp).unthrottle n) := by
  let w := (s.tick t).modChip n fun c => c.cooledTo n none temp
  have self : w.chip n = (s.chip n).cooledTo n none temp := State.chip_modChip_self ..
  have cool : (w.chip n).governing.all (fun g => decide (g ≤ temp)) = true := self ▸ Chip.cooledTo_governing failed
  have notHot : w.stillHot n = w := if_neg (by
    rw [reaches_eq_false cool (show temp < w.milli 0x0701#16 - w.milli 0x0703#16 from below)]
    exact Bool.false_ne_true)
  have steps' : ((w.chip n).mtxGate || decide (0 < (w.chip n).thermSteps)) = true := by
    rw [self]
    exact Bool.or_eq_true_iff.2 (steps.imp_right decide_eq_true)
  have due' : decide (max (w.chip n).lastStep (w.chip n).hotAt + 100000000 ≤ w.osc) = true := by
    rw [self]
    exact decide_eq_true due
  show (if (((w.stillHot n).chip n).mtxGate || decide (0 < ((w.stillHot n).chip n).thermSteps)) && _ && _ && _ then _ else _) = _
  rw [notHot]
  exact if_pos (by simp only [steps', cool, due', Bool.and_true, Bool.true_and, decide_eq_true_eq]; exact below)

/-! ### A quadrant's HBM (R271, R272) -/

/-- A quadrant's stacks as they are read at a temperature, well below the threshold: its throttle ends (R271). -/
theorem exec_thermalRecover_quad {k : Fin 4} (throttled : (s.quad (quadOf n k)).hbmThrottled = true)
    (below : temp < (s.tick t).milli 0x0702#16 - (s.tick t).milli 0x0703#16)
    (due : max (s.quad (quadOf n k)).hbmStep (s.quad (quadOf n k)).hotAt + 100000000 ≤ (s.tick t).osc)
    (failed : ∀ e ∈ (s.chip n).stackTemps, (s.chip n).failed.contains (.stack n e.1) = true → e.1.val / 2 = k.val → e.2 ≤ temp) :
    exec (.thermalRecover t n (some k) temp) s =
      .next ((((s.tick t).modChip n fun c => c.cooledTo n (some k) temp).modQuad (quadOf n k) fun q =>
        { q with hbmThrottled := false, hbmStep := (s.tick t).osc }).logHbm n (2 * k.val) temp false) := by
  let w := (s.tick t).modChip n fun c => c.cooledTo n (some k) temp
  have self : w.chip n = (s.chip n).cooledTo n (some k) temp := State.chip_modChip_self ..
  have cool : ((w.chip n).governingHbm k.val).all (fun g => decide (g ≤ temp)) = true :=
    self ▸ Chip.cooledTo_governingHbm failed
  have notHot : w.stillHotHbm n k = w := if_neg (by
    rw [reaches_eq_false cool (show temp < w.milli 0x0702#16 - w.milli 0x0703#16 from below)]
    exact Bool.false_ne_true)
  have throttled' : (w.quad (quadOf n k)).hbmThrottled = true := throttled
  have due' : decide (max (w.quad (quadOf n k)).hbmStep (w.quad (quadOf n k)).hotAt + 100000000 ≤ w.osc) = true := decide_eq_true due
  show (if ((w.stillHotHbm n k).quad (quadOf n k)).hbmThrottled && _ && (((w.stillHotHbm n k).chip n).governingHbm k.val).all _ && _
    then _ else _) = _
  rw [notHot]
  exact if_pos (by simp only [throttled', cool, due', Bool.and_true, Bool.true_and, decide_eq_true_eq]; exact below)

/-- A sample of a stack that reaches the threshold throttles its quadrant's HBM (R272). -/
theorem exec_hbmThrottle_throttles {i : Fin 8} {k : Fin 4} (mine : k = ⟨i.val / 2, by omega⟩) (up : s.chipUp n = true)
    (hot : reaches (((s.tick t).sample n (.stack n i) temp).chip n |>.governingHbm (i.val / 2)) ((s.tick t).milli 0x0702#16) = true)
    (free : (s.quad (quadOf n k)).hbmThrottled = false) :
    let w := ((s.tick t).sample n (.stack n i) temp).stillHotHbm n k
    ∃ u, exec (.hbmThrottle t n i temp) s = .next u ∧
      WatchesChip n (w.modQuad (quadOf n k) fun x => { x with hbmThrottled := true, hbmStep := w.osc }) u := by
  intro w
  subst mine
  let v := (s.tick t).sample n (.stack n i) temp
  have read : WatchesChip n (s.tick t) v := WatchesChip.sample ..
  have frame : w = { v with quads := w.quads } := v.stillHotHbm_frame n _
  have chips : w.chips = v.chips := by rw [frame]
  have cfg : w.cfg = v.cfg := by rw [frame]
  have upSame : w.chipUp n = v.chipUp n := by rw [frame]; rfl
  have up' : w.chipUp n = true := (upSame.trans read.chipUp).trans up
  have hot' : reaches ((w.chip n).governingHbm (i.val / 2)) (w.milli 0x0702#16) = true := by
    rw [State.chip_of_chips chips, State.milli_of_cfg cfg, read.milli]
    exact hot
  have free' : (!(w.quad (quadOf n ⟨i.val / 2, by omega⟩)).hbmThrottled) = true := by
    rw [show (w.quad _).hbmThrottled = (v.quad _).hbmThrottled from v.stillHotHbm_hbmThrottled n _,
      State.quad_of_quads read.quads, show ((s.tick t).quad _).hbmThrottled = false from free]
    rfl
  have run : exec (.hbmThrottle t n i temp) s = _ := if_pos (Bool.and_eq_true_iff.2 ⟨Bool.and_eq_true_iff.2 ⟨up', hot'⟩, free'⟩)
  rw [run]
  split
  · refine ⟨_, rfl, ?_⟩
    split
    · exact WatchesChip.logHbm ..
    · exact (WatchesChip.logHbm ..).trans (WatchesChip.of_records (RecordsOnly.override ..))
  · exact ⟨_, rfl, WatchesChip.logHbm ..⟩

/-! ### Trips (R273) -/

/-- A chip that trips goes to LOCKED, and the sensor that did it is kept. -/
def Chip.trips (c : Chip) (y : SensorId) : Chip := { c with tripped := c.tripped ++ [y], power := .locked }

/-- A chip that is out of service already keeps a further sensor that trips. -/
def Chip.tripsAgain (c : Chip) (y : SensorId) : Chip :=
  { c with tripped := if c.tripped.isEmpty || c.tripped.contains y then c.tripped else c.tripped ++ [y] }

theorem Chip.tripsAgain_mem {c : Chip} (some_ : c.tripped ≠ []) (y : SensorId) : y ∈ (c.tripsAgain y).tripped := by
  simp only [tripsAgain]
  split
  · next out =>
    have other : c.tripped.isEmpty = false := List.isEmpty_eq_false_iff.2 some_
    rw [other, Bool.false_or] at out
    exact List.contains_iff_mem.1 out
  · exact List.mem_append_right _ (List.mem_singleton_self y)

section

variable {y : SensorId} (of : sensorChip y = some n)
include of

/-- A running chip at a trip value: its record is made, it is locked, and detector 7 requests its level 4. -/
theorem exec_thermalTrip_up (hot : reaches ((((s.tick t).sample n y temp).chip n).governingOf y) (tripValue y) = true)
    (up : (s.chip n).power = .up) :
    ∃ x, WatchesChip n (s.tick t) x ∧ exec (.thermalTrip t y temp) s =
      .next ((x.modChip n fun c => c.trips y).fire 7 4 (.chip n) (some n) (dumpDetail 0 0 0 0 temp)) := by
  have read : WatchesChip n (s.tick t) ((s.tick t).sample n y temp) := WatchesChip.sample ..
  show ∃ x, _ ∧ execThermalTrip t y temp s = _
  unfold execThermalTrip
  rw [of]
  exact ⟨_, read.trans ((WatchesChip.bbox ..).trans (WatchesChip.logChip ..)), if_pos ⟨hot, read.power.trans up⟩⟩

/-- A chip out of service at a trip value: the sensor is kept with those that tripped, and a record is made. -/
theorem exec_thermalTrip_down (hot : reaches ((((s.tick t).sample n y temp).chip n).governingOf y) (tripValue y) = true)
    (down : (s.chip n).power ≠ .up) :
    ∃ u, exec (.thermalTrip t y temp) s = .next u ∧
      WatchesChip n (((s.tick t).sample n y temp).modChip n fun c => c.tripsAgain y) u := by
  have read : WatchesChip n (s.tick t) ((s.tick t).sample n y temp) := WatchesChip.sample ..
  show ∃ u, execThermalTrip t y temp s = _ ∧ _
  unfold execThermalTrip
  rw [of]
  exact ⟨_, (if_neg fun h => down (read.power.symm.trans h.2)).trans (if_pos hot),
    (WatchesChip.bbox ..).trans (WatchesChip.logChip ..)⟩

end

/-- The hub read sensor by sensor, as the tray controller does (R273). -/
def State.readHub (s : State) (n : ChipId) (rs : List (Nat × Int)) : State :=
  rs.foldl (fun s r =>
    match chipSensor n r.1 with
    | some x => s.sample n x r.2
    | none => s) s

theorem WatchesChip.readHub (s : State) (n : ChipId) (rs : List (Nat × Int)) : WatchesChip n s (s.readHub n rs) := by
  refine foldl _ (fun s r => ?_) _ _
  split
  · exact sample ..
  · exact refl s

/-- Sensors that tripped are 25 °C cooler or have failed: the chip's sensors are retrained, and its reset runs its course (R273). -/
theorem exec_thermalTripRestart_releases {rs : List (Nat × Int)} (some_ : (s.chip n).tripped ≠ []) (free : s.chipLocked n = false)
    (cool : ∀ y ∈ (s.chip n).tripped,
      (s.chip n).failed.contains y = true ∨ ∃ r ∈ rs, r.1 = sensorIx y ∧ r.2 ≤ tripValue y - 25000) :
    exec (.thermalTripRestart t n rs) s =
      .next ((((s.tick t).readHub n rs).modChip n fun c => c.retrained).releaseReset (.chip n)) := by
  let w := (s.tick t).readHub n rs
  have read : WatchesChip n (s.tick t) w := WatchesChip.readHub ..
  have some' : (!(w.chip n).tripped.isEmpty) = true := by
    rw [read.tripped, show ((s.tick t).chip n).tripped.isEmpty = false from List.isEmpty_eq_false_iff.2 some_]
    rfl
  have cool' : (w.chip n).tripped.all (fun x => (w.chip n).failed.contains x ||
      rs.any fun r => r.1 = sensorIx x && r.2 ≤ tripValue x - 25000) = true := by
    rw [read.tripped, read.failed]
    refine List.all_eq_true.2 fun y mem => Bool.or_eq_true_iff.2 ((cool y mem).imp_right fun ⟨r, here, same, low⟩ => ?_)
    exact List.any_eq_true.2 ⟨r, here, Bool.and_eq_true_iff.2 ⟨decide_eq_true same, decide_eq_true low⟩⟩
  have free' : (!w.chipLocked n) = true := by
    rw [read.chipLocked, show (s.tick t).chipLocked n = false from free]
    rfl
  exact if_pos (Bool.and_eq_true_iff.2 ⟨Bool.and_eq_true_iff.2 ⟨some', cool'⟩, free'⟩)

end

/-- A reset that was held runs its course from now. -/
theorem State.releaseReset_startOsc {s : State} {x : Scope} {r : ResetRun} (mem : r ∈ (s.releaseReset x).resets) (here : r.scope = x) :
    r.startOsc = s.osc := by
  obtain ⟨q, -, rfl⟩ := List.mem_map.1 mem
  by_cases own : q.scope = x
  · rw [if_pos own]
  · rw [if_neg own] at here
    exact absurd here own

/-- A chip whose tripped sensors are cool holds no reset. -/
theorem State.resetHeld_chip {s : State} {r : ResetRun} {n : ChipId} (scope : r.scope = .chip n) (cold : (s.chip n).tripped = []) :
    s.resetHeld r = false := by
  simp only [resetHeld, scope, cold, List.isEmpty_nil, Bool.not_true]

/-- Settles O48: a chip's loop steps down and back, a quadrant's HBM is throttled and freed, and a chip trips and restarts. -/
theorem chipCoolingCompletes : Obligations.ChipCoolingCompletes := by
  intro s t n a
  refine ⟨fun x temp up hot ungated => ⟨fun first => ?throttle, fun further due => ?step⟩,
    fun temp below due failed => ⟨fun gated => ?ungate, fun ungated steps => ?back⟩,
    fun k temp throttled below due failed => ?quad, fun i temp up hot free => ?hbm,
    fun y temp of hot => ⟨fun up => ?trip, fun down => ?again⟩, fun rs some_ free cool => ?restart⟩
  case throttle =>
    exact ⟨_, exec_thermalThrottle_throttles up hot ungated first,
      State.throttle_steps (WatchesChip.readJunction a n x temp) ungated x temp⟩
  case step =>
    exact ⟨_, exec_throttleStep_throttles up hot ungated further due,
      State.throttle_steps (WatchesChip.readJunction a n x temp) ungated x temp⟩
  case ungate =>
    obtain ⟨self, back, parts, hbm⟩ := State.unthrottle_cooled a n none temp
    have one := self.trans (Chip.recovered_gated (c := ((a.chip n).cooledTo n none temp)) gated a.osc)
    refine ⟨_, exec_thermalRecover_chip below due failed (.inl gated), ?_, ?_, ?_, parts, hbm⟩
    · rw [back.mtxGate, one]
    · rw [back.divider, one]; rfl
    · rw [back.lastStep, one]
  case back =>
    obtain ⟨self, back, parts, hbm⟩ := State.unthrottle_cooled a n none temp
    obtain ⟨divider, left, last⟩ := Chip.recovered_ungated (c := ((a.chip n).cooledTo n none temp)) ungated a.osc
    refine ⟨_, exec_thermalRecover_chip below due failed (.inr steps), ?_, fun above => ?_, ?_, parts, hbm⟩
    · rw [back.divider, self]; exact divider
    · rw [back.thermSteps, self]; exact left above
    · rw [back.lastStep, self]; exact last
  case quad =>
    let w := a.modChip n fun c => c.cooledTo n (some k) temp
    let f : Quad → Quad := fun q => { q with hbmThrottled := false, hbmStep := a.osc }
    have logged : WatchesChip n (w.modQuad (quadOf n k) f) _ := WatchesChip.logHbm _ (2 * k.val) temp false
    refine ⟨_, exec_thermalRecover_quad throttled below due failed, ?_, fun q other => ?_, logged.parts, logged.hbm⟩
    · rw [State.quad_of_quads logged.quads, State.quad_modQuad, if_pos rfl]
    · rw [State.quad_of_quads logged.quads, State.quad_modQuad, if_neg other]
      rfl
  case hbm =>
    obtain ⟨u, run, logged⟩ := exec_hbmThrottle_throttles rfl up hot free
    have read := WatchesChip.sample (n := n) a (.stack n i) temp
    have frame := State.stillHotHbm_frame (a.sample n (.stack n i) temp) n ⟨i.val / 2, by omega⟩
    refine ⟨u, run, ?_, fun q other => ?_, ?_, ?_⟩
    · rw [State.quad_of_quads logged.quads, State.quad_modQuad, if_pos rfl]
    · rw [State.quad_of_quads logged.quads, State.quad_modQuad, if_neg other, State.quad_stillHotHbm_of_ne _ _ _ other]
      exact State.quad_of_quads read.quads q
    · exact logged.parts.trans ((congrArg State.parts frame).trans read.parts)
    · exact logged.hbm.trans ((congrArg State.hbm frame).trans read.hbm)
  case trip =>
    obtain ⟨x, read, run⟩ := exec_thermalTrip_up of hot up
    have self : (x.modChip n fun c => c.trips y).chip n = (x.chip n).trips y := State.chip_modChip_self ..
    refine ⟨_, _, run, congrArg Chip.power self, (congrArg Chip.tripped self).trans (congrArg (· ++ [y]) read.tripped),
      congrArg (· ++ _) read.resetReqs, rfl, rfl, rfl, read.osc, fun m other => ?_, read.parts, read.hbm⟩
    exact ((x.chip_modChip n m (·.trips y)).trans (if_neg other)).trans (read.others m other)
  case again =>
    obtain ⟨u, run, logged⟩ := exec_thermalTrip_down of hot down
    have read := WatchesChip.sample (n := n) a y temp
    have self : ((a.sample n y temp).modChip n fun c => c.tripsAgain y).chip n = _ := State.chip_modChip_self ..
    refine ⟨u, run, ?_, logged.resetReqs.trans read.resetReqs, fun some_ => ?_, logged.parts.trans read.parts,
      logged.hbm.trans read.hbm⟩
    · rw [logged.power, self]
      exact read.power
    · rw [logged.tripped, self]
      exact Chip.tripsAgain_mem (read.tripped.symm ▸ some_) y
  case restart =>
    let w := a.readHub n rs
    have read : WatchesChip n a w := WatchesChip.readHub ..
    have self : (w.modChip n fun c => c.retrained).chip n = (w.chip n).retrained := State.chip_modChip_self ..
    refine ⟨_, exec_thermalTripRestart_releases some_ free cool, congrArg Chip.tripped self, congrArg Chip.failed self,
      (congrArg Chip.power self).trans read.power, fun r mem here => ?_, read.parts, read.hbm⟩
    have cold : (((w.modChip n fun c => c.retrained).releaseReset (.chip n)).chip n).tripped = [] := congrArg Chip.tripped self
    exact ⟨(State.releaseReset_startOsc mem here).trans read.osc, State.resetHeld_chip here cold⟩

end Sys2Proof.Machine
end

section
/-! SUPPORT. Tray cooling: failed sensors, samples, the allowance, thermal stops and restarts (R269, R274 to R276). -/

namespace Sys2Proof.Machine

/-! ### Lists and tables -/

/-- What is added where it is not there yet is there. -/
theorem mem_if_contains_append {α : Type} [DecidableEq α] (l : List α) (x : α) : x ∈ if l.contains x then l else l ++ [x] := by
  split
  · next here => exact List.contains_iff_mem.1 here
  · exact List.mem_append_right _ (List.mem_singleton_self x)

/-- Entries written one after the other: a key that always gets the same value has it. -/
theorem Tab.get_foldl_set {κ α : Type} [DecidableEq κ] {es : List (κ × α)} {k : κ} {v d : α}
    (only : ∀ e ∈ es, e.1 = k → e.2 = v)
    {m : Tab κ α} (there : (∃ e ∈ es, e.1 = k) ∨ Tab.get m d k = v) :
    Tab.get (es.foldl (fun m e => Tab.set m e.1 e.2) m) d k = v := by
  induction es generalizing m with
  | nil => exact there.resolve_left (by simp)
  | cons e es ih =>
    obtain ⟨first, rest⟩ := List.forall_mem_cons.1 only
    refine ih rest ?_
    rw [Tab.get_set]
    split
    · next here => exact .inr (first here.symm)
    · next other =>
      refine there.imp_left fun ⟨x, mem, same⟩ => ?_
      rcases List.mem_cons.1 mem with rfl | later
      · exact absurd same.symm other
      · exact ⟨x, later, same⟩

/-! ### A tray that changes -/

/-- One tray has become `x`; every other one, the chips, the partitions and memory are as they were. -/
structure BecomesTray (y : TrayId) (x : Tray) (s u : State) : Prop where
  tray : u.tray y = x
  others : ∀ z, z ≠ y → u.tray z = s.tray z
  chips : u.chips = s.chips
  parts : u.parts = s.parts
  hbm : u.hbm = s.hbm

/-- A tray for which it is noted whether its water is out of its range. -/
def Tray.checked (x : Tray) : Tray := { x with outOfRange := x.waterBad }

namespace BecomesTray

variable {y : TrayId} {x : Tray} {s t u : State}

theorem modTray (s : State) (y : TrayId) (f : Tray → Tray) : BecomesTray y (f (s.tray y)) s (s.modTray y f) :=
  ⟨s.tray_modTray_self y f, fun z other => (s.tray_modTray y z f).trans (if_neg other), rfl, rfl, rfl⟩

theorem records (h : BecomesTray y x s t) (g : RecordsOnly t u) : BecomesTray y x s u := by
  have trays : u.trays = t.trays := by rw [g.frame]
  have chips : u.chips = t.chips := by rw [g.frame]
  have parts : u.parts = t.parts := by rw [g.frame]
  have hbm : u.hbm = t.hbm := by rw [g.frame]
  exact ⟨(State.tray_of_trays trays y).trans h.tray, fun z other => (State.tray_of_trays trays z).trans (h.others z other),
    chips.trans h.chips, parts.trans h.parts, hbm.trans h.hbm⟩

theorem logTray (h : BecomesTray y x s t) (c : Nat) (d : List Byte) : BecomesTray y x s (t.logTray c y d) := h.records ⟨rfl, rfl⟩

/-- Whether the water is out of its range is noted, and recorded where it was not so before. -/
theorem waterCheck (h : BecomesTray y x s t) : BecomesTray y x.checked s (t.waterCheck y) := by
  have noted := modTray t y Tray.checked
  rw [h.tray] at noted
  have marked : BecomesTray y x.checked s (t.modTray y Tray.checked) :=
    ⟨noted.tray, fun z other => (noted.others z other).trans (h.others z other), noted.chips.trans h.chips,
      noted.parts.trans h.parts, noted.hbm.trans h.hbm⟩
  refine marked.records ?_
  unfold State.waterCheck
  extract_lets z bad w
  split
  · exact ⟨rfl, rfl⟩
  · exact RecordsOnly.refl _

end BecomesTray

/-! ### Sensors that fail (R86, R269) -/

/-- The tray a sensor is in. -/
def sensorTray : SensorId → Option TrayId
  | .inlet y | .outlet y | .flow y | .air y _ | .fan y _ => some y
  | _ => none

/-- A tray whose sensor has failed reads its safe value. -/
def Tray.fails (x : Tray) (i : SensorId) (now : Nat) : Tray :=
  ({ (x.failRead i) with failed := if x.failed.contains i then x.failed else x.failed ++ [i] }).retarget now

/-- A chip whose sensor has failed. -/
def Chip.fails (c : Chip) (i : SensorId) : Chip := { c with failed := if c.failed.contains i then c.failed else c.failed ++ [i] }

section

variable {s : State} {t : Nat} {y : TrayId} {n : ChipId}

theorem exec_sensorFailed_tray {i : SensorId} (of : sensorTray i = some y) :
    exec (.sensorFailed t i) s = .next ((((s.tick t).modTray y fun x => x.fails i (s.tick t).osc).logTray Lg.sensorFailed y
      (le 2 (unitTray y).toNat ++ le 2 (sensorIx i))).waterCheck y) := by
  cases i <;> cases of <;> rfl

/-- What holds of the tray with its sensor failed holds of it after the row, and nothing else changes. -/
theorem sensorFailed_tray {i : SensorId} (of : sensorTray i = some y) (P : Tray → Prop)
    (reads : P ((s.tray y).fails i (s.tick t).osc).checked) :
    ∃ u, exec (.sensorFailed t i) s = .next u ∧ P (u.tray y) ∧ (∀ z, z ≠ y → u.tray z = s.tray z) ∧ u.parts = s.parts ∧
      u.hbm = s.hbm := by
  have failed := BecomesTray.modTray (s.tick t) y fun x => x.fails i (s.tick t).osc
  obtain ⟨tray, others, -, parts, hbm⟩ := (failed.logTray Lg.sensorFailed
    (le 2 (unitTray y).toNat ++ le 2 (sensorIx i))).waterCheck
  exact ⟨_, exec_sensorFailed_tray of, tray.symm ▸ reads, others, parts, hbm⟩

/-- The hub takes the trip value of a chip's failed sensor. -/
theorem exec_sensorFailed_chip {i : SensorId} (of : sensorChip i = some n) :
    ∃ d, exec (.sensorFailed t i) s = .next (((((s.tick t).sample n i (tripValue i)).modChip n fun c => c.fails i).bbox n
      Lg.sensorFailed 6 d).logChip Lg.sensorFailed n d) := by
  cases i <;> cases of <;> exact ⟨_, rfl⟩

theorem State.bbox_readings (s : State) (n : ChipId) (c k : Nat) (d : List Byte) :
    ((s.bbox n c k d).chip n).junctions = (s.chip n).junctions ∧ ((s.bbox n c k d).chip n).stackTemps = (s.chip n).stackTemps := by
  simp only [bbox, chip_modChip_self, and_self]

theorem Chip.fails_failed (c : Chip) (i : SensorId) : i ∈ (c.fails i).failed := mem_if_contains_append ..

theorem sensorFailed_chip {i : SensorId} (of : sensorChip i = some n) :
    let read := (s.chip n).sampled i (tripValue i) (Config.freeReading s.fresh)
    ∃ u, exec (.sensorFailed t i) s = .next u ∧ i ∈ (u.chip n).failed ∧ (u.chip n).junctions = read.junctions ∧
      (u.chip n).stackTemps = read.stackTemps ∧ (∀ m, m ≠ n → u.chip m = s.chip m) ∧ u.parts = s.parts ∧ u.hbm = s.hbm := by
  intro read
  obtain ⟨d, run⟩ := exec_sensorFailed_chip (s := s) (t := t) of
  let v := (s.tick t).sample n i (tripValue i)
  let w := v.modChip n fun c => c.fails i
  have recorded : WatchesChip n w ((w.bbox n Lg.sensorFailed 6 d).logChip Lg.sensorFailed n d) :=
    (WatchesChip.bbox ..).trans (WatchesChip.logChip ..)
  have self : w.chip n = read.fails i := (v.chip_modChip_self n (·.fails i)).trans (congrArg (Chip.fails · i)
    ((s.tick t).chip_modChip_self n fun c => c.sampled i (tripValue i) (Config.freeReading s.fresh)))
  obtain ⟨junctions, stackTemps⟩ := w.bbox_readings n Lg.sensorFailed 6 d
  refine ⟨_, run, ?_, junctions.trans ?_, stackTemps.trans ?_, fun m other => (recorded.others m other).trans ?_, recorded.parts,
    recorded.hbm⟩
  · rw [recorded.failed, self]
    exact read.fails_failed i
  · rw [self]; rfl
  · rw [self]; rfl
  · exact ((v.chip_modChip n m (·.fails i)).trans (if_neg other)).trans ((WatchesChip.sample (n := n) (s.tick t) i _).others m other)

theorem Tray.fails_failedFan (x : Tray) (y : TrayId) (i : Fin 6) (now : Nat) : i ∈ (x.fails (.fan y i) now).fansFailed :=
  mem_if_contains_append ..

theorem exec_fanFault_fails {f : Fin 6} {rpm : Nat} (works : (s.tray y).fansFailed.contains f = false) :
    ∃ d, exec (.fanFault t y f rpm) s = .next (((s.tick t).modTray y fun x =>
      ({ x with fansFailed := x.fansFailed ++ [f] }).retarget (s.tick t).osc).logTray Lg.fanFault y d) :=
  ⟨_, if_neg (by rw [show ((s.tick t).tray y).fansFailed.contains f = false from works]; exact Bool.false_ne_true)⟩

/-! ### The allowance (R274, R275) -/

theorem Factor.settle_inForce (f : Factor) (now : Nat) :
    (f.settle now).inForce =
      if f.reads ≠ f.inForce ∧ f.since + (if f.reads < f.inForce then 5000000000 else 30000000000) ≤ now then f.reads
      else f.inForce := by
  simp only [settle, due, Bool.and_eq_true, decide_eq_true_eq]
  exact apply_ite Factor.inForce ..

/-- The factors that have held come into force; the allowance acts through the power loops alone. -/
theorem exec_allowanceChanged_settles :
    ∃ u, exec (.allowanceChanged t y) s = .next u ∧ LoopsOnly ((s.tick t).modTray y fun x => x.settle (s.tick t).osc) u := by
  show ∃ u, execAllowanceChanged t y s = .next u ∧ _
  unfold execAllowanceChanged
  extract_lets a was w x logged
  split
  · exact ⟨w, rfl, LoopsOnly.refl w⟩
  · have records : LoopsOnly w logged := LoopsOnly.of_recordsOnly ⟨rfl, rfl⟩
    refine ⟨_, rfl, records.trans ?_⟩
    split
    · exact (LoopsOnly.overrideShares ..).trans (LoopsOnly.regulate _)
    · exact LoopsOnly.regulate _

/-! ### Stops and restarts (R276) -/

theorem State.chipLocked_of_locks {s t : State} (chips : t.lockedChips = s.lockedChips) (trays : t.lockedTrays = s.lockedTrays)
    (n : ChipId) : t.chipLocked n = s.chipLocked n := by simp only [chipLocked, chips, trays]

/-- A chip loses power: it is off, or LOCKED where it is locked out (R97, R249, R323). -/
def State.chipOff (s : State) (n : ChipId) : State :=
  (s.modChip n fun c => { c with power := if s.chipLocked n then .locked else .off }).setPorts n false

/-- The rails of a tray go off, with the placement as it is then (R249). -/
def State.railsOff (s : State) (y : TrayId) (p : Placing) : State :=
  { s.modTray y fun x => { x with powered := false } with place := p }

theorem State.railsOff_chipLocked (s : State) (y : TrayId) (p : Placing) (n : ChipId) :
    (s.railsOff y p).chipLocked n = s.chipLocked n :=
  chipLocked_of_locks rfl rfl n

/-- The chips of a tray go off one after the other, once its black boxes are copied and its rails are off. -/
theorem State.trayOff_eq (s : State) (y : TrayId) :
    s.trayOff y = (trayChips y).foldl State.chipOff ((s.copyBoxes (trayChips y)).railsOff y { s.place with due := true }) := rfl

theorem State.chip_chipOff (s : State) (n m : ChipId) :
    (s.chipOff n).chip m = if m = n then { s.chip n with power := if s.chipLocked n then .locked else .off } else s.chip m := by
  rw [chipOff, chip_of_chips (setPorts_chips ..), chip_modChip]

theorem State.chipOff_chipLocked (s : State) (n m : ChipId) : (s.chipOff n).chipLocked m = s.chipLocked m := by
  have ports : PortsOnly (s.modChip n _) (s.chipOff n) := PortsOnly.setPorts ..
  exact State.chipLocked_of_locks (by rw [ports]; rfl) (by rw [ports]; rfl) m

theorem State.foldl_chipOff_power {ns : List ChipId} {s : State} {n : ChipId}
    (there : n ∈ ns ∨ (s.chip n).power = if s.chipLocked n then .locked else .off) :
    ((ns.foldl State.chipOff s).chip n).power = if s.chipLocked n then .locked else .off := by
  induction ns generalizing s with
  | nil => exact there.resolve_left nofun
  | cons m ns ih =>
    rw [List.foldl_cons, ← s.chipOff_chipLocked m n]
    refine ih ?_
    rw [chip_chipOff, chipOff_chipLocked]
    split
    · next here => exact .inr (by rw [here])
    · next other => exact there.imp_left fun mem => (List.mem_cons.1 mem).resolve_left other

/-- The chips of a tray that goes off go off with it. -/
theorem State.trayOff_power (s : State) {y : TrayId} {n : ChipId} (mem : n ∈ trayChips y) :
    ((s.trayOff y).chip n).power = if s.chipLocked n then .locked else .off := by
  have copied := RecordsOnly.copyBoxes s (trayChips y)
  have locks : (s.copyBoxes (trayChips y)).chipLocked n = s.chipLocked n :=
    chipLocked_of_locks (by rw [copied.frame]) (by rw [copied.frame]) n
  rw [trayOff_eq, foldl_chipOff_power (.inl mem), railsOff_chipLocked, locks]

/-- A stop condition takes the tray's power and asks for its level 5 (R276). -/
theorem exec_trayThermalStop_stops {c : Nat} (cause : (s.tray y).stopCause (s.tick t).osc = some c) (runs : (s.tray y).stopped = false)
    (on : (s.tray y).powered = true) :
    ∃ d, exec (.trayThermalStop t y) s = .next ((((s.tick t).logTray Lg.trayThermalStop y d).modTray y fun x =>
      { x with stopped := true, efuseOpen := true }).trayLost y 9) := by
  have cause' : ((s.tick t).tray y).stopCause (s.tick t).osc = some c := cause
  have acts : ¬(((s.tick t).tray y).stopped || !((s.tick t).tray y).powered) = true := by
    rw [show ((s.tick t).tray y).stopped = false from runs, show ((s.tick t).tray y).powered = true from on]
    exact Bool.false_ne_true
  refine ⟨le 2 (unitTray y).toNat ++ le 1 c, ?_⟩
  show execTrayThermalStop t y s = _
  unfold execTrayThermalStop
  dsimp only
  rw [cause']
  exact if_neg acts

/-- What a tray that loses power changes: its own power, its chips, and one more request (R317). -/
theorem State.trayLost_spec (s : State) (y : TrayId) (detector : Nat) :
    ((s.trayLost y detector).tray y = { s.tray y with powered := false }) ∧
      (∀ z, z ≠ y → (s.trayLost y detector).tray z = s.tray z) ∧
      (∃ r, (s.trayLost y detector).resetReqs = s.resetReqs ++ [r] ∧ r.level = 5 ∧ r.scope = .tray y ∧ r.detector = detector) ∧
      (∀ n ∈ trayChips y, ((s.trayLost y detector).chip n).power = if s.chipLocked n then .locked else .off) ∧
      (s.trayLost y detector).chan = s.chan ∧ (s.trayLost y detector).parts = s.parts ∧ (s.trayLost y detector).hbm = s.hbm := by
  obtain ⟨t, records, -, ports⟩ := s.trayOff_frame y
  have trays : (s.trayLost y detector).trays = (t.modTray y fun x => { x with powered := false }).trays := by
    rw [trayLost, fire_eq, ports]
  have chips : (s.trayLost y detector).chips = (s.trayOff y).chips := by rw [trayLost, fire_eq]
  have same (z : TrayId) : t.tray z = s.tray z := tray_of_trays (by rw [records.frame]) z
  have reqs : (s.trayOff y).resetReqs = s.resetReqs := by rw [ports, records.frame]; rfl
  refine ⟨?_, fun z other => ?_, ⟨_, congrArg (· ++ _) reqs, rfl, rfl, rfl⟩, fun n mem => ?_, ?_, ?_, ?_⟩
  · rw [tray_of_trays trays, tray_modTray_self, same]
  · rw [tray_of_trays trays, tray_modTray, if_neg other, same]
  · rw [chip_of_chips chips, s.trayOff_power mem]
  · rw [trayLost, fire_eq, ports, records.frame]; rfl
  · rw [trayLost, fire_eq, ports, records.frame]; rfl
  · rw [trayLost, fire_eq, ports, records.frame]; rfl

/-- A tray that starts again. -/
def Tray.restarted (x : Tray) : Tray := { x with stopped := false, efuseOpen := false, powered := true }

/-- After 60 s of normal conditions the stopped tray has its power again, and its level 5 runs its course or is asked for (R276). -/
theorem exec_trayRestart_restarts {b : Nat} (normal : (s.tray y).normalSince = some b) (stopped : (s.tray y).stopped = true)
    (past : b + 60000000000 ≤ (s.tick t).osc) (dry : (s.tick t).leakCut y = false) (free : s.lockedTrays.contains y = false)
    (known : (s.tick t).heldOut (unitTray y) = false) :
    exec (.trayRestart t y) s = .next (if (s.tick t).level5Due y then ((s.tick t).modTray y Tray.restarted).releaseReset (.tray y)
      else ((s.tick t).modTray y Tray.restarted).fire 9 5 (.tray y) none) := by
  have normal' : ((s.tick t).tray y).normalSince = some b := normal
  have stopped' : ((s.tick t).tray y).stopped = true := stopped
  have free' : (s.tick t).lockedTrays.contains y = false := free
  show execTrayRestart t y s = _
  unfold execTrayRestart
  dsimp only
  rw [normal']
  exact if_pos (by simp only [stopped', past, dry, free', known, decide_true, Bool.not_false, Bool.and_self])

/-! ### Samples (R269) -/

theorem exec_trayCoolingSample_reads (c : CoolingSample) :
    ∃ u, exec (.trayCoolingSample t y c) s = .next u ∧
      BecomesTray y (((s.tray y).sample y c).retarget (s.tick t).osc).checked s u := by
  obtain ⟨tray, others, chips, parts, hbm⟩ := (BecomesTray.modTray (s.tick t) y fun x =>
    (x.sample y c).retarget (s.tick t).osc).waterCheck
  exact ⟨_, rfl, tray, others, chips, parts, hbm⟩

end

section

variable {α : Type} {ok : α → Bool} {old v : α}

theorem takeReading_valid (valid : ok v = true) : takeReading ok old (some v) = (v, true) := if_pos valid

theorem takeReading_taken {o : Option α} (given : o = some v) (valid : ok v = true) : (takeReading ok old o).1 = v := by
  rw [given, takeReading_valid valid]

theorem takeReading_kept {o : Option α} (given : o = some v) (invalid : ok v = false) : (takeReading ok old o).1 = old := by
  rw [given]
  exact congrArg Prod.fst (if_neg (by rw [invalid]; exact Bool.false_ne_true))

end

/-- A junction that works is read; its table holds what it read. -/
theorem Chip.sampled_junction {c : Chip} {n : ChipId} {i : Fin 16} (works : c.failed.contains (.junction n i) = false) (v : Int)
    (rail : Nat) : Tab.get (c.sampled (.junction n i) v rail).junctions 0 i = v := by
  simp only [sampled, setSensor, works, Bool.false_eq_true, if_false, Tab.get_set_self]

theorem Chip.sampled_stack {c : Chip} {n : ChipId} {i : Fin 8} (works : c.failed.contains (.stack n i) = false) (v : Int)
    (rail : Nat) : Tab.get (c.sampled (.stack n i) v rail).stackTemps 0 i = v := by
  simp only [sampled, setSensor, works, Bool.false_eq_true, if_false, Tab.get_set_self]

/-- A fan's speed in range is taken. -/
theorem Tray.sample_fan (x : Tray) (y : TrayId) {c : CoolingSample} {j : Fin 6} {v : Nat} (given : c.fans.getD j.val none = some v)
    (valid : v ≤ 20000) : Tab.get (x.sample y c).fans 0 j = v := by
  have here : ((c.fans.getD j.val none).filter fun v => decide (v ≤ 20000)) = some v := by
    rw [given]
    exact Option.filter_some_pos (decide_eq_true valid)
  refine Tab.get_foldl_set (fun e mem same => ?_) (.inl ⟨(j, v), ?_, rfl⟩)
  · obtain ⟨i, -, taken⟩ := List.mem_filterMap.1 mem
    obtain ⟨w, read, rfl⟩ := Option.map_eq_some_iff.1 taken
    obtain rfl : i = j := same
    exact Option.some.inj (read.symm.trans here)
  · exact List.mem_filterMap.2 ⟨j, List.mem_finRange j, by rw [here]; rfl⟩

/-- A valid reading of the inlet ends its failure. -/
theorem Tray.sample_inlet_ends (x : Tray) (y : TrayId) {c : CoolingSample} {v : Int} (given : c.inlet = some v)
    (valid : 0 ≤ v ∧ v ≤ 80000) : .inlet y ∉ (x.sample y c).failed := by
  intro mem
  have stays := (List.mem_filter.1 mem).2
  rw [given, takeReading_valid (ok := fun v => decide (0 ≤ v ∧ v ≤ 80000)) (decide_eq_true valid)] at stays
  simp at stays

/-- Settles O49: sensors fail to their safe values, factors settle, a tray stops and restarts, and samples in range are taken. -/
theorem trayCoolingCompletes : Obligations.TrayCoolingCompletes := by
  intro s t y a keeps
  refine ⟨⟨?inlet, ?outlet, ?flow, ?before, ?after, fun i => ?fan, fun n i => ?junction, fun n i => ?stack⟩, fun f rpm works => ?fault,
    ?allowance, fun c cause runs on => ?stop, fun b normal stopped past dry free known => ?restart, fun c => ?sample⟩
  case inlet =>
    obtain ⟨u, run, ⟨inlet, flow⟩, same⟩ := sensorFailed_tray (i := .inlet y) rfl
      (fun x => x.inlet = 45000 ∧ x.flow = (s.tray y).flow) ⟨rfl, rfl⟩
    exact ⟨u, run, inlet, flow, same⟩
  case outlet => exact sensorFailed_tray rfl (fun x => x.outlet = 80000) rfl
  case flow =>
    obtain ⟨u, run, ⟨flow, since⟩, same⟩ := sensorFailed_tray (i := .flow y) rfl
      (fun x => x.flow = 0 ∧ x.lowFlowSince.isSome = true) ⟨rfl, rfl⟩
    exact ⟨u, run, flow, since, same⟩
  case before => exact sensorFailed_tray rfl (fun x => x.airBefore = 100000) rfl
  case after => exact sensorFailed_tray rfl (fun x => x.airAfter = 100000) rfl
  case fan => exact sensorFailed_tray rfl (fun x => i ∈ x.fansFailed) (Tray.fails_failedFan (s.tray y) y i a.osc)
  case junction =>
    obtain ⟨u, run, failed, junctions, -, others, parts, hbm⟩ := sensorFailed_chip (s := s) (t := t) (i := .junction n i) rfl
    exact ⟨u, run, failed, fun works => junctions ▸ Chip.sampled_junction works .., others, parts, hbm⟩
  case stack =>
    obtain ⟨u, run, failed, -, stackTemps, others, parts, hbm⟩ := sensorFailed_chip (s := s) (t := t) (i := .stack n i) rfl
    exact ⟨u, run, failed, fun works => stackTemps ▸ Chip.sampled_stack works .., others, parts, hbm⟩
  case fault =>
    obtain ⟨d, run⟩ := exec_fanFault_fails (t := t) (rpm := rpm) works
    obtain ⟨tray, others, -, parts, hbm⟩ := (BecomesTray.modTray a y fun x =>
      ({ x with fansFailed := x.fansFailed ++ [f] }).retarget a.osc).logTray Lg.fanFault d
    exact ⟨_, run, by rw [tray]; rfl, others, parts, hbm⟩
  case allowance =>
    intro settled least
    obtain ⟨u, run, loops⟩ := exec_allowanceChanged_settles (s := s) (t := t) (y := y)
    have trays : u.trays = (a.modTray y fun x => x.settle a.osc).trays := by rw [loops.frame]
    have tray : u.tray y = (s.tray y).settle a.osc := by
      rw [State.tray_of_trays trays, State.tray_modTray_self]
      rfl
    have flow : (u.tray y).flowF.inForce = settled (s.tray y).flowF := by rw [tray]; exact Factor.settle_inForce ..
    have water : (u.tray y).waterF.inForce = settled (s.tray y).waterF := by rw [tray]; exact Factor.settle_inForce ..
    have fan : (u.tray y).fanF.inForce = settled (s.tray y).fanF := by rw [tray]; exact Factor.settle_inForce ..
    have factor : (u.tray y).factor = least := by rw [Tray.factor, flow, water, fan]
    refine ⟨u, run, flow, water, fan, factor, by rw [Tray.allowanceW, factor], fun z other => ?_, ?_, ?_⟩
    · rw [State.tray_of_trays trays, State.tray_modTray, if_neg other]
      rfl
    · rw [loops.frame]; rfl
    · rw [loops.frame]; rfl
  case stop =>
    obtain ⟨d, run⟩ := exec_trayThermalStop_stops cause runs on
    let f : Tray → Tray := fun x => { x with stopped := true, efuseOpen := true }
    let w := (a.logTray Lg.trayThermalStop y d).modTray y f
    obtain ⟨tray, others, ⟨r, reqs, level, scope, detector⟩, power, chan, parts, hbm⟩ := w.trayLost_spec y 9
    have self : w.tray y = f (s.tray y) := State.tray_modTray_self ..
    refine ⟨_, r, run, ?_, ?_, ?_, reqs, level, scope, detector, power, chan, fun z other => (others z other).trans ?_, parts, hbm⟩
    · rw [tray, self]
    · rw [tray, self]
    · rw [tray]
    · exact ((a.logTray Lg.trayThermalStop y d).tray_modTray y z f).trans (if_neg other)
  case restart =>
    have run := exec_trayRestart_restarts normal stopped past dry free known
    obtain ⟨tray, others, chips, parts, hbm⟩ := BecomesTray.modTray a y Tray.restarted
    cases due : a.level5Due y
    · rw [due, if_neg Bool.false_ne_true] at run
      exact ⟨_, run, congrArg Tray.stopped tray, congrArg Tray.efuseOpen tray, congrArg Tray.powered tray, chips, nofun,
        fun _ => ⟨_, rfl, rfl, rfl⟩, others, parts, hbm⟩
    · rw [due, if_pos rfl] at run
      exact ⟨_, run, congrArg Tray.stopped tray, congrArg Tray.efuseOpen tray, congrArg Tray.powered tray, chips,
        fun _ => ⟨rfl, fun r mem here => State.releaseReset_startOsc mem here⟩, nofun, others, parts, hbm⟩
  case sample =>
    obtain ⟨u, run, tray, others, chips, parts, hbm⟩ := exec_trayCoolingSample_reads (s := s) (t := t) (y := y) c
    have inlet : (u.tray y).inlet = (takeReading (fun v => decide (0 ≤ v ∧ v ≤ 80000)) (s.tray y).inlet c.inlet).1 := by rw [tray]; rfl
    have outlet : (u.tray y).outlet = (takeReading (fun v => decide (0 ≤ v ∧ v ≤ 80000)) (s.tray y).outlet c.outlet).1 := by
      rw [tray]; rfl
    have flow : (u.tray y).flow = (takeReading (fun v => decide (v ≤ 40000)) (s.tray y).flow c.flow).1 := by rw [tray]; rfl
    have before : (u.tray y).airBefore = (takeReading (fun v => decide (0 ≤ v ∧ v ≤ 100000)) (s.tray y).airBefore c.airBefore).1 := by
      rw [tray]; rfl
    have after : (u.tray y).airAfter = (takeReading (fun v => decide (0 ≤ v ∧ v ≤ 100000)) (s.tray y).airAfter c.airAfter).1 := by
      rw [tray]; rfl
    refine ⟨u, run, fun v given => ⟨fun valid => ⟨?_, ?_⟩, fun out => ?_⟩,
      fun v given => ⟨fun valid => ?_, fun out => ?_⟩, fun v given => ⟨fun valid => ?_, fun out => ?_⟩,
      fun v given low high => ?_, fun v given low high => ?_, fun j v given valid => ?_, fun none_ => ?_, fun none_ => ?_, chips, others,
      parts, hbm⟩
    · exact inlet.trans (takeReading_taken given (decide_eq_true valid))
    · rw [tray]
      exact Tray.sample_inlet_ends _ y given valid
    · exact inlet.trans (takeReading_kept given (decide_eq_false (by omega)))
    · exact outlet.trans (takeReading_taken given (decide_eq_true valid))
    · exact outlet.trans (takeReading_kept given (decide_eq_false (by omega)))
    · exact flow.trans (takeReading_taken given (decide_eq_true valid))
    · exact flow.trans (takeReading_kept given (decide_eq_false (by omega)))
    · exact before.trans (takeReading_taken given (decide_eq_true ⟨low, high⟩))
    · exact after.trans (takeReading_taken given (decide_eq_true ⟨low, high⟩))
    · rw [tray]
      exact Tray.sample_fan _ y given valid
    · rw [inlet, none_]; rfl
    · rw [flow, none_]; rfl

end Sys2Proof.Machine
end

section
/-! SUPPORT. What detectors find and ask for (R84, R182, R317): a poisoned word, the aborts it brings, and the requests. -/

namespace Sys2Proof.Machine

/-! ### The aborts of a chip (R182) -/

/-- Members abort and their notices are queued: partitions, sends and chips change, a chip's counts of HBM errors do not. -/
structure AbortsOnly (s t : State) : Prop where
  frame : t = { s with parts := t.parts, sends := t.sends, chips := t.chips }
  ecc : ∀ n, (t.chip n).ecc = (s.chip n).ecc

namespace AbortsOnly

variable {s t u : State}

theorem refl (s : State) : AbortsOnly s s := ⟨rfl, fun _ => rfl⟩

theorem trans (h : AbortsOnly s t) (g : AbortsOnly t u) : AbortsOnly s u :=
  ⟨by rw [g.frame, h.frame], fun n => (g.ecc n).trans (h.ecc n)⟩

theorem foldl {α : Type} (f : State → α → State) (h : ∀ s a, AbortsOnly s (f s a)) (l : List α) (s : State) :
    AbortsOnly s (l.foldl f s) :=
  foldl_invariant (AbortsOnly s) f (fun b a hb => hb.trans (h b a)) l s (refl s)

theorem modPart (s : State) (p : PartId) (f : Part → Part) : AbortsOnly s (s.modPart p f) := by
  unfold State.modPart
  split
  · exact ⟨rfl, fun _ => rfl⟩
  · exact refl s

theorem queuePrio0 (s : State) (n d : ChipId) (b : Prio0Body) : AbortsOnly s (s.queuePrio0 n d b) := by
  refine ⟨rfl, fun m => ?_⟩
  rw [State.queuePrio0, State.chip_modChip]
  split
  · next here => rw [here]
  · rfl

theorem abortMember (s : State) (p : PartId) (g : Group) (seq i st : Nat) : AbortsOnly s (s.abortMember p g seq i st) := by
  unfold State.abortMember
  split
  · exact refl s
  · split
    · split
      · extract_lets marked stopped
        have stops : AbortsOnly s stopped := (modPart s p _).trans (u := stopped) ⟨rfl, fun _ => rfl⟩
        split
        · refine stops.trans (foldl _ (fun s j => ?_) _ _)
          split
          · exact queuePrio0 ..
          · exact refl s
        · exact stops
      · exact refl s
    · exact refl s

theorem abortChip (s : State) (p : PartId) (n : ChipId) : AbortsOnly s (s.abortChip p n) := by
  unfold State.abortChip
  split
  · exact refl s
  · refine foldl _ (fun s g => ?_) _ _
    split
    · exact foldl _ (fun s _ => abortMember s ..) _ _
    · exact refl s

end AbortsOnly

/-- Partitions and time are the same in both. -/
structure SameMembers (s t : State) : Prop where
  parts : t.parts = s.parts
  clk : t.clk = s.clk

namespace SameMembers

variable {s t : State}

theorem foldl {α : Type} {f : State → α → State} (h : ∀ s t a, SameMembers s t → SameMembers (f s a) (f t a)) (l : List α)
    (same : SameMembers s t) : SameMembers (l.foldl f s) (l.foldl f t) := by
  induction l generalizing s t with
  | nil => exact same
  | cons a l ih => exact ih (h s t a same)

theorem part (h : SameMembers s t) (p : PartId) : t.part p = s.part p := by rw [State.part, h.parts, State.part]

theorem modPart (h : SameMembers s t) (p : PartId) (f : Part → Part) : SameMembers (s.modPart p f) (t.modPart p f) := by
  unfold State.modPart
  rw [h.part]
  split
  · exact ⟨congrArg (Tab.set · p _) h.parts, h.clk⟩
  · exact h

/-- How members abort depends on partitions and time alone. -/
theorem abortMember (h : SameMembers s t) (p : PartId) (g : Group) (seq i st : Nat) :
    SameMembers (s.abortMember p g seq i st) (t.abortMember p g seq i st) := by
  have osc : t.osc = s.osc := congrArg Clock.osc h.clk
  unfold State.abortMember
  rw [h.part, osc]
  split
  · exact h
  · next v =>
    split
    · next m =>
      split
      · extract_lets markedS stoppedS markedT stoppedT
        have marked : SameMembers markedS markedT := h.modPart p _
        have stopped : SameMembers stoppedS stoppedT := ⟨marked.parts, marked.clk⟩
        split
        · refine foldl (fun s t j same => ?_) _ stopped
          split
          · exact ⟨same.parts, same.clk⟩
          · exact same
        · exact stopped
      · exact h
    · exact h

theorem abortChip (h : SameMembers s t) (p : PartId) (n : ChipId) : SameMembers (s.abortChip p n) (t.abortChip p n) := by
  unfold State.abortChip
  rw [h.part]
  split
  · exact h
  · refine foldl (fun s t g same => ?_) _ h
    split
    · exact foldl (fun s t x same => same.abortMember p g x.seq _ _) g.insts same
    · exact same

end SameMembers

/-! ### The word that is consumed -/

/-- The count of uncorrectable words of a stack set to a number (R84). -/
def Chip.setUnc (c : Chip) (i : Fin 8) (n : Nat) : Chip := { c with ecc := Tab.set c.ecc i ((Tab.get c.ecc (0, 0) i).1, n) }

@[simp] theorem Chip.setUnc_ecc (c : Chip) (i : Fin 8) (n : Nat) : (Tab.get (c.setUnc i n).ecc (0, 0) i).2 = n := by
  rw [setUnc, Tab.get_set_self]

/-- A poisoned word touches the marks and the chips, and nothing else (R84). -/
theorem State.poisonWord_frame (s : State) (q : QuadId) (x : Nat) :
    s.poisonWord q x = { s with poison := (s.poisonWord q x).poison, chips := (s.poisonWord q x).chips } := by
  unfold State.poisonWord
  dsimp only
  split <;> rfl

theorem State.poisonWord_marks (s : State) (q : QuadId) (x : Nat) :
    x / 32 ∈ (s.poisonWord q x).poison ∧ ∀ y ∈ s.poison, y ∈ (s.poisonWord q x).poison := by
  unfold State.poisonWord
  dsimp only
  split
  · next marked => exact ⟨List.contains_iff_mem.1 marked, fun y mem => mem⟩
  · exact ⟨List.mem_append_right _ (List.mem_singleton_self _), fun y mem => List.mem_append_left _ mem⟩

/-- The stack that returned the word counts it. -/
theorem State.poisonWord_counts (s : State) (q : QuadId) (x : Nat) :
    let i := stackOf (quadK q) (x % 2 ^ 36)
    (Tab.get ((s.poisonWord q x).chip (quadChip q)).ecc (0, 0) i).2 = sat64 (Tab.get (s.chip (quadChip q)).ecc (0, 0) i).2 1 := by
  intro i
  have counted : (s.poisonWord q x).chips =
      (s.modChip (quadChip q) fun c => c.setUnc i (sat64 (Tab.get c.ecc (0, 0) i).2 1)).chips := by
    unfold State.poisonWord
    dsimp only
    split <;> rfl
  rw [State.chip_of_chips counted, State.chip_modChip_self, Chip.setUnc_ecc]

section

variable {s : State} {t : Nat} {p : PartId} {v : Part}

theorem exec_progressWatchdog_fires {n : ChipId} (part : s.part p = some v) (taken : v.taken.isSome = true) (on : n ∈ v.chips) :
    exec (.progressWatchdog t p n) s = .next ((s.tick t).fire 2 1 (.part p) (some n)) := by
  have part' : (s.tick t).part p = some v := part
  show execProgressWatchdog t p n s = _
  simp only [execProgressWatchdog, part', taken, on, and_self, if_true]

theorem exec_poisonConsumed_aborts {addr : Addr} {q : QuadId} (part : s.part p = some v)
    (quad : v.shape.quad? (addrVq addr) = some q) :
    exec (.poisonConsumed t p addr) s = .next ((((s.tick t).poisonWord q (s.phys p addr)).abortChip p (quadChip q)).fire 4 1 (.part p)
      (some (quadChip q)) (dumpDetail 0 0 0 addr.toNat 0)) := by
  have found : (((s.tick t).part p).bind fun v => v.shape.quad? (addrVq addr)) = some q := by
    rw [show (s.tick t).part p = some v from part]
    exact quad
  show execPoisonConsumed t p addr s = _
  simp only [execPoisonConsumed, found]
  rfl

theorem exec_hbmErrorRate_fires {n : ChipId} (up : s.chipUp n = true) (i : Fin 8) :
    exec (.hbmErrorRate t n i) s = .next (((s.tick t).modChip n fun c => c.setUnc i (max 64 (Tab.get c.ecc (0, 0) i).2)).fire 8 4
      (.chip n) (some n) (dumpDetail i.val 0 0 0 0)) :=
  if_pos up

end

/-- Settles O54: each detector requests its level for its unit, and the words it stands for are marked and counted. -/
theorem detectorsRequestResets : Obligations.DetectorsRequestResets := by
  intro s t n a
  refine ⟨fun p v part taken on => exec_progressWatchdog_fires part taken on, fun p b holds => ?engine,
    fun p v addr q part quad => ?poison, fun up => ⟨?keeper, ?poll, fun i => ?rate⟩⟩
  case engine =>
    have holds' : ((s.tick t).partQuads p).contains (quadOf n (blockK b)) = true := List.contains_iff_mem.2 holds
    exact ⟨_, _, if_pos holds', rfl, rfl, rfl, rfl, rfl, rfl, rfl⟩
  case poison =>
    let w := a.poisonWord q (s.phys p addr)
    have word : w = { a with poison := w.poison, chips := w.chips } := a.poisonWord_frame q _
    have aborts : AbortsOnly w (w.abortChip p (quadChip q)) := AbortsOnly.abortChip ..
    have same : SameMembers a w := ⟨by rw [word], by rw [word]⟩
    obtain ⟨marked, kept⟩ := a.poisonWord_marks q (s.phys p addr)
    have poison : (w.abortChip p (quadChip q)).poison = w.poison := by rw [aborts.frame]
    have reqs : (w.abortChip p (quadChip q)).resetReqs = s.resetReqs := by rw [aborts.frame, word]; rfl
    refine ⟨_, _, exec_poisonConsumed_aborts part quad, poison ▸ marked, fun x mem => poison ▸ kept x mem, ?counted,
      (same.abortChip p (quadChip q)).parts, congrArg (· ++ _) reqs, rfl, rfl, rfl, rfl, ?time, ?hbm⟩
    case counted =>
      have ecc := aborts.ecc (quadChip q)
      exact (congrArg (fun e => (Tab.get e (0, 0) _).2) ecc).trans (a.poisonWord_counts q _)
    case time =>
      show (w.abortChip p (quadChip q)).osc = a.osc
      rw [aborts.frame, word]
      rfl
    case hbm =>
      show (w.abortChip p (quadChip q)).hbm = s.hbm
      rw [aborts.frame, word]
      rfl
  case keeper => exact congrArg Host.Outcome.next (if_pos up)
  case poll => exact congrArg Host.Outcome.next (if_pos up)
  case rate =>
    let f := fun c : Chip => c.setUnc i (max 64 (Tab.get c.ecc (0, 0) i).2)
    refine ⟨_, _, exec_hbmErrorRate_fires up i, ?floor, fun m other => ?others, rfl, rfl, rfl, rfl, rfl, rfl, rfl, rfl⟩
    case floor =>
      show 64 ≤ (Tab.get ((a.modChip n f).chip n).ecc (0, 0) i).2
      rw [State.chip_modChip_self, Chip.setUnc_ecc]
      exact le_max_left ..
    case others => exact (a.chip_modChip n m f).trans (if_neg other)

end Sys2Proof.Machine
end

section
/-! SUPPORT. Queues that take what waits for them, and hinge waves that start and pass: what each leaves of its partition and of the rest
of the machine (R111 to R114, R117, R122). -/

namespace Sys2Proof.Machine

theorem State.modPart_frame (s : State) (p : PartId) (f : Part → Part) : s.modPart p f = { s with parts := (s.modPart p f).parts } := by
  unfold State.modPart
  split <;> rfl

/-! ### What waits for the queues of a cell enters them (R101, R117) -/

/-- A partition but for its counts of cells (R124). -/
def Part.uncounted (v : Part) : Part := { v with cells := [] }

theorem Part.eq_of_uncounted {v w : Part} (same : w.uncounted = v.uncounted) : ∃ c, w = { v with cells := c } :=
  ⟨w.cells, congrArg (fun x : Part => { x with cells := w.cells }) same⟩

/-- What waited for queues of cell x has entered them: of the cell its input queues and backlogs change, of the partitions their counts
of cells, and nothing new waits. -/
structure Filled (x : CellId) (s t : State) : Prop where
  frame : t = { s with cells := t.cells, waitIn := t.waitIn, parts := t.parts }
  cell : t.cell x = { s.cell x with inq := (t.cell x).inq, backlog := (t.cell x).backlog }
  cells : ∀ d, d ≠ x → t.cell d = s.cell d
  counts : KeepsPart Part.uncounted s t
  waits : ∀ e ∈ t.waitIn, e ∈ s.waitIn

namespace Filled

variable {x : CellId} {s t u : State}

theorem refl (s : State) : Filled x s s := ⟨rfl, rfl, fun _ _ => rfl, .refl s, fun _ => id⟩

theorem trans (h : Filled x s t) (g : Filled x t u) : Filled x s u :=
  ⟨by rw [g.frame, h.frame], by rw [g.cell, h.cell], fun d apart => (g.cells d apart).trans (h.cells d apart), h.counts.trans g.counts,
    fun e mem => h.waits e (g.waits e mem)⟩

theorem foldl {α : Type} (f : State → α → State) (h : ∀ s a, Filled x s (f s a)) (l : List α) (s : State) : Filled x s (l.foldl f s) :=
  foldl_invariant (Filled x s) f (fun b a hb => hb.trans (h b a)) l s (refl s)

theorem sawBacklog (s : State) (y : CellId) (b : Backlog) : Filled x s (s.sawBacklog y b) := by
  unfold State.sawBacklog
  split
  · refine ⟨by rw [State.modPart_frame], ?_, fun d _ => State.cell_modPart .., .modPart s _ fun _ => rfl, ?_⟩
    · rw [State.cell_modPart]
    · rw [State.modPart_waitIn]
      exact fun _ => id
  · exact refl s

theorem modCell (s : State) {f : CellState → CellState}
    (kept : f (s.cell x) = { s.cell x with inq := (f (s.cell x)).inq, backlog := (f (s.cell x)).backlog }) :
    Filled x s (s.modCell x f) :=
  ⟨rfl, by rw [State.cell_modCell_self, ← kept], fun d apart => State.cell_modCell_ne _ _ _ _ apart, .of_parts rfl, fun _ => id⟩

theorem enqueue (s : State) (x : CellId) (q : Fin 4) (m : Msg) : Filled x s (s.enqueue x q m) := by
  cases extended : (s.cell x).extended.contains q
  case false =>
    rw [State.enqueue_chip _ _ _ _ extended]
    exact modCell s rfl
  case true =>
    rw [State.enqueue_backlog _ _ _ _ extended]
    exact (modCell s rfl).trans (sawBacklog ..)

theorem settleIn (s : State) (x : CellId) (q : Fin 4) (f : Nat) : Filled x s (s.settleIn x q f) := by
  induction f generalizing s with
  | zero => exact refl s
  | succ f ih =>
    unfold State.settleIn
    split
    · exact refl s
    · next e _ =>
      split
      · have taken : Filled x s { s with waitIn := s.waitIn.erase e } :=
          ⟨rfl, rfl, fun _ _ => rfl, .of_parts rfl, fun _ => List.mem_of_mem_erase⟩
        exact (taken.trans (enqueue ..)).trans (ih _)
      · exact refl s

theorem enterWaiting (s : State) (x : CellId) (q : Fin 4) : Filled x s (s.enterWaiting x q) := settleIn ..

section Fields

variable (h : Filled x s t)
include h

theorem mesh : t.mesh = s.mesh := by rw [h.frame]
theorem deadbolts : t.deadbolts = s.deadbolts := by rw [h.frame]
theorem active : (t.cell x).active = (s.cell x).active := by rw [h.cell]
theorem swapped : (t.cell x).swapped = (s.cell x).swapped := by rw [h.cell]
theorem blocked : (t.cell x).blocked = (s.cell x).blocked := by rw [h.cell]
theorem since : (t.cell x).since = (s.cell x).since := by rw [h.cell]
theorem extended : (t.cell x).extended = (s.cell x).extended := by rw [h.cell]

end Fields

end Filled

/-! ### A wave starts (R111, R114) -/

section

variable {s : State} {p : PartId} {v : Part}

theorem KeepsPart.entryHinges (s : State) (v : Part) (w : Wave) : KeepsPart Part.uncounted s (s.entryHinges v w) := by
  refine foldl _ (fun s x => ?_) _ s
  split
  · refine foldl _ (fun s i => ?_) _ s
    exact trans (t := { s with waitIn := s.waitIn ++ [(x, i.1, hingeMsg)] }) (of_parts rfl) (Filled.enterWaiting ..).counts
  · exact refl s

theorem State.loadShadow_parts (s : State) (v : Part) (x : CellId) : (s.loadShadow v x).parts = s.parts := by
  unfold State.loadShadow
  extract_lets n
  split <;> rfl

/-- A calendar that waits for its frame changes its chip, and the ends of its links are told (R156). -/
theorem State.armCalendar_frame (s : State) (p : PartId) (v : Part) (n : Nat) (c : ChipId) :
    s.armCalendar p v n c = { s with chips := (s.armCalendar p v n c).chips, out := (s.armCalendar p v n c).out } := by
  unfold State.armCalendar
  split
  · split
    · extract_lets f waits
      refine foldl_invariant (fun t : State => t = { s with chips := t.chips, out := t.out }) _ (fun t i same => ?_) _ waits rfl
      split
      · rw [State.emit, same]
      · exact same
    · rfl
  · rfl

/-- Two records of a partition between which waves have passed, at most: as many have started, and the last of them brings the same
configuration. -/
structure SameCourse (v w : Part) : Prop where
  count : w.hinges + w.waves.length = v.hinges + v.waves.length
  latest : w.latest.map Wave.config = v.latest.map Wave.config
  prog : w.prog = v.prog
  starter : w.starter = v.starter
  staged : w.staged = v.staged
  configs : w.configs = v.configs
  rotPlan : w.rotPlan = v.rotPlan
  perHinge : w.perHinge = v.perHinge

namespace SameCourse

variable {v w x : Part}

theorem refl (v : Part) : SameCourse v v := ⟨rfl, rfl, rfl, rfl, rfl, rfl, rfl, rfl⟩

theorem trans (h : SameCourse v w) (g : SameCourse w x) : SameCourse v x :=
  ⟨g.count.trans h.count, g.latest.trans h.latest, g.prog.trans h.prog, g.starter.trans h.starter, g.staged.trans h.staged,
    g.configs.trans h.configs, g.rotPlan.trans h.rotPlan, g.perHinge.trans h.perHinge⟩

end SameCourse

/-- A partition with one more wave behind those started (R111). -/
def Part.withWave (v : Part) (w : Wave) : Part := { v with waves := v.waves ++ [w], prog := .running }

theorem Part.latest_withWave (v : Part) (w : Wave) : (v.withWave w).latest = some w := by
  simp [Part.withWave, Part.latest]

theorem Part.count_withWave (v : Part) (w : Wave) :
    (v.withWave w).hinges + (v.withWave w).waves.length = v.hinges + v.waves.length + 1 := by
  simp [Part.withWave, Nat.add_assoc]

/-- A partition whose passing wave is complete (R113). -/
def Part.passWave (v : Part) (w : Wave) (rest : List Wave) : Part :=
  { v with running := some w.config, rot := w.rot, waves := rest, hinges := v.hinges + 1 }

theorem Part.sameCourse_passWave {v : Part} {w : Wave} {rest : List Wave} (waves : v.waves = w :: rest) :
    SameCourse v (v.passWave w rest) := by
  refine ⟨?count, ?latest, rfl, rfl, rfl, rfl, rfl, rfl⟩
  case count =>
    rw [waves]
    simp only [passWave, List.length_cons]
    omega
  case latest =>
    unfold Part.latest
    rw [waves]
    cases rest with
    | nil => rfl
    | cons x xs => simp [passWave, List.getLast?_cons]

/-! ### Waves pass (R113, R122) -/

/-- Carry regions are copied, waves pass and their sessions are told: cells, mesh, chips and time are as they were. -/
def PassesOnly (s t : State) : Prop :=
  t = { s with parts := t.parts, bufs := t.bufs, sram := t.sram, kws := t.kws, opr := t.opr, out := t.out, ops := t.ops }

namespace PassesOnly

variable {s t u : State}

theorem refl (s : State) : PassesOnly s s := rfl

theorem trans (h : PassesOnly s t) (g : PassesOnly t u) : PassesOnly s u := by
  unfold PassesOnly at *
  rw [g, h]

theorem foldl {α : Type} (f : State → α → State) (h : ∀ s a, PassesOnly s (f s a)) (l : List α) (s : State) :
    PassesOnly s (l.foldl f s) :=
  foldl_invariant (PassesOnly s) f (fun b a hb => hb.trans (h b a)) l s (refl s)

theorem of_eventsOnly (h : EventsOnly s t) : PassesOnly s t := by
  unfold PassesOnly
  rw [h]

theorem modPart (s : State) (p : PartId) (f : Part → Part) : PassesOnly s (s.modPart p f) := by
  unfold PassesOnly
  rw [State.modPart_frame]

theorem carryOnce (s : State) (p : PartId) (n : Nat) (c : ChipId) : PassesOnly s (s.carryOnce p n c) := by
  have block (was t : State) (x : RotClass) (m : Fin 640 × Fin 640 × Fin 640) : PassesOnly t (State.carryBlock was t c x m) := by
    unfold State.carryBlock
    extract_lets buf filled
    refine trans (t := filled) rfl (foldl _ ?_ _ _)
    exact fun _ _ => rfl
  have chip (v : Part) (w : Wave) (old : List (ChipId × Fin 640 × Fin 640)) : PassesOnly s (s.carryChip v w old c) := by
    refine foldl _ (fun t m => ?_) _ s
    split
    · exact block ..
    · exact refl t
  unfold State.carryOnce
  split
  · exact refl s
  · split
    · exact refl s
    · split
      · exact refl s
      · exact (chip ..).trans (modPart ..)

end PassesOnly

/-- The session that started a wave is told of its end (R113). -/
theorem PassesOnly.endWave (s : State) (o : Op) (code : Nat) (body : List Byte) :
    PassesOnly s ((s.raiseS o.ep o.session code body).endOp o.id) :=
  (PassesOnly.of_eventsOnly (EventsOnly.raiseS ..)).trans rfl

theorem PassesOnly.completeWaves (s : State) (p : PartId) (f : Nat) : PassesOnly s (s.completeWaves p f) := by
  induction f generalizing s with
  | zero => exact refl s
  | succ f ih =>
    unfold State.completeWaves
    split
    · exact refl s
    · split
      · exact refl s
      · split
        · extract_lets carried passed told
          have carries : PassesOnly s carried := foldl _ (fun s n => carryOnce ..) _ s
          have passes : PassesOnly carried passed := rfl
          have tells : PassesOnly passed told := by
            unfold told
            split
            · exact endWave ..
            · exact refl passed
          exact ((carries.trans passes).trans tells).trans (ih _)
        · exact refl s

/-- Waves that pass leave their partition's course as it was. -/
theorem State.completeWaves_course (part : s.part p = some v) (f : Nat) :
    ∃ w, (s.completeWaves p f).part p = some w ∧ SameCourse v w := by
  induction f generalizing s v with
  | zero => exact ⟨v, part, .refl v⟩
  | succ f ih =>
    unfold State.completeWaves
    split
    · next none => rw [part] at none; cases none
    · next x there =>
      obtain rfl := Option.some.inj (part.symm.trans there)
      split
      · exact ⟨v, part, .refl v⟩
      · next w rest waves =>
        split
        · extract_lets carried passed told
          have passes : passed.part p = some (v.passWave w rest) := Tab.get_set_self ..
          have tells : told.parts = passed.parts := by
            unfold told
            split
            · exact (EventsOnly.raiseS ..).parts
            · rfl
          obtain ⟨y, there, same⟩ := ih (s := told) (v := v.passWave w rest) (by rw [State.part, tells]; exact passes)
          exact ⟨y, there, (Part.sameCourse_passWave waves).trans same⟩
        · exact ⟨v, part, .refl v⟩

/-- A wave that starts takes its place behind the others; some of them may pass at once (R111, R113). -/
theorem State.startWave_course (part : s.part p = some v) (w : Wave) :
    ∃ x, (s.startWave p w).part p = some x ∧ SameCourse (v.withWave w) x := by
  unfold State.startWave
  split
  · next none => rw [part] at none; cases none
  · next v0 there =>
    obtain rfl := Option.some.inj (part.symm.trans there)
    extract_lets queued v' n loaded idle armed
    obtain ⟨y, hinged, same⟩ := (KeepsPart.entryHinges s v w).part_of part
    obtain ⟨c, rfl⟩ := Part.eq_of_uncounted same
    have behind : queued.part p = some (Part.withWave { v with cells := c } w) := by
      unfold queued
      rw [State.part_modPart_self, hinged]
      rfl
    have loads : loaded.parts = queued.parts := foldl_keeps _ State.parts (fun t x => t.loadShadow_parts v' x) _ queued
    have arms : armed.parts = loaded.parts :=
      foldl_keeps _ State.parts (fun t c => by rw [State.armCalendar_frame]) _ loaded
    have stands : armed.part p = some (Part.withWave { v with cells := c } w) := by
      rw [State.part, arms, loads]
      exact behind
    obtain ⟨x, found, course⟩ := State.completeWaves_course stands v'.waves.length
    have recounted : SameCourse (v.withWave w) (Part.withWave { v with cells := c } w) := ⟨rfl, rfl, rfl, rfl, rfl, rfl, rfl, rfl⟩
    exact ⟨x, found, recounted.trans course⟩

end

end Sys2Proof.Machine
end

section
/-! SUPPORT. PROG_START: a configuration that may start begins its hinge wave (R111, R141, R155). -/

namespace Sys2Proof.Machine

open Sys2Proof.Safety

section

variable {c : Ctx} {s : State} {p : PartId} {v : Part} {n : BitVec 16} {g : Configuration} {img : ProgramImage}

/-- A partition whose program a session starts (R71). -/
def Part.startedBy (v : Part) (e : Ep) (m : SessRef) (num : Nat) : Part :=
  { v with starter := some (e, m), staged := if v.staged = some num then none else v.staged }

/-- Would the configuration's program run under another cut than the running one's (R141)? -/
def Part.changesCut (v : Part) (img : ProgramImage) : Bool :=
  (v.runningWave <|> v.waves.head?).any fun w => w.config.cut ≠ some img.cut

theorem Part.changesCut_other {w : Wave} (runs : (v.runningWave <|> v.waves.head?) = some w) (other : w.config.cut ≠ some img.cut) :
    v.changesCut img = true := by
  rw [Part.changesCut, runs]
  simpa using other

theorem Part.changesCut_same (same : ∀ w, (v.runningWave <|> v.waves.head?) = some w → w.config.cut = some img.cut) :
    v.changesCut img = false := by
  unfold Part.changesCut
  cases runs : v.runningWave <|> v.waves.head? with
  | none => rfl
  | some w => simp [same w runs]

variable (owns : c.part? s = some p) (part : s.part p = some v) (loaded : v.config? n.toNat = some g) (program : g.prog = some img)
include owns part loaded program

theorem runOp_progStart_again (again : v.latest.map Wave.config = some g) : runOp c (.progStart n) s = Res.ok s := by
  simp only [runOp, opProgStart, owns, part, loaded, program, if_pos again]

variable (fresh : v.latest.map Wave.config ≠ some g) (mode : img.mode.toNat = s.partSet p 0x0203#16) (free : v.startable = true)
  (merged : merges v.shape g.cal = true)
include fresh mode free merged

theorem runOp_progStart_busy (cut : v.changesCut img = true) (reqs : s.openReqs p ≠ []) (unforced : c.h.force = false) :
    runOp c (.progStart n) s = Res.fail s St.busy := by
  have waits : (s.openReqs p).isEmpty = false := by simpa using reqs
  rw [Part.changesCut] at cut
  simp only [runOp, opProgStart, owns, part, loaded, program, if_neg fresh, mode, free, merged, cut, waits, unforced, ne_eq,
    not_true_eq_false, if_false, Bool.not_true, Bool.not_false, Bool.and_self, Bool.false_eq_true, if_true]

/-- A configuration that may start, under the cut that runs, starts its wave; in a STATIC partition a rotation plan goes with it (R121). -/
theorem runOp_progStart_starts (cut : v.changesCut img = false) :
    ∃ (x : State) (y : Part) (w : Wave), runOp c (.progStart n) s = Res.accepted (x.startWave p w) ∧ x.hbm = s.hbm ∧ x.part p = some y ∧
      y.hinges = v.hinges ∧ y.waves = v.waves ∧ y.starter = some (c.ep, c.session) ∧ y.configs = v.configs ∧
      (v.staged = some n.toNat → y.staged = none) := by
  let opened := s.addOp c.ep c.session c.h.seq c.epoch (.progStart p n.toNat)
  have asked : (opened.modPart p fun v => v.startedBy c.ep c.session n.toNat).part p =
      some (v.startedBy c.ep c.session n.toNat) := by
    rw [State.part_modPart_self]
    exact congrArg (Option.map _) part
  have staged : v.staged = some n.toNat → (v.startedBy c.ep c.session n.toNat).staged = none := fun h => if_pos h
  rw [Part.changesCut] at cut
  simp only [runOp, opProgStart, owns, part, loaded, program, if_neg fresh, mode, free, merged, cut, ne_eq, not_true_eq_false,
    if_false, Bool.not_true, Bool.false_and, Bool.false_eq_true]
  split
  · exact ⟨_, _, _, rfl, (State.modPart_hbm ..).trans (State.modPart_hbm ..),
      (State.part_modPart_self ..).trans (congrArg (Option.map _) asked), rfl, rfl, rfl, rfl, staged⟩
  · exact ⟨_, _, _, rfl, State.modPart_hbm .., asked, rfl, rfl, rfl, rfl, staged⟩

end

/-- Settles O14: each answer of the handler, and the wave's place behind those already started. -/
theorem programStartsByHinge : Obligations.ProgramStartsByHinge := by
  intro s t h k q p v n g img ready a owns part loaded program
  refine ⟨fun again => ?again, fun fresh mode free merged w runs other reqs unforced => ?busy, fun fresh mode free merged same => ?starts⟩
  case again =>
    exact replies_ok rfl ready nofun (runOp_progStart_again (c := ctxAt s t h (.progStart n) (.kw k) q) owns part loaded program again)
  case busy =>
    have run := runOp_progStart_busy (c := ctxAt s t h (.progStart n) (.kw k) q) owns part loaded program fresh mode free merged
      (Part.changesCut_other runs other) reqs unforced
    exact replies_of_runOp rfl ready nofun run rfl (show St.busy ≠ St.internalError by decide)
  case starts =>
    obtain ⟨x, y, w, run, hbm, there, hinges, waves, starter, configs, staged⟩ := runOp_progStart_starts
      (c := ctxAt s t h (.progStart n) (.kw k) q) owns part loaded program fresh mode free merged (Part.changesCut_same same)
    obtain ⟨z, stands, course⟩ := State.startWave_course there w
    refine ⟨_, z, replies_accepted rfl ready nofun run, stands, course.prog, ?_, course.starter.trans starter,
      fun last => course.staged.trans (staged last), course.configs.trans configs, ?_⟩
    · rw [course.count, y.count_withWave, hinges, waves]
    · rw [State.startWave_hbm, hbm]
      exact arrived_hbm ..

end Sys2Proof.Machine
end

section
/-! SUPPORT. Rotation hinges, reporting periods and calendars' switches (R121, R156, R376). -/

namespace Sys2Proof.Machine

section

variable {s : State} {t : Nat} {p : PartId} {v : Part}

/-! ### Rotation hinges (R121) -/

/-- A partition whose planned moves go with this period's rotation hinge (R121). -/
def Part.rotated (v : Part) (moves : Nat) : Part :=
  { v with rotPlan := none, rotDone := [], perHinge := true, cells := bump (bump v.cells 5 1) 6 moves }

/-- The permutation a rotation hinge brings after a wave's, and the blocks it moves (R121, R122). -/
def State.rotation (s : State) (v : Part) (w : Wave) : List (ChipId × Fin 640 × Fin 640) × Nat := s.planned (s.planMoves v) w.rot

theorem exec_rotationHinge_starts {w : Wave} (part : s.part p = some v) (latest : v.latest = some w)
    (tagged : (s.tick t).partSet p 0x0203#16 = 1) (rotates : (s.tick t).rotates p = true) (running : v.prog = .running)
    (first : v.perHinge = false) (period : v.perGap = false) :
    exec (.rotationHinge t p) s =
      .next (((s.tick t).setPart p (some (v.rotated ((s.tick t).rotation v w).2))).startWave p
        { config := w.config, op := none, rot := ((s.tick t).rotation v w).1, carried := [] }) := by
  have part : (s.tick t).part p = some v := part
  show execRotationHinge t p s = _
  simp only [execRotationHinge, part, latest,
    if_pos (show _ ∧ _ ∧ _ ∧ _ ∧ _ from ⟨tagged, rotates, running, first, period⟩)]
  rfl

/-! ### Reporting periods (R376) -/

/-- A partition whose reporting period ends, at its boundary or before it. -/
def Part.periodOver (v : Part) (now : Nat) : Part := if v.perEnd ≤ now then (v.nextPeriod now).clearPeriod else v.clearPeriod

theorem exec_reportingPeriodEnd (part : s.part p = some v) (ends : v.perDue = true ∨ v.perEnd ≤ (s.tick t).rackNs) :
    ∃ u, exec (.reportingPeriodEnd t p) s = .next u ∧ EventsOnly ((s.tick t).setPart p (some (v.periodOver (s.tick t).rackNs))) u ∧
      (v.perMisses = 0 → u.kws = s.kws) := by
  have there : (s.tick t).part p = some v := part
  have run : exec (.reportingPeriodEnd t p) s = .next (if v.perMisses = 0 then
      (s.tick t).setPart p (some (v.periodOver (s.tick t).rackNs))
      else ((s.tick t).setPart p (some (v.periodOver (s.tick t).rackNs))).raisePart p Ev.slotMisses (be 4 v.perMisses)) := by
    show execReportingPeriodEnd t p s = _
    simp only [execReportingPeriodEnd, there, if_pos ends]
    rfl
  refine ⟨_, run, ?_, fun none => ?_⟩
  · split
    · exact EventsOnly.refl _
    · exact EventsOnly.raisePart ..
  · rw [if_pos none]
    rfl

namespace Part

variable (v : Part) (now : Nat)

theorem periodOver_clear : (v.periodOver now).perDue = false ∧ (v.periodOver now).perMisses = 0 ∧
    (v.periodOver now).perDropSeen = false ∧ (v.periodOver now).perSpills = 0 ∧ (v.periodOver now).perHinge = false := by
  unfold periodOver
  split <;> exact ⟨rfl, rfl, rfl, rfl, rfl⟩

theorem periodOver_boundary (come : v.perEnd ≤ now) : v.periodOver now = (v.nextPeriod now).clearPeriod := if_pos come

theorem periodOver_early (early : now < v.perEnd) : v.periodOver now = v.clearPeriod := if_neg (by omega)

theorem nextPeriod_same (same : v.perNew = none) :
    (v.nextPeriod now).perLen = v.perLen ∧ (v.nextPeriod now).perEnd = (now / v.perLen + 1) * v.perLen := by
  simp [nextPeriod, same]

theorem nextPeriod_turned {len first : Nat} (new : v.perNew = some (len, first)) (come : first ≤ now) :
    (v.nextPeriod now).perLen = len ∧ (v.nextPeriod now).perNew = none ∧ (v.nextPeriod now).perEnd = (now / len + 1) * len := by
  simp [nextPeriod, new, come]

theorem nextPeriod_waits {len first : Nat} (new : v.perNew = some (len, first)) (later : now < first) :
    (v.nextPeriod now).perLen = v.perLen ∧ (v.nextPeriod now).perNew = v.perNew ∧
      (v.nextPeriod now).perEnd = min ((now / v.perLen + 1) * v.perLen) first := by
  have waits : ¬first ≤ now := by omega
  simp [nextPeriod, new, waits]

end Part

/-! ### Calendars (R156) -/

namespace Chip

variable (c : Chip) (now : Nat)

theorem calOf_takeCal (e : CalTurn) : ((c.takeCal e).cal.filter fun x => x.1 = e.part).map Prod.snd = e.entries := by
  have others : (c.cal.filter fun x => x.1 ≠ e.part).filter (fun x => x.1 = e.part) = [] := by simp [List.filter_filter]
  have own : (e.entries.map fun y => (e.part, y)).filter (fun x => x.1 = e.part) = e.entries.map fun y => (e.part, y) := by
    simp [List.filter_eq_self]
  rw [takeCal, List.filter_append, others, own, List.nil_append, List.map_map]
  exact List.map_id _

/-- Calendars that wait for a later frame go on waiting. -/
theorem switchCal_calNext : (c.switchCal now).calNext = c.calNext.filter fun e => decide (now < e.at_) :=
  foldl_keeps takeCal calNext (fun _ _ => rfl) _ _

/-- The last calendar that is due is in force for its partition. -/
theorem switchCal_last {e : CalTurn} (last : (c.calNext.filter fun x => decide (x.at_ ≤ now)).getLast? = some e) :
    ((c.switchCal now).cal.filter fun x => x.1 = e.part).map Prod.snd = e.entries := by
  obtain ⟨before, due⟩ := List.getLast?_eq_some_iff.1 last
  simp only [switchCal, due, List.foldl_append, List.foldl_cons, List.foldl_nil]
  exact calOf_takeCal ..

theorem switchCal_none (later : (c.calNext.all fun e => decide (now < e.at_)) = true) : (c.switchCal now).cal = c.cal := by
  have due : (c.calNext.filter fun x => decide (x.at_ ≤ now)) = [] :=
    List.filter_eq_nil_iff.2 fun e mem => by simpa using List.all_eq_true.1 later e mem
  simp only [switchCal, due, List.foldl_nil]

end Chip

/-- A chip without sends under way has none to cut. -/
theorem State.flushSends_none {n : ChipId} (none : ∀ x ∈ s.sends, x.chip ≠ n) :
    s.flushSends n = { s with sends := s.sends.filter fun x => x.chip ≠ n } := by
  have mine : (s.sends.filter fun x => x.chip = n) = [] := List.filter_eq_nil_iff.2 fun x mem => by simpa using none x mem
  simp only [flushSends, mine, List.foldl_nil]

end

/-- Settles O38: the hinge's wave keeps the course of its partition; a period that is over begins the next; calendars switch in order. -/
theorem hingesAndPeriods : Obligations.HingesAndPeriods := by
  intro s t a
  refine ⟨fun p v w part latest tagged rotates running first period => ?hinge, fun p v part ends => ?period, fun n idle => ?calendars⟩
  case hinge =>
    obtain ⟨x, there, course⟩ := State.startWave_course (s := a.setPart p (some (v.rotated (a.rotation v w).2)))
      (State.part_setPart_self ..) { config := w.config, op := none, rot := (a.rotation v w).1, carried := [] }
    refine ⟨_, x, exec_rotationHinge_starts part latest tagged rotates running first period, there, ?_, course.rotPlan,
      course.perHinge, course.prog, ?_, State.startWave_hbm ..⟩
    · rw [course.count, Part.count_withWave]
      rfl
    · rw [course.latest, Part.latest_withWave]
      rfl
  case period =>
    obtain ⟨u, run, events, quiet⟩ := exec_reportingPeriodEnd part ends
    have there : u.part p = some (v.periodOver a.rackNs) := by
      rw [State.part, events.parts]
      exact State.part_setPart_self ..
    obtain ⟨due, misses, drops, spills, hinge⟩ := v.periodOver_clear a.rackNs
    refine ⟨u, _, run, there, due, misses, drops, spills, hinge, fun come => ?boundary, fun early => ?step, quiet, events.hbm⟩
    case boundary =>
      rw [v.periodOver_boundary _ come]
      exact ⟨rfl, rfl, v.nextPeriod_same _, fun len first new => ⟨v.nextPeriod_turned _ new, v.nextPeriod_waits _ new⟩⟩
    case step =>
      rw [v.periodOver_early _ early]
      exact ⟨rfl, rfl⟩
  case calendars =>
    let x := a.modChip n fun c => c.switchCal a.osc
    have flushed : x.flushSends n = { x with sends := x.sends.filter fun y => y.chip ≠ n } := State.flushSends_none idle
    have switched : (x.flushSends n).chip n = (s.chip n).switchCal a.osc := by
      rw [flushed]
      exact a.chip_modChip_self n fun c => c.switchCal a.osc
    refine ⟨x.flushSends n, rfl, ?_⟩
    rw [switched, flushed]
    exact ⟨Chip.switchCal_calNext .., fun _ last => Chip.switchCal_last _ _ last, Chip.switchCal_none _ _, rfl, rfl⟩

end Sys2Proof.Machine
end

section
/-! SUPPORT. Cells that fire and cells that swap (R107, R108, R112). -/

namespace Sys2Proof.Machine

section

variable {s : State} {t : Nat} {c : CellId} {p : PartId} {v : Part} {g : CellCfg}

theorem State.part_of_cellRuns (runs : s.cellRuns c = some (p, v, g)) : s.part p = some v := by
  unfold State.cellRuns at runs
  split at runs
  · cases runs
  · split at runs
    · next part active =>
      split at runs
      · cases runs
        exact part
      · cases runs
    · cases runs

/-! ### A schedule entry (R107) -/

/-- A STATIC cell's next entry is issued (R107). -/
def State.issued (s : State) (c : CellId) : State := s.modCell c fun k => { k with sched := k.sched + 1 }

theorem exec_scheduleEntryIssue (runs : (s.tick t).cellRuns c = some (p, v, g)) (static : (s.tick t).partSet p 0x0203#16 = 0)
    (scheduled : g.sched ≠ []) (free : (s.cell c).blocked = none) (due : (s.cell c).entryDue g ≤ (s.tick t).cycleOn c.chip) (n : Nat) :
    exec (.scheduleEntryIssue t c n) s = .next (((s.tick t).issued c).slipBy p c n) := by
  show execScheduleEntryIssue t c n s = _
  simp only [execScheduleEntryIssue, runs]
  exact if_pos ⟨static, scheduled, free, due⟩

/-- Cycles lost in a STATIC partition count as one slip (R107). -/
theorem State.part_slipBy (part : s.part p = some v) (static : s.partSet p 0x0203#16 = 0) (lost : Nat) :
    ∃ w, (s.slipBy p c lost).part p = some w ∧ w.cells = if lost = 0 then v.cells else bump v.cells 0 1 := by
  unfold State.slipBy
  by_cases none : lost = 0
  · rw [if_pos (.inl none), if_pos none]
    exact ⟨v, part, rfl⟩
  · rw [if_neg (by simp [none, static]), if_neg none, State.part_modPart_self]
    exact ⟨_, congrArg (Option.map _) part, rfl⟩

/-! ### A firing (R108) -/

namespace CellState

/-- From each queue of a rule the first message of a tag is taken (R108). -/
def taking (k : CellState) (r : List (Fin 4)) (tag : BitVec 16) : CellState :=
  r.foldl (fun k q => k.setQueue q (dropFirst (fun m => m.tag = tag) (k.queue q))) k

theorem taking_queue (k : CellState) (r : List (Fin 4)) (tag : BitVec 16) (q : Fin 4) :
    (k.taking r tag).queue q = (dropFirst fun m : Msg => m.tag = tag)^[r.count q] (k.queue q) := by
  induction r generalizing k with
  | nil => rfl
  | cons y r ih =>
    refine (ih (k.setQueue y (dropFirst (fun m => m.tag = tag) (k.queue y)))).trans ?_
    by_cases own : y = q
    · rw [own, queue_setQueue_self, List.count_cons_self, Function.iterate_succ_apply]
    · rw [queue_setQueue_ne _ _ _ _ (Ne.symm own), List.count_cons_of_ne own]

/-- A tag that retires leaves the queues (R108). -/
theorem retire_queue (k : CellState) (tag : BitVec 16) (q : Fin 4) : (k.retire tag).queue q = k.queue q := by
  have advance (f : Nat) (k : CellState) : (k.advance f).inq = k.inq := by
    induction f generalizing k with
    | zero => rfl
    | succ f ih =>
      unfold CellState.advance
      split
      · exact ih _
      · rfl
  rw [queue, retire, advance]
  rfl

end CellState

/-- A cell whose rule fires takes its messages; the firing may be its tag's last (R108; log 26). -/
def State.fires (s : State) (c : CellId) (r : List (Fin 4)) (tag : BitVec 16) : State :=
  s.modCell c fun k => if Config.freeReading s.fresh % 2 = 1 then (k.taking r tag).retire tag else k.taking r tag

theorem State.fires_queue (s : State) (c : CellId) (r : List (Fin 4)) (tag : BitVec 16) (q : Fin 4) :
    ((s.fires c r tag).cell c).queue q = (dropFirst fun m : Msg => m.tag = tag)^[r.count q] ((s.cell c).queue q) := by
  rw [State.fires, State.cell_modCell_self]
  split
  · rw [CellState.retire_queue, CellState.taking_queue]
  · exact CellState.taking_queue ..

/-- Messages that wait for queues of a cell enter them, queue by queue. -/
def State.fillQueues (s : State) (c : CellId) (qs : List (Fin 4)) : State := qs.foldl (fun s q => s.enterWaiting c q) s

theorem Filled.fillQueues (s : State) (c : CellId) (qs : List (Fin 4)) : Filled c s (s.fillQueues c qs) :=
  foldl _ (fun s q => enterWaiting s c q) qs s

/-- What enters a queue stands behind what was there, and nothing enters one that nothing waits for. -/
theorem State.enterWaiting_queue (s : State) (c : CellId) (y q : Fin 4) :
    ∃ new, ((s.enterWaiting c y).cell c).queue q = (s.cell c).queue q ++ new ∧
      ((∀ e ∈ s.waitIn, (e.1, e.2.1) ≠ (c, q)) → new = []) := by
  have fed : QueueFed c y s (s.enterWaiting c y) := QueueFed.settleIn ..
  by_cases own : q = y
  · subst own
    obtain ⟨new, grown⟩ := fed.fed
    refine ⟨new, grown, fun idle => ?_⟩
    rw [State.enterWaiting_idle idle] at grown
    exact List.self_eq_append_right.1 grown
  · exact ⟨[], by rw [fed.others q own, List.append_nil], fun _ => rfl⟩

theorem State.fillQueues_queue (s : State) (c : CellId) (qs : List (Fin 4)) (q : Fin 4) :
    ∃ new, ((s.fillQueues c qs).cell c).queue q = (s.cell c).queue q ++ new ∧
      ((∀ e ∈ s.waitIn, (e.1, e.2.1) ≠ (c, q)) → new = []) := by
  induction qs generalizing s with
  | nil => exact ⟨[], (List.append_nil _).symm, fun _ => rfl⟩
  | cons y qs ih =>
    obtain ⟨first, one, none⟩ := s.enterWaiting_queue c y q
    obtain ⟨more, others, rest⟩ := ih (s.enterWaiting c y)
    refine ⟨first ++ more, ?_, fun idle => ?_⟩
    · rw [← List.append_assoc, ← one]
      exact others
    · rw [none idle, rest fun e mem => idle e ((Filled.enterWaiting s c y).waits e mem)]
      rfl

theorem exec_taggedFire_fires {r : List (Fin 4)} {tag : BitVec 16} (runs : (s.tick t).cellRuns c = some (p, v, g))
    (tagged : (s.tick t).partSet p 0x0203#16 = 1) (free : (s.cell c).blocked = none)
    (near : (g.rules.any fun r => r.any fun q => ((s.cell c).eligible q).any fun m =>
      decide (32767 < tagAge (s.cell c).base m.tag)) = false)
    (picked : (s.cell c).pick g.rules = some (r, tag)) :
    exec (.taggedFire t c) s = .next ((((s.tick t).fires c r tag).fillQueues c r).useFresh 1) := by
  have same : (s.tick t).cell c = s.cell c := rfl
  show execTaggedFire t c s = _
  simp only [execTaggedFire, runs, same, if_pos (show _ ∧ _ from ⟨tagged, free⟩), near, picked, Bool.false_eq_true, if_false]
  rfl

/-! ### A swap (R112) -/

/-- The hinges a cell sends as it swaps, one on each output queue bound to a cell. -/
def State.hingesOut (s : State) (x : CellId) : List InFlight :=
  (((s.cell x).active.map CellCfg.outs).getD []).filterMap fun o =>
    match o.2 with
    | .cell dc dr q =>
      some { src := x, srcQ := o.1, dst := { chip := x.chip, c := dc, r := dr }, dstQ := q, msg := hingeMsg, sentAt := s.cycleOn x.chip }
    | .fabric => none

theorem State.mem_hingesOut {x : CellId} {q dq : Fin 4} {dc : Fin 80} {dr : Fin 64} (active : (s.cell x).active = some g)
    (bound : (q, OutBind.cell dc dr dq) ∈ g.outs) :
    ({ src := x, srcQ := q, dst := { chip := x.chip, c := dc, r := dr }, dstQ := dq, msg := hingeMsg, sentAt := s.cycleOn x.chip } :
      InFlight) ∈ s.hingesOut x := by
  refine List.mem_filterMap.2 ⟨(q, .cell dc dr dq), ?_, rfl⟩
  rw [active]
  exact bound

/-- A cell that has swapped runs its shadow 16 CELL cycles later, and its hinges are on their way (R112). -/
structure Swapped (s u : State) (c : CellId) (n : Nat) (nxt : Option CellCfg) : Prop where
  active : (u.cell c).active = nxt
  swapped : (u.cell c).swapped = n
  blocked : (u.cell c).blocked = none
  since : (u.cell c).since = s.cycleOn c.chip + 16
  mesh : u.mesh = s.mesh ++ s.hingesOut c

theorem State.swapCell_swapped (s : State) (v : Part) (c : CellId) (n : Nat) (nxt : Option CellCfg) :
    Swapped s (s.swapCell v c n nxt) c n nxt := by
  unfold State.swapCell
  extract_lets k ins taken out sent turned
  have filled : Filled c turned (turned.fillQueues c ins) := Filled.fillQueues ..
  have turn : turned.cell c = { taken with active := nxt, shadow := none, swapped := n, blocked := none,
                                           since := s.cycleOn c.chip + 16, sched := 0, slip := 0 } := State.cell_modCell_self ..
  have shadow (x : State) : ∃ y, (x.loadShadow v c).cell c = { x.cell c with shadow := y } := by
    unfold State.loadShadow
    extract_lets m
    split
    · exact ⟨_, State.cell_modCell_self ..⟩
    · exact ⟨_, rfl⟩
  have mesh (x : State) : (x.loadShadow v c).mesh = x.mesh := by
    unfold State.loadShadow
    extract_lets m
    split <;> rfl
  obtain ⟨y, loaded⟩ := shadow (turned.fillQueues c ins)
  refine ⟨?_, ?_, ?_, ?_, (mesh _).trans filled.mesh⟩
  · exact (congrArg CellState.active loaded).trans (filled.active.trans (by rw [turn]))
  · exact (congrArg CellState.swapped loaded).trans (filled.swapped.trans (by rw [turn]))
  · exact (congrArg CellState.blocked loaded).trans (filled.blocked.trans (by rw [turn]))
  · exact (congrArg CellState.since loaded).trans (filled.since.trans (by rw [turn]))

/-- A block's carry regions are copied, if the swap moves its block: cells, the mesh and time stay (R122). -/
def State.carryFor (s : State) (p : PartId) (v : Part) (n : Nat) (c : CellId) : State :=
  if v.movesBlock n c then s.carryOnce p n c.chip else s

theorem State.armCalendar_mesh (s : State) (p : PartId) (v : Part) (n : Nat) (m : ChipId) : (s.armCalendar p v n m).mesh = s.mesh := by
  rw [State.armCalendar_frame]

theorem State.armCalendar_cell (s : State) (p : PartId) (v : Part) (n : Nat) (m : ChipId) (x : CellId) :
    (s.armCalendar p v n m).cell x = s.cell x := by
  rw [State.armCalendar_frame]
  rfl

namespace PassesOnly

variable {u : State} (h : PassesOnly s u)
include h

theorem cells : u.cells = s.cells := by rw [h]
theorem mesh : u.mesh = s.mesh := by rw [h]
theorem hbm : u.hbm = s.hbm := by rw [h]
theorem cell (x : CellId) : u.cell x = s.cell x := by rw [State.cell, h.cells, State.cell]
theorem cycleOn (n : ChipId) : u.cycleOn n = s.cycleOn n := by rw [h]; rfl
theorem hingesOut (x : CellId) : u.hingesOut x = s.hingesOut x := by simp only [State.hingesOut, h.cell, h.cycleOn]

end PassesOnly

namespace Swapped

variable {x y : State} {n : Nat} {nxt : Option CellCfg}

/-- Carry regions copied before a swap change nothing of it. -/
theorem afterCarry (h : Swapped x y c n nxt) (carried : PassesOnly s x) : Swapped s y c n nxt :=
  ⟨h.active, h.swapped, h.blocked, by rw [h.since, carried.cycleOn], by rw [h.mesh, carried.mesh, carried.hingesOut]⟩

/-- Waves that pass after a swap, and a calendar that waits, change nothing of it. -/
theorem passWaves (h : Swapped s y c n nxt) (p : PartId) (v : Part) :
    Swapped s ((y.armCalendar p v n c.chip).completeWaves p v.waves.length) c n nxt := by
  have passed := PassesOnly.completeWaves (y.armCalendar p v n c.chip) p v.waves.length
  have cell := (passed.cell c).trans (y.armCalendar_cell p v n c.chip c)
  have mesh := passed.mesh.trans (y.armCalendar_mesh p v n c.chip)
  exact ⟨by rw [cell, h.active], by rw [cell, h.swapped], by rw [cell, h.blocked], by rw [cell, h.since], by rw [mesh, h.mesh]⟩

end Swapped

theorem PassesOnly.carryFor (s : State) (p : PartId) (v : Part) (n : Nat) (c : CellId) : PassesOnly s (s.carryFor p v n c) := by
  unfold State.carryFor
  split
  · exact carryOnce ..
  · exact refl s

theorem exec_cellSwap {nxt : Option CellCfg} (owner : s.quadOwner (cellQuad c) = some p) (part : s.part p = some v)
    (shadow : (s.cell c).shadow = some nxt) (grid : v.gridRuns (s.tick t).osc = true)
    (wave : (v.wave? (s.nextWave v c)).isSome = true) (head : (s.cell c).hingesHead = true) (retires : (s.cell c).mayRetire = true)
    (sound : (s.cell c).trapped = false) :
    exec (.cellSwap t c) s = .next (((((s.tick t).carryFor p v (s.nextWave v c) c).swapCell v c (s.nextWave v c) nxt).armCalendar p v
      (s.nextWave v c) c.chip).completeWaves p v.waves.length) := by
  have owner : (s.tick t).quadOwner (cellQuad c) = some p := owner
  have part : (s.tick t).part p = some v := part
  have same : (s.tick t).cell c = s.cell c := rfl
  have next : (s.tick t).nextWave v c = s.nextWave v c := rfl
  show execCellSwap t c s = _
  simp only [execCellSwap, owner, part, same, shadow, next, grid, wave, head, retires, sound, Bool.not_false, Bool.and_self, if_true]
  rfl

/-- Settles O35: what an entry, a firing and a swap each change, and what enters the queues behind them. -/
theorem cellsFireAndSwap : Obligations.CellsFireAndSwap := by
  intro s t c p v a
  refine ⟨fun g n runs static scheduled free due => ?entry, fun g r tag runs tagged free near picked => ?fire,
    fun nxt owner part shadow grid wave head retires sound => ?swap⟩
  case entry =>
    have part : (a.issued c).part p = some v := State.part_of_cellRuns (s := a) runs
    obtain ⟨w, there, counted⟩ := State.part_slipBy (c := c) part static n
    have static : (a.issued c).partSet p 0x0203#16 = 0 := static
    refine ⟨_, w, exec_scheduleEntryIssue runs static scheduled free due n, ?_, ?_, there, counted, State.slipBy_hbm ..,
      State.slipBy_mesh ..⟩
    all_goals rw [State.slipBy_cell, State.issued, State.cell_modCell_self]
    · rfl
    · exact congrArg _ (if_pos static)
  case fire =>
    have filled := Filled.fillQueues (a.fires c r tag) c r
    refine ⟨_, exec_taggedFire_fires runs tagged free near picked, fun q => ?_, fun d apart => ?_, ?_, filled.mesh⟩
    · obtain ⟨new, grown, idle⟩ := (a.fires c r tag).fillQueues_queue c r q
      exact ⟨new, grown.trans (by rw [State.fires_queue]; rfl), idle⟩
    · exact (filled.cells d apart).trans (State.cell_modCell_ne _ _ _ _ apart)
    · exact (congrArg State.hbm filled.frame).trans rfl
  case swap =>
    have carried := PassesOnly.carryFor a p v (s.nextWave v c) c
    have swapped := ((State.swapCell_swapped _ v c (s.nextWave v c) nxt).afterCarry carried).passWaves p v
    refine ⟨_, exec_cellSwap owner part shadow grid wave head retires sound, swapped.active, swapped.swapped, swapped.blocked,
      swapped.since, fun g q dc dr dq active bound => ?_, fun m mem => ?_, ?_⟩
    · rw [swapped.mesh]
      exact List.mem_append_right _ (State.mem_hingesOut (s := a) active bound)
    · rw [swapped.mesh]
      exact List.mem_append_left _ mem
    · rw [State.completeWaves_hbm, State.armCalendar_hbm, State.swapCell_hbm]
      exact carried.hbm

end

end Sys2Proof.Machine
end

section
/-! SUPPORT. Cells whose instruction may not run (R99, R101, R103, R108). -/

namespace Sys2Proof.Machine

section

variable {s : State} {t : Nat} {c : CellId} {p : PartId} {v : Part} {g : CellCfg}

/-! ### What the aborts of a chip keep (R182) -/

/-- The aborts of a chip keep what changes of groups, dropped sends and queued notices keep. -/
theorem State.abortChip_invariant (P : State → Prop)
    (groups : ∀ (s : State) (p : PartId) (n : Nat) (f : Group → Group), P s → P (s.modPart p fun v => v.modGroup n f))
    (sends : ∀ (s : State) (xs : List Transfer), P s → P { s with sends := xs })
    (notices : ∀ (s : State) (n d : ChipId) (b : Prio0Body), P s → P (s.queuePrio0 n d b))
    (s : State) (p : PartId) (n : ChipId) (start : P s) : P (s.abortChip p n) := by
  have member (s : State) (g : Group) (seq i st : Nat) (h : P s) : P (s.abortMember p g seq i st) := by
    unfold State.abortMember
    split
    · exact h
    · split
      · split
        · extract_lets marked stopped
          have stops : P stopped := sends _ _ (groups _ _ _ _ h)
          split
          · refine foldl_invariant P _ (fun x j hx => ?_) _ _ stops
            split
            · exact notices _ _ _ _ hx
            · exact hx
          · exact stops
        · exact h
      · exact h
  unfold State.abortChip
  split
  · exact start
  · refine foldl_invariant P _ (fun x g hx => ?_) _ _ start
    split
    · exact foldl_invariant P _ (fun y i hy => member y g _ _ _ hy) _ _ hx
    · exact hx

/-- Members that abort leave where their partition's program stands. -/
theorem State.abortChip_prog (part : s.part p = some v) (n : ChipId) :
    ∃ w, (s.abortChip p n).part p = some w ∧ w.prog = v.prog := by
  refine State.abortChip_invariant (fun u => ∃ w, u.part p = some w ∧ w.prog = v.prog) ?_ (fun _ _ => id) (fun _ _ _ _ => id)
    s p n ⟨v, part, rfl⟩
  rintro u q m f ⟨w, there, prog⟩
  obtain ⟨x, found, same⟩ := (KeepsPart.modPart (f := Part.prog) (g := fun v => v.modGroup m f) u q fun _ => rfl).part_of there
  exact ⟨x, found, same.trans prog⟩

/-- Notices are queued beside a chip's black box. -/
theorem State.abortChip_bb (s : State) (p : PartId) (n m : ChipId) : ((s.abortChip p n).chip m).bb = (s.chip m).bb := by
  refine State.abortChip_invariant (fun u => (u.chip m).bb = (s.chip m).bb) (fun u q i f h => ?_) (fun _ _ => id)
    (fun u k d b h => ?_) s p n rfl
  · rw [State.chip_of_chips (State.modPart_chips ..)]
    exact h
  · rw [State.queuePrio0, State.chip_modChip]
    split
    · next here => exact here ▸ h
    · exact h

/-! ### The trap (R103) -/

/-- A black-box record made now is the newest of its chip (R88). -/
theorem State.bbox_last (s : State) (n : ChipId) (code src : Nat) (data : List Byte) :
    ((s.bbox n code src data).chip n).bb.getLast? = some (s.bbRec n code src data) := by
  rw [State.bbox, State.chip_modChip_self]
  have short : (s.chip n).bb.length + 1 - 4032 ≤ (s.chip n).bb.length := by omega
  simp only [List.drop_append_of_le_length short, List.getLast?_concat]

/-- A trap in a partition: its cell is trapped, its program stops with PROGRAM_INVALID, and the chip's black box has it (R103). -/
theorem State.trapCell_traps (part : s.part p = some v) (c : CellId) :
    ((s.trapCell p c).cell c).trapped = true ∧
    (∃ u, (s.trapCell p c).part p = some u ∧ (v.prog = .running → u.prog = .stopping St.programInvalid none)) ∧
    ∃ r, ((s.trapCell p c).chip c.chip).bb.getLast? = some r ∧ r.code = Ev.progStopped ∧ r.src = 1 ∧ r.rtime = s.rackNs := by
  unfold State.trapCell
  extract_lets vc marked at_ recorded
  have aborts : AbortsOnly recorded (recorded.abortChip p c.chip) := AbortsOnly.abortChip ..
  refine ⟨?cell, ?part, ?record⟩
  case cell =>
    have traps : (marked.cell c).trapped = true := congrArg CellState.trapped (State.cell_modCell_self ..)
    rw [State.cell_modPart, State.cell, aborts.frame]
    exact traps
  case part =>
    obtain ⟨w, there, prog⟩ := State.abortChip_prog (s := recorded) part c.chip
    rw [State.part_modPart_self, there]
    refine ⟨_, rfl, fun running => ?_⟩
    simp only [prog, running]
    rfl
  case record =>
    have newest := marked.bbox_last c.chip Ev.progStopped 1 (be 2 vc ++ be 1 at_.1 ++ be 1 at_.2)
    rw [State.chip_of_chips (State.modPart_chips ..), State.abortChip_bb]
    exact ⟨_, newest, rfl, rfl, rfl⟩

/-! ### What traps -/

variable (runs : (s.tick t).cellRuns c = some (p, v, g)) (free : (s.cell c).blocked = none)
include runs free

theorem exec_sends_trap {q : Fin 4} {m : Msg} (bad : outOf g q = none ∨ 3 ≤ m.kind.toNat) :
    exec (.cellSend t c q m) s = .next ((s.tick t).trapCell p c) ∧ exec (.fabricSend t c q m) s = .next ((s.tick t).trapCell p c) := by
  have free : ((s.tick t).cell c).blocked.isSome = false := Option.isSome_eq_false_iff.2 (Option.isNone_iff_eq_none.2 free)
  show execCellSend t c q m s = _ ∧ execFabricSend t c q m s = _
  by_cases kind : 3 ≤ m.kind.toNat
  · simp only [execCellSend, execFabricSend, runs, free, kind, Bool.false_eq_true, if_false, if_true, and_self]
  · simp only [execCellSend, execFabricSend, runs, free, kind, bad.resolve_right kind, Bool.false_eq_true, if_false, and_self]

theorem exec_cellReceive_traps {q : Fin 4}
    (bad : insOf g q = none ∨ (insOf g q = some [] ∧ g.notifyQ ≠ some q ∧ g.abortQ ≠ some q)) :
    exec (.cellReceive t c q) s = .next ((s.tick t).trapCell p c) := by
  have free : ((s.tick t).cell c).blocked.isSome = false := Option.isSome_eq_false_iff.2 (Option.isNone_iff_eq_none.2 free)
  show execCellReceive t c q s = _
  obtain unbound | ⟨sourceless, notify, abort⟩ := bad
  · simp only [execCellReceive, runs, free, unbound, Bool.false_eq_true, if_false]
  · simp [execCellReceive, runs, free, sourceless, notify, abort]

theorem exec_taggedFire_traps (tagged : (s.tick t).partSet p 0x0203#16 = 1)
    (far : ∃ r ∈ g.rules, ∃ q ∈ r, ∃ m ∈ (s.cell c).eligible q, 32767 < tagAge (s.cell c).base m.tag) :
    exec (.taggedFire t c) s = .next ((s.tick t).trapCell p c) := by
  have far : (g.rules.any fun r => r.any fun q => ((s.cell c).eligible q).any fun m =>
      decide (32767 < tagAge (s.cell c).base m.tag)) = true := by
    simpa only [List.any_eq_true, decide_eq_true_eq] using far
  have same : (s.tick t).cell c = s.cell c := rfl
  show execTaggedFire t c s = _
  simp only [execTaggedFire, runs, same, if_pos (show _ ∧ _ from ⟨tagged, free⟩), far, if_true]

end

/-- Settles O36: each instruction that may not run goes to the trap, and what the trap leaves. -/
theorem cellsTrap : Obligations.CellsTrap := by
  intro s t c p v g a runs free
  obtain ⟨cell, ⟨u, there, stops⟩, record⟩ := State.trapCell_traps (State.part_of_cellRuns runs) c
  exact ⟨fun q m bad => exec_sends_trap runs free bad,
    fun q bad => exec_cellReceive_traps runs free bad, fun tagged far => exec_taggedFire_traps runs free tagged far,
    u, there, cell, stops, record⟩

end Sys2Proof.Machine
end

section
/-! SUPPORT. The Deadbolt (R115 to R117): its samples, its spills, and the refill of a queue. -/

namespace Sys2Proof.Machine

section

variable {s : State} {t : Nat} {p : PartId} {n : ChipId} {v : Part}

/-! ### Deadbolts by partition and chip (R110) -/

theorem State.deadbolt_named (s : State) (p : PartId) (n : ChipId) : (s.deadbolt p n).part = p ∧ (s.deadbolt p n).chip = n := by
  unfold State.deadbolt
  cases found : s.deadbolts.find? fun d => d.part = p && d.chip = n with
  | none => exact ⟨rfl, rfl⟩
  | some d => simpa using List.find?_some found

theorem State.deadbolt_setDeadbolt {d : Deadbolt} (part : d.part = p) (chip : d.chip = n) : (s.setDeadbolt d).deadbolt p n = d := by
  have gone : (s.deadbolts.filter fun x => !(x.part = d.part && x.chip = d.chip)).find? (fun x => x.part = p && x.chip = n) = none := by
    rw [part, chip]
    refine List.find?_eq_none.2 fun x mem named => ?_
    have other := (List.mem_filter.1 mem).2
    rw [named] at other
    cases other
  simp only [State.deadbolt, State.setDeadbolt, List.find?_append, gone, Option.none_or]
  simp [part, chip]

theorem State.deadbolt_of_deadbolts {u : State} (h : u.deadbolts = s.deadbolts) : u.deadbolt p n = s.deadbolt p n := by
  rw [State.deadbolt, h, State.deadbolt]

/-! ### A sample (R115) -/

/-- Cycles that are reported or go to the ladder leave the samples of a Deadbolt, and the cells, as they are. -/
structure KeepsSamples (p : PartId) (n : ChipId) (s u : State) : Prop where
  edges : (u.deadbolt p n).edges = (s.deadbolt p n).edges
  next : (u.deadbolt p n).next = (s.deadbolt p n).next
  cells : u.cells = s.cells

namespace KeepsSamples

theorem refl (s : State) : KeepsSamples p n s s := ⟨rfl, rfl, rfl⟩

theorem trans {u w : State} (h : KeepsSamples p n s u) (g : KeepsSamples p n u w) : KeepsSamples p n s w :=
  ⟨g.edges.trans h.edges, g.next.trans h.next, g.cells.trans h.cells⟩

theorem escalateCycle (s : State) (cyc : List CellId) : KeepsSamples p n s (s.escalateCycle p n cyc) := by
  have same : (s.escalateCycle p n cyc).deadbolts = s.deadbolts := State.modPart_deadbolts ..
  refine ⟨?_, ?_, State.modPart_cells ..⟩
  all_goals rw [State.deadbolt_of_deadbolts same]

theorem reportCycle (s : State) (cyc : List CellId) : KeepsSamples p n s (s.reportCycle p n cyc) := by
  obtain ⟨part, chip⟩ := s.deadbolt_named p n
  unfold State.reportCycle
  extract_lets d
  split
  · exact refl s
  · split
    · exact escalateCycle ..
    · split
      · exact escalateCycle ..
      · split
        · exact escalateCycle ..
        · have stored : (s.setDeadbolt { d with reports := d.reports ++ [cyc] }).deadbolt p n = { d with reports := d.reports ++ [cyc] } :=
            State.deadbolt_setDeadbolt part chip
          exact ⟨by rw [stored], by rw [stored], rfl⟩

theorem reportCycles (s : State) (cycs : List (List CellId)) :
    KeepsSamples p n s (cycs.foldl (fun s c => s.reportCycle p n c) s) :=
  foldl_invariant (KeepsSamples p n s) _ (fun _ c h => h.trans (reportCycle _ c)) _ _ (refl s)

end KeepsSamples

/-- A Deadbolt that has sampled the edges of its chip under the window in force (R115). -/
def State.sampled (s : State) (p : PartId) (n : ChipId) : Deadbolt :=
  let d := s.deadbolt p n
  let w := s.partSet p 0x0205#16
  { d with edges := s.sampleEdges p n (if d.window = w then d.edges else []), next := s.cycleOn n + w / 4, window := w }

/-- The cycles of a sample's stable edges (R115). -/
def State.cyclesSampled (s : State) (p : PartId) (n : ChipId) : List (List CellId) :=
  cyclesOf ((s.sampled p n).edges.filter fun e => decide (5 ≤ e.samples)) ((s.cellsOn p n).map Prod.fst)

theorem exec_deadboltSample (part : s.part p = some v) (grid : v.gridRuns (s.tick t).osc = true) (on : v.chips.contains n = true)
    (due : (s.deadbolt p n).next ≤ (s.tick t).cycleOn n) :
    exec (.deadboltSample t n p) s = .next (((s.tick t).cyclesSampled p n).foldl (fun s c => s.reportCycle p n c)
      ((s.tick t).setDeadbolt ((s.tick t).sampled p n))) := by
  have part : (s.tick t).part p = some v := part
  have due : decide (((s.tick t).deadbolt p n).next ≤ (s.tick t).cycleOn n) = true := decide_eq_true due
  show execDeadboltSample t n p s = _
  simp only [execDeadboltSample, part, grid, on, due, Bool.and_self, if_true]
  rfl

/-! ### A spill (R116, R117) -/

/-- While a queue is extended, what waits for it enters its backlog. -/
theorem State.settleIn_extended {x : CellId} {q : Fin 4} (extended : (s.cell x).extended.contains q = true) (f : Nat) :
    ((s.settleIn x q f).cell x).queue q = (s.cell x).queue q ∧
      ∃ new, ((s.settleIn x q f).cell x).log q = (s.cell x).log q ++ new := by
  induction f generalizing s with
  | zero => exact ⟨rfl, [], (List.append_nil _).symm⟩
  | succ f ih =>
    unfold State.settleIn
    split
    · exact ⟨rfl, [], (List.append_nil _).symm⟩
    · next e _ =>
      split
      · let taken : State := { s with waitIn := s.waitIn.erase e }
        have extended : (taken.cell x).extended.contains q = true := extended
        have still : ((taken.enqueue x q e.2.2).cell x).extended.contains q = true := by
          rw [(Filled.enqueue taken x q e.2.2).extended]
          exact extended
        obtain ⟨queue, log⟩ := State.enqueue_extended_log (m := e.2.2) extended
        obtain ⟨queues, new, logs⟩ := ih still
        refine ⟨queues.trans queue, e.2.2 :: new, logs.trans ?_⟩
        rw [log, List.append_assoc]
        rfl
      · exact ⟨rfl, [], (List.append_nil _).symm⟩

/-- A cell whose queue q has gone to its backlog, in front of what stands there (R116, R117). -/
def CellState.spilled (k : CellState) (q : Fin 4) : CellState :=
  { (k.setQueue q []) with
    backlog := Tab.set k.backlog q
      { k.behind q with msgs := k.queue q ++ (k.behind q).msgs, written := (k.behind q).written + wordsOf (k.queue q) },
    extended := if k.extended.contains q then k.extended else k.extended ++ [q] }

namespace CellState

variable (k : CellState) (q : Fin 4)

theorem spilled_queue : (k.spilled q).queue q = [] := queue_setQueue_self ..

theorem spilled_log : (k.spilled q).log q = k.queue q ++ k.log q := by
  rw [log, behind, spilled, Tab.get_set_self]
  rfl

theorem spilled_extended : (k.spilled q).extended.contains q = true := by
  unfold spilled
  dsimp only
  split
  · next already => exact already
  · simp

end CellState

/-- A partition that counts one more spill, in its reporting period if one runs (R117, R120, R124). -/
def Part.countSpill (v : Part) : Part :=
  { v with cells := bump v.cells 1 1, spills := sat32 v.spills 1, perSpills := if v.perGap then v.perSpills else v.perSpills + 1 }

/-- A spill before what waits for the queue enters it. -/
def State.spillQueue (s : State) (p : PartId) (x : CellId) (q : Fin 4) : State :=
  ((s.modCell x fun k => k.spilled q).sawBacklog x (((s.cell x).spilled q).behind q)).modPart p Part.countSpill

theorem State.spill_eq (s : State) (p : PartId) (x : CellId) (q : Fin 4) : s.spill p x q = (s.spillQueue p x q).enterWaiting x q := by
  have backlog : ((s.cell x).spilled q).behind q = { (s.cell x).behind q with
      msgs := (s.cell x).queue q ++ ((s.cell x).behind q).msgs,
      written := ((s.cell x).behind q).written + wordsOf ((s.cell x).queue q) } := Tab.get_set_self ..
  rw [State.spillQueue, backlog]
  rfl

theorem State.spillQueue_cell (s : State) (p : PartId) (x : CellId) (q : Fin 4) :
    (s.spillQueue p x q).cell x = (s.cell x).spilled q := by
  rw [State.spillQueue, State.cell_modPart, State.sawBacklog_cell, State.cell_modCell_self]

theorem State.spillQueue_waitIn (s : State) (p : PartId) (x : CellId) (q : Fin 4) : ∀ e ∈ (s.spillQueue p x q).waitIn, e ∈ s.waitIn := by
  intro e mem
  rw [State.spillQueue, State.modPart_waitIn] at mem
  exact (Filled.sawBacklog (x := x) (s.modCell x fun k => k.spilled q) x _).waits e mem

theorem State.spillQueue_deadbolts (s : State) (p : PartId) (x : CellId) (q : Fin 4) :
    (s.spillQueue p x q).deadbolts = s.deadbolts := by
  rw [State.spillQueue, State.modPart_deadbolts]
  exact (Filled.sawBacklog (x := x) (s.modCell x fun k => k.spilled q) x _).deadbolts

theorem State.part_spillQueue (part : s.part p = some v) (x : CellId) (q : Fin 4) :
    ∃ c, (s.spillQueue p x q).part p = some (Part.countSpill { v with cells := c }) := by
  have saw := Filled.sawBacklog (x := x) (s.modCell x fun k => k.spilled q) x (((s.cell x).spilled q).behind q)
  obtain ⟨y, there, same⟩ := saw.counts.part_of (p := p) (v := v) part
  obtain ⟨c, rfl⟩ := Part.eq_of_uncounted same
  exact ⟨c, (State.part_modPart_self ..).trans (congrArg (Option.map _) there)⟩

/-- Queue q of cell x has gone to its backlog, in front of what stood there, and what waited for it stands behind (R116, R117). -/
structure Spilled (s u : State) (p : PartId) (v : Part) (x : CellId) (q : Fin 4) : Prop where
  queue : (u.cell x).queue q = []
  log : ∃ new, (u.cell x).log q = (s.cell x).queue q ++ (s.cell x).log q ++ new ∧
    ((∀ e ∈ s.waitIn, (e.1, e.2.1) ≠ (x, q)) → new = [])
  extended : (u.cell x).extended.contains q = true
  deadbolts : u.deadbolts = s.deadbolts
  counted : ∃ w, u.part p = some w ∧ w.spills = sat32 v.spills 1 ∧ (v.perGap = false → w.perSpills = v.perSpills + 1)

theorem State.spill_spilled (part : s.part p = some v) (x : CellId) (q : Fin 4) : Spilled s (s.spill p x q) p v x q := by
  let moved := s.spillQueue p x q
  have cell : moved.cell x = (s.cell x).spilled q := s.spillQueue_cell p x q
  have filled : Filled x moved (moved.enterWaiting x q) := Filled.enterWaiting ..
  have extended : (moved.cell x).extended.contains q = true := by rw [cell, CellState.spilled_extended]
  obtain ⟨queue, new, grown⟩ : ((moved.enterWaiting x q).cell x).queue q = (moved.cell x).queue q ∧
      ∃ new, ((moved.enterWaiting x q).cell x).log q = (moved.cell x).log q ++ new := State.settleIn_extended extended _
  rw [s.spill_eq]
  refine ⟨?queue, ⟨new, ?log, fun idle => ?idle⟩, ?extended, ?deadbolts, ?counted⟩
  case queue => exact queue.trans (by rw [cell, CellState.spilled_queue])
  case log => exact grown.trans (by rw [cell, CellState.spilled_log])
  case idle =>
    rw [State.enterWaiting_idle fun e mem => idle e (s.spillQueue_waitIn p x q e mem)] at grown
    exact List.self_eq_append_right.1 grown
  case extended => exact (congrArg (List.contains · q) filled.extended).trans extended
  case deadbolts => exact filled.deadbolts.trans (s.spillQueue_deadbolts p x q)
  case counted =>
    obtain ⟨c, there⟩ := State.part_spillQueue part x q
    obtain ⟨w, stands, same⟩ := filled.counts.part_of there
    exact ⟨w, stands, congrArg Part.spills same, fun period => (congrArg Part.perSpills same).trans (if_neg (by simp [period]))⟩

/-- A Deadbolt whose first report has had one more spill round. -/
def Deadbolt.roundDone (d : Deadbolt) (cyc : List CellId) (rest : List (List CellId)) : Deadbolt :=
  { d with reports := rest, rounds := d.rounds.filter (fun r => r.1 ≠ cyc) ++ [(cyc, d.roundsOf cyc + 1)] }

theorem Deadbolt.roundsOf_roundDone (d : Deadbolt) (cyc : List CellId) (rest : List (List CellId)) :
    (d.roundDone cyc rest).roundsOf cyc = d.roundsOf cyc + 1 := by
  have gone : (d.rounds.filter fun r => r.1 ≠ cyc).find? (fun r => r.1 = cyc) = none := by simp [List.find?_eq_none]
  rw [roundsOf, roundDone, List.find?_append, gone]
  simp

theorem EventsOnly.deadbolts {s u : State} (h : EventsOnly s u) : u.deadbolts = s.deadbolts := by rw [h]

/-- The first report is spilled; the first spill of a reporting period is told (R116, R120). -/
theorem exec_deadboltSpill {cyc : List CellId} {rest : List (List CellId)} {x : CellId} {q : Fin 4} {more : List (CellId × Fin 4)}
    (part : s.part p = some v) (reports : (s.deadbolt p n).reports = cyc :: rest) (victims : (s.tick t).victims cyc = (x, q) :: more) :
    ∃ u, exec (.deadboltSpill t n p) s = .next u ∧
      EventsOnly (((s.tick t).setDeadbolt ((s.deadbolt p n).roundDone cyc rest)).spill p x q) u := by
  have part : (s.tick t).part p = some v := part
  have reports : ((s.tick t).deadbolt p n).reports = cyc :: rest := reports
  let spilled := ((s.tick t).setDeadbolt ((s.deadbolt p n).roundDone cyc rest)).spill p x q
  have run : exec (.deadboltSpill t n p) s = .next (if v.perSpills = 0 ∧ v.perGap = false then
      spilled.raisePart p Ev.deadboltSpill (be 2 ((v.shape.vchip n).getD 0) ++ be 4 1) else spilled) := by
    show execDeadboltSpill t n p s = _
    simp only [execDeadboltSpill, reports, part, victims]
    exact (apply_ite Host.Outcome.next ..).symm
  refine ⟨_, run, ?_⟩
  split
  · exact EventsOnly.raisePart ..
  · exact EventsOnly.refl _

/-! ### A refill (R117) -/

theorem fitQueue_append (n k : Nat) (ms : List Msg) : (fitQueue n k ms).1 ++ (fitQueue n k ms).2 = ms := by
  induction ms generalizing n k with
  | nil => rfl
  | cons m ms ih =>
    unfold fitQueue
    split
    · exact congrArg (m :: ·) (ih ..)
    · rfl

theorem wordsOf_fitQueue (n k : Nat) (ms : List Msg) : wordsOf (fitQueue n k ms).1 ≤ n := by
  induction ms generalizing n k with
  | nil => exact Nat.zero_le n
  | cons m ms ih =>
    unfold fitQueue
    split
    · next fits =>
      have rest := ih (n - msgWords m) (k - msgWords m)
      simp only [wordsOf, List.map_cons, List.sum_cons] at rest ⊢
      omega
    · exact Nat.zero_le n

/-- A cell whose queue has its backlog's head back; with the backlog empty the queue is normal again (R117). -/
def CellState.refilled (k : CellState) (q : Fin 4) : CellState :=
  let b := k.behind q
  let r := b.refill
  { (k.setQueue q r.1) with
    backlog := Tab.set k.backlog q (if r.2.isEmpty then Backlog.empty else { b with msgs := r.2, read := b.read + wordsOf r.1 }),
    extended := if r.2.isEmpty then k.extended.filter fun x => x ≠ q else k.extended }

namespace CellState

variable (k : CellState) (q : Fin 4)

theorem refilled_queue : (k.refilled q).queue q = (k.behind q).refill.1 := queue_setQueue_self ..

theorem refilled_log : (k.refilled q).log q = (k.behind q).refill.2 := by
  rw [log, behind, refilled, Tab.get_set_self]
  split
  · next empty => exact (List.isEmpty_iff.1 empty).symm
  · rfl

theorem refilled_extended (extended : k.extended.contains q = true) :
    (k.refilled q).extended.contains q = true ↔ (k.behind q).refill.2 ≠ [] := by
  unfold refilled
  dsimp only
  split
  · next empty => simp [List.isEmpty_iff.1 empty]
  · next more => exact iff_of_true extended (by simpa using more)

end CellState

theorem exec_queueRefill {c : CellId} {q : Fin 4} (extended : (s.cell c).extended.contains q = true) (empty : (s.cell c).queue q = [])
    (idle : ∀ e ∈ s.waitIn, (e.1, e.2.1) ≠ (c, q)) :
    exec (.queueRefill t c q) s = .next ((s.tick t).modCell c fun k => k.refilled q) := by
  have same : (s.tick t).cell c = s.cell c := rfl
  show execQueueRefill t c q s = _
  simp only [execQueueRefill, same, if_pos (show _ ∧ _ from ⟨extended, empty⟩)]
  exact congrArg Host.Outcome.next (State.enterWaiting_idle idle)

end

/-- Settles O37: samples are kept by the reports that follow, a spill goes in front of the backlog, a refill takes from it in order. -/
theorem deadboltCompletes : Obligations.DeadboltCompletes := by
  intro s t n a
  refine ⟨fun p v part grid on due => ?sample, fun p v cyc rest x q more part reports victims => ?spill,
    fun c q extended empty idle => ?refill⟩
  case sample =>
    have kept := KeepsSamples.reportCycles (p := p) (n := n) (a.setDeadbolt (a.sampled p n)) (a.cyclesSampled p n)
    obtain ⟨own, chip⟩ := a.deadbolt_named p n
    have stored : (a.setDeadbolt (a.sampled p n)).deadbolt p n = a.sampled p n := State.deadbolt_setDeadbolt own chip
    refine ⟨_, exec_deadboltSample part grid on due, ?_, ?_, kept.cells, ?_⟩
    · rw [kept.edges, stored]
      rfl
    · rw [kept.next, stored]
      rfl
    · exact foldl_keeps _ State.hbm (fun x c => x.reportCycle_hbm p n c) _ (a.setDeadbolt (a.sampled p n))
  case spill =>
    obtain ⟨u, run, events⟩ := exec_deadboltSpill part reports victims
    let begun := a.setDeadbolt ((s.deadbolt p n).roundDone cyc rest)
    have spilled : Spilled begun (begun.spill p x q) p v x q := State.spill_spilled (s := begun) part x q
    obtain ⟨own, chip⟩ := s.deadbolt_named p n
    have round : u.deadbolt p n = (s.deadbolt p n).roundDone cyc rest :=
      (State.deadbolt_of_deadbolts (events.deadbolts.trans spilled.deadbolts)).trans (State.deadbolt_setDeadbolt own chip)
    have cell : u.cell x = (begun.spill p x q).cell x := by rw [State.cell, events.cells, State.cell]
    obtain ⟨w, there, spills, period⟩ := spilled.counted
    obtain ⟨new, log, idle⟩ := spilled.log
    refine ⟨u, w, new, run, ?_, ?_, idle, ?_, ?_, ?_, ?_, spills, period, ?_⟩
    · rw [cell, spilled.queue]
    · rw [cell]
      exact log
    · rw [cell, spilled.extended]
    · rw [round]
      rfl
    · rw [round, Deadbolt.roundsOf_roundDone]
    · rw [State.part, events.parts]
      exact there
    · rw [events.hbm, State.spill_hbm]
      rfl
  case refill =>
    have cell : (a.modCell c fun k => k.refilled q).cell c = (s.cell c).refilled q := State.cell_modCell_self ..
    refine ⟨_, exec_queueRefill extended empty idle, ?_, ?_, fitQueue_append .., wordsOf_fitQueue .., ?_,
      fun d apart => State.cell_modCell_ne _ _ _ _ apart, rfl, rfl⟩
    · rw [cell, CellState.refilled_queue]
    · rw [cell, CellState.refilled_log]
    · rw [cell]
      exact CellState.refilled_extended _ _ extended

end Sys2Proof.Machine
end

section
/-! SUPPORT. The firmware's own runs on a chip's Tumbler: the shard map and the rotation plan (R121, R194, R244, R246). -/

namespace Sys2Proof.Machine

section

variable {s : State} {t : Nat} {n : ChipId} {p : PartId} {v : Part}

/-- A run is recorded in a chip's black box and draws free values: everything but chips and free values is as it was. -/
def RecordsRun (s u : State) : Prop := u = { s with chips := u.chips, fresh := u.fresh }

namespace RecordsRun

/-- The record of a firmware run (R88, R244). -/
theorem logTumbler (s : State) (n : ChipId) (problem : Nat) (result : Option (List Byte)) :
    RecordsRun s (s.logTumbler n problem result) := by
  unfold State.logTumbler
  extract_lets seed best bs
  refine foldl_invariant (RecordsRun s) _ (fun u r same => ?_) _ (s.useFresh 2) rfl
  unfold RecordsRun at same ⊢
  rw [State.bbox, State.modChip, same]

variable {u : State} (h : RecordsRun s u)
include h

theorem place : u.place = s.place := by rw [h]
theorem osc : u.osc = s.osc := by rw [h]; rfl
theorem kr : u.kr = s.kr := by rw [h]
theorem parts : u.parts = s.parts := by rw [h]
theorem hbm : u.hbm = s.hbm := by rw [h]

end RecordsRun

/-! ### The shard map (R194, R244) -/

/-- A shard map taken for later inserts (R194). -/
def State.takeMap (s : State) (map : List (Fin 4)) : State :=
  { s with place := { s.place with shardAt := s.osc },
           kr := { s.kr with shard := map.zipIdx.map fun (e : Fin 4 × Nat) => (BitVec.ofNat 8 e.2, e.1) } }

/-- A table that lists values by a byte, from one number on, gives each byte its value. -/
theorem Tab.get_zipIdx {α : Type} (l : List α) (d : α) (i : Nat) (b : BitVec 8) (low : i ≤ b.toNat) (high : b.toNat < i + l.length)
    (fits : i + l.length ≤ 256) :
    some (Tab.get ((l.zipIdx i).map fun e => (BitVec.ofNat 8 e.2, e.1)) d b) = l[b.toNat - i]? := by
  induction l generalizing i with
  | nil => simp at high; omega
  | cons x l ih =>
    simp only [List.length_cons] at high fits
    rw [List.zipIdx_cons, List.map_cons, Tab.get]
    by_cases here : b = BitVec.ofNat 8 i
    · have first : b.toNat - i = 0 := by
        rw [here, BitVec.toNat_ofNat, Nat.mod_eq_of_lt (by omega), Nat.sub_self]
      rw [if_pos here, first]
      rfl
    · have later : b.toNat ≠ i := fun h => here (by rw [← h, BitVec.ofNat_toNat, BitVec.setWidth_eq])
      have step : b.toNat - i = b.toNat - (i + 1) + 1 := by omega
      rw [if_neg here, ih (i + 1) (by omega) (by omega) (by omega), step, List.getElem?_cons_succ]

theorem State.shardOf_takeMap {map : List (Fin 4)} (full : map.length = 256) (key : BitVec 128) :
    some ((s.takeMap map).shardOf key) = map[(key.setWidth 8).toNat]? :=
  Tab.get_zipIdx map _ 0 (key.setWidth 8) (Nat.zero_le _) (by have := (key.setWidth 8).isLt; omega) (by omega)

theorem exec_shardMapRun {map : List (Fin 4)} (lowest : s.lowestChip = some n) (slice : (s.chip n).slice = 0) (full : map.length = 256)
    (due : s.place.shardAt + firmwarePeriod ≤ (s.tick t).osc) :
    exec (.shardMapRun t map) s =
      .next (((s.tick t).takeMap map).logTumbler n 2 (some (map.map fun x => BitVec.ofNat 8 x.val))) := by
  have lowest : (s.tick t).lowestChip = some n := lowest
  have early : ¬(s.tick t).osc < (s.tick t).place.shardAt + firmwarePeriod := Nat.not_lt.2 due
  have firmware : (s.tick t).firmwareSlice n = true := decide_eq_true slice
  show execShardMapRun t map s = _
  simp only [execShardMapRun, lowest, firmware, early, full, decide_false, Bool.not_true, Bool.or_self, Bool.false_eq_true, if_false,
    if_true]
  rfl

/-! ### The rotation plan (R121, R246) -/

/-- A partition's planned permutation with a chip's part of it new; one that is not complete leaves the plan incomplete (R246). -/
def Part.planChip (v : Part) (n : ChipId) (plan : List (Fin 640 × Fin 640)) (complete : Bool) : Part :=
  { v with rotPlan := some (((v.rotPlan.getD []).filter fun e => e.1 ≠ n) ++ (if complete then plan.map fun m => (n, m.1, m.2) else [])),
           rotDone := if complete then (v.rotDone.filter fun m => m ≠ n) ++ [n] else v.rotDone.filter fun m => m ≠ n }

theorem Part.mem_rotDone_planChip (v : Part) (n : ChipId) (plan : List (Fin 640 × Fin 640)) (complete : Bool) :
    n ∈ (v.planChip n plan complete).rotDone ↔ complete = true := by
  cases complete <;> simp [Part.planChip]

theorem exec_rotationPlan {plan : List (Fin 640 × Fin 640)} (slice : (s.chip n).slice = 0) (part : s.part p = some v)
    (rotates : s.rotates p = true) (program : v.hasProgram = true) (up : s.chipUp n = true) (on : v.chips.contains n = true)
    (mine : (plan.all fun m => v.shape.quads.contains (quadOf n (blockK m.1))) = true)
    (sound : rotationOk v.shape (((v.latest.bind fun w => w.config.prog).map ProgramImage.classes).getD []) plan = true)
    (complete : Bool) :
    exec (.rotationPlan t n p plan complete) s =
      .next (((s.tick t).setPart p (some (v.planChip n plan complete))).logTumbler n 3
        (if complete then some (planBytes plan) else none)) := by
  have part : (s.tick t).part p = some v := part
  have rotates : (s.tick t).rotates p = true := rotates
  have up : (s.tick t).chipUp n = true := up
  have firmware : (s.tick t).firmwareSlice n = true := decide_eq_true slice
  show execRotationPlan t n p plan complete s = _
  simp only [execRotationPlan, part, rotates, program, up, firmware, on, mine, sound, Bool.and_self, if_true, State.modPart_eq part]
  rfl

end

/-- Settles O30: the map taken answers for every key's low byte; a plan replaces its chip's part of the permutation. -/
theorem firmwareRunsComplete : Obligations.FirmwareRunsComplete := by
  intro s t n slice
  refine ⟨fun map lowest full due => ?map, fun p v plan complete part rotates program up on mine sound => ?plan⟩
  case map =>
    have logged := RecordsRun.logTumbler ((s.tick t).takeMap map) n 2 (some (map.map fun x => BitVec.ofNat 8 x.val))
    refine ⟨_, exec_shardMapRun lowest slice full due, fun key => ?_, ?_, ?_, logged.hbm, logged.parts⟩
    · rw [State.shardOf, logged.kr]
      exact State.shardOf_takeMap full key
    · rw [logged.place, logged.osc]
      rfl
    · rw [logged.kr]
      rfl
  case plan =>
    have logged := RecordsRun.logTumbler ((s.tick t).setPart p (some (v.planChip n plan complete))) n 3
      (if complete then some (planBytes plan) else none)
    refine ⟨_, v.planChip n plan complete, exec_rotationPlan slice part rotates program up on mine sound complete, ?_, rfl,
      v.mem_rotDone_planChip n plan complete, rfl, rfl, logged.hbm⟩
    rw [State.part, logged.parts]
    exact State.part_setPart_self ..

end Sys2Proof.Machine
end

section
/-! SUPPORT. The two receive sides of a link: what a change near, far or at both leaves there, at the ends of other links, and of the
rest of the machine (R15, R17, R144). -/

namespace Sys2Proof.Machine

/-! ### Ends of links (R15, R17) -/

theorem oppositePort_ne {p : PortId} (torus : p.val < 6) : oppositePort p ≠ p := by
  intro same
  have same := congrArg Fin.val same
  rw [oppositePort, if_pos torus] at same
  dsimp only at same
  split at same <;> omega

/-- A chip is given by its neighbour on a port. -/
theorem neighbour_inj {n m : ChipId} {p : PortId} (same : neighbour n p = neighbour m p) : n = m := by
  have coordinates := And.intro (congrArg chipX same) (And.intro (congrArg chipY same) (congrArg chipZ same))
  have := chipX_lt n
  have := chipY_lt n
  have := chipZ_lt n
  have := chipX_lt m
  have := chipY_lt m
  have := chipZ_lt m
  apply Fin.ext
  rw [chip_val n, chip_val m]
  unfold neighbour at coordinates
  split at coordinates
  case h_7 => omega
  all_goals
    simp only [chipX_chipAt, chipY_chipAt, chipZ_chipAt] at coordinates
    omega

theorem LinkId.eq_of_parts {l m : LinkId} (chip : m.chip = l.chip) (port : m.port = l.port) : m = l := by
  cases l
  cases m
  exact congrArg₂ LinkId.mk chip port

/-- The far end of a torus link is no end of a link on the same port; an uplink is its own. -/
theorem reverseLink_ne_of_port {l m : LinkId} (port : m.port = l.port) (other : m ≠ l ∨ m.port.val < 6) : reverseLink m ≠ l := by
  intro same
  by_cases torus : m.port.val < 6
  · have ports := congrArg LinkId.port same
    rw [reverseLink, if_pos torus] at ports
    exact oppositePort_ne torus (ports.trans port.symm)
  · rw [reverseLink, if_neg torus] at same
    exact other.elim (fun h => h same) torus

theorem reverseLink_inj {l m : LinkId} (port : m.port = l.port) (same : reverseLink m = reverseLink l) : m = l := by
  unfold reverseLink at same
  rw [port] at same
  split at same
  · have chips := congrArg LinkId.chip same
    have chip : m.chip = l.chip := neighbour_inj (p := l.port) chips
    exact LinkId.eq_of_parts chip port
  · exact same

theorem uplinkEnd_inj {l m : LinkId} (port : m.port = l.port) (uplink : ¬l.port.val < 6) (same : uplinkEnd m = uplinkEnd l) : m = l := by
  have switches := congrArg Prod.fst same
  have ports := congrArg (fun e => e.2.val) same
  simp only [uplinkEnd, port] at switches ports
  have small : ∀ n u, uplinkPort n u < 32 := fun n u => by
    have := chipX_lt n
    have := chipY_lt n
    unfold uplinkPort
    split <;> omega
  rw [Nat.mod_eq_of_lt (small ..), Nat.mod_eq_of_lt (small ..)] at ports
  have second : l.port.val - 6 < 2 := by omega
  exact LinkId.eq_of_parts (uplink_unique second second switches ports).1 port

namespace State

/-! ### A change at one side, seen at either (R144) -/

variable (s : State) (l m : LinkId) (f : Link → Link)

theorem link_modFar_self : (s.modFar l f).link l = s.link l := by
  unfold modFar
  split
  · next torus => rw [link_modLink, if_neg (reverseLink_ne_of_port rfl (.inr torus)).symm]
  · rfl

theorem farSide_modLink_self : (s.modLink l f).farSide l = s.farSide l := by
  unfold farSide
  split
  · next torus => rw [link_modLink, if_neg (reverseLink_ne_of_port rfl (.inr torus))]
  · rfl

theorem farSide_modFar_self : (s.modFar l f).farSide l = f (s.farSide l) := by
  unfold farSide modFar
  split
  · rw [link_modLink_self]
  · rw [swPort_modSwPort_self]

theorem link_modSides_self : (s.modSides l f).link l = f (s.link l) := by
  rw [modSides, link_modFar_self, link_modLink_self]

theorem farSide_modSides_self : (s.modSides l f).farSide l = f (s.farSide l) := by
  rw [modSides, farSide_modFar_self, farSide_modLink_self]

/-- What a link's two sides read depends on the links and the switches alone. -/
theorem farSide_of {s t : State} (links : t.links = s.links) (sw : t.sw = s.sw) (l : LinkId) : t.farSide l = s.farSide l := by
  unfold farSide
  rw [link_of_links links, swPort, swt_of_sw sw, swPort]

end State

/-! ### What changes of receive sides leave -/

/-- Everything but links, switches and the RMU's records is as it was. -/
def SidesOnly (s t : State) : Prop := t = { s with links := t.links, sw := t.sw, rmu := t.rmu }

namespace SidesOnly

variable {s t u : State}

theorem refl (s : State) : SidesOnly s s := rfl

theorem trans (h : SidesOnly s t) (g : SidesOnly t u) : SidesOnly s u := by
  unfold SidesOnly at *
  rw [g, h]

theorem foldl {α : Type} (f : State → α → State) (h : ∀ s a, SidesOnly s (f s a)) (l : List α) (s : State) :
    SidesOnly s (l.foldl f s) :=
  foldl_invariant (SidesOnly s) f (fun b a hb => hb.trans (h b a)) l s (refl s)

theorem modLink (s : State) (l : LinkId) (f : Link → Link) : SidesOnly s (s.modLink l f) := rfl

theorem modFar (s : State) (l : LinkId) (f : Link → Link) : SidesOnly s (s.modFar l f) := by
  unfold State.modFar
  split <;> rfl

theorem modSides (s : State) (l : LinkId) (f : Link → Link) : SidesOnly s (s.modSides l f) := (modLink s l f).trans (modFar ..)

theorem log (s : State) (c : Nat) (u : BitVec 16) (d : List Byte) : SidesOnly s (s.log c u d) := rfl

section Fields

variable (h : SidesOnly s t)
include h

theorem parts : t.parts = s.parts := by rw [h]
theorem hbm : t.hbm = s.hbm := by rw [h]
theorem out : t.out = s.out := by rw [h]
theorem rejectedEnds : t.rejectedEnds = s.rejectedEnds := by rw [h]
theorem osc : t.osc = s.osc := by rw [State.osc, h, State.osc]

end Fields

end SidesOnly

end Sys2Proof.Machine
end

section
/-! SUPPORT. Links in care: quarantine and its test, lanes that leave for theirs, and what the readings record (R162, R163, R166,
R167). -/

namespace Sys2Proof.Machine

section

variable {s : State} {t : Nat} {l : LinkId}

/-! ### Quarantine (R162, R163) -/

/-- The quarantines of a link within 24 h (R163). -/
def Link.recentQuarantines (k : Link) (now : Nat) : List Nat := k.quarAt.filter fun x => decide (now ≤ x + 86400000000000)

/-- A receive side whose link is quarantined at an instant of rack time (R162, R163). -/
def Link.quarantine (k : Link) (now : Nat) : Link :=
  { (k.count 6 1) with quarantined := true, qualified := false, quarAt := k.recentQuarantines now ++ [now],
                       stuck := k.stuck || decide (2 ≤ (k.recentQuarantines now).length), test := none }

theorem State.quarantine_eq (s : State) (l : LinkId) :
    s.quarantine l = { (s.modSides l fun k => k.quarantine s.rackNs).emit (.mgmt l (nextFrame s.osc / 2048) (.quarantined l)) with
      place := { s.place with due := true } } := rfl

theorem State.link_quarantine (s : State) (l : LinkId) : (s.quarantine l).link l = (s.link l).quarantine s.rackNs := by
  rw [quarantine_eq]
  exact s.link_modSides_self l _

theorem State.farSide_quarantine (s : State) (l : LinkId) : (s.quarantine l).farSide l = (s.farSide l).quarantine s.rackNs := by
  rw [quarantine_eq]
  exact (State.farSide_of rfl rfl l).trans (s.farSide_modSides_self l _)

theorem State.quarantine_parts (s : State) (l : LinkId) : (s.quarantine l).parts = s.parts := by
  rw [quarantine_eq]
  exact s.modSides_parts l _

theorem State.carries_quarantine (s : State) (l : LinkId) : (s.quarantine l).carries l = false := by
  have out : ((s.quarantine l).link l).quarantined = true := by rw [s.link_quarantine]; rfl
  rw [carries, out, Bool.not_true, Bool.and_false, Bool.false_and]

theorem exec_linkQuarantine (free : (s.link l).quarantined = false)
    (due : ((s.link l).burst = true ∧ nextFrame (s.link l).uncAt ≤ (s.tick t).osc) ∨
      ((s.farSide l).burst = true ∧ nextFrame (s.farSide l).uncAt ≤ (s.tick t).osc)) :
    exec (.linkQuarantine t l) s = .next ((s.tick t).quarantine l) := by
  have free : ((s.tick t).link l).quarantined = false := free
  have some : ([(s.tick t).link l, (s.tick t).farSide l].any fun k => k.burst && decide (nextFrame k.uncAt ≤ (s.tick t).osc)) = true := by
    simp only [List.any_cons, List.any_nil, Bool.or_false, Bool.or_eq_true, Bool.and_eq_true, decide_eq_true_eq]
    exact due
  show execLinkQuarantine t l s = _
  simp only [execLinkQuarantine, free, some, Bool.not_false, Bool.and_self, if_true]

/-- A test without an uncorrectable codeword, whose eight lanes stay within 10^-6 (R163). -/
def cleanTest (unc : Bool) (bers : List Nat) : Bool := !unc && decide (bers.length = 8) && bers.all fun b => decide (b ≤ 1000000)

theorem cleanTest_iff (unc : Bool) (bers : List Nat) :
    cleanTest unc bers = true ↔ unc = false ∧ bers.length = 8 ∧ ∀ b ∈ bers, b ≤ 1000000 := by
  simp only [cleanTest, Bool.and_eq_true, Bool.not_eq_true', decide_eq_true_eq, List.all_eq_true, and_assoc]

theorem exec_quarantineTestDone (out : (s.link l).quarantined = true)
    (due : (s.link l).quarAt.getLastD 0 + 60000000000 ≤ (s.tick t).rackNs) (unc : Bool) (bers : List Nat) :
    exec (.quarantineTestDone t l unc bers) s =
      .next ((s.tick t).modSides l fun k => { k with qualified := cleanTest unc bers && !k.stuck }) :=
  if_pos (show ((s.tick t).link l).quarantined = true ∧ _ from ⟨out, due⟩)

/-! ### Lanes that leave (R166) -/

/-- A lane out for its test from the next frame on. -/
def laneOutFrom (osc : Nat) (lane : Fin 8) : LaneTest := { lane := lane, since := nextFrame osc, until_ := none }

theorem State.link_takeLaneOut (s : State) (l : LinkId) (n : Fin 8) :
    (s.takeLaneOut l n).link l = { s.link l with test := some (laneOutFrom s.osc n) } :=
  s.link_modSides_self l _

theorem State.farSide_takeLaneOut (s : State) (l : LinkId) (n : Fin 8) :
    (s.takeLaneOut l n).farSide l = { s.farSide l with test := some (laneOutFrom s.osc n) } :=
  (State.farSide_of rfl rfl l).trans (s.farSide_modSides_self l _)

theorem State.takeLaneOut_parts (s : State) (l : LinkId) (n : Fin 8) : (s.takeLaneOut l n).parts = s.parts := s.modSides_parts l _

theorem State.takeLaneOut_out (s : State) (l : LinkId) (n : Fin 8) :
    (s.takeLaneOut l n).out = s.out ++ [.mgmt l (s.osc / 2048) (.laneOut n)] :=
  congrArg (· ++ _) (SidesOnly.modSides s l _).out

/-- The next test of a link's lanes is due one period on (R166). -/
def State.holdTests (s : State) (l : LinkId) : State :=
  s.modSides l fun k => { k with testHeldUntil := s.osc + s.rackSet 0x0301#16 * 1000000000 }

theorem exec_laneTestStart (carries : (s.tick t).carries l = true) (whole : (s.link l).spared = 0) (free : (s.link l).test = none)
    (due : (s.link l).testHeldUntil ≤ (s.tick t).osc) :
    exec (.laneTestStart t l) s = .next (((s.tick t).holdTests l).takeLaneOut l 0) := by
  have whole : ((s.tick t).link l).spared = 0 := whole
  have free : ((s.tick t).link l).test = none := free
  have due : ((s.tick t).link l).testHeldUntil ≤ (s.tick t).osc := due
  show execLaneTestStart t l s = _
  simp only [execLaneTestStart, carries, whole, free, due, Option.isNone_none, decide_true, Bool.and_self, if_true]
  rfl

/-! ### Readings (R166, R313) -/

/-- A lane's readings kept at the two sides of its link (R166). -/
def State.keepBers (s : State) (l : LinkId) (lane ber far : Nat) : State :=
  (s.modLink l fun k => { k with bers := k.bers.set lane ber }).modFar l fun k => { k with bers := k.bers.set lane far }

/-- Readings of a link's lanes: its two sides keep them, drifts are logged, and nothing else changes. -/
structure Measures (l : LinkId) (s u : State) : Prop where
  frame : SidesOnly s u
  near : ∃ bs, u.link l = { s.link l with bers := bs }
  far : ∃ bs, u.farSide l = { s.farSide l with bers := bs }

namespace Measures

theorem refl (s : State) : Measures l s s := ⟨.refl s, ⟨_, rfl⟩, ⟨_, rfl⟩⟩

theorem trans {u w : State} (h : Measures l s u) (g : Measures l u w) : Measures l s w := by
  obtain ⟨bs, near⟩ := h.near
  obtain ⟨cs, far⟩ := h.far
  obtain ⟨bs', near'⟩ := g.near
  obtain ⟨cs', far'⟩ := g.far
  exact ⟨h.frame.trans g.frame, ⟨bs', by rw [near', near]⟩, ⟨cs', by rw [far', far]⟩⟩

theorem driftOf (s : State) (base : List Nat) (link : List Byte) (lane ber : Nat) : Measures l s (s.driftOf base link lane ber) := by
  unfold State.driftOf
  split
  · exact ⟨.log .., ⟨_, rfl⟩, ⟨_, State.farSide_of rfl rfl l⟩⟩
  · exact refl s

theorem keepBers (s : State) (lane ber far : Nat) : Measures l s (s.keepBers l lane ber far) := by
  refine ⟨(SidesOnly.modLink s l _).trans (.modFar ..), ⟨(s.link l).bers.set lane ber, ?_⟩, ⟨(s.farSide l).bers.set lane far, ?_⟩⟩
  · rw [State.keepBers, State.link_modFar_self, State.link_modLink_self]
  · rw [State.keepBers, State.farSide_modFar_self, State.farSide_modLink_self]

theorem recordBoth (s : State) (lane ber far : Nat) : Measures l s (s.recordBoth l lane ber far) :=
  (keepBers s lane ber far).trans ((driftOf ..).trans (driftOf ..))

theorem foldl {α : Type} (f : State → α → State) (h : ∀ s a, Measures l s (f s a)) (as : List α) (s : State) :
    Measures l s (as.foldl f s) :=
  foldl_invariant (Measures l s) f (fun _ _ g => g.trans (h ..)) as s (refl s)

end Measures

/-! ### The end of a test (R166, R167) -/

/-- The worse of a lane's readings at the two ends (R167). -/
def worstBer (b : LaneBers) (i : Nat) : Nat := max (b.near.getD i 0) (b.far.getD i 0)

/-- A lane of a link that is not spared reads above 10^-5 (R167). -/
def Link.losesLane (k : Link) (b : LaneBers) : Bool :=
  (List.range 8).any fun i => !k.spared.getLsbD i && decide (berSpare < worstBer b i)

theorem Link.losesLane_iff (k : Link) (b : LaneBers) :
    k.losesLane b = true ↔ ∃ i < 8, k.spared.getLsbD i = false ∧ 10000000 < worstBer b i := by
  simp only [losesLane, List.any_eq_true, List.mem_range, Bool.and_eq_true, Bool.not_eq_true', decide_eq_true_eq]
  rfl

/-- The spared lanes of a retrained link read at most 10^-5 (R167). -/
def Link.heals (k : Link) (b : LaneBers) : Bool :=
  k.retrained && (List.range 8).all fun i => !k.spared.getLsbD i || decide (worstBer b i ≤ berSpare)

theorem Link.heals_iff (k : Link) (b : LaneBers) :
    k.heals b = true ↔ k.retrained = true ∧ ∀ i < 8, k.spared.getLsbD i = true → worstBer b i ≤ 10000000 := by
  have lane (i : Nat) : (!k.spared.getLsbD i || decide (worstBer b i ≤ berSpare)) = true ↔
      (k.spared.getLsbD i = true → worstBer b i ≤ berSpare) := by
    cases k.spared.getLsbD i <;> simp
  simp only [heals, Bool.and_eq_true, List.all_eq_true, List.mem_range, lane]
  rfl

/-- The readings of every lane of a link, its next test one period on. -/
def State.recordLanes (s : State) (l : LinkId) (b : LaneBers) : State :=
  (List.range 8).foldl (fun s i => s.recordBoth l i (b.near.getD i 0) (b.far.getD i 0)) (s.holdTests l)

theorem exec_laneTestEnd_spared (carries : (s.tick t).carries l = true) (spared : (s.link l).spared ≠ 0)
    (due : (s.link l).testHeldUntil ≤ (s.tick t).osc) (b : LaneBers) :
    exec (.laneTestEnd t l b) s = .next (if (s.link l).losesLane b then ((s.tick t).recordLanes l b).quarantine l
      else if (s.link l).heals b then ((s.tick t).recordLanes l b).modSides l fun k => { k with spared := 0, retrained := false }
      else (s.tick t).recordLanes l b) := by
  have spared : ((s.tick t).link l).spared ≠ 0 := spared
  have due : ((s.tick t).link l).testHeldUntil ≤ (s.tick t).osc := due
  show execLaneTestEnd t l b s = _
  simp only [execLaneTestEnd, carries, Bool.not_true, Bool.false_eq_true, if_false, if_pos spared, if_pos due]
  rfl

/-- Both sides of a link end their test. -/
def State.endTest (s : State) (l : LinkId) : State := s.modSides l fun k => { k with test := none }

/-- The readings of the lane that was out. -/
def State.recordLane (s : State) (l : LinkId) (lane : Fin 8) (b : LaneBers) : State :=
  s.recordBoth l lane.val (b.near.headD 0) (b.far.headD 0)

section

variable {x : LaneTest} {b : LaneBers}

theorem exec_laneTestEnd_ended {e : Nat} (carries : (s.tick t).carries l = true) (whole : (s.link l).spared = 0)
    (test : (s.link l).test = some x) (ended : x.until_ = some e) (due : e ≤ (s.tick t).osc) :
    exec (.laneTestEnd t l b) s = .next ((s.tick t).endTest l) := by
  have whole : ¬((s.tick t).link l).spared ≠ 0 := not_not.2 whole
  have test : ((s.tick t).link l).test = some x := test
  show execLaneTestEnd t l b s = _
  simp only [execLaneTestEnd, carries, Bool.not_true, Bool.false_eq_true, if_false, if_neg whole, test, ended, if_pos due]
  rfl

variable (carries : (s.tick t).carries l = true) (whole : (s.link l).spared = 0) (test : (s.link l).test = some x)
  (open_ : x.until_ = none) (due : frameUp (x.since + (s.tick t).rackSet 0x0302#16 * 1000000000) ≤ (s.tick t).osc)
include carries whole test open_ due

theorem exec_laneTestEnd_spares (fails : 10000000 < max (b.near.headD 0) (b.far.headD 0)) :
    exec (.laneTestEnd t l b) s = .next ((((s.tick t).recordLane l x.lane b).endTest l).modSides l fun k =>
      { k with spared := k.spared ||| BitVec.ofNat 8 (2 ^ x.lane.val) }) := by
  have whole : ¬((s.tick t).link l).spared ≠ 0 := not_not.2 whole
  have test : ((s.tick t).link l).test = some x := test
  have fails : berSpare < max (b.near.headD 0) (b.far.headD 0) := fails
  show execLaneTestEnd t l b s = _
  simp only [execLaneTestEnd, carries, Bool.not_true, Bool.false_eq_true, if_false, if_neg whole, test, open_, if_pos due, if_pos fails]
  rfl

theorem exec_laneTestEnd_passes (passes : max (b.near.headD 0) (b.far.headD 0) ≤ 10000000) :
    exec (.laneTestEnd t l b) s = .next (match nextLane x.lane with
      | some n => ((s.tick t).recordLane l x.lane b).takeLaneOut l n
      | none => ((s.tick t).recordLane l x.lane b).endTest l) := by
  have whole : ¬((s.tick t).link l).spared ≠ 0 := not_not.2 whole
  have test : ((s.tick t).link l).test = some x := test
  have passes : ¬berSpare < max (b.near.headD 0) (b.far.headD 0) := Nat.not_lt.2 passes
  show execLaneTestEnd t l b s = _
  simp only [execLaneTestEnd, carries, Bool.not_true, Bool.false_eq_true, if_false, if_neg whole, test, open_, if_pos due, if_neg passes]
  cases nextLane x.lane <;> rfl

end

end


/-! ### The statement about them -/

theorem State.link_recordLanes (s : State) (l : LinkId) (b : LaneBers) :
    ∃ h bs, (s.recordLanes l b).link l = { s.link l with testHeldUntil := h, bers := bs } := by
  obtain ⟨bs, near⟩ := (Measures.foldl (l := l) _ (fun s i => .recordBoth s i ..) (List.range 8) (s.holdTests l)).near
  refine ⟨s.osc + s.rackSet 0x0301#16 * 1000000000, bs, near.trans ?_⟩
  rw [State.holdTests, State.link_modSides_self]

theorem State.recordLanes_frame (s : State) (l : LinkId) (b : LaneBers) : SidesOnly s (s.recordLanes l b) :=
  (SidesOnly.modSides s l _).trans (Measures.foldl (l := l) _ (fun s i => .recordBoth s i ..) (List.range 8) (s.holdTests l)).frame

/-- A link with a spared lane: its readings quarantine it, heal it, or leave it (R167). -/
theorem exec_laneTestEnd_spared_cases {s : State} {t : Nat} {l : LinkId} (carries : (s.tick t).carries l = true)
    (spared : (s.link l).spared ≠ 0) (due : (s.link l).testHeldUntil ≤ (s.tick t).osc) (b : LaneBers) :
    ∃ u, exec (.laneTestEnd t l b) s = .next u ∧ ((s.link l).losesLane b = true ↔ (u.link l).quarantined = true) ∧
      ((s.link l).losesLane b = false → (s.link l).heals b = true → (u.link l).spared = 0) ∧
      ((s.link l).losesLane b = false → (s.link l).heals b = false → (u.link l).spared = (s.link l).spared) ∧ u.parts = s.parts := by
  obtain ⟨h, bs, read⟩ := (s.tick t).link_recordLanes l b
  have frame := (s.tick t).recordLanes_frame l b
  have inCare : (s.link l).quarantined = false := by
    simp only [State.carries, Bool.and_eq_true, Bool.not_eq_true'] at carries
    exact carries.1.2
  refine ⟨_, exec_laneTestEnd_spared carries spared due b, ?_⟩
  cases loses : (s.link l).losesLane b with
  | true =>
    refine ⟨iff_of_true rfl ?_, nofun, nofun, (State.quarantine_parts ..).trans frame.parts⟩
    rw [if_pos rfl, State.link_quarantine]
    rfl
  | false =>
    simp only [Bool.false_eq_true, if_false]
    cases heals : (s.link l).heals b with
    | true =>
      refine ⟨iff_of_false nofun ?_, fun _ _ => ?_, nofun, (State.modSides_parts ..).trans frame.parts⟩
      all_goals rw [if_pos rfl, State.link_modSides_self, read]
      exact Bool.eq_false_iff.1 inCare
    | false =>
      simp only [Bool.false_eq_true, if_false, read]
      exact ⟨iff_of_false nofun (Bool.eq_false_iff.1 inCare), nofun, fun _ _ => rfl, frame.parts⟩

/-- Settles O40: quarantine by the burst on either side, its test by what is read, and lanes by the test they are in. -/
theorem linkCareCompletes : Obligations.LinkCareCompletes := by
  intro s t l a
  refine ⟨fun free due => ?quarantine, fun unc bers out due => ?test, fun carries whole free due => ?start,
    fun x b carries whole test => ⟨fun open_ due => ?lane, fun e ended due => ?ended⟩, fun b carries spared due => ?spared⟩
  case quarantine =>
    refine ⟨_, exec_linkQuarantine free due, ?_, ?_, State.carries_quarantine .., ?_, fun twice => ?_, State.quarantine_parts ..⟩
    · rw [State.link_quarantine]
      rfl
    · rw [State.farSide_quarantine]
      rfl
    · rfl
    · rw [State.link_quarantine]
      exact Bool.or_eq_true_iff.2 (.inr (decide_eq_true twice))
  case test =>
    refine ⟨_, exec_quarantineTestDone out due unc bers, ?_, ?_, State.modSides_parts ..⟩
    all_goals rw [State.link_modSides_self]
    · exact out
    · simp only [Bool.and_eq_true, cleanTest_iff, Bool.not_eq_true', and_assoc]
      rfl
  case start =>
    have held := SidesOnly.modSides (s.tick t) l fun k =>
      { k with testHeldUntil := (s.tick t).osc + (s.tick t).rackSet 0x0301#16 * 1000000000 }
    have osc : ((s.tick t).holdTests l).osc = (s.tick t).osc := held.osc
    refine ⟨_, exec_laneTestStart carries whole free due, ?_, ?_, ?_, ?_, (State.takeLaneOut_parts ..).trans held.parts⟩
    · rw [State.link_takeLaneOut, osc]
      rfl
    · rw [State.farSide_takeLaneOut, osc]
      rfl
    · rw [State.link_takeLaneOut, State.holdTests, State.link_modSides_self]
    · rw [State.takeLaneOut_out, osc]
      exact congrArg (· ++ _) held.out
  case lane =>
    have read : Measures l (s.tick t) ((s.tick t).recordLane l x.lane b) := .recordBoth ..
    obtain ⟨bs, near⟩ := read.near
    have parts := read.frame.parts
    have osc := read.frame.osc
    rcases Nat.lt_or_ge 10000000 (max (b.near.headD 0) (b.far.headD 0)) with fails | passes
    · refine ⟨_, exec_laneTestEnd_spares carries whole test open_ due fails, fun passes => absurd fails (Nat.not_lt.2 passes),
        fun _ => ⟨?_, ?_, ?_⟩, (State.modSides_parts ..).trans ((State.modSides_parts ..).trans parts)⟩
      · rw [State.link_modSides_self, State.endTest, State.link_modSides_self]
      · rw [State.farSide_modSides_self, State.endTest, State.farSide_modSides_self]
      · rw [State.link_modSides_self, State.endTest, State.link_modSides_self, near]
        exact (congrArg (· ||| BitVec.ofNat 8 (2 ^ x.lane.val)) whole).trans BitVec.zero_or
    · refine ⟨_, exec_laneTestEnd_passes carries whole test open_ due passes, fun _ => ?_,
        fun fails => absurd fails (Nat.not_lt.2 passes), ?_⟩
      · cases next : nextLane x.lane with
        | some n =>
          dsimp only
          rw [State.link_takeLaneOut, near, osc]
          exact ⟨whole, rfl⟩
        | none =>
          dsimp only
          rw [State.endTest, State.link_modSides_self, near]
          exact ⟨whole, rfl⟩
      · cases nextLane x.lane with
        | some n => exact (State.takeLaneOut_parts ..).trans parts
        | none => exact (State.modSides_parts ..).trans parts
  case ended =>
    refine ⟨_, exec_laneTestEnd_ended carries whole test ended due, ?_, ?_, ?_, State.modSides_parts ..⟩
    · rw [State.endTest, State.link_modSides_self]
    · rw [State.endTest, State.farSide_modSides_self]
    · rw [State.endTest, State.link_modSides_self]
      exact whole
  case spared =>
    obtain ⟨u, runs, quarantined, healed, stays, parts⟩ := exec_laneTestEnd_spared_cases carries spared due b
    have loses := (s.link l).losesLane_iff b
    have heals := (s.link l).heals_iff b
    exact ⟨u, runs, loses.symm.trans quarantined,
      fun keeps mends => healed (Bool.eq_false_iff.2 (mt loses.1 keeps)) (heals.2 mends),
      fun keeps worse => stays (Bool.eq_false_iff.2 (mt loses.1 keeps)) (Bool.eq_false_iff.2 (mt heals.1 worse)), parts⟩

end Sys2Proof.Machine
end

section
/-! SUPPORT. Priority-0 messages: what one leaves on its link, the ways it may go, and the last sequence numbers seen (R164, R165,
R169). -/

namespace Sys2Proof.Machine

section

variable {s : State} {t : Nat} {n : ChipId}

/-! ### A packet on its link (R164) -/

/-- The next management slot of a link that no priority-0 packet has taken (R164). -/
def State.prioSlot (s : State) (l : LinkId) : Nat := mgmtFrom (max (absSlot s.osc + 1) (s.link l).prioNext)

section

variable (s) (l : LinkId) (src dst : ChipId) (x : BitVec 32) (f : Bool) (b : Prio0Body)

theorem State.sendPrio0_out : (s.sendPrio0 l src dst x f b).out = s.out ++ [.prio0 src dst l (s.prioSlot l) x f b] := rfl

theorem State.sendPrio0_chip (m : ChipId) : (s.sendPrio0 l src dst x f b).chip m = s.chip m := rfl

theorem State.link_sendPrio0 (m : LinkId) : (s.sendPrio0 l src dst x f b).link m =
    if m = l then { (s.link l).count 5 (if f then 1 else 0) with prioNext := s.prioSlot l + 1 } else s.link m := by
  have only : (s.sendPrio0 l src dst x f b).link m = (s.modLink l fun k =>
      { k.count 5 (if f then 1 else 0) with prioNext := s.prioSlot l + 1 }).link m := rfl
  rw [only, State.link_modLink]

theorem State.link_sendPrio0_self : (s.sendPrio0 l src dst x f b).link l =
    { (s.link l).count 5 (if f then 1 else 0) with prioNext := s.prioSlot l + 1 } := by rw [State.link_sendPrio0, if_pos rfl]

theorem State.prioSlot_sendPrio0 {m : LinkId} (other : m ≠ l) : (s.sendPrio0 l src dst x f b).prioSlot m = s.prioSlot m := by
  rw [State.prioSlot, State.link_sendPrio0, if_neg other]
  rfl

end

/-! ### The oldest message leaves (R164, R165) -/

/-- A chip whose oldest message has left its queue. -/
def State.dropPrio0 (s : State) (n : ChipId) (rest : List Prio0Msg) : State := s.modChip n fun c => { c with prio0 := rest }

/-- The black-box record of a forced message: its XSEQ, its destination and the links that bar its paths (R165). -/
def State.noteForced (s : State) (n : ChipId) (m : Prio0Msg) : State :=
  s.bbox n 0 5 (le 4 m.xseq.toNat ++ le 2 (unitChip m.dst).toNat ++
    (s.blockers n m.dst).flatMap fun l => le 2 (unitChip l.chip).toNat ++ le 1 l.port.val)

theorem State.noteForced_last (s : State) (n : ChipId) (m : Prio0Msg) :
    ∃ r, ((s.noteForced n m).chip n).bb.getLast? = some r ∧ r.code = 0 ∧ r.rtime = s.rackNs ∧
      r.data.take 6 = le 4 m.xseq.toNat ++ le 2 (unitChip m.dst).toNat := by
  refine ⟨_, s.bbox_last .., rfl, rfl, ?_⟩
  simp only [State.bbRec, padTo]
  have head : (le 4 m.xseq.toNat ++ le 2 (unitChip m.dst).toNat).length = 6 := by simp
  rw [List.take_append_of_le_length (by simp; omega), List.take_take]
  exact List.take_left' head

variable {m : Prio0Msg} {rest : List Prio0Msg} (oldest : (s.chip n).prio0 = m :: rest) {x y : LinkId} {xs ys : List LinkId}
include oldest

theorem exec_prio0Send_both (torus : s.torusPath n m.dst = some (x :: xs)) (switch : s.switchWay n m.dst = some (y :: ys)) :
    exec (.prio0Send t n) s =
      .next ((((s.tick t).dropPrio0 n rest).sendPrio0 x n m.dst m.xseq false m.body).sendPrio0 y n m.dst m.xseq false m.body) := by
  have oldest : ((s.tick t).chip n).prio0 = m :: rest := oldest
  have torus : ((s.tick t).dropPrio0 n rest).torusPath n m.dst = some (x :: xs) := torus
  have switch : ((s.tick t).dropPrio0 n rest).switchWay n m.dst = some (y :: ys) := switch
  show execPrio0Send t n s = _
  simp only [execPrio0Send, oldest]
  rw [← State.dropPrio0, torus, switch]
  rfl

theorem exec_prio0Send_one (path : (s.torusPath n m.dst = some (x :: xs) ∧ s.switchWay n m.dst = none) ∨
      (s.torusPath n m.dst = none ∧ s.switchWay n m.dst = some (x :: xs))) :
    exec (.prio0Send t n) s = .next (((s.tick t).dropPrio0 n rest).sendPrio0 x n m.dst m.xseq false m.body) := by
  have oldest : ((s.tick t).chip n).prio0 = m :: rest := oldest
  show execPrio0Send t n s = _
  simp only [execPrio0Send, oldest]
  rw [← State.dropPrio0]
  rcases path with ⟨torus, switch⟩ | ⟨torus, switch⟩
  all_goals
    rw [show ((s.tick t).dropPrio0 n rest).torusPath n m.dst = _ from torus,
      show ((s.tick t).dropPrio0 n rest).switchWay n m.dst = _ from switch]
    rfl

theorem exec_prio0Send_forced (torus : s.torusPath n m.dst = none) (switch : s.switchWay n m.dst = none)
    (route : routeLinks n (torusRoute [0, 1, 2] n m.dst) = x :: xs) :
    exec (.prio0Send t n) s =
      .next ((((s.tick t).dropPrio0 n rest).noteForced n m).sendPrio0 x n m.dst m.xseq true m.body) := by
  have oldest : ((s.tick t).chip n).prio0 = m :: rest := oldest
  have torus : ((s.tick t).dropPrio0 n rest).torusPath n m.dst = none := torus
  have switch : ((s.tick t).dropPrio0 n rest).switchWay n m.dst = none := switch
  show execPrio0Send t n s = _
  simp only [execPrio0Send, oldest]
  rw [← State.dropPrio0, torus, switch, route]
  rfl

end

/-! ### A message arrives (R164, R169) -/

/-- The sequence numbers a chip has seen, a new one of a source added: the last 64 of that source stay. -/
def noteSeen (seen : List (ChipId × BitVec 32)) (src : ChipId) (x : BitVec 32) : List (ChipId × BitVec 32) :=
  let mine := (seen.filter fun y => y.1 = src) ++ [(src, x)]
  seen.filter (fun y => y.1 ≠ src) ++ mine.drop (mine.length - 64)

theorem mem_noteSeen (seen : List (ChipId × BitVec 32)) (src : ChipId) (x : BitVec 32) : (src, x) ∈ noteSeen seen src x := by
  refine List.mem_append_right _ ?_
  rw [List.drop_append_of_le_length (by simp)]
  exact List.mem_append_right _ (List.mem_singleton_self _)

theorem noteSeen_length (seen : List (ChipId × BitVec 32)) (src : ChipId) (x : BitVec 32) :
    ((noteSeen seen src x).filter fun y => y.1 = src).length ≤ 64 := by
  have others : (seen.filter fun y => y.1 ≠ src).filter (fun y => y.1 = src) = [] := by
    refine List.filter_eq_nil_iff.2 fun y mem => ?_
    simpa using (List.mem_filter.1 mem).2
  rw [noteSeen, List.filter_append, others, List.nil_append]
  refine (List.length_filter_le ..).trans ?_
  rw [List.length_drop]
  omega

section

variable {s : State} {t : Nat} {n src : ChipId} {x : BitVec 32} {f : Bool} {b : Prio0Body}

theorem exec_prio0Received_new (new : (s.chip n).seen.contains (src, x) = false) :
    exec (.prio0Received t n src x f n b) s =
      .next ((s.tick t).modChip n fun c => { c with seen := noteSeen c.seen src x }) := by
  have new : ((s.tick t).chip n).seen.contains (src, x) = false := new
  show execPrio0Received t n src x f n b s = _
  simp only [execPrio0Received, ne_eq, not_true_eq_false, if_false, new, Bool.false_eq_true]
  rfl

theorem exec_prio0Received_again (again : (s.chip n).seen.contains (src, x) = true) :
    exec (.prio0Received t n src x f n b) s = .next (s.tick t) := by
  have again : ((s.tick t).chip n).seen.contains (src, x) = true := again
  show execPrio0Received t n src x f n b s = _
  simp only [execPrio0Received, ne_eq, not_true_eq_false, if_false, again, if_true]

theorem exec_prio0Received_hop {dst : ChipId} {l : LinkId} {ls : List LinkId} (far : dst ≠ n)
    (way : (if f then some (routeLinks n (torusRoute [0, 1, 2] n dst)) else s.torusPath n dst) = some (l :: ls)) :
    exec (.prio0Received t n src x f dst b) s = .next ((s.tick t).sendPrio0 l src dst x f b) := by
  have way : (if f then some (routeLinks n (torusRoute [0, 1, 2] n dst)) else (s.tick t).torusPath n dst) = some (l :: ls) := way
  show execPrio0Received t n src x f dst b s = _
  simp only [execPrio0Received, if_pos far, way]

end

/-- Settles O41: a message by the paths that are clear, a hop by its way on, a receipt by what was seen. -/
theorem priorityMessagesComplete : Obligations.PriorityMessagesComplete := by
  intro s t n a slot
  refine ⟨fun m rest oldest => ⟨fun x xs y ys torus switch apart => ?both, fun x xs path => ?one,
    fun x xs torus switch route => ?forced⟩, fun src x f b new => ?new, fun src x f b again => exec_prio0Received_again again,
    fun src x f dst b l ls far way => ?hop⟩
  case both =>
    have later : (((s.tick t).dropPrio0 n rest).sendPrio0 x n m.dst m.xseq false m.body).prioSlot y = slot y :=
      State.prioSlot_sendPrio0 _ x n m.dst m.xseq false m.body apart.symm
    refine ⟨_, exec_prio0Send_both oldest torus switch, ?_, ?_, ?_, ?_, rfl, rfl⟩
    · rw [State.sendPrio0_out, State.sendPrio0_out, later, List.append_assoc]
      rfl
    · rw [State.sendPrio0_chip, State.sendPrio0_chip, State.dropPrio0, State.chip_modChip_self]
    · rw [State.link_sendPrio0, if_neg apart, State.link_sendPrio0_self]
      rfl
    · rw [State.link_sendPrio0_self, later]
  case one =>
    refine ⟨_, exec_prio0Send_one oldest path, rfl, ?_, ?_, rfl, rfl⟩
    · rw [State.sendPrio0_chip, State.dropPrio0, State.chip_modChip_self]
    · rw [State.link_sendPrio0_self]
      rfl
  case forced =>
    obtain ⟨r, last, code, rtime, data⟩ := State.noteForced_last ((s.tick t).dropPrio0 n rest) n m
    refine ⟨_, r, exec_prio0Send_forced oldest torus switch route, rfl, ?_, ?_, last, code, rtime, data, rfl, rfl⟩
    · rw [State.sendPrio0_chip, State.noteForced, State.bbox, State.chip_modChip_self, State.dropPrio0, State.chip_modChip_self]
    · rw [State.link_sendPrio0_self]
      rfl
  case new =>
    refine ⟨_, exec_prio0Received_new new, ?_, ?_, rfl, rfl, rfl⟩
    all_goals rw [State.chip_modChip_self]
    · exact List.contains_iff_mem.2 (mem_noteSeen ..)
    · exact noteSeen_length ..
  case hop =>
    refine ⟨_, exec_prio0Received_hop far way, rfl, ?_, ?_, rfl, rfl, rfl⟩
    all_goals
      rw [State.link_sendPrio0_self]
      rfl

end Sys2Proof.Machine
end

section
/-! SUPPORT. Harness ends and their links (R144, R285, R307): what training and service change at a link, and leave at the others of its
harness. -/

namespace Sys2Proof.Machine

/-- A fold reaches what the step of one of its elements brings about, where every step keeps it. -/
theorem foldl_hits {α β : Type} {P : β → Prop} {f : β → α → β} {as : List α} {a : α} (mem : a ∈ as) (hits : ∀ b, P (f b a))
    (keeps : ∀ b, ∀ x ∈ as, P b → P (f b x)) (b : β) : P (as.foldl f b) :=
  foldl_reaches (P := fun _ => True) mem (fun _ _ _ _ => trivial) (fun b _ => hits b) (fun b x here _ => keeps b x here) trivial

/-! ### A link in and out of service (R17) -/

namespace State

variable (s : State) (l m : LinkId) (f : Link → Link)

theorem inService_modLink_false {f : Link → Link} (off : ∀ k, (f k).inService = false) (held : (s.link l).inService = false) :
    ((s.modLink m f).link l).inService = false := by
  rw [link_modLink]
  split
  · exact off _
  · exact held

/-- A link taken out of service is out, and another that was out stays so. -/
theorem inService_setLink_false (held : (s.link l).inService = false ∨ m = l) : ((s.setLink m false).link l).inService = false := by
  have near : ((s.modLink m fun k => { k with inService := false }).link l).inService = false := by
    rcases held with held | rfl
    · exact s.inService_modLink_false l m (fun _ => rfl) held
    · rw [link_modLink_self]
  unfold setLink modBoth
  split
  · exact inService_modLink_false _ l _ (fun _ => rfl) near
  · exact near

theorem setLink_eq (up : Bool) : s.setLink l up =
    if l.port.val < 6 then s.modSides l fun k => { k with inService := up } else s.modLink l fun k => { k with inService := up } := by
  unfold setLink modBoth modSides modFar
  split <;> rfl

theorem link_setLink (up : Bool) : (s.setLink l up).link l = { s.link l with inService := up } := by
  rw [setLink_eq]
  split
  · rw [link_modSides_self]
  · rw [link_modLink_self]

theorem farSide_setLink_natural (up : Bool) : ((s.setLink l up).farSide l).natural = (s.farSide l).natural := by
  rw [setLink_eq]
  split
  · rw [farSide_modSides_self]
  · rw [farSide_modLink_self]

theorem link_train (here far : Nat) : (s.train l here far).link l = { s.link l with natural := here, delay := linkNs - here } := by
  rw [train, link_modFar_self, link_modLink_self]

theorem endsUp_modFar : (s.modFar l f).endsUp m = s.endsUp m := by
  unfold modFar
  split
  · rfl
  · have up : ∀ i, ((s.modSwPort (uplinkEnd l).1 (uplinkEnd l).2 f).swt i).up = (s.swt i).up := by
      intro i
      rw [modSwPort, swt_modSw]
      split
      · next same => rw [same]
      · rfl
    simp only [endsUp, up]
    rfl

theorem linkMay_of_farBad {s : State} {l : LinkId} (bad : (s.link l).farBad = true) : s.linkMay l = false := by
  rw [linkMay, bad, Bool.not_true, Bool.and_false, Bool.false_and, Bool.false_and]

theorem linkMay_of_slow {s : State} {l : LinkId} (slow : linkNs < (s.link l).natural) : s.linkMay l = false := by
  have near : decide ((s.link l).natural ≤ linkNs) = false := decide_eq_false (Nat.not_le.2 slow)
  simp only [linkMay, List.all_cons, near, Bool.false_and, Bool.and_false]

end State

/-! ### What a change at one link of a harness leaves of another -/

/-- Both sides of a link, and what lets it enter service, are as they were (R307). -/
structure KeepsEnd (l : LinkId) (s t : State) : Prop where
  near : t.link l = s.link l
  far : t.farSide l = s.farSide l
  ends : t.endsUp l = s.endsUp l
  rejected : t.rejectedEnds = s.rejectedEnds

namespace KeepsEnd

variable {s t u : State} {l m : LinkId}

theorem trans (h : KeepsEnd l s t) (g : KeepsEnd l t u) : KeepsEnd l s u :=
  ⟨g.near.trans h.near, g.far.trans h.far, g.ends.trans h.ends, g.rejected.trans h.rejected⟩

theorem linkMay (h : KeepsEnd l s t) : t.linkMay l = s.linkMay l := by
  simp only [State.linkMay, h.near, h.far, h.ends, h.rejected]

variable (s) (port : m.port = l.port) (other : m ≠ l) (f : Link → Link)
include port other

theorem modLink : KeepsEnd l s (s.modLink m f) := by
  refine ⟨?_, ?_, rfl, rfl⟩
  · rw [State.link_modLink, if_neg other.symm]
  · unfold State.farSide
    split
    · rw [State.link_modLink, if_neg (reverseLink_ne_of_port port.symm (.inl other.symm))]
    · rfl

theorem modFar : KeepsEnd l s (s.modFar m f) := by
  refine ⟨?_, ?_, s.endsUp_modFar m l f, (SidesOnly.modFar s m f).rejectedEnds⟩
  · unfold State.modFar
    split
    · rw [State.link_modLink, if_neg (reverseLink_ne_of_port port (.inl other)).symm]
    · rfl
  · unfold State.farSide State.modFar
    rw [port]
    split
    · rw [State.link_modLink, if_neg fun same => other (reverseLink_inj port same.symm)]
    · next uplink =>
      have apart : uplinkEnd l ≠ uplinkEnd m := fun same => other (uplinkEnd_inj port uplink same.symm)
      rw [State.swPort, State.swPort, State.modSwPort, State.swt_modSw]
      split
      · next switch => rw [Tab.get_set_ne _ _ _ fun same => apart (Prod.ext switch same), switch]
      · rfl

theorem modSides : KeepsEnd l s (s.modSides m f) := (modLink s port other f).trans (modFar _ port other f)

theorem setLink (up : Bool) : KeepsEnd l s (s.setLink m up) := by
  rw [State.setLink_eq]
  split
  · exact modSides s port other _
  · exact modLink s port other _

theorem train (here away : Nat) : KeepsEnd l s (s.train m here away) := (modLink s port other _).trans (modFar _ port other _)

end KeepsEnd

/-- A link entering or leaving service does not change whether it may. -/
theorem State.linkMay_setLink (s : State) (l : LinkId) (up : Bool) : (s.setLink l up).linkMay l = s.linkMay l := by
  have ends : (s.setLink l up).endsUp l = s.endsUp l := by
    unfold State.setLink State.modBoth
    split <;> rfl
  have rejected : (s.setLink l up).rejectedEnds = s.rejectedEnds := by rw [PortsOnly.setLink]
  simp only [State.linkMay, ends, rejected, s.link_setLink, s.farSide_setLink_natural, List.all_cons, List.all_nil]

/-! ### A harness end that is read again (R285, R307) -/

theorem trayChips_nodup (y : TrayId) : (trayChips y).Nodup := by
  simp [trayChips, Fin.ext_iff]

theorem harnessLinks_nodup (h : Fin 64) (e : Bool) : (harnessLinks h e).Nodup :=
  (trayChips_nodup _).map fun _ _ same => congrArg LinkId.chip same

theorem harnessLinks_port {h : Fin 64} {e : Bool} {l m : LinkId} (hl : l ∈ harnessLinks h e) (hm : m ∈ harnessLinks h e) :
    m.port = l.port := by
  obtain ⟨n, -, rfl⟩ := List.mem_map.1 hl
  obtain ⟨k, -, rfl⟩ := List.mem_map.1 hm
  rfl

/-- The links of a harness end, numbered, differ as links. -/
theorem harnessLinks_apart {h : Fin 64} {e : Bool} {x y : LinkId × Nat} (hx : x ∈ (harnessLinks h e).zipIdx)
    (hy : y ∈ (harnessLinks h e).zipIdx) (differ : y ≠ x) : y.1 ≠ x.1 := by
  intro same
  have atX := List.mem_zipIdx_iff_getElem?.1 hx
  have atY := List.mem_zipIdx_iff_getElem?.1 hy
  have inside : x.2 < (harnessLinks h e).length := (List.getElem?_eq_some_iff.1 atX).1
  have index : x.2 = y.2 := (List.getElem?_inj inside (harnessLinks_nodup h e)).1 (by rw [atX, atY, same])
  exact differ (Prod.ext same index.symm)

/-- A far end that lies in order and is the one its map names (R307). -/
def farGood (h : Fin 64) (e : Bool) (id : CableId) (far : List (BitVec 16 × Nat × Nat)) (x : LinkId × Nat) : Bool :=
  id.laneOrderOk && decide ((far[x.2]?).map (fun y => (y.1, y.2.1)) = some (farExpect h e x.1))

/-- The natural latency found at a far end, in ns (R144). -/
def farNs (far : List (BitVec 16 × Nat × Nat)) (x : LinkId × Nat) : Nat := ((far[x.2]?).map fun y => y.2.2).getD 0

/-- A link whose far end has been read and which has been trained (R144, R307). -/
def State.readFar (s : State) (l : LinkId) (good : Bool) (ns : Nat) : State :=
  (s.modSides l fun k => { k with farBad := !good }).train l ns ns

theorem State.link_readFar (s : State) (l : LinkId) (good : Bool) (ns : Nat) :
    (s.readFar l good ns).link l = { s.link l with farBad := !good, natural := ns, delay := linkNs - ns } := by
  rw [State.readFar, State.link_train, State.link_modSides_self]

/-- A link of an accepted end: its far end read, in service where it may be (R307). -/
def State.checkFar (s : State) (h : Fin 64) (e : Bool) (id : CableId) (far : List (BitVec 16 × Nat × Nat)) (x : LinkId × Nat) : State :=
  let u := s.readFar x.1 (farGood h e id far x) (farNs far x)
  let u := u.setLink x.1 (u.linkMay x.1)
  if farGood h e id far x then u else u.logMismatch h e 0xFF

section

variable (s : State) (h : Fin 64) (e : Bool) (id : CableId) (far : List (BitVec 16 × Nat × Nat))

/-- A link of an accepted end that has been checked: in service as far as it may be, with its far end's result and latency. -/
def State.checked (x : LinkId × Nat) : Prop :=
  (s.link x.1).inService = s.linkMay x.1 ∧ (s.link x.1).farBad = !farGood h e id far x ∧ (s.link x.1).natural = farNs far x

theorem State.checkFar_self (x : LinkId × Nat) : (s.checkFar h e id far x).checked h e id far x := by
  unfold State.checkFar
  extract_lets u w
  have read : u.link x.1 = { s.link x.1 with farBad := !farGood h e id far x, natural := farNs far x,
                                             delay := linkNs - farNs far x } := s.link_readFar ..
  have set : w.link x.1 = { u.link x.1 with inService := u.linkMay x.1 } := u.link_setLink ..
  have may : w.linkMay x.1 = u.linkMay x.1 := u.linkMay_setLink ..
  have done : w.checked h e id far x := by
    rw [State.checked, may, set, read]
    exact ⟨rfl, rfl, rfl⟩
  split <;> exact done

/-- The check of a link leaves the others of its harness end. -/
theorem State.checkFar_keeps {l : LinkId} {x : LinkId × Nat} (port : x.1.port = l.port) (other : x.1 ≠ l) :
    KeepsEnd l s (s.checkFar h e id far x) := by
  unfold State.checkFar
  extract_lets u w
  have read : KeepsEnd l s u := (KeepsEnd.modSides s port other _).trans (.train _ port other ..)
  have set : KeepsEnd l s w := read.trans (.setLink _ port other _)
  split
  · exact set
  · exact ⟨set.near, (State.farSide_of rfl rfl l).trans set.far, set.ends, set.rejected⟩

theorem SidesOnly.setLink (l : LinkId) (up : Bool) : SidesOnly s (s.setLink l up) := by
  unfold State.setLink State.modBoth
  split <;> rfl

theorem SidesOnly.checkFar (x : LinkId × Nat) : SidesOnly s (s.checkFar h e id far x) := by
  unfold State.checkFar
  extract_lets u w
  have read : SidesOnly s u := (SidesOnly.modSides s _ _).trans ((SidesOnly.modLink ..).trans (.modFar ..))
  have set : SidesOnly s w := read.trans (.setLink ..)
  split
  · exact set
  · exact set.trans (.log ..)

/-- The ends that are rejected, one of them left out (R285). -/
def State.acceptEnd : State := { s with rejectedEnds := s.rejectedEnds.filter fun x => x ≠ (h, e) }

/-- An end rejected, its links out of service (R285). -/
def State.rejectEnd : State :=
  (harnessLinks h e).foldl (fun s l => s.setLink l false) { s with rejectedEnds := (s.acceptEnd h e).rejectedEnds ++ [(h, e)] }

/-- Every link of a rejected end is out of service. -/
theorem State.rejectEnd_out {l : LinkId} (mem : l ∈ harnessLinks h e) : ((s.rejectEnd h e).link l).inService = false :=
  foldl_hits (P := fun s : State => (s.link l).inService = false) mem (fun s => s.inService_setLink_false l l (.inr rfl))
    (fun s m _ held => s.inService_setLink_false l m (.inl held)) _

theorem State.rejectEnd_frame : SidesOnly { s with rejectedEnds := (s.acceptEnd h e).rejectedEnds ++ [(h, e)] } (s.rejectEnd h e) :=
  .foldl _ (fun s l => .setLink s l false) _ _

/-- Each link of an accepted end has been checked, and the checks of the others have left it as it was. -/
theorem State.checked_all {x : LinkId × Nat} (mem : x ∈ (harnessLinks h e).zipIdx) :
    ((harnessLinks h e).zipIdx.foldl (fun s x => s.checkFar h e id far x) s).checked h e id far x := by
  refine foldl_hits (P := fun s : State => s.checked h e id far x) mem (fun s => s.checkFar_self h e id far x)
    (fun s y hy held => ?_) s
  by_cases same : y = x
  · exact same ▸ s.checkFar_self h e id far y
  · have port := harnessLinks_port (List.fst_mem_of_mem_zipIdx mem) (List.fst_mem_of_mem_zipIdx hy)
    have kept := s.checkFar_keeps h e id far port (harnessLinks_apart mem hy same)
    rw [State.checked, kept.near, kept.linkMay]
    exact held

theorem SidesOnly.checkFar_all (s : State) :
    SidesOnly s ((harnessLinks h e).zipIdx.foldl (fun s x => s.checkFar h e id far x) s) :=
  .foldl _ (fun s x => .checkFar s h e id far x) _ _

end

section

variable {s : State} {t : Nat} {h : Fin 64} {e : Bool} {id : CableId}

theorem exec_presenceChange_rejects {f : Nat} (fault : cableFault h e id = some f) (far : List (BitVec 16 × Nat × Nat)) :
    exec (.presenceChange t h e id far) s = .next (((s.tick t).rejectEnd h e).logMismatch h e f) := by
  show execPresenceChange t h e id far s = _
  simp only [execPresenceChange, fault]
  rfl

theorem exec_presenceChange_accepts (sound : cableFault h e id = none) (far : List (BitVec 16 × Nat × Nat)) :
    exec (.presenceChange t h e id far) s =
      .next ((harnessLinks h e).zipIdx.foldl (fun s x => s.checkFar h e id far x) ((s.tick t).acceptEnd h e)) := by
  show execPresenceChange t h e id far s = _
  simp only [execPresenceChange, sound]
  rfl

end

end Sys2Proof.Machine
end

section
/-! SUPPORT. Records as they are committed, consoles, Redfish, and the switch trays that leave service (R195, R286, R288, R290 to R293,
R325). -/

namespace Sys2Proof.Machine

/-! ### Commits (R288) -/

namespace State

variable (s : State)

/-! An event of the operator channel changes no keyway. -/

theorem deliver_op_kws (n : SessRef) (ev : Event) (keep : Bool) : (s.deliver .op n ev keep).kws = s.kws := by
  unfold deliver
  split
  · rfl
  · split
    · extract_lets
      split
      · rfl
      · split <;> rfl
    · rfl

theorem raiseAlso_op_kws (also : Option SessRef) (code : Nat) (body : List Byte) : (s.raiseAlso .op also code body).kws = s.kws := by
  unfold raiseAlso
  extract_lets ev targets
  split
  · rfl
  · exact foldl_keeps _ State.kws (fun s q => s.deliver_op_kws ..) _ _

theorem commitRec_kws (r : LogRec) : (s.commitRec r).kws = s.kws := by
  have syslog (s : State) (r : LogRec) : (s.syslog r).kws = s.kws := by
    unfold State.syslog
    split <;> rfl
  have consoleLine (s : State) (r : LogRec) : (s.consoleLine r).kws = s.kws := by
    unfold State.consoleLine
    split <;> rfl
  unfold commitRec
  extract_lets
  rw [raiseAlso_op_kws, consoleLine, syslog, modRmu_kws]

/-- A record committed while the ring has room stands behind the others, under the next LSEQ. -/
theorem commitRec_log (r : LogRec) (room : s.rmu.log.length < logRing) :
    (s.commitRec r).rmu.log = s.rmu.log ++ [{ r with lseq := s.rmu.lseq }] := by
  have room : s.rmu.log.length + 1 - logRing = 0 := by omega
  rw [(s.commitRec_frame r).rmu, storeRec, modRmu_rmu]
  simp only [room, List.drop_zero]

theorem commitRec_lseq (r : LogRec) : (s.commitRec r).rmu.lseq = s.rmu.lseq + 1 :=
  congrArg Rmu.lseq (s.commitRec_frame r).rmu

/-- A record that waits no longer. -/
def takeRec (r : LogRec) : State := s.modRmu fun m => { m with logWait := m.logWait.erase r }

end State

section

variable {s : State} {t : Nat}

theorem exec_logRecordCommit {r : LogRec} (first : firstDue s.rmu.logWait = some r) (due : r.due ≤ ((s.tick t).rackNs : Int))
    (up : s.rmu.up = true) (present : s.rmu.absentUntil ≤ (s.tick t).osc) (after : Option (List (BitVec 128))) :
    exec (.logRecordCommit t after) s = .next (((s.tick t).takeRec r).commitRec (r.close after)) := by
  have first : firstDue (s.tick t).rmu.logWait = some r := first
  show execLogRecordCommit t after s = _
  simp only [execLogRecordCommit, first]
  exact if_pos ⟨due, up, present⟩

/-! ### Consoles (R292, R293, R314) -/

/-- A unit's console counts a framing error (R293). -/
def State.countFraming (s : State) (unit : BitVec 16) : State :=
  s.modRmu fun m => { m with uartErrors := Tab.set m.uartErrors unit (Tab.get m.uartErrors 0 unit + 1) }

/-- A unit's console takes a character (R292). -/
def State.takeChar (s : State) (unit : BitVec 16) (ch : Byte) : State :=
  s.modRmu fun m => { m with uartChars := Tab.set m.uartChars unit (Tab.get m.uartChars [] unit ++ [ch]) }

/-- The RMU's recovery selects its other firmware copy, once a boot (R314). -/
def State.recoverFirmware (s : State) : State := s.switchFirmware.modRmu fun m => { m with recoverySelected := true }

/-- A line that is low at the eighth sample or before is a framing error (R293). -/
def framingError (low : Option (Fin 16)) : Bool :=
  match low with
  | some i => decide (i.val + 1 ≤ 8)
  | none => false

theorem framingError_iff (low : Option (Fin 16)) : framingError low = true ↔ ∃ i, low = some i ∧ i.val ≤ 7 := by
  cases low with
  | none => exact iff_of_false nofun (by simp)
  | some i => simp [framingError, Nat.lt_succ_iff]

/-- The character that selects the RMU's other firmware copy, in the first 3 s of its boot (R314). -/
def State.recovers (s : State) (unit : BitVec 16) (ch : Byte) : Prop :=
  unit = unitRmu ∧ ch = 0x72#8 ∧ s.rmu.up = true ∧ s.osc ≤ s.rmu.bootAt + 3000000000 ∧ s.rmu.recoverySelected = false

theorem exec_uart_framing (unit : BitVec 16) (ch : Byte) {low : Option (Fin 16)} (error : framingError low = true) :
    exec (.uartCharacterReceived t unit ch low) s = .next ((s.tick t).countFraming unit) :=
  if_pos error

section

variable {unit : BitVec 16} {ch : Byte} {low : Option (Fin 16)} (clean : framingError low = false)
include clean

theorem exec_uart_recovers (recovers : (s.tick t).recovers unit ch) :
    exec (.uartCharacterReceived t unit ch low) s = .next ((s.tick t).takeChar unit ch).recoverFirmware :=
  (if_neg (c := framingError low = true) (Bool.eq_false_iff.1 clean)).trans (if_pos recovers)

theorem exec_uart_takes (other : ¬(s.tick t).recovers unit ch) :
    exec (.uartCharacterReceived t unit ch low) s = .next ((s.tick t).takeChar unit ch) :=
  (if_neg (c := framingError low = true) (Bool.eq_false_iff.1 clean)).trans (if_neg other)

end

/-! ### Redfish (R290) -/

theorem exec_redfish_unknown {a : RedfishAuth} (managed : (s.tick t).managed = true) (unknown : (s.tick t).account? a = none)
    (r : Redfish) : exec (.redfishRequest t a r) s = .next ((s.tick t).emit (.http 401 (redfishResource r))) := by
  show execRedfishRequest t a r s = _
  simp only [execRedfishRequest, managed, unknown, if_true]

theorem exec_redfish_known {a : RedfishAuth} {x : Account} (managed : (s.tick t).managed = true)
    (known : (s.tick t).account? a = some x) (r : Redfish) :
    exec (.redfishRequest t a r) s =
      .next (((s.tick t).redfish x.admin r).1.emit (.http ((s.tick t).redfish x.admin r).2 (redfishResource r))) := by
  show execRedfishRequest t a r s = _
  simp only [execRedfishRequest, managed, known, if_true]

/-- An account without the administrator's rights writes nothing (R290). -/
theorem State.redfish_forbids (s : State) {r : Redfish} (write : ∀ res, r ≠ .read res) (listed : ∀ m res, r ≠ .other m res) :
    s.redfish false r = (s, 403) := by
  cases r with
  | read res => exact absurd rfl (write res)
  | other m res => exact absurd rfl (listed m res)
  | _ => rfl

theorem State.redfish_setAccount (s : State) {name : String} {ad : Bool} {pw : String}
    (room : (putAccount s.rmu.accounts { name := name, admin := ad, password := pw }).length ≤ 16) :
    s.redfish true (.setAccount name ad pw) =
      (s.modRmu fun m => { m with accounts := putAccount s.rmu.accounts { name := name, admin := ad, password := pw } }, 200) :=
  if_neg (Nat.not_lt.2 room)

end

/-! ### Switch trays (R195, R325) -/

namespace State

variable (s : State) (i : SwId)

theorem krBump_parts (k : KwId) (j n : Nat) : (s.krBump k j n).parts = s.parts := rfl

theorem noteFetch_parts (o : Op) (new : List (Nat × Fin 64) × List Nat) : (s.noteFetch o new).parts = s.parts := by
  unfold noteFetch
  split <;> rfl

theorem loseVault_parts : (s.loseVault i).parts = s.parts := by
  show (s.noteLoss fun w _ y => decide (y = i) || w.lostOn.contains y).parts = s.parts
  unfold noteLoss
  refine (foldl_keeps _ State.parts (fun s r => ?_) _ _).trans (foldl_keeps _ State.parts (fun s o => ?_) _ _)
  · exact krBump_parts ..
  · split
    · split
      · exact noteFetch_parts ..
      · rfl
    · rfl

/-- A host port of a switch tray that left service is down (R325). -/
def portOff (p : HostPortId) : State := s.modPort p fun x => { x with up := false, queue := [] }

/-- An uplink of a chip that ends at a switch tray goes out of service (R17, R325). -/
def uplinkOff (n : ChipId) (u : Nat) : State :=
  if uplinkSwitch n u = i then s.modLink { chip := n, port := ⟨6 + u % 2, by omega⟩ } fun k => { k with inService := false } else s

/-- Both uplinks of a chip, as far as they end at a switch tray. -/
def uplinksOff (n : ChipId) : State := [0, 1].foldl (fun s u => s.uplinkOff i n u) s

/-- A switch tray that is down, its vault content lost and a placement run asked for (R195, R325). -/
def trayDown : State := ((s.modSw i fun x => { x with up := false }).loseVault i).askPlacement

/-- The host ports of a switch tray that is down. -/
def portsOff : State := ((List.finRange 8).filter fun h => hostPortSwitch h = i).foldl portOff (s.trayDown i)

theorem switchDown_eq : s.switchDown i = allChips.foldl (fun s n => s.uplinksOff i n) (s.portsOff i) := rfl

theorem uplinkOff_ports (n : ChipId) (u : Nat) : (s.uplinkOff i n u).ports = s.ports := by
  unfold uplinkOff
  split <;> rfl

/-- What the loss of uplinks leaves: an uplink out of service stays so. -/
theorem uplinkOff_keeps (n : ChipId) (u : Nat) {l : LinkId} (held : (s.link l).inService = false) :
    ((s.uplinkOff i n u).link l).inService = false := by
  unfold uplinkOff
  split
  · exact s.inService_modLink_false l _ (fun _ => rfl) held
  · exact held

theorem uplinksOff_keeps (n : ChipId) {l : LinkId} (held : (s.link l).inService = false) :
    ((s.uplinksOff i n).link l).inService = false :=
  foldl_invariant (fun s : State => (s.link l).inService = false) _ (fun s u held => s.uplinkOff_keeps i n u held) _ _ held

theorem switchDown_ports : (s.switchDown i).ports = (s.portsOff i).ports := by
  rw [switchDown_eq]
  exact foldl_keeps _ State.ports (fun s n => foldl_keeps _ State.ports (fun s u => s.uplinkOff_ports i n u) _ s) _ _

theorem switchDown_port {p : HostPortId} (mine : hostPortSwitch p = i) : ((s.switchDown i).port p).up = false := by
  have listed : p ∈ (List.finRange 8).filter fun h => hostPortSwitch h = i :=
    List.mem_filter.2 ⟨List.mem_finRange p, decide_eq_true mine⟩
  have off : ((s.portsOff i).port p).up = false := by
    refine foldl_hits (P := fun s : State => (s.port p).up = false) listed (fun s => ?_) (fun s q _ held => ?_) _
    · rw [portOff, port_modPort, if_pos rfl]
    · rw [portOff, port_modPort]
      split
      · rfl
      · exact held
  rw [port, switchDown_ports]
  exact off

theorem switchDown_uplink {n : ChipId} {u : Nat} (second : u ∈ [0, 1]) (mine : uplinkSwitch n u = i) :
    ((s.switchDown i).link { chip := n, port := ⟨6 + u % 2, by omega⟩ }).inService = false := by
  rw [switchDown_eq]
  refine foldl_hits (P := fun s : State => (s.link { chip := n, port := ⟨6 + u % 2, by omega⟩ }).inService = false)
    (List.mem_finRange n) (fun s => ?_) (fun s m _ held => s.uplinksOff_keeps i m held) _
  refine foldl_hits (P := fun s : State => (s.link { chip := n, port := ⟨6 + u % 2, by omega⟩ }).inService = false)
    second (fun s => ?_) (fun s v _ held => s.uplinkOff_keeps i n v held) s
  rw [uplinkOff, if_pos mine, link_modLink_self]

/-- Links and host ports apart, a switch tray that leaves service changes what `trayDown` does. -/
theorem switchDown_trayDown : PortsOnly (s.trayDown i) (s.switchDown i) := by
  rw [switchDown_eq]
  refine PortsOnly.trans (PortsOnly.foldl _ (fun s p => (rfl : PortsOnly s (s.portOff p))) _ _)
    (PortsOnly.foldl _ (fun s n => PortsOnly.foldl _ (fun s u => ?_) _ _) _ _)
  unfold uplinkOff
  split <;> rfl

theorem switchDown_up (j : SwId) : ((s.switchDown i).swt j).up = if j = i then false else (s.swt j).up := by
  have vault : ((s.modSw i fun x => { x with up := false }).loseVault i).sw = (s.modSw i fun x => { x with up := false }).sw := by
    rw [KeyringOnly.loseVault]
  have sw : (s.switchDown i).sw = (s.modSw i fun x => { x with up := false }).sw := by
    rw [switchDown_trayDown]
    exact vault
  rw [swt_of_sw sw, swt_modSw]
  split <;> rfl

theorem switchDown_asks : (s.switchDown i).place.due = true := by rw [switchDown_trayDown]; rfl

theorem switchDown_parts : (s.switchDown i).parts = s.parts := by
  rw [switchDown_trayDown]
  exact loseVault_parts ..

end State

theorem exec_switchTrayFailure {s : State} {i : SwId} (up : (s.swt i).up = true) (t : Nat) :
    exec (.switchTrayFailure t i) s = .next ((s.tick t).switchDown i) :=
  if_pos up

end Sys2Proof.Machine
end

section
/-! SUPPORT. The statement about supervision: units, harness ends, modules, the log, consoles, Redfish and switch trays (R144, R283 to
R290, R292, R293, R302, R307, R314, R325). -/

namespace Sys2Proof.Machine

section

variable {s : State} {t : Nat}

/-! ### Its clauses on harness ends (R285, R307) -/

theorem rejected_end {h : Fin 64} {e : Bool} {id : CableId} {f : Nat} (fault : cableFault h e id = some f)
    (far : List (BitVec 16 × Nat × Nat)) :
    ∃ u, exec (.presenceChange t h e id far) s = .next u ∧ (∀ l ∈ harnessLinks h e, (u.link l).inService = false) ∧
      (h, e) ∈ u.rejectedEnds ∧ u.parts = s.parts ∧ u.hbm = s.hbm := by
  have frame := (s.tick t).rejectEnd_frame h e
  refine ⟨_, exec_presenceChange_rejects fault far, fun l mem => (s.tick t).rejectEnd_out h e mem, ?_, frame.parts, frame.hbm⟩
  have listed : (h, e) ∈ ((s.tick t).rejectEnd h e).rejectedEnds := by
    rw [frame.rejectedEnds]
    exact List.mem_append_right _ (List.mem_singleton_self _)
  exact listed

theorem accepted_end {h : Fin 64} {e : Bool} {id : CableId} (sound : cableFault h e id = none) (far : List (BitVec 16 × Nat × Nat)) :
    ∃ u, exec (.presenceChange t h e id far) s = .next u ∧ (h, e) ∉ u.rejectedEnds ∧
      (id.laneOrderOk = false → ∀ l ∈ harnessLinks h e, (u.link l).inService = false) ∧
      (id.laneOrderOk = true →
        (∀ x ∈ (harnessLinks h e).zipIdx, (far[x.2]?).map (fun y => (y.1, y.2.1)) = some (farExpect h e x.1)) →
        ∀ x ∈ (harnessLinks h e).zipIdx, (u.link x.1).inService = u.linkMay x.1 ∧
          ∀ y, far[x.2]? = some y → (u.link x.1).natural = y.2.2 ∧ (linkNs < y.2.2 → (u.link x.1).inService = false)) ∧
      u.parts = s.parts ∧ u.hbm = s.hbm := by
  have frame := SidesOnly.checkFar_all h e id far ((s.tick t).acceptEnd h e)
  refine ⟨_, exec_presenceChange_accepts sound far, ?_, fun disorder l mem => ?_, fun _ _ x mem => ?_, frame.parts, frame.hbm⟩
  · rw [frame.rejectedEnds]
    exact fun listed => of_decide_eq_true (List.mem_filter.1 listed).2 rfl
  · obtain ⟨i, here⟩ := List.getElem?_of_mem mem
    have numbered : (l, i) ∈ (harnessLinks h e).zipIdx := List.mem_zipIdx_iff_getElem?.2 here
    obtain ⟨service, bad, -⟩ := ((s.tick t).acceptEnd h e).checked_all h e id far numbered
    rw [farGood, disorder, Bool.false_and] at bad
    exact service.trans (State.linkMay_of_farBad bad)
  · obtain ⟨service, -, natural⟩ := ((s.tick t).acceptEnd h e).checked_all h e id far mem
    refine ⟨service, fun y found => ?_⟩
    rw [farNs, found] at natural
    exact ⟨natural, fun slow => service.trans (State.linkMay_of_slow (natural.symm ▸ slow))⟩

/-! ### Its clauses on modules (R286, R302) -/

/-- A port with a module read, up where the module is qualified and its switch tray is up (R302). -/
def State.insertModule (s : State) (p : HostPortId) (m : ModuleId) : State :=
  (s.modPort p fun x => { x with module := some m }).portUp p

theorem State.port_insertModule (s : State) (p q : HostPortId) (m : ModuleId) : (s.insertModule p m).port q =
    if q = p then { s.port p with module := some m, up := moduleQualified m && (s.swt (hostPortSwitch p)).up } else s.port q := by
  rw [insertModule, portUp, port_modPort, port_modPort, port_modPort]
  split
  · rw [if_pos rfl]
    rfl
  · rfl

theorem inserted_module (p : HostPortId) (m : ModuleId) :
    ∃ u, exec (.moduleInserted t p m) s = .next u ∧ (u.port p).module = some m ∧
      ((u.port p).up = true ↔ moduleQualified m = true ∧ (s.swt (hostPortSwitch p)).up = true) ∧
      (∀ q, q ≠ p → u.port q = s.port q) ∧ u.parts = s.parts ∧ u.hbm = s.hbm := by
  have port := (s.tick t).port_insertModule p
  have here := (port p m).trans (if_pos rfl)
  have up : (((s.tick t).insertModule p m).port p).up = (moduleQualified m && (s.swt (hostPortSwitch p)).up) := congrArg HostPort.up here
  refine ⟨_, rfl, congrArg HostPort.module here, ?_, fun q other => (port q m).trans (if_neg other), rfl, rfl⟩
  exact (Bool.eq_iff_iff.1 up).trans (Bool.and_eq_true_iff ..)

theorem removed_module (p : HostPortId) :
    ∃ u, exec (.moduleRemoved t p) s = .next u ∧ (u.port p).module = none ∧ (u.port p).up = false ∧
      (∀ q, q ≠ p → u.port q = s.port q) ∧ u.parts = s.parts ∧ u.hbm = s.hbm := by
  have port (q : HostPortId) := (s.tick t).port_modPort p q fun x => { x with module := none, up := false, queue := [] }
  have here := (port p).trans (if_pos rfl)
  exact ⟨_, rfl, congrArg HostPort.module here, congrArg HostPort.up here, fun q other => (port q).trans (if_neg other), rfl, rfl⟩

/-! ### Its clauses on the log and consoles (R288, R292, R293, R314) -/

theorem committed_record {r : LogRec} (first : firstDue s.rmu.logWait = some r) (due : r.due ≤ ((s.tick t).rackNs : Int))
    (up : s.rmu.up = true) (present : s.rmu.absentUntil ≤ (s.tick t).osc) (room : s.rmu.log.length < logRing)
    (after : Option (List (BitVec 128))) :
    ∃ u, exec (.logRecordCommit t after) s = .next u ∧ u.rmu.log = s.rmu.log ++ [{ r.close after with lseq := s.rmu.lseq }] ∧
      u.rmu.lseq = s.rmu.lseq + 1 ∧ u.rmu.logWait = s.rmu.logWait.erase r ∧ u.kws = s.kws ∧ u.hbm = s.hbm :=
  ⟨_, exec_logRecordCommit first due up present after, State.commitRec_log _ _ room, State.commitRec_lseq .., State.commitRec_logWait ..,
    State.commitRec_kws .., State.commitRec_hbm ..⟩

theorem counted_framing (unit : BitVec 16) (ch : Byte) {low : Option (Fin 16)} (error : ∃ i : Fin 16, low = some i ∧ i.val ≤ 7) :
    ∃ u, exec (.uartCharacterReceived t unit ch low) s = .next u ∧
      Tab.get u.rmu.uartErrors 0 unit = Tab.get s.rmu.uartErrors 0 unit + 1 ∧ u.rmu.uartChars = s.rmu.uartChars ∧
      u.rmu.fwB = s.rmu.fwB :=
  ⟨_, exec_uart_framing unit ch ((framingError_iff low).2 error), Tab.get_set_self .., rfl, rfl⟩

theorem taken_character (unit : BitVec 16) (ch : Byte) {low : Option (Fin 16)} (late : ∀ i : Fin 16, low = some i → 8 ≤ i.val) :
    ∃ u, exec (.uartCharacterReceived t unit ch low) s = .next u ∧
      Tab.get u.rmu.uartChars [] unit = Tab.get s.rmu.uartChars [] unit ++ [ch] ∧ u.rmu.uartErrors = s.rmu.uartErrors ∧
      u.rmu.fwB = if unit = unitRmu ∧ ch = 0x72#8 ∧ s.rmu.up = true ∧ (s.tick t).osc ≤ s.rmu.bootAt + 3000000000 ∧
        s.rmu.recoverySelected = false then !s.rmu.fwB else s.rmu.fwB := by
  have clean : framingError low = false := Bool.eq_false_iff.2 fun error => by
    obtain ⟨i, here, early⟩ := (framingError_iff low).1 error
    exact absurd (late i here) (by omega)
  by_cases recovers : (s.tick t).recovers unit ch
  · exact ⟨_, exec_uart_recovers clean recovers, Tab.get_set_self .., rfl, (if_pos recovers).symm⟩
  · exact ⟨_, exec_uart_takes clean recovers, Tab.get_set_self .., rfl, (if_neg recovers).symm⟩

end

/-- Settles O51: units and controllers by their records, ends by their check, and the rest by what each row does. -/
theorem supervisionCompletes : Obligations.SupervisionCompletes := by
  intro s t b
  refine ⟨fun unit last => ?silent, fun unit cause => ?restart, fun h e id far f fault => rejected_end fault far,
    fun h e id far sound => accepted_end sound far, inserted_module, removed_module,
    fun after r first due up present room => committed_record first due up present room after,
    fun unit ch low => ⟨counted_framing unit ch, taken_character unit ch⟩, ?processor, fun a r managed => ?redfish, fun w up => ?switch⟩
  case silent =>
    obtain ⟨r, logged, code, named⟩ := log_frame b Lg.unitSilent unit (le 2 unit.toNat ++ le 8 last)
    exact ⟨r, congrArg Host.Outcome.next logged, code, named⟩
  case restart =>
    obtain ⟨r, logged, code, named⟩ := log_frame b Lg.controllerRestart unit (le 2 unit.toNat ++ [cause])
    exact ⟨r, congrArg Host.Outcome.next logged, code, named⟩
  case processor =>
    have room : Config.freeReading s.fresh % 30000000001 < 30000000001 := Nat.mod_lt _ (by decide)
    exact ⟨_, rfl, Nat.le_add_right .., Nat.add_le_add_left (Nat.le_of_lt_succ room) _, rfl, rfl, rfl, rfl⟩
  case redfish =>
    refine ⟨fun unknown => exec_redfish_unknown managed unknown r, fun x known => ?_⟩
    have runs := exec_redfish_known managed known r
    refine ⟨fun res read => ?_, fun plain write listed => ?_, fun name ad pw admin set room => ?_, runs⟩
    · subst read
      exact runs
    · rw [runs, plain, State.redfish_forbids _ write listed]
    · subst set
      rw [admin, State.redfish_setAccount (s.tick t) room] at runs
      exact ⟨_, runs, rfl, rfl⟩
  case switch =>
    refine ⟨_, exec_switchTrayFailure up t, ?_, fun i other => ?_, fun p mine => State.switchDown_port _ _ mine,
      fun n => ⟨fun mine => ?_, fun mine => ?_⟩, State.switchDown_asks .., State.switchDown_parts .., State.switchDown_hbm ..⟩
    · rw [State.switchDown_up, if_pos rfl]
    · rw [State.switchDown_up, if_neg other]
      rfl
    · exact State.switchDown_uplink _ _ (u := 0) (by decide) mine
    · exact State.switchDown_uplink _ _ (u := 1) (by decide) mine

end Sys2Proof.Machine
end
